-- ==== Sys2Proof/Word.lean ====
section
/-! DEFINITION. The word types of the Krytolo K9 and nothing else: the widths that the spec gives its registers,
entries and slots. -/

namespace Sys2Proof

/-- A scalar register, a short system register or a configuration register (R17, R50). -/
abbrev Word := BitVec 64
/-- A vector register or one accumulator row (R17, R211). -/
abbrev VWord := BitVec 2048
/-- A vector mask register (R17). -/
abbrev KWord := BitVec 256
/-- The DATA field of a channel entry (R21). -/
abbrev EWord := BitVec 512
/-- A rule slot (R40). -/
abbrev SlotWord := BitVec 128
/-- A byte of a memory. -/
abbrev Byte := BitVec 8

end Sys2Proof
end

