-- ==== Sys2Proof/Syntax.lean ====
section
/-! DEFINITION. The instructions: every row of spec/opcode_table.json is one constructor of `Instr`. Rows 0 to 236 are
rule operations, which stand in rule slots; rows 237 to 343 are the indivisible steps of the machine's other agents. -/

namespace Sys2Proof

/-! ## Operands (R47, R48, R49) -/

/-- s0–s31. -/
abbrev SReg := Fin 32
/-- v0–v15. -/
abbrev VReg := Fin 16
/-- k0–k7. -/
abbrev KReg := Fin 8
/-- a0–a3, as a logical accumulator (R170). -/
abbrev AReg := Fin 4
/-- p0–p15. -/
abbrev PReg := Fin 16
/-- i0–i15 or e0–e15, the role says which. -/
abbrev Chan := Fin 16

/-- The readable short system registers (R50). -/
inductive SysR where
  | ctxcfg | ctxid | flags | amode | srng | cycle | draw | tbase | taskid | tenant | bleft
deriving DecidableEq, Repr

/-- The short system registers with access RW (R50). -/
inductive SysW where
  | flags | amode | srng
deriving DecidableEq, Repr

/-- Scalar source: s0–s31, i0–i15, readable short system registers (R48). -/
inductive SSrc where
  | reg (r : SReg) | chan (c : Chan) | sys (r : SysR)
deriving DecidableEq, Repr

/-- Scalar destination: s0–s31, e0–e15, RW short system registers (R48). -/
inductive SDst where
  | reg (r : SReg) | chan (c : Chan) | sys (r : SysW)
deriving DecidableEq, Repr

/-- Vector source: v0–v15, i0–i15. -/
inductive VSrc where
  | reg (r : VReg) | chan (c : Chan)
deriving DecidableEq, Repr

/-- Vector destination: v0–v15, e0–e15. -/
inductive VDst where
  | reg (r : VReg) | chan (c : Chan)
deriving DecidableEq, Repr

/-- Mask source: k0–k7, i0–i15. -/
inductive KSrc where
  | reg (r : KReg) | chan (c : Chan)
deriving DecidableEq, Repr

/-- Mask destination: k0–k7, e0–e15. -/
inductive KDst where
  | reg (r : KReg) | chan (c : Chan)
deriving DecidableEq, Repr

/-- A 128-bit scalar pair as a source: an even pair, `pair n` being s(2n), s(2n+1), or one entry of a channel (R49). -/
inductive PSrc where
  | pair (n : Fin 16) | chan (c : Chan)
deriving DecidableEq, Repr

/-- A 128-bit scalar pair as a destination. -/
inductive PDst where
  | pair (n : Fin 16) | chan (c : Chan)
deriving DecidableEq, Repr

/-- A register with a presence bit, as `pset` and `pclr` name it (R141). -/
inductive PresReg where
  | s (r : SReg) | v (r : VReg) | k (r : KReg)
deriving DecidableEq, Repr

/-- A source of `send`, `nsend` or `rsend`, whose shape is WID (R134, R135). -/
inductive XSrc where
  | s (a : SSrc) | pair (a : PSrc) | k (a : KSrc) | v (a : VSrc)
deriving DecidableEq, Repr

/-- A destination of `recv`, `peek` or `nrecv`, whose shape is WID (R134, R135). -/
inductive XDst where
  | s (d : SDst) | pair (d : PDst) | k (d : KDst) | v (d : VDst)
deriving DecidableEq, Repr

/-- The tag of a send: TAGI, or the low byte of B when TS = 1 (R134). -/
inductive TagSrc where
  | imm (t : BitVec 8) | reg (b : SSrc)
deriving DecidableEq, Repr

/-! ## Types and modifiers (R51, R52, R53, R54) -/

/-- Integer types, TYPE 0x0 to 0x7. -/
inductive ITy where
  | i64 | i32 | i16 | i8 | n64 | n32 | n16 | n8
deriving DecidableEq, Repr

/-- Floating-point types that do arithmetic, TYPE 0x8 to 0xb. -/
inductive FTy where
  | f64 | f32 | f16 | bf16
deriving DecidableEq, Repr

/-- Floating-point types that convert, TYPE 0x8 to 0xd. -/
inductive FcTy where
  | f (t : FTy) | e4m3 | e5m2
deriving DecidableEq, Repr

/-- TYPE 0x0 to 0xd, taken for its width alone (VW of R187). -/
inductive ETy where
  | i (t : ITy) | f (t : FcTy)
deriving DecidableEq, Repr

/-- An integer type, or FX64 with its binary point FXP (INTX of R115). -/
inductive IxTy where
  | i (t : ITy) | fx (f : Fin 64)
deriving DecidableEq, Repr

/-- The six types of `vpack` and `vunpk`: signedness and the log of the narrower width over 8 (R200). -/
structure HTy where
  signed : Bool
  lv : Fin 3
deriving DecidableEq, Repr

/-- RM (R53). -/
inductive Rm where
  | dyn | rn | rz | ru | rd | rs
deriving DecidableEq, Repr

/-- An integer, FX64 or floating-point operation with the modifier its kind admits (R191). -/
inductive VArith where
  | int (t : ITy) (sat : Bool) | fx (f : Fin 64) (sat : Bool) | fp (t : FTy) (rm : Rm)
deriving DecidableEq, Repr

/-- The same with no modifier (R191 `vmin`, `vmax`; R202). -/
inductive VPlain where
  | int (t : ITy) | fx (f : Fin 64) | fp (t : FTy)
deriving DecidableEq, Repr

/-- The conditions of `cmp` (R57). -/
inductive Cc where
  | eq | ne | lt | le | gt | ge
deriving DecidableEq, Repr

/-- The conditions of `fcmp`: those of `cmp` and unordered (R57). -/
inductive Fcc where
  | c (c : Cc) | un
deriving DecidableEq, Repr

/-- The comparison of `vcmp`: `un` only with floating point (R194). -/
inductive VCmp where
  | int (t : ITy) (c : Cc) | fx (f : Fin 64) (c : Cc) | fp (t : FTy) (c : Fcc)
deriving DecidableEq, Repr

/-- The mask of a vector instruction (R186): ME = 0; ME = 1 with MZ = 0; ME = 1 with MZ = 1. -/
inductive Msk where
  | all | keep (k : KReg) | zero (k : KReg)
deriving DecidableEq, Repr

/-- The four fused forms (R57). -/
inductive FmaOp where
  | fma | fms | fnma | fnms
deriving DecidableEq, Repr

/-- The type of `cmpi`: an integer type, or fx64, whose binary point format I has no field for (R121). -/
inductive IxTy0 where
  | i (t : ITy) | fx
deriving DecidableEq, Repr

/-- The widths that `sext` and `zext` extend (R124). -/
inductive ExtTy where
  | w8 | w16 | w32
deriving DecidableEq, Repr

/-- The types of `vabs` and `vneg` (R191): i types with SAT, fx64 with SAT, or floating point. -/
inductive VSgn where
  | i64 (sat : Bool) | i32 (sat : Bool) | i16 (sat : Bool) | i8 (sat : Bool) | fx (f : Fin 64) (sat : Bool) | fp (t : FTy)
deriving DecidableEq, Repr

/-- The type pairs of `fxcvt` (R130). -/
inductive FxCvt where
  | ofFp (f : Fin 64) (s : FTy) | ofInt (f : Fin 64) (s : ITy) (sat : Bool)
  | toFp (d : FTy) (f : Fin 64) (rm : Rm) | toInt (d : ITy) (f : Fin 64) (sat : Bool)
deriving DecidableEq, Repr

/-- The type pairs of `vcvt` (R206). -/
inductive VCvt where
  | ff (d s : FcTy) (rm : Rm) | fi (d : ITy) (s : FcTy) (rm : Rm) | ffx (f : Fin 64) (s : FcTy) (rm : Rm)
  | itof (d : FcTy) (s : ITy) (rm : Rm) | fxf (d : FcTy) (f : Fin 64) (rm : Rm)
  | ifx (f : Fin 64) (s : ITy) (sat : Bool) (rm : Rm) | fxi (d : ITy) (f : Fin 64) (rm : Rm)
deriving DecidableEq, Repr

/-- MX element formats (R52). -/
inductive MxF where
  | fp8 | fp8w | fp6 | fp6p | fp4
deriving DecidableEq, Repr

/-- The plain types of `vmxq` and `vmxd`: f32, f16, bf16 (R207). -/
inductive MxT where
  | f32 | f16 | bf16
deriving DecidableEq, Repr

/-- SZ codes of memory accesses that move at most 8 bytes (R237). -/
inductive Sz where
  | n8 | n16 | n32 | i64 | i8 | i16 | i32
deriving DecidableEq, Repr

/-- A load's destination with its size: SZ and a scalar destination, or the pair form. -/
inductive LdDst where
  | w (z : Sz) (d : SDst) | p (d : PDst)
deriving DecidableEq, Repr

/-- SZ codes of stores of at most 8 bytes (R237): 1, 2, 4, 8 bytes. -/
inductive StSz where
  | n8 | n16 | n32 | i64
deriving DecidableEq, Repr

/-- A store's source with its size. -/
inductive StSrc where
  | w (z : StSz) (a : SSrc) | p (a : PSrc)
deriving DecidableEq, Repr

/-- SCOPE (R54). -/
inductive Scope where
  | ctx | tile | clus | die | pkg | pod
deriving DecidableEq, Repr

/-- ORDER (R54). -/
inductive Ordr where
  | none | acq | rel | ar
deriving DecidableEq, Repr

/-- The address, scope and ordering of format M (R45). -/
structure MAddr where
  base : SReg
  off : BitVec 22
  scope : Scope
  ord : Ordr
deriving DecidableEq, Repr

/-- The read-modify-write operations on one word with a one-word operand (R238). -/
inductive RmwOp where
  | add | fxadd | min | max | and | or | xor | swap
deriving DecidableEq, Repr

/-- The atomics of TCM and CSP with their operand (R238). -/
inductive LAtomic where
  | rmw (o : RmwOp) (a : SSrc) | cas (a : PSrc) | binc (a : SSrc)
deriving DecidableEq, Repr

/-- The spaces of a copy destination (R241). -/
inductive DSpace where
  | tcm | csp | glb | win
deriving DecidableEq, Repr

/-- The spaces of a copy source (R241). -/
inductive SSpace where
  | tcm | csp | glb
deriving DecidableEq, Repr

/-- The fields of `cpy` and `cpy2d` (R241). -/
structure CpyF where
  dsp : DSpace
  ssp : SSpace
  sd : SReg
  ss : SReg
  sl : SReg
  label : BitVec 7
  wt : Fin 16
  pt : Fin 16
deriving DecidableEq, Repr

/-- Operand formats of the matrix majors (R216). -/
inductive MmFmt where
  | f64 | f32 | f16 | bf16 | e4m3 | e5m2 | i8 | n8 | mx (m : MxF)
deriving DecidableEq, Repr

/-- The block of an accumulator that a matrix instruction touches (R215). -/
structure Blk where
  acc : AReg
  mt : Fin 4
  nt : Fin 4
  ro : Fin 4
  co : Fin 4
deriving DecidableEq, Repr

/-- The fields that `mma`, `mmas`, `mmv` and `mmr` share (R215). -/
structure MmaF where
  fmt : MmFmt
  blk : Blk
  kt : Fin 64
  sa : SReg
  sb : SReg
  asp : Bool
  bsp : Bool
  rm : Rm
  za : Bool
  wt : Fin 16
  pt : Fin 16
deriving DecidableEq, Repr

/-- The fields of `aload` and `astore` (R226). -/
structure AccMemF where
  blk : Blk
  ew : Bool
  sa : SReg
  asp : Bool
  wt : Fin 16
  pt : Fin 16
deriving DecidableEq, Repr

/-- The type pairs of `acvt` (R227); `s64` says that the source is f64 and not f32. -/
inductive ACvt where
  | ff (d : FcTy) (s64 : Bool) (rm : Rm) | fi (d : HTy) (s64 : Bool) (rm : Rm)
  | itof (d : FcTy) (rm : Rm) | ii (d : HTy) (sat : Bool)
deriving DecidableEq, Repr

/-- The types of `ascale` and `aadd` (R227). -/
inductive AArith where
  | f32 (rm : Rm) | f64 (rm : Rm) | i32 (sat : Bool)
deriving DecidableEq, Repr

/-- The types of `aget` and `aput` (R227). -/
inductive AView where
  | i32 | n32 | f32 | i64 | n64 | f64
deriving DecidableEq, Repr

/-- The spaces of a watch (R148). -/
inductive WSpace where
  | glb | csp | tcm
deriving DecidableEq, Repr

/-- The types of a watch (R148). -/
inductive WTy where
  | i64 | i32 | n64 | n32
deriving DecidableEq, Repr

/-- The static fields of `watch` (R148); `dst` is C when VAL = 1. -/
structure WatchF where
  cc : Cc
  ty : WTy
  space : WSpace
  scope : Scope
  dst : Option SReg
deriving DecidableEq, Repr

/-- The form of `bput` (R280): a TCM offset, or a vector. -/
inductive BSrc where
  | tcm (a : SSrc) | vec (a : VSrc)
deriving DecidableEq, Repr

/-- The form of `bget` (R280): completion predicate and TCM offset, or a vector destination. -/
inductive BDst where
  | tcm (d : PReg) (a : SSrc) | vec (d : VDst)
deriving DecidableEq, Repr

/-- The operations of `pcomb` (R508). -/
inductive CombOp where
  | fxadd | add | min | max | fadd
deriving DecidableEq, Repr

/-! ## What the events carry (R21, R176, R301, R346, R344) -/

/-- A channel entry (R21). -/
structure Entry where
  data : EWord
  tag : BitVec 8
  w : BitVec 2
  p : Bool
deriving DecidableEq, Repr

/-- The header fields that an arrival is checked against (R301, R302): operation, virtual network, class, tenant, circuit,
and `src`, the sender as SRCID codes it (R177). -/
structure Hdr where
  op : BitVec 4
  vn : BitVec 3
  cls : BitVec 2
  tenant : BitVec 4
  circ : BitVec 6
  src : BitVec 32
deriving DecidableEq, Repr

/-- A packet between modules (R301): its header's fields, `src` as SRCID codes it, and the doublewords of its data flits. -/
structure Pkt where
  op : Nat
  vn : Nat
  cls : Nat
  tenant : BitVec 4
  dmod : Nat
  ddie : Nat
  dtgt : Nat
  dctx : Nat
  dchan : Nat
  gen : Nat
  circ : Nat
  src : BitVec 32
  tag : BitVec 8
  p : Bool
  w : BitVec 2
  addr : Nat
  attr : Nat
  idata : Word
  data : List Word
deriving DecidableEq, Repr
def Pkt.zero : Pkt :=
  { op := 0, vn := 0, cls := 0, tenant := 0, dmod := 0, ddie := 0, dtgt := 0, dctx := 0, dchan := 0, gen := 0, circ := 0, src := 0, tag := 0, p := false,
    w := 0, addr := 0, attr := 0, idata := 0, data := [] }

/-- Who is answered: an operation or a copy of a tile of this module, or a requester on another module. -/
inductive AckTo where
  | op (tile id : Nat) | copy (tile id : Nat) | remote (module id : Nat)
deriving DecidableEq, Repr

/-- The target of a declared route (R79). -/
inductive RTarget where
  | chan (task ctx ch : Nat) | win (task w : Nat) | mem (m : Option Nat) | opn
deriving DecidableEq, Repr

/-- A declared route and a declared window (R78, R79). -/
structure RouteDecl where
  label : Nat
  circ : Nat
  target : RTarget
deriving DecidableEq, Repr
structure WinDecl where
  idx : Nat
  ctx : Nat
  off : Nat
  bytes : Nat
deriving DecidableEq, Repr

/-- A template's task entry: the record layout of R344, its successor and stream entries, its declarations. -/
structure TEntry where
  w : Vector Word 16
  succ : List Word
  routes : List RouteDecl
  wins : List WinDecl
deriving DecidableEq, Repr

/-- A launch record (R346). -/
structure LaunchRec where
  thandle : BitVec 32
  ctag : BitVec 32
  limit : Word
  ext : List Word
  param : Word
deriving DecidableEq, Repr

/-- The configuration record (R467). -/
structure CfgRec where
  module : BitVec 12
  nx : Nat
  ny : Nat
  nz : Nat
  ualink : Bool
  maxPcap : Nat
  vfs : Nat
deriving DecidableEq, Repr

/-- What precedes a start (R462): a reset that the host asks for, the exit from the golden image, a power cycle of so many seconds, or anything else. -/
inductive StartWhy where
  | hostReset | goldenExit | powerCycle (secs : Nat) | other
deriving DecidableEq, Repr
/-- A firmware image, or the configuration record, as step 2 finds it (R465): its number, whether each of its two signatures verifies, its security
version, and its SHA-384. -/
structure FwImage where
  id : Nat
  ecdsa : Bool
  lms : Bool
  version : Nat
  hash : BitVec 384
deriving DecidableEq, Repr
/-- What a start meets (R461 to R467): its cause, the outcomes of its first steps as failure codes, 0 for success, the images and the configuration record, the
hash of the ROM, which of the restored parameter sets of steps 3 to 5 fail their check, and what those steps find when they train. -/
structure StartIn where
  why : StartWhy
  outs : List (BitVec 8)
  images : List FwImage
  record : Option (CfgRec × FwImage)
  rom : BitVec 384
  badSets : List Nat
  params : List Word
deriving DecidableEq, Repr

/-- Every row of spec/opcode_table.json. The comments name the section of the opcode table that follows. -/
inductive Instr where
  -- nop, scalar integer, immediate and move forms (05_scalar_instructions.md)
  | nop
  | add (t : IxTy) (sat : Bool) (d : SDst) (a b : SSrc)
  | sub (t : IxTy) (sat : Bool) (d : SDst) (a b : SSrc)
  | mul (t : IxTy) (sat : Bool) (d : SDst) (a b : SSrc)
  | div (t : IxTy) (sat : Bool) (d : SDst) (a b : SSrc)
  | mulh (t : ITy) (d : SDst) (a b : SSrc)
  | rem (t : ITy) (d : SDst) (a b : SSrc)
  | and (t : ITy) (d : SDst) (a b : SSrc)
  | or (t : ITy) (d : SDst) (a b : SSrc)
  | xor (t : ITy) (d : SDst) (a b : SSrc)
  | andn (t : ITy) (d : SDst) (a b : SSrc)
  | shl (t : ITy) (d : SDst) (a b : SSrc)
  | shr (t : ITy) (d : SDst) (a b : SSrc)
  | sra (t : ITy) (d : SDst) (a b : SSrc)
  | rol (t : ITy) (d : SDst) (a b : SSrc)
  | ror (t : ITy) (d : SDst) (a b : SSrc)
  | min (t : IxTy) (d : SDst) (a b : SSrc)
  | max (t : IxTy) (d : SDst) (a b : SSrc)
  | clz (t : ITy) (d : SDst) (a : SSrc)
  | ctz (t : ITy) (d : SDst) (a : SSrc)
  | popc (t : ITy) (d : SDst) (a : SSrc)
  | bext (signed : Bool) (d : SDst) (a b c : SSrc)
  | bins (d : SReg) (a b c : SSrc)
  | sel (d : SDst) (a b : SSrc) (c : PReg)
  | cmp (cc : Cc) (t : IxTy) (d : PReg) (a b : SSrc)
  | addi (d : SDst) (a : SSrc) (imm : BitVec 32)
  | andi (d : SDst) (a : SSrc) (imm : BitVec 32)
  | ori (d : SDst) (a : SSrc) (imm : BitVec 32)
  | xori (d : SDst) (a : SSrc) (imm : BitVec 32)
  | shli (d : SDst) (a : SSrc) (n : Fin 64)
  | shri (d : SDst) (a : SSrc) (n : Fin 64)
  | srai (d : SDst) (a : SSrc) (n : Fin 64)
  | roli (d : SDst) (a : SSrc) (n : Fin 64)
  | cmpi (cc : Cc) (t : IxTy0) (d : PReg) (a : SSrc) (imm : BitVec 28)
  | li (d : SDst) (imm : BitVec 40)
  | lih (d : SReg) (imm : BitVec 40)
  | lea (d : SDst) (a b : SSrc) (k : Fin 8)
  | sext (t : ExtTy) (d : SDst) (a : SSrc)
  | zext (t : ExtTy) (d : SDst) (a : SSrc)
  | mov (d : SDst) (a : SSrc)
  -- scalar floating point
  | fadd (t : FTy) (rm : Rm) (d : SDst) (a b : SSrc)
  | fsub (t : FTy) (rm : Rm) (d : SDst) (a b : SSrc)
  | fmul (t : FTy) (rm : Rm) (d : SDst) (a b : SSrc)
  | fdiv (t : FTy) (rm : Rm) (d : SDst) (a b : SSrc)
  | fsqrt (t : FTy) (rm : Rm) (d : SDst) (a : SSrc)
  | ffma (op : FmaOp) (t : FTy) (rm : Rm) (d : SDst) (a b c : SSrc)
  | fmin (t : FTy) (d : SDst) (a b : SSrc)
  | fmax (t : FTy) (d : SDst) (a b : SSrc)
  | fcmp (cc : Fcc) (t : FTy) (d : PReg) (a b : SSrc)
  | fclass (t : FcTy) (d : SDst) (a : SSrc)
  | fcvt (dt st : FcTy) (rm : Rm) (d : SDst) (a : SSrc)
  | fcvti (dt : ITy) (st : FcTy) (d : SDst) (a : SSrc)
  | icvtf (dt : FcTy) (st : ITy) (rm : Rm) (d : SDst) (a : SSrc)
  | fxcvt (c : FxCvt) (d : SDst) (a : SSrc)
  | fneg (t : FTy) (d : SDst) (a : SSrc)
  | fabs (t : FTy) (d : SDst) (a : SSrc)
  | fcpsgn (t : FTy) (d : SDst) (a b : SSrc)
  | fflag (d : SDst) (a : SSrc)
  | fflagClr (d : SDst) (a : SSrc)
  -- predicate logic
  | pand (d a b : PReg)
  | por (d a b : PReg)
  | pxor (d a b : PReg)
  | pandn (d a b : PReg)
  | pnot (d a : PReg)
  | pmov (d a : PReg)
  -- channels, presence and context control (06_channel_control_instructions.md)
  | recv (d : XDst) (a : Chan)
  | tryrecv (d : XDst) (a : Chan) (pc : PReg)
  | send (d : Chan) (a : XSrc) (tag : TagSrc)
  | trysend (d : Chan) (a : XSrc) (tag : TagSrc) (pc : PReg)
  | peek (d : XDst) (a : Chan)
  | trypeek (d : XDst) (a : Chan) (pc : PReg)
  | tagh (d : SDst) (a : Chan)
  | chreset (a : Chan)
  | pset (d : PresReg)
  | pclr (d : PresReg)
  | chcount (d : SDst) (a : Chan)
  | chfree (d : SDst) (a : Chan)
  | done (code : BitVec 8)
  | yield
  | handover
  | trap (a : SSrc) (code : BitVec 16)
  | watch (w : WatchF) (d : PReg) (a b : SSrc)
  | unwatch (d : PReg)
  | sleep (n : BitVec 16)
  | bkpt (code : BitVec 16)
  -- vectors, masks and special functions (08_vector_instructions.md)
  | vadd (t : VArith) (m : Msk) (d : VDst) (a b : VSrc)
  | vsub (t : VArith) (m : Msk) (d : VDst) (a b : VSrc)
  | vmul (t : VArith) (m : Msk) (d : VDst) (a b : VSrc)
  | vfma (op : FmaOp) (t : FTy) (rm : Rm) (m : Msk) (d : VDst) (a b c : VSrc)
  | vdiv (t : VArith) (m : Msk) (d : VDst) (a b : VSrc)
  | vmin (t : VPlain) (m : Msk) (d : VDst) (a b : VSrc)
  | vmax (t : VPlain) (m : Msk) (d : VDst) (a b : VSrc)
  | vabs (t : VSgn) (m : Msk) (d : VDst) (a : VSrc)
  | vneg (t : VSgn) (m : Msk) (d : VDst) (a : VSrc)
  | vadds (t : VArith) (m : Msk) (d : VDst) (a : VSrc) (b : SSrc)
  | vsubs (t : VArith) (m : Msk) (d : VDst) (a : VSrc) (b : SSrc)
  | vand (t : ITy) (m : Msk) (d : VDst) (a b : VSrc)
  | vor (t : ITy) (m : Msk) (d : VDst) (a b : VSrc)
  | vxor (t : ITy) (m : Msk) (d : VDst) (a b : VSrc)
  | vshl (t : ITy) (m : Msk) (d : VDst) (a b : VSrc)
  | vshr (t : ITy) (m : Msk) (d : VDst) (a b : VSrc)
  | vsra (t : ITy) (m : Msk) (d : VDst) (a b : VSrc)
  | vcmp (c : VCmp) (m : Msk) (d : KDst) (a b : VSrc)
  | vclass (t : FcTy) (m : Msk) (d : KDst) (a : VSrc) (b : SSrc)
  | vmov (t : ETy) (m : Msk) (d : VDst) (a : VSrc)
  | vbcast (t : ETy) (m : Msk) (d : VDst) (a : SSrc)
  | viota (t : ITy) (m : Msk) (d : VDst) (a : SSrc)
  | vsel (t : ETy) (d : VDst) (a b : VSrc) (c : KSrc)
  | vperm (t : ETy) (m : Msk) (d : VDst) (a b : VSrc)
  | vrot (t : ETy) (m : Msk) (d : VDst) (a : VSrc) (b : SSrc)
  | vext (t : ETy) (d : SDst) (a : VSrc) (b : SSrc)
  | vins (t : ETy) (d : VReg) (a : SSrc) (b : SSrc)
  | vcompress (t : ETy) (d : VDst) (a : VSrc) (c : KSrc)
  | vexpand (t : ETy) (d : VDst) (a : VSrc) (c : KSrc)
  | vpack (t : HTy) (sat : Bool) (m : Msk) (d : VDst) (a b : VSrc)
  | vunpk (t : HTy) (m : Msk) (d : VDst) (a : VSrc) (b : SSrc)
  | kand (d : KDst) (a b : KSrc)
  | kor (d : KDst) (a b : KSrc)
  | kxor (d : KDst) (a b : KSrc)
  | kandn (d : KDst) (a b : KSrc)
  | knot (d : KDst) (a : KSrc)
  | kmov (d : KDst) (a : KSrc)
  | kpop (d : SDst) (a : KSrc)
  | kfind (d : SDst) (a : KSrc)
  | vredsum (t : VArith) (m : Msk) (d : SDst) (a : VSrc) (b : SSrc)
  | vredmin (t : VPlain) (m : Msk) (d : SDst) (a : VSrc) (b : SSrc)
  | vredmax (t : VPlain) (m : Msk) (d : SDst) (a : VSrc) (b : SSrc)
  | vredand (t : ITy) (m : Msk) (d : SDst) (a : VSrc) (b : SSrc)
  | vredor (t : ITy) (m : Msk) (d : SDst) (a : VSrc) (b : SSrc)
  | vredxor (t : ITy) (m : Msk) (d : SDst) (a : VSrc) (b : SSrc)
  | vdot (t : VArith) (m : Msk) (d : SDst) (a b : VSrc) (c : SSrc)
  | vscan (t : VArith) (m : Msk) (d : VDst) (a : VSrc) (b : SSrc)
  | vcvt (c : VCvt) (m : Msk) (d : VDst) (a : VSrc) (b : SSrc)
  | vmxq (m : MxF) (t : MxT) (rm : Rm) (d : VDst) (a : VSrc) (b : SReg)
  | vmxd (m : MxF) (t : MxT) (rm : Rm) (d : VDst) (a : VSrc) (b : SSrc)
  | sfrcp (m : Msk) (d : VDst) (a : VSrc)
  | sfrsqrt (m : Msk) (d : VDst) (a : VSrc)
  | sfsqrt (m : Msk) (d : VDst) (a : VSrc)
  | sfexp2 (m : Msk) (d : VDst) (a : VSrc)
  | sflog2 (m : Msk) (d : VDst) (a : VSrc)
  | sfsinpi (m : Msk) (d : VDst) (a : VSrc)
  | sfcospi (m : Msk) (d : VDst) (a : VSrc)
  | sfsincospi (m : Msk) (d : Fin 8) (a : VSrc)
  -- matrix unit (09_matrix_instructions.md)
  | mma (f : MmaF)
  | mmas (f : MmaF) (sm : SReg) (msp : Bool)
  | mmv (f : MmaF)
  | azero (d : AReg)
  | aload (f : AccMemF)
  | astore (f : AccMemF)
  | acvt (c : ACvt) (d : VDst) (a : AReg) (b : SSrc)
  | ascale (t : AArith) (d : AReg) (a : SSrc)
  | aget (t : AView) (d : VDst) (a : AReg) (b : SSrc)
  | aput (t : AView) (m : Option KReg) (d : AReg) (a : VSrc) (b : SSrc)
  | aadd (t : AArith) (d : AReg) (a : VSrc) (b : SSrc)
  | atrans (d a : AReg)
  -- streams, TCM, copies and drains (10_stream_tcm_instructions.md)
  | gcfg (g : Fin 8) (a b : Fin 16)
  | gstart (g : Fin 8)
  | gstop (d : SDst) (g : Fin 8)
  | gbar (d : PReg) (mask : BitVec 8) (fin : Bool)
  | ld (m : MAddr) (d : LdDst)
  | st (m : MAddr) (a : StSrc)
  | vld (m : MAddr) (d : VDst)
  | vst (m : MAddr) (a : VSrc)
  | tamo (m : MAddr) (d : SDst) (o : LAtomic)
  | vgath (m : MAddr) (d : VDst) (i : VSrc)
  | vscat (m : MAddr) (i : VSrc) (a : VSrc)
  | cpy (f : CpyF)
  | cpy2d (f : CpyF)
  | drainTcm (d : PReg)
  | drainCsp (d : PReg)
  | drainGlb (d : PReg)
  -- cluster (13_cluster_instructions.md)
  | cld (m : MAddr) (d : LdDst)
  | cst (m : MAddr) (a : StSrc)
  | cvld (m : MAddr) (d : VDst)
  | cvst (m : MAddr) (a : VSrc)
  | camo (m : MAddr) (d : SDst) (o : LAtomic)
  | bput (d : PReg) (n : Fin 8) (a : BSrc)
  | trybput (d : PReg) (n : Fin 8) (a : BSrc) (pc : PReg)
  | bget (d : BDst) (n : Fin 8)
  | trybget (d : BDst) (n : Fin 8) (pc : PReg)
  | bwait (d : PReg) (n : Fin 8) (empty : Bool)
  | nsend (dir : Fin 4) (a : XSrc) (tag : TagSrc)
  | trynsend (dir : Fin 4) (a : XSrc) (tag : TagSrc) (pc : PReg)
  | nrecv (d : XDst) (dir : Fin 4)
  | trynrecv (d : XDst) (dir : Fin 4) (pc : PReg)
  | mmr (f : MmaF) (ns : Bool)
  | cbar (d : PReg)
  -- global memory and tasks (18_task_global_instructions.md)
  | ldg (m : MAddr) (d : LdDst)
  | stg (m : MAddr) (a : StSrc)
  | vldg (m : MAddr) (d : VDst)
  | vstg (m : MAddr) (a : VSrc)
  | amo (m : MAddr) (o : RmwOp) (d : SDst) (a : SSrc)
  | cas (m : MAddr) (d : SDst) (a : PSrc)
  | aincBound (m : MAddr) (d : SDst) (a : SSrc)
  | fence (scope : Scope)
  | otpub (n : Fin 16)
  | otpubCirc (label : BitVec 7) (idx : Fin 8)
  | otwait (d : PReg) (n : Fin 16)
  | join (d : PReg) (mask : BitVec 8)
  | pfg (base : SReg) (off : BitVec 22) (a : SSrc)
  | tspawn (d : SReg) (a b c : SSrc)
  | trytspawn (d : SReg) (a b c : SSrc) (pc : PReg)
  | tenq (d : SDst) (a : SSrc)
  | trytenq (d : SDst) (a : SSrc) (pc : PReg)
  | tdec (a : SSrc)
  | tinc (d : PReg) (a b : SSrc)
  | tstatus (d : SDst) (a : SSrc)
  | tcancel (d : PReg) (a b : SSrc)
  | tparam (d : SDst) (a : SSrc)
  | tbound (d : SDst)
  -- fabric (27_fabric_instructions.md)
  | rsend (label : BitVec 7) (a : XSrc) (tag : TagSrc)
  | tryrsend (label : BitVec 7) (a : XSrc) (tag : TagSrc) (pc : PReg)
  | rstore (label : BitVec 7) (m : MAddr) (a : SSrc)
  | rdec (a b : SSrc)
  | pbar (d : PReg) (b : SSrc)
  | pcomb (op : CombOp) (d : SDst) (a b : SSrc)
  | pbcast (d : SDst) (a b : SSrc)
  | pabort (b : SSrc)
  -- system (22_system_instructions.md)
  | cfgr (d : SDst) (a : SSrc)
  | cfgw (d : PReg) (a b : SSrc)
  | vfsetEnable (d : SDst) (a b : SSrc)
  | vfsetTeardown (d : SDst) (a b : SSrc)
  | quota (d : SDst) (a b : SSrc)
  | wtouch (d : SDst) (a b : SSrc)
  | wresMobile (d : SDst) (a b : SSrc)
  | wresFixed (d : SDst) (a b : SSrc)
  | wresUp (d : SDst) (a b : SSrc)
  | wresDown (d : SDst) (a b : SSrc)
  | wresQuery (code : Fin 4) (d : SDst) (a b : SSrc)
  | csave (d : SDst) (a b : SSrc)
  | crest (d : SDst) (a : SSrc)
  | ctxw (d : SDst) (a b c : SSrc)
  | xinv (range : Fin 3) (d : PReg) (a b c : SSrc)
  | fqpop (d : VReg) (a : SSrc)
  | mtret (d : SDst) (a b : SSrc)
  | srd (d : SDst) (a : SSrc)
  | swr (d : PReg) (a b : SSrc)
  -- events: the steps of the machine's other agents. What such a step acts on is the event `Ev` that the machine is taking.
  | operationWriteback | handoverStep | contextStop | contextRelease | migrateTrap | channelEntryArrival
  | creditArrival | egressTransmit | windowWriteArrival | windowRefusal | acknowledgementArrival | watchArm
  | watchNotify | sleepTimerExpiry | drawRefill | overrun | ruleStoreScrub | tcmScrub | cspScrub | ruleImageLoad
  | streamElement | gbarRelease | copyChunk | copyComplete | orderTokenComplete | matrixOperationStart
  | neighbourEntryArrival | neighbourRetry | bufferRequest | fullBitChange | barrierArrival | barrierRelease
  | mmrPanelArrival | globalRead | globalWrite | globalAtomic | translationWalk | walkComplete | mergeEntryClose
  | circuitToken | flushToken | roundMarker | sweepMarker | sweepEcho | linkFlushMarker | linkFlushEcho
  | linkRetirementNotice | decrementArrival | taskRequest | waitingRequestApply | stagingGateOpen
  | stagingAllowanceExpiry | cspStagingCopy | placementDecision | taskRetirement | instanceCompletion | launch
  | class0Preemption | victimSaveComplete | migrationDestinationFree | stubOpen | stubClose | migrationResume
  | pageMove | packageTick | switchSave | saveDeadlineKill | switchIn | teardown | abortMarker | vfFunctionLevelReset
  | vfctlEnable | vfctlTeardown | configRegisterWrite | launchWrite | completionEntryWrite | cqheadWrite
  | msixCoalesceTimer | hostRead | hostWrite | pcapWrite | coldStart | warmStart | startTimeout | attestationReport
  | telemetrySample | thermalSample | linkDataFlit | controlFlit | replayTimeout | linkRetrain
  | retrainAttemptTimeout | rtcntDecay | d2dLinkFailure | podGroupPacket | rsendRetry | apertureWrite
  | templateRegistration | templateUnregistration | watchDisarm | pageMoveComplete | taskSaveComplete
  | taskRestoreComplete | bar0RegisterWrite | linkControlFlitInterval | ualinkPortFailure | d2dLinkRetraining
deriving DecidableEq, Repr

/-- Why every context of a task ends together (R19): a fault of the task, a save, or a migrate trap at a slot. -/
inductive TaskEnd where
  | fault | save | mig (slot : BitVec 9)
deriving DecidableEq, Repr

/-- An event with what it acts on: a step of one of the machine's other agents. Tiles are numbered 192 × die + tile. Where no tile is
named, the event is one of the tile that the machine is attending to. -/
inductive Ev where
  | operationWriteback (tile id : Nat)
  | handoverStep (c : Fin 8)
  | contextStop (c : Fin 8)
  | endAll (die idx : Nat) (copy : Option Nat) (why : TaskEnd)
  | faultRecord (die idx : Nat) (tenant : BitVec 4) (inst : Nat) (words : List Word) (tmpl : Option Nat)
  | contextRelease (die idx : Nat)
  | migrateTrap (c : Fin 8) (slot : BitVec 9)
  | lateMigrateTrap (tile : Nat) (c : Fin 8) (slot : BitVec 9)
  | channelEntryArrival (tile : Nat) (c : Fin 8) (ch : Chan) (gen : BitVec 2) (h : Hdr) (es : List Entry) (ans : Option AckTo)
  | creditArrival (tile : Nat) (c : Fin 8) (ch : Chan) (n : Nat)
  | linkCredit (tile : Nat) (dir : Fin 4) (n : Nat)
  | egressTransmit (c : Fin 8) (ch : Chan)
  | windowWriteArrival (tile : Nat) (w : Fin 4) (h : Hdr) (off : Nat) (bytes : List Byte) (who : AckTo)
  | windowRefusal (who : AckTo) (label : BitVec 7) (off : Nat) (bytes : Nat)
  | acknowledgementArrival (who : AckTo) (cause : Option (BitVec 8)) (busy : Bool)
  | watchArm (tile : Nat) (c : Fin 8) (p : PReg)
  | watchNotify (tile : Nat) (c : Fin 8) (p : PReg) (dst : Option SReg) (val : Word)
  | sleepTimerExpiry (c : Fin 8)
  | drawRefill
  | overrun (die idx : Nat)
  | ruleStoreScrub (slot : Fin 512) (bad : Bool)
  | tcmScrub (word : Nat) (bad : Bool)
  | cspScrub (cluster word : Nat) (bad : Bool)
  | ruleImageLoad (tile : Nat) (c : Fin 8) (first : Nat) (room : Nat) (slots : List SlotWord) (profile : BitVec 2) (priv : Bool)
      (mh : BitVec 16) (bad : Option Nat)
  | streamElement (g : Fin 8)
  | gbarRelease (id : Nat)
  | copyChunk (id : Nat)
  | copyComplete (id : Nat)
  | orderTokenComplete (id : Nat)
  | matrixOperationStart (id : Nat)
  | neighbourEntryArrival (tile : Nat) (dir : Fin 4)
  | neighbourRetry (tile : Nat) (dir : Fin 4)
  | bufferRequest (tile id : Nat)
  | fullBitChange (cluster : Nat) (buf : Fin 64)
  | barrierArrival (tile id : Nat)
  | barrierRelease (cluster : Nat) (bar : Fin 8)
  | mmrPanelArrival (tile id : Nat)
  | globalRead (tile id : Nat)
  | globalWrite (tile id : Nat)
  | globalAtomic (tile id : Nat)
  | mergedAtomic (die pa : Nat)
  | linkCross (tile id : Nat)
  | podLeave (tile id : Nat)
  | translationWalk (tile id : Nat)
  | walkComplete (die : Nat) (tenant : BitVec 4) (vpn : Nat)
  | mergeEntryClose (die pa : Nat)
  | circuitToken (tile : Nat) (c : Fin 8) (idx : Fin 8) (h : Hdr)
  | flushToken (tile : Nat) (label : BitVec 7)
  | roundMarker (tile : Nat) (tenant : BitVec 4)
  | sweepMarker (src : BitVec 12) (tenant : BitVec 4)
  | sweepEcho (src : BitVec 12) (tenant : BitVec 4)
  | linkFlushMarker (src : BitVec 12) (sdie ddie : Nat) (circ : BitVec 6)
  | linkFlushEcho (src : BitVec 12) (sdie ddie : Nat) (circ : BitVec 6)
  | linkRetirementNotice (src : BitVec 12) (link : Fin 24)
  | decrementArrival (die idx n : Nat) (tenant : BitVec 4) (inst : Nat)
  | taskRequest (tile id : Nat)
  | waitingRequestApply
  | stagingGateOpen (die idx : Nat)
  | stagingAllowanceExpiry (die idx : Nat)
  | cspStagingCopy (die idx : Nat) (buf : Fin 8)
  | placementDecision (die : Nat)
  | taskRetirement (die idx : Nat)
  | instanceCompletion (inst : Nat)
  | launch (fn : Nat) (tenant : BitVec 4) (r : LaunchRec)
  | class0Preemption (die : Nat)
  | victimSaveComplete (die idx : Nat)
  | migrationDestinationFree
  | stubOpen (die idx : Nat)
  | stubClose (die idx : Nat)
  | migrationResume (die idx : Nat)
  | pageMove (tenant : BitVec 4) (vpn : Nat)
  | packageTick
  | switchSave (die dom : Nat)
  | saveDeadlineKill (die dom : Nat)
  | switchIn (dom : Nat)
  | teardown (vf : Nat)
  | abortMarker (g : BitVec 8) (tile : Nat) (ctxid : Nat)
  | vfFunctionLevelReset (fn : Nat)
  | vfctlEnable (vf : Nat) (tag dom : Nat)
  | vfctlTeardown (vf : Nat)
  | configRegisterWrite (addr val : Word)
  | launchWrite (fn off : Nat) (bytes : List Byte)
  | completionEntryWrite (fn : Nat)
  | cqheadWrite (fn : Nat) (val : Word)
  | msixCoalesceTimer (fn : Nat)
  | hostRead (tenant : BitVec 4) (va n : Nat)
  | hostWrite (tenant : BitVec 4) (va : Nat) (bytes : List Byte)
  | pcapWrite (val : Word)
  | coldStart (i : StartIn)
  | warmStart (i : StartIn)
  | startTimeout
  | startStep (code : BitVec 8)
  | attestationReport (nonce : BitVec 384)
  | telemetrySample (watts : Nat)
  | thermalSample (die : Fin 8) (celsius : Nat)
  | linkDataFlit (link : Fin 24) (data : BitVec 256) (trailer : BitVec 32)
  | controlFlit (link : Fin 24) (data : BitVec 256)
  | replayTimeout (link : Fin 24)
  | linkRetrain (link : Fin 24) (lanes : Nat) (peer : BitVec 10)
  | retrainAttemptTimeout (link : Fin 24)
  | rtcntDecay (link : Fin 24)
  | d2dLinkFailure (die : Nat) (exit : Fin 3)
  | podGroupPacket (src : BitVec 12) (g : BitVec 8) (gop : Fin 8) (root phase : Bool) (val : Word) (n aborted : Nat) (fl : BitVec 6)
  | rsendRetry (tile id : Nat)
  | ualinkRequest (p : Pkt)
  | apertureWrite (src : BitVec 12) (seq : BitVec 16) (p : Pkt)
  | templateRegistration (handle : Nat) (tenant : BitVec 4) (entries : List TEntry) (bufs : List (Word × Word))
      (images : List (Nat × List Byte))
  | templateUnregistration (handle : Nat)
  | watchRelease (die idx copy : Nat)
  | watchDisarm (tile : Nat) (c : Fin 8) (p : PReg)
  | pageMoveComplete (tenant : BitVec 4) (vpn : Nat)
  | taskSaveComplete (die idx : Nat)
  | holdTask (die idx : Nat) (hold : Bool)
  | taskRestoreComplete (die idx : Nat)
  | bar0RegisterWrite (fn off : Nat) (val : Word)
  | bar0RegisterRead (fn off : Nat)
  | linkControlFlitInterval (link : Fin 24)
  | ualinkPortFailure (port : Fin 6)
  | d2dLinkRetraining (die : Nat) (exit : Fin 3)
deriving DecidableEq, Repr

/-- The row of the table that an event is. -/
def Ev.instr : Ev → Instr
  | .operationWriteback _ _ => .operationWriteback
  | .handoverStep _ => .handoverStep
  | .contextStop _ => .contextStop
  | .endAll _ _ _ _ => .contextStop
  | .faultRecord _ _ _ _ _ _ => .contextStop
  | .contextRelease _ _ => .contextRelease
  | .migrateTrap _ _ => .migrateTrap
  | .lateMigrateTrap _ _ _ => .migrateTrap
  | .channelEntryArrival _ _ _ _ _ _ _ => .channelEntryArrival
  | .creditArrival _ _ _ _ => .creditArrival
  | .linkCredit _ _ _ => .creditArrival
  | .egressTransmit _ _ => .egressTransmit
  | .windowWriteArrival _ _ _ _ _ _ => .windowWriteArrival
  | .windowRefusal _ _ _ _ => .windowRefusal
  | .acknowledgementArrival _ _ _ => .acknowledgementArrival
  | .watchArm _ _ _ => .watchArm
  | .watchRelease _ _ _ => .watchNotify
  | .watchNotify _ _ _ _ _ => .watchNotify
  | .sleepTimerExpiry _ => .sleepTimerExpiry
  | .drawRefill => .drawRefill
  | .overrun _ _ => .overrun
  | .ruleStoreScrub _ _ => .ruleStoreScrub
  | .tcmScrub _ _ => .tcmScrub
  | .cspScrub _ _ _ => .cspScrub
  | .ruleImageLoad _ _ _ _ _ _ _ _ _ => .ruleImageLoad
  | .streamElement _ => .streamElement
  | .gbarRelease _ => .gbarRelease
  | .copyChunk _ => .copyChunk
  | .copyComplete _ => .copyComplete
  | .orderTokenComplete _ => .orderTokenComplete
  | .matrixOperationStart _ => .matrixOperationStart
  | .neighbourEntryArrival _ _ => .neighbourEntryArrival
  | .neighbourRetry _ _ => .neighbourRetry
  | .bufferRequest _ _ => .bufferRequest
  | .fullBitChange _ _ => .fullBitChange
  | .barrierArrival _ _ => .barrierArrival
  | .barrierRelease _ _ => .barrierRelease
  | .mmrPanelArrival _ _ => .mmrPanelArrival
  | .globalRead _ _ => .globalRead
  | .globalWrite _ _ => .globalWrite
  | .globalAtomic _ _ => .globalAtomic
  | .mergedAtomic _ _ => .globalAtomic
  | .linkCross _ _ => .mergeEntryClose
  | .podLeave _ _ => .mergeEntryClose
  | .translationWalk _ _ => .translationWalk
  | .walkComplete _ _ _ => .walkComplete
  | .mergeEntryClose _ _ => .mergeEntryClose
  | .circuitToken _ _ _ _ => .circuitToken
  | .flushToken _ _ => .flushToken
  | .roundMarker _ _ => .roundMarker
  | .sweepMarker _ _ => .sweepMarker
  | .sweepEcho _ _ => .sweepEcho
  | .linkFlushMarker _ _ _ _ => .linkFlushMarker
  | .linkFlushEcho _ _ _ _ => .linkFlushEcho
  | .linkRetirementNotice _ _ => .linkRetirementNotice
  | .decrementArrival _ _ _ _ _ => .decrementArrival
  | .taskRequest _ _ => .taskRequest
  | .waitingRequestApply => .waitingRequestApply
  | .stagingGateOpen _ _ => .stagingGateOpen
  | .stagingAllowanceExpiry _ _ => .stagingAllowanceExpiry
  | .cspStagingCopy _ _ _ => .cspStagingCopy
  | .placementDecision _ => .placementDecision
  | .taskRetirement _ _ => .taskRetirement
  | .instanceCompletion _ => .instanceCompletion
  | .launch _ _ _ => .launch
  | .class0Preemption _ => .class0Preemption
  | .victimSaveComplete _ _ => .victimSaveComplete
  | .migrationDestinationFree => .migrationDestinationFree
  | .stubOpen _ _ => .stubOpen
  | .stubClose _ _ => .stubClose
  | .migrationResume _ _ => .migrationResume
  | .pageMove _ _ => .pageMove
  | .packageTick => .packageTick
  | .switchSave _ _ => .switchSave
  | .saveDeadlineKill _ _ => .saveDeadlineKill
  | .switchIn _ => .switchIn
  | .teardown _ => .teardown
  | .abortMarker _ _ _ => .abortMarker
  | .vfFunctionLevelReset _ => .vfFunctionLevelReset
  | .vfctlEnable _ _ _ => .vfctlEnable
  | .vfctlTeardown _ => .vfctlTeardown
  | .configRegisterWrite _ _ => .configRegisterWrite
  | .launchWrite _ _ _ => .launchWrite
  | .completionEntryWrite _ => .completionEntryWrite
  | .cqheadWrite _ _ => .cqheadWrite
  | .msixCoalesceTimer _ => .msixCoalesceTimer
  | .hostRead _ _ _ => .hostRead
  | .hostWrite _ _ _ => .hostWrite
  | .pcapWrite _ => .pcapWrite
  | .coldStart _ => .coldStart
  | .warmStart _ => .warmStart
  | .startTimeout => .startTimeout
  | .startStep _ => .coldStart
  | .attestationReport _ => .attestationReport
  | .telemetrySample _ => .telemetrySample
  | .thermalSample _ _ => .thermalSample
  | .linkDataFlit _ _ _ => .linkDataFlit
  | .controlFlit _ _ => .controlFlit
  | .replayTimeout _ => .replayTimeout
  | .linkRetrain _ _ _ => .linkRetrain
  | .retrainAttemptTimeout _ => .retrainAttemptTimeout
  | .rtcntDecay _ => .rtcntDecay
  | .d2dLinkFailure _ _ => .d2dLinkFailure
  | .podGroupPacket _ _ _ _ _ _ _ _ _ => .podGroupPacket
  | .rsendRetry _ _ => .rsendRetry
  | .ualinkRequest _ => .apertureWrite
  | .apertureWrite _ _ _ => .apertureWrite
  | .templateRegistration _ _ _ _ _ => .templateRegistration
  | .templateUnregistration _ => .templateUnregistration
  | .watchDisarm _ _ _ => .watchDisarm
  | .pageMoveComplete _ _ => .pageMoveComplete
  | .taskSaveComplete _ _ => .taskSaveComplete
  | .holdTask _ _ _ => .taskSaveComplete
  | .taskRestoreComplete _ _ => .taskRestoreComplete
  | .bar0RegisterWrite _ _ _ => .bar0RegisterWrite
  | .bar0RegisterRead _ _ => .bar0RegisterWrite
  | .linkControlFlitInterval _ => .linkControlFlitInterval
  | .ualinkPortFailure _ => .ualinkPortFailure
  | .d2dLinkRetraining _ _ => .d2dLinkRetraining

/-! ## Rules (R12, R14, R27) -/

/-- An enabled predicate term: polarity 1 matches when the predicate is clear (R13). -/
structure Term where
  pol : Bool
  p : PReg
deriving DecidableEq, Repr

/-- The resource condition (R14); `n1` is ARG - 1, so that the counts are 1 to 8. -/
inductive Cond where
  | always | count (c : Chan) (n1 : Fin 8) | tagEq (c : Chan) (t : BitVec 8) | tagNe (c : Chan) (t : BitVec 8)
  | full (r : PresReg) | empty (r : PresReg) | space (c : Chan) (n1 : Fin 8) | idle (a : AReg)
deriving DecidableEq, Repr

/-- The source of a predicate write (R27). -/
inductive PwSrc where
  | clear | set | rc | toggle
deriving DecidableEq, Repr

/-- An enabled predicate write. -/
structure PWrite where
  src : PwSrc
  p : PReg
deriving DecidableEq, Repr

/-- A valid rule (R12, R40). -/
structure Rule where
  pri : Fin 8
  t0 : Option Term
  t1 : Option Term
  t2 : Option Term
  cond : Cond
  pw0 : Option PWrite
  pw1 : Option PWrite
  dq : Bool
  ho : Bool
  clr : Bool
  op : Instr
deriving DecidableEq, Repr

end Sys2Proof
end

