-- ==== Sys2Proof/WellFormed.lean ====
section
/-! DEFINITION. Which instructions are well formed: the load-time checks of R61 that the types of the syntax do not already
enforce. A decoded instruction is always well formed. -/

namespace Sys2Proof

def VDst.isReg : VDst → Bool | .reg _ => true | .chan _ => false
def KDst.isReg : KDst → Bool | .reg _ => true | .chan _ => false
def SDst.isReg : SDst → Bool | .reg _ => true | _ => false

def Msk.isKeep : Msk → Bool | .keep _ => true | _ => false

/-- ME = 1 with MZ = 0 needs a register destination (R186). -/
def Msk.okV (m : Msk) (d : VDst) : Bool := !m.isKeep || d.isReg
/-- A scalar destination kept under a mask is a register too: an egress channel is refused (R186). -/
def Msk.okS (m : Msk) (d : SDst) : Bool := !m.isKeep || (match d with | .chan _ => false | _ => true)
def Msk.okK (m : Msk) (d : KDst) : Bool := !m.isKeep || d.isReg
/-- `vscan` takes f64 and f32 only (R205), `vdot` no fx64 (R204). -/
def VArith.isF (t : VArith) : Bool := match t with | .fp .f64 _ => true | .fp .f32 _ => true | .fp _ _ => false | _ => true
def VArith.notFx (t : VArith) : Bool := match t with | .fx _ _ => false | _ => true

def ITy.width : ITy → Nat
  | .i64 => 64 | .i32 => 32 | .i16 => 16 | .i8 => 8 | .n64 => 64 | .n32 => 32 | .n16 => 16 | .n8 => 8
def FTy.width : FTy → Nat | .f64 => 64 | .f32 => 32 | .f16 => 16 | .bf16 => 16
def FcTy.width : FcTy → Nat | .f t => t.width | .e4m3 => 8 | .e5m2 => 8
def ETy.width : ETy → Nat | .i t => t.width | .f t => t.width

/-- The widths of the source and of the destination of `vcvt` (R206). -/
def VCvt.sw : VCvt → Nat
  | .ff _ s _ => s.width | .fi _ s _ => s.width | .ffx _ s _ => s.width | .itof _ s _ => s.width | .fxf _ _ _ => 64
  | .ifx _ s _ _ => s.width | .fxi _ _ _ => 64
def VCvt.dw : VCvt → Nat
  | .ff d _ _ => d.width | .fi d _ _ => d.width | .ffx _ _ _ => 64 | .itof d _ _ => d.width | .fxf d _ _ => d.width
  | .ifx _ _ _ _ => 64 | .fxi d _ _ => d.width

/-- B is zero unless the conversion widens (R206); a pair s = d is refused. -/
def VCvt.ok (c : VCvt) (b : SSrc) : Bool :=
  (match c with | .ff d s _ => d != s | _ => true) && (decide (c.sw < c.dw) || b == .reg 0)

def Blk.ok (b : Blk) (wide : Bool) : Bool :=
  decide (b.ro.val + b.mt.val < 4) && decide (b.co.val + b.nt.val < (if wide then 2 else 4))

/-- RM only with f64 and f32 (R217). -/
def MmaF.rmOk (f : MmaF) : Bool := f.rm == .dyn || f.fmt == .f64 || f.fmt == .f32
def MmaF.blkOk (f : MmaF) : Bool := f.blk.ok (f.fmt == .f64)
def MmFmt.isMx : MmFmt → Bool | .mx _ => true | _ => false
/-- The formats `mmas` admits (R216). -/
def MmFmt.sparse : MmFmt → Bool | .f64 => false | .f32 => false | .mx _ => false | _ => true

/-- `acvt` refuses s = d, and SAT except for i32 to i8, i16, n8 and n16 (R228). -/
def ACvt.ok : ACvt → Bool
  | .ff d s64 _ => if s64 then d != .f .f64 else d != .f .f32
  | .fi _ _ _ => true
  | .itof _ _ => true
  | .ii d sat => (!d.signed || d.lv != 2) && (!sat || d.lv != 2)

/-- A load accepts none and acq, a store none and rel (R237, R277, R362); `s` says which scopes. -/
def MAddr.ld (m : MAddr) (s : Scope → Bool) : Bool := s m.scope && (m.ord == .none || m.ord == .acq)
def MAddr.st (m : MAddr) (s : Scope → Bool) : Bool := s m.scope && (m.ord == .none || m.ord == .rel)
def Scope.tcm : Scope → Bool | .ctx => true | .tile => true | _ => false
def Scope.csp : Scope → Bool | .ctx => true | .tile => true | .clus => true | _ => false
def Scope.any (_ : Scope) : Bool := true
/-- SPACE 10 allows ctx and tile; SPACE 01 up to clus; SPACE 00 tile to pod (R148). -/
def WatchF.ok (w : WatchF) : Bool :=
  match w.space with | .tcm => w.scope.tcm | .csp => w.scope.csp | .glb => w.scope != .ctx

/-- LABEL is zero but for a window destination; `cpy2d` needs an even pair (R241). -/
def CpyF.ok (f : CpyF) : Bool := f.dsp == .win || f.label == 0#7
def even (r : SReg) : Bool := r.val % 2 == 0

/-- The steps of the machine's other agents: rows of the table that no slot encodes. -/
def Instr.isEvent (i : Instr) : Bool :=
  match i with
  | .operationWriteback | .handoverStep | .contextStop | .contextRelease | .migrateTrap
  | .channelEntryArrival | .creditArrival | .egressTransmit | .windowWriteArrival
  | .windowRefusal | .acknowledgementArrival | .watchArm | .watchNotify
  | .sleepTimerExpiry | .drawRefill | .overrun | .ruleStoreScrub | .tcmScrub | .cspScrub
  | .ruleImageLoad | .streamElement | .gbarRelease | .copyChunk | .copyComplete
  | .orderTokenComplete | .matrixOperationStart | .neighbourEntryArrival | .neighbourRetry
  | .bufferRequest | .fullBitChange | .barrierArrival | .barrierRelease | .mmrPanelArrival
  | .globalRead | .globalWrite | .globalAtomic | .translationWalk | .walkComplete
  | .mergeEntryClose | .circuitToken | .flushToken | .roundMarker | .sweepMarker | .sweepEcho
  | .linkFlushMarker | .linkFlushEcho | .linkRetirementNotice | .decrementArrival
  | .taskRequest | .waitingRequestApply | .stagingGateOpen | .stagingAllowanceExpiry | .cspStagingCopy
  | .placementDecision | .taskRetirement | .instanceCompletion | .launch | .class0Preemption
  | .victimSaveComplete | .migrationDestinationFree | .stubOpen | .stubClose | .migrationResume
  | .pageMove | .packageTick | .switchSave | .saveDeadlineKill | .switchIn | .teardown
  | .abortMarker | .vfFunctionLevelReset | .vfctlEnable | .vfctlTeardown | .configRegisterWrite
  | .launchWrite | .completionEntryWrite | .cqheadWrite | .msixCoalesceTimer | .hostRead
  | .hostWrite | .pcapWrite | .coldStart | .warmStart | .startTimeout | .attestationReport
  | .telemetrySample | .thermalSample | .linkDataFlit | .controlFlit | .replayTimeout
  | .linkRetrain | .retrainAttemptTimeout | .rtcntDecay | .d2dLinkFailure | .podGroupPacket
  | .rsendRetry | .apertureWrite | .templateRegistration | .templateUnregistration
  | .watchDisarm | .pageMoveComplete | .taskSaveComplete | .taskRestoreComplete
  | .bar0RegisterWrite | .linkControlFlitInterval | .ualinkPortFailure | .d2dLinkRetraining => true
  | _ => false

/-- The well-formedness of every instruction. -/
def Instr.wf (i : Instr) : Bool :=
  !i.isEvent &&
  match i with
  | .vadd _ m d _ _ | .vsub _ m d _ _ | .vmul _ m d _ _ | .vdiv _ m d _ _ => m.okV d
  | .vmin _ m d _ _ | .vmax _ m d _ _ => m.okV d
  | .vabs _ m d _ | .vneg _ m d _ => m.okV d
  | .vadds _ m d _ _ | .vsubs _ m d _ _ => m.okV d
  | .vfma _ _ _ m d _ _ _ => m.okV d
  | .vand _ m d _ _ | .vor _ m d _ _ | .vxor _ m d _ _ | .vshl _ m d _ _ | .vshr _ m d _ _ | .vsra _ m d _ _ => m.okV d
  | .vcmp _ m d _ _ => m.okK d
  | .vclass _ m d _ _ => m.okK d
  | .vmov _ m d _ | .vbcast _ m d _ => m.okV d
  | .viota _ m d _ => m.okV d
  | .vperm _ m d _ _ => m.okV d
  | .vrot _ m d _ _ => m.okV d
  | .vpack _ _ m d _ _ => m.okV d
  | .vunpk _ m d _ _ => m.okV d
  | .vdot t m d _ _ _ => t.notFx && m.okS d
  | .vredsum _ m d _ _ | .vredmin _ m d _ _ | .vredmax _ m d _ _ | .vredand _ m d _ _ | .vredor _ m d _ _ | .vredxor _ m d _ _ => m.okS d
  | .vscan t m d _ _ => t.isF && m.okV d
  | .vcvt c m d _ b => c.ok b && m.okV d
  | .sfrcp m d _ | .sfrsqrt m d _ | .sfsqrt m d _ | .sfexp2 m d _ | .sflog2 m d _ | .sfsinpi m d _ | .sfcospi m d _ => m.okV d
  | .mma f => f.rmOk && f.blkOk
  | .mmas f _ _ => f.rmOk && f.blkOk && f.fmt.sparse
  | .mmv f => f.rmOk && f.blkOk && !f.fmt.isMx && f.blk.mt == 0 && f.kt == 0 && !f.asp && f.sa.val % 4 == 0 && decide (f.sa.val < 16)
  | .mmr f _ => f.rmOk && f.blkOk && !f.asp && !f.bsp && even f.sa && even f.sb
  | .aload f | .astore f => f.blk.ok f.ew
  | .acvt c _ _ _ => c.ok
  | .ld m _ => m.ld Scope.tcm
  | .st m _ => m.st Scope.tcm
  | .vld m _ => m.ld Scope.tcm
  | .vst m _ => m.st Scope.tcm
  | .tamo m _ _ => m.scope.tcm
  | .vgath m _ _ | .vscat m _ _ => m.scope.tcm && m.ord == .none
  | .cpy f => f.ok
  | .cpy2d f => f.ok && even f.sl
  | .cld m _ => m.ld Scope.csp
  | .cst m _ => m.st Scope.csp
  | .cvld m _ => m.ld Scope.csp
  | .cvst m _ => m.st Scope.csp
  | .camo m _ _ => m.scope.csp
  | .ldg m _ => m.ld Scope.any
  | .stg m _ => m.st Scope.any
  | .vldg m _ => m.ld Scope.any
  | .vstg m _ => m.st Scope.any
  | .otpub n => n != 0
  | .otwait _ n => n != 0
  | .join _ mask => mask != 0#8
  | .rstore _ m _ => m.st Scope.any
  | .watch w _ _ _ => w.ok
  | _ => true

/-! ## Rules -/

/-- Instructions with no result condition (R60, R153, R227, R246, R289, R443, R512, R513): source 10 on them is refused. (DEDUCED, log 12.) -/
def Instr.noRc : Instr → Bool
  | .nop | .done _ | .yield | .handover | .trap _ _ | .watch _ _ _ _ | .unwatch _ | .sleep _ | .bkpt _ => true
  | .mma _ | .mmas _ _ _ | .mmv _ | .azero _ | .aload _ | .astore _ | .ascale _ _ _ | .aput _ _ _ _ _ | .aadd _ _ _ _
  | .atrans _ _ => true
  | .gcfg _ _ _ | .gstart _ | .st _ _ | .vst _ _ | .vscat _ _ _ | .cpy _ | .cpy2d _ => true
  | .cst _ _ | .cvst _ _ | .mmr _ _ => true
  | .stg _ _ | .vstg _ _ | .fence _ | .otpub _ | .otpubCirc _ _ | .pfg _ _ _ | .tdec _ => true
  | .rstore _ _ _ | .rdec _ _ | .pabort _ => true
  | .cfgw _ _ _ | .xinv _ _ _ _ _ | .swr _ _ _ => true
  | _ => false

/-- The inbound channel that an operation dequeues on its own account (R25, R138). -/
def Instr.dequeues : Instr → Option Chan
  | .recv _ a => some a | .tryrecv _ a _ => some a | .chreset a => some a | _ => none

/-- `done`, `yield`, `handover`, `trap`: HO = 1 is refused on them (R44). -/
def Instr.endsCtx : Instr → Bool
  | .done _ | .yield | .handover | .trap _ _ => true
  | _ => false

def PWrite.isRc (w : Option PWrite) : Bool := match w with | some w => w.src == .rc | none => false

/-- Which rules are well formed: the operation is, and the effects are used as R25, R26, R27 and R44 allow. -/
def Rule.wf (r : Rule) : Bool :=
  r.op.wf
  && (!r.dq || (match r.cond with
      | .count c _ => r.op.dequeues != some c | .tagEq c _ => r.op.dequeues != some c | .tagNe c _ => r.op.dequeues != some c
      | _ => false))
  && (!r.clr || (match r.cond with | .full _ => true | .empty _ => true | _ => false))
  && (!(PWrite.isRc r.pw0 || PWrite.isRc r.pw1) || !r.op.noRc)
  && (!r.ho || !r.op.endsCtx)

def Rm.isRs (r : Rm) : Bool := r == .rs
def VArith.isRs : VArith → Bool | .fp _ r => r.isRs | _ => false
def AArith.isRs : AArith → Bool | .f32 r => r.isRs | .f64 r => r.isRs | .i32 _ => false
def VCvt.isRs : VCvt → Bool
  | .ff _ _ r => r.isRs | .fi _ _ r => r.isRs | .ffx _ _ r => r.isRs | .itof _ _ r => r.isRs | .fxf _ _ r => r.isRs
  | .ifx _ _ _ r => r.isRs | .fxi _ _ r => r.isRs
def ACvt.isRs : ACvt → Bool | .ff _ _ r => r.isRs | .fi _ _ r => r.isRs | .itof _ r => r.isRs | .ii _ _ => false

/-- Glaze-only operations (R64). -/
def Instr.glazeOnly : Instr → Bool
  | .mmas _ _ _ | .vmxq _ _ _ _ _ _ | .vmxd _ _ _ _ _ _ => true
  | .mma f | .mmv f | .mmr f _ => f.fmt.isMx || f.rm.isRs
  | .fadd _ r _ _ _ | .fsub _ r _ _ _ | .fmul _ r _ _ _ | .fdiv _ r _ _ _ => r.isRs
  | .fsqrt _ r _ _ => r.isRs
  | .ffma _ _ r _ _ _ _ => r.isRs
  | .fcvt _ _ r _ _ => r.isRs
  | .icvtf _ _ r _ _ => r.isRs
  | .fxcvt (.toFp _ _ r) _ _ => r.isRs
  | .vadd t _ _ _ _ | .vsub t _ _ _ _ | .vmul t _ _ _ _ | .vdiv t _ _ _ _ => t.isRs
  | .vadds t _ _ _ _ | .vsubs t _ _ _ _ => t.isRs
  | .vfma _ _ r _ _ _ _ _ => r.isRs
  | .vredsum t _ _ _ _ => t.isRs
  | .vdot t _ _ _ _ _ => t.isRs
  | .vscan t _ _ _ _ => t.isRs
  | .vcvt c _ _ _ _ => c.isRs
  | .acvt c _ _ _ => c.isRs
  | .ascale t _ _ => t.isRs
  | .aadd t _ _ _ => t.isRs
  | _ => false

/-- Majors 0xd0 to 0xdd (R58). -/
def Instr.privileged : Instr → Bool
  | .cfgr _ _ | .cfgw _ _ _ | .vfsetEnable _ _ _ | .vfsetTeardown _ _ _ | .quota _ _ _ | .wtouch _ _ _ | .wresMobile _ _ _
  | .wresFixed _ _ _ | .wresUp _ _ _ | .wresDown _ _ _ | .wresQuery _ _ _ _ | .csave _ _ _ | .crest _ _ | .ctxw _ _ _ _
  | .xinv _ _ _ _ _ | .fqpop _ _ | .mtret _ _ _ | .srd _ _ | .swr _ _ _ => true
  | _ => false

end Sys2Proof
end

