-- ==== Sys2Proof/Decode.lean ====
section
/-! DEFINITION. The decoder of rule slots (02_rule_encoding.md and the format of every instruction), total on any bits and
rejecting by the check code of R61, and after it the encoder, written from the same tables. -/

namespace Sys2Proof

/-! ## Checked results: a value, or the least check code of R61 that fails -/

/-- The result of a load-time check: the value read, or the first failing check of R61. -/
inductive Chk (α : Type) where
  | ok (a : α) | bad (code : Nat)
deriving DecidableEq, Repr

/-- Both parts must pass; the lower code of R61 is reported. -/
def Chk.ap {α β : Type} (x : Chk (α → β)) (y : Chk α) : Chk β :=
  match x, y with
  | .ok f, .ok a => .ok (f a)
  | .ok _, .bad c => .bad c
  | .bad c, .ok _ => .bad c
  | .bad c, .bad e => .bad (min c e)

/-- Require `b`, else check `code` fails. -/
def Chk.req {α : Type} (x : Chk α) (code : Nat) (b : Bool) : Chk α :=
  if b then x else match x with
    | .ok _ => .bad code
    | .bad c => .bad (min c code)

def Chk.map {α β : Type} (f : α → β) (x : Chk α) : Chk β :=
  match x with
  | .ok a => .ok (f a)
  | .bad c => .bad c

/-! ## Fields -/

/-- Bits [lo+n-1:lo]. -/
def fld {w : Nat} (x : BitVec w) (lo n : Nat) : BitVec n := x.extractLsb' lo n

/-- Format A without MAJ (R45). -/
structure FA where
  mn : BitVec 8
  d : BitVec 7
  a : BitVec 7
  b : BitVec 7
  c : BitVec 7
  ty : BitVec 4
  md : BitVec 16
deriving DecidableEq, Repr

/-- Format I without MAJ. -/
structure FI where
  mn : BitVec 8
  d : BitVec 7
  a : BitVec 7
  r : BitVec 2
  imm : BitVec 32
deriving DecidableEq, Repr

/-- Format M without MAJ. -/
structure FM where
  mn : BitVec 8
  d : BitVec 7
  base : BitVec 7
  di : BitVec 7
  scope : BitVec 3
  ord : BitVec 2
  off : BitVec 22
deriving DecidableEq, Repr

/-- Format L without MAJ. -/
structure FL where
  mn : BitVec 8
  d : BitVec 7
  r : BitVec 1
  imm : BitVec 40
deriving DecidableEq, Repr

/-- The format-X layout of `mma`, `mmas`, `mmv` and `mmr` (R215). -/
structure FXm where
  mn : BitVec 8
  acc : BitVec 2
  mt : BitVec 2
  nt : BitVec 2
  ro : BitVec 2
  co : BitVec 2
  kt : BitVec 6
  sa : BitVec 5
  sb : BitVec 5
  asp : BitVec 1
  bsp : BitVec 1
  rm : BitVec 3
  za : BitVec 1
  wt : BitVec 4
  pt : BitVec 4
  sm : BitVec 5
  msp : BitVec 1
  r : BitVec 2
deriving DecidableEq, Repr

/-- The format-X layout of `aload` and `astore` (R226). -/
structure FXa where
  mn : BitVec 8
  acc : BitVec 2
  mt : BitVec 2
  nt : BitVec 2
  ro : BitVec 2
  co : BitVec 2
  ew : BitVec 1
  r0 : BitVec 5
  sa : BitVec 5
  r1 : BitVec 5
  asp : BitVec 1
  r2 : BitVec 5
  wt : BitVec 4
  pt : BitVec 4
  r3 : BitVec 8
deriving DecidableEq, Repr

/-- The format-X layout of `cpy` and `cpy2d` (R241). -/
structure FXc where
  mn : BitVec 8
  dsp : BitVec 2
  ssp : BitVec 2
  sd : BitVec 5
  ss : BitVec 5
  sl : BitVec 5
  label : BitVec 7
  r0 : BitVec 6
  wt : BitVec 4
  pt : BitVec 4
  r1 : BitVec 8
deriving DecidableEq, Repr

/-- MOD in the majors of R52. -/
structure FMod where
  kidx : BitVec 3
  me : BitVec 1
  mz : BitVec 1
  r : BitVec 1
  sat : BitVec 1
  fxp : BitVec 6
  rm : BitVec 3
deriving DecidableEq, Repr

def FA.ofWord (w : Word) : FA :=
  { mn := fld w 48 8, d := fld w 41 7, a := fld w 34 7, b := fld w 27 7, c := fld w 20 7, ty := fld w 16 4, md := fld w 0 16 }
def FA.toWord (maj : BitVec 8) (f : FA) : Word := maj ++ (f.mn ++ (f.d ++ (f.a ++ (f.b ++ (f.c ++ (f.ty ++ f.md))))))

def FI.ofWord (w : Word) : FI :=
  { mn := fld w 48 8, d := fld w 41 7, a := fld w 34 7, r := fld w 32 2, imm := fld w 0 32 }
def FI.toWord (maj : BitVec 8) (f : FI) : Word := maj ++ (f.mn ++ (f.d ++ (f.a ++ (f.r ++ f.imm))))

def FM.ofWord (w : Word) : FM :=
  { mn := fld w 48 8, d := fld w 41 7, base := fld w 34 7, di := fld w 27 7, scope := fld w 24 3, ord := fld w 22 2, off := fld w 0 22 }
def FM.toWord (maj : BitVec 8) (f : FM) : Word :=
  maj ++ (f.mn ++ (f.d ++ (f.base ++ (f.di ++ (f.scope ++ (f.ord ++ f.off))))))

def FL.ofWord (w : Word) : FL := { mn := fld w 48 8, d := fld w 41 7, r := fld w 40 1, imm := fld w 0 40 }
def FL.toWord (maj : BitVec 8) (f : FL) : Word := maj ++ (f.mn ++ (f.d ++ (f.r ++ f.imm)))

def FXm.ofWord (w : Word) : FXm :=
  { mn := fld w 48 8, acc := fld w 46 2, mt := fld w 44 2, nt := fld w 42 2, ro := fld w 40 2, co := fld w 38 2,
    kt := fld w 32 6, sa := fld w 27 5, sb := fld w 22 5, asp := fld w 21 1, bsp := fld w 20 1, rm := fld w 17 3,
    za := fld w 16 1, wt := fld w 12 4, pt := fld w 8 4, sm := fld w 3 5, msp := fld w 2 1, r := fld w 0 2 }
def FXm.toWord (maj : BitVec 8) (f : FXm) : Word :=
  maj ++ (f.mn ++ (f.acc ++ (f.mt ++ (f.nt ++ (f.ro ++ (f.co ++ (f.kt ++ (f.sa ++ (f.sb ++ (f.asp ++ (f.bsp ++ (f.rm ++
    (f.za ++ (f.wt ++ (f.pt ++ (f.sm ++ (f.msp ++ f.r)))))))))))))))))

def FXa.ofWord (w : Word) : FXa :=
  { mn := fld w 48 8, acc := fld w 46 2, mt := fld w 44 2, nt := fld w 42 2, ro := fld w 40 2, co := fld w 38 2,
    ew := fld w 37 1, r0 := fld w 32 5, sa := fld w 27 5, r1 := fld w 22 5, asp := fld w 21 1, r2 := fld w 16 5,
    wt := fld w 12 4, pt := fld w 8 4, r3 := fld w 0 8 }
def FXa.toWord (maj : BitVec 8) (f : FXa) : Word :=
  maj ++ (f.mn ++ (f.acc ++ (f.mt ++ (f.nt ++ (f.ro ++ (f.co ++ (f.ew ++ (f.r0 ++ (f.sa ++ (f.r1 ++ (f.asp ++ (f.r2 ++
    (f.wt ++ (f.pt ++ f.r3))))))))))))))

def FXc.ofWord (w : Word) : FXc :=
  { mn := fld w 48 8, dsp := fld w 46 2, ssp := fld w 44 2, sd := fld w 39 5, ss := fld w 34 5, sl := fld w 29 5,
    label := fld w 22 7, r0 := fld w 16 6, wt := fld w 12 4, pt := fld w 8 4, r1 := fld w 0 8 }
def FXc.toWord (maj : BitVec 8) (f : FXc) : Word :=
  maj ++ (f.mn ++ (f.dsp ++ (f.ssp ++ (f.sd ++ (f.ss ++ (f.sl ++ (f.label ++ (f.r0 ++ (f.wt ++ (f.pt ++ f.r1))))))))))

def FMod.ofWord (w : BitVec 16) : FMod :=
  { kidx := fld w 13 3, me := fld w 12 1, mz := fld w 11 1, r := fld w 10 1, sat := fld w 9 1, fxp := fld w 3 6, rm := fld w 0 3 }
def FMod.toWord (f : FMod) : BitVec 16 := f.kidx ++ (f.me ++ (f.mz ++ (f.r ++ (f.sat ++ (f.fxp ++ f.rm)))))

/-- A one-bit field as a Bool, and back. -/
def bit1 (b : BitVec 1) : Bool := b == 1#1
def ofB (b : Bool) : BitVec 1 := if b then 1#1 else 0#1

/-! ## Operand specifiers (R47, R48, R49) -/

def cls (x : BitVec 7) : Nat := x.toNat / 32
def idx (x : BitVec 7) : Nat := x.toNat % 32
/-- The specifier of CLASS `c` and index `i`. -/
def spec (c i : Nat) : BitVec 7 := BitVec.ofNat 7 (32 * c + i)

/-- An index taken modulo the size of its file, for use where the class has been checked. -/
def fin (n k : Nat) [NeZero n] : Fin n := Fin.ofNat n k

def dSysR (i : Nat) : Chk SysR :=
  match i with
  | 16 => .ok .ctxcfg | 17 => .ok .ctxid | 18 => .ok .flags | 19 => .ok .amode | 20 => .ok .srng | 21 => .ok .cycle
  | 22 => .ok .draw | 23 => .ok .tbase | 24 => .ok .taskid | 25 => .ok .tenant | 26 => .ok .bleft | _ => .bad 7
def eSysR : SysR → Nat
  | .ctxcfg => 16 | .ctxid => 17 | .flags => 18 | .amode => 19 | .srng => 20 | .cycle => 21 | .draw => 22 | .tbase => 23
  | .taskid => 24 | .tenant => 25 | .bleft => 26
/-- Code 0x09 for a read-only register, 0x07 for a reserved offset. -/
def dSysW (i : Nat) : Chk SysW :=
  match i with
  | 18 => .ok .flags | 19 => .ok .amode | 20 => .ok .srng
  | 16 | 17 | 21 | 22 | 23 | 24 | 25 | 26 => .bad 9
  | _ => .bad 7
def eSysW : SysW → Nat | .flags => 18 | .amode => 19 | .srng => 20

def dSS (x : BitVec 7) : Chk SSrc :=
  match cls x with
  | 0 => .ok (.reg (fin 32 (idx x)))
  | 2 => if idx x < 16 then .ok (.chan (fin 16 (idx x))) else .bad 7
  | 3 => if idx x < 16 then .bad 7 else (dSysR (idx x)).map .sys
  | _ => .bad 7
def eSS : SSrc → BitVec 7
  | .reg r => spec 0 r | .chan c => spec 2 c | .sys r => spec 3 (eSysR r)

def dSD (x : BitVec 7) : Chk SDst :=
  match cls x with
  | 0 => .ok (.reg (fin 32 (idx x)))
  | 2 => if idx x < 16 then .bad 7 else .ok (.chan (fin 16 (idx x)))
  | 3 => if idx x < 16 then .bad 7 else (dSysW (idx x)).map .sys
  | _ => .bad 7
def eSD : SDst → BitVec 7
  | .reg r => spec 0 r | .chan c => spec 2 (16 + c) | .sys r => spec 3 (eSysW r)

def dSR (x : BitVec 7) : Chk SReg := if cls x = 0 then .ok (fin 32 (idx x)) else .bad 7
def eSR (r : SReg) : BitVec 7 := spec 0 r
def dP (x : BitVec 7) : Chk PReg := if cls x = 3 ∧ idx x < 16 then .ok (fin 16 (idx x)) else .bad 7
def eP (p : PReg) : BitVec 7 := spec 3 p
def dVR (x : BitVec 7) : Chk VReg := if cls x = 1 ∧ idx x < 16 then .ok (fin 16 (idx x)) else .bad 7
def eVR (v : VReg) : BitVec 7 := spec 1 v
def dVS (x : BitVec 7) : Chk VSrc :=
  if idx x < 16 then (if cls x = 1 then .ok (.reg (fin 16 (idx x))) else if cls x = 2 then .ok (.chan (fin 16 (idx x))) else .bad 7)
  else .bad 7
def eVS : VSrc → BitVec 7 | .reg r => spec 1 r | .chan c => spec 2 c
def dVD (x : BitVec 7) : Chk VDst :=
  if idx x < 16 then (if cls x = 1 then .ok (.reg (fin 16 (idx x))) else .bad 7)
  else if cls x = 2 then .ok (.chan (fin 16 (idx x))) else .bad 7
def eVD : VDst → BitVec 7 | .reg r => spec 1 r | .chan c => spec 2 (16 + c)
def dKS (x : BitVec 7) : Chk KSrc :=
  if cls x = 1 then (if 16 ≤ idx x ∧ idx x < 24 then .ok (.reg (fin 8 (idx x))) else .bad 7)
  else if cls x = 2 ∧ idx x < 16 then .ok (.chan (fin 16 (idx x))) else .bad 7
def eKS : KSrc → BitVec 7 | .reg r => spec 1 (16 + r) | .chan c => spec 2 c
def dKD (x : BitVec 7) : Chk KDst :=
  if cls x = 1 then (if 16 ≤ idx x ∧ idx x < 24 then .ok (.reg (fin 8 (idx x))) else .bad 7)
  else if cls x = 2 ∧ 16 ≤ idx x then .ok (.chan (fin 16 (idx x))) else .bad 7
def eKD : KDst → BitVec 7 | .reg r => spec 1 (16 + r) | .chan c => spec 2 (16 + c)
def dAR (x : BitVec 7) : Chk AReg := if cls x = 1 ∧ 24 ≤ idx x ∧ idx x < 28 then .ok (fin 4 (idx x)) else .bad 7
def eAR (a : AReg) : BitVec 7 := spec 1 (24 + a)
/-- An inbound channel. -/
def dCI (x : BitVec 7) : Chk Chan := if cls x = 2 ∧ idx x < 16 then .ok (fin 16 (idx x)) else .bad 7
def eCI (c : Chan) : BitVec 7 := spec 2 c
/-- An egress channel. -/
def dCO (x : BitVec 7) : Chk Chan := if cls x = 2 ∧ 16 ≤ idx x then .ok (fin 16 (idx x)) else .bad 7
def eCO (c : Chan) : BitVec 7 := spec 2 (16 + c)
/-- An even scalar pair, code 0x08 when odd. -/
def dPair (x : BitVec 7) : Chk (Fin 16) :=
  if cls x = 0 then (if idx x % 2 = 0 then .ok (fin 16 (idx x / 2)) else .bad 8) else .bad 7
def ePair (n : Fin 16) : BitVec 7 := spec 0 (2 * n)
def dPS (x : BitVec 7) : Chk PSrc :=
  if cls x = 0 then (if idx x % 2 = 0 then .ok (.pair (fin 16 (idx x / 2))) else .bad 8)
  else if cls x = 2 ∧ idx x < 16 then .ok (.chan (fin 16 (idx x))) else .bad 7
def ePS : PSrc → BitVec 7 | .pair n => spec 0 (2 * n) | .chan c => spec 2 c
def dPD (x : BitVec 7) : Chk PDst :=
  if cls x = 0 then (if idx x % 2 = 0 then .ok (.pair (fin 16 (idx x / 2))) else .bad 8)
  else if cls x = 2 ∧ 16 ≤ idx x then .ok (.chan (fin 16 (idx x))) else .bad 7
def ePD : PDst → BitVec 7 | .pair n => spec 0 (2 * n) | .chan c => spec 2 (16 + c)
/-- An even vector pair, `sfsincospi` (R49, R209). -/
def dVPair (x : BitVec 7) : Chk (Fin 8) :=
  if cls x = 1 ∧ idx x < 16 then (if idx x % 2 = 0 then .ok (fin 8 (idx x / 2)) else .bad 8) else .bad 7
def eVPair (n : Fin 8) : BitVec 7 := spec 1 (2 * n)
def dPres (x : BitVec 7) : Chk PresReg :=
  match cls x with
  | 0 => .ok (.s (fin 32 (idx x)))
  | 1 => if idx x < 16 then .ok (.v (fin 16 (idx x))) else if idx x < 24 then .ok (.k (fin 8 (idx x))) else .bad 7
  | _ => .bad 7
def ePres : PresReg → BitVec 7 | .s r => spec 0 r | .v r => spec 1 r | .k r => spec 1 (16 + r)
/-- A route label in D (R503). -/
def nP (p : PReg) : BitVec 4 := BitVec.ofNat 4 p
def toP (x : BitVec 4) : PReg := fin 16 x.toNat

/-! ## TYPE, RM, FXP and SAT (R51, R52, R53) -/

/-- TYPE with the fields of MOD that qualify it. -/
structure TyMod where
  ty : BitVec 4
  fxp : BitVec 6
  sat : BitVec 1
  rm : BitVec 3
deriving DecidableEq, Repr

def FMod.tm (m : FMod) (ty : BitVec 4) : TyMod := { ty := ty, fxp := m.fxp, sat := m.sat, rm := m.rm }

def dITy (n : Nat) : Chk ITy :=
  match n with
  | 0 => .ok .i64 | 1 => .ok .i32 | 2 => .ok .i16 | 3 => .ok .i8 | 4 => .ok .n64 | 5 => .ok .n32 | 6 => .ok .n16
  | 7 => .ok .n8 | _ => .bad 4
def eITy : ITy → Nat | .i64 => 0 | .i32 => 1 | .i16 => 2 | .i8 => 3 | .n64 => 4 | .n32 => 5 | .n16 => 6 | .n8 => 7
def dFTy (n : Nat) : Chk FTy := match n with | 8 => .ok .f64 | 9 => .ok .f32 | 10 => .ok .f16 | 11 => .ok .bf16 | _ => .bad 4
def eFTy : FTy → Nat | .f64 => 8 | .f32 => 9 | .f16 => 10 | .bf16 => 11
def dFcTy (n : Nat) : Chk FcTy :=
  match n with | 12 => .ok .e4m3 | 13 => .ok .e5m2 | n => (dFTy n).map .f
def eFcTy : FcTy → Nat | .f t => eFTy t | .e4m3 => 12 | .e5m2 => 13
def dETy (n : Nat) : Chk ETy := if n < 8 then (dITy n).map .i else (dFcTy n).map .f
def eETy : ETy → Nat | .i t => eITy t | .f t => eFcTy t
def dRm (n : Nat) : Chk Rm :=
  match n with | 0 => .ok .dyn | 1 => .ok .rn | 2 => .ok .rz | 3 => .ok .ru | 4 => .ok .rd | 5 => .ok .rs | _ => .bad 4
def eRm : Rm → Nat | .dyn => 0 | .rn => 1 | .rz => 2 | .ru => 3 | .rd => 4 | .rs => 5

def TyMod.noFx {α : Type} (t : TyMod) (x : Chk α) : Chk α := x.req 1 (t.fxp == 0#6)
def TyMod.noSat {α : Type} (t : TyMod) (x : Chk α) : Chk α := x.req 1 (t.sat == 0#1)
def TyMod.noRm {α : Type} (t : TyMod) (x : Chk α) : Chk α := x.req 4 (t.rm == 0#3)
/-- No modifier at all. -/
def TyMod.bare {α : Type} (t : TyMod) (x : Chk α) : Chk α := t.noRm (t.noSat (t.noFx x))

def b4 (n : Nat) : BitVec 4 := BitVec.ofNat 4 n
def b3 (n : Nat) : BitVec 3 := BitVec.ofNat 3 n
def b6 (n : Nat) : BitVec 6 := BitVec.ofNat 6 n
/-- A TYPE with no modifier. -/
def tmOf (n : Nat) : TyMod := { ty := b4 n, fxp := 0#6, sat := 0#1, rm := 0#3 }

def tmNone (t : TyMod) : Chk Unit := t.bare (if t.ty = 0#4 then .ok () else .bad 4)
def tmI (t : TyMod) : Chk ITy := t.bare (dITy t.ty.toNat)
def tmIx (t : TyMod) : Chk IxTy :=
  t.noRm (t.noSat (if t.ty = 14#4 then .ok (.fx (fin 64 t.fxp.toNat)) else t.noFx ((dITy t.ty.toNat).map .i)))
def eIx : IxTy → TyMod
  | .i t => tmOf (eITy t) | .fx f => { tmOf 14 with fxp := b6 f }
def tmIxS (t : TyMod) : Chk (IxTy × Bool) :=
  (tmIx { t with sat := 0#1 }).map (fun x => (x, bit1 t.sat))
def eIxS (x : IxTy) (s : Bool) : TyMod := { eIx x with sat := ofB s }
def tmF (t : TyMod) : Chk FTy := t.bare (dFTy t.ty.toNat)
def tmFR (t : TyMod) : Chk (FTy × Rm) :=
  t.noSat (t.noFx (((dFTy t.ty.toNat).map (fun x y => (x, y))).ap (dRm t.rm.toNat)))
def eFR (x : FTy) (r : Rm) : TyMod := { tmOf (eFTy x) with rm := b3 (eRm r) }
def tmFc (t : TyMod) : Chk FcTy := t.bare (dFcTy t.ty.toNat)
def tmE (t : TyMod) : Chk ETy := t.bare (dETy t.ty.toNat)
/-- `bext`: i64 or n64 (R118). -/
def tmExt64 (t : TyMod) : Chk Bool := t.bare (if t.ty = 0#4 then .ok true else if t.ty = 4#4 then .ok false else .bad 4)
def eExt64 (s : Bool) : TyMod := tmOf (if s then 0 else 4)
def tmExtS (t : TyMod) : Chk ExtTy :=
  t.bare (match t.ty.toNat with | 1 => .ok .w32 | 2 => .ok .w16 | 3 => .ok .w8 | _ => .bad 4)
def eExtS : ExtTy → TyMod | .w32 => tmOf 1 | .w16 => tmOf 2 | .w8 => tmOf 3
def tmExtN (t : TyMod) : Chk ExtTy :=
  t.bare (match t.ty.toNat with | 5 => .ok .w32 | 6 => .ok .w16 | 7 => .ok .w8 | _ => .bad 4)
def eExtN : ExtTy → TyMod | .w32 => tmOf 5 | .w16 => tmOf 6 | .w8 => tmOf 7

def tmVA (t : TyMod) : Chk VArith :=
  if t.ty.toNat < 8 then t.noRm (t.noFx ((dITy t.ty.toNat).map (fun x => .int x (bit1 t.sat))))
  else if t.ty = 14#4 then t.noRm (.ok (.fx (fin 64 t.fxp.toNat) (bit1 t.sat)))
  else (tmFR t).map (fun p => .fp p.1 p.2)
def eVA : VArith → TyMod
  | .int t s => { tmOf (eITy t) with sat := ofB s }
  | .fx f s => { tmOf 14 with fxp := b6 f, sat := ofB s }
  | .fp t r => eFR t r
def tmVP (t : TyMod) : Chk VPlain :=
  if t.ty.toNat < 8 then (tmI t).map .int
  else if t.ty = 14#4 then t.noRm (t.noSat (.ok (.fx (fin 64 t.fxp.toNat))))
  else (tmF t).map .fp
def eVP : VPlain → TyMod
  | .int t => tmOf (eITy t) | .fx f => { tmOf 14 with fxp := b6 f } | .fp t => tmOf (eFTy t)
def tmVS (t : TyMod) : Chk VSgn :=
  match t.ty.toNat with
  | 0 => t.noRm (t.noFx (.ok (.i64 (bit1 t.sat)))) | 1 => t.noRm (t.noFx (.ok (.i32 (bit1 t.sat))))
  | 2 => t.noRm (t.noFx (.ok (.i16 (bit1 t.sat)))) | 3 => t.noRm (t.noFx (.ok (.i8 (bit1 t.sat))))
  | 14 => t.noRm (.ok (.fx (fin 64 t.fxp.toNat) (bit1 t.sat)))
  | _ => (tmF t).map .fp
def eVSg : VSgn → TyMod
  | .i64 s => { tmOf 0 with sat := ofB s } | .i32 s => { tmOf 1 with sat := ofB s } | .i16 s => { tmOf 2 with sat := ofB s }
  | .i8 s => { tmOf 3 with sat := ofB s } | .fx f s => { tmOf 14 with fxp := b6 f, sat := ofB s } | .fp t => tmOf (eFTy t)

/-- `vpack`'s destination type: 8-, 16- or 32-bit (R200). -/
def tmPk (t : TyMod) : Chk (HTy × Bool) :=
  t.noRm (t.noFx (match t.ty.toNat with
    | 3 => .ok (⟨true, 0⟩, bit1 t.sat) | 2 => .ok (⟨true, 1⟩, bit1 t.sat) | 1 => .ok (⟨true, 2⟩, bit1 t.sat)
    | 7 => .ok (⟨false, 0⟩, bit1 t.sat) | 6 => .ok (⟨false, 1⟩, bit1 t.sat) | 5 => .ok (⟨false, 2⟩, bit1 t.sat)
    | _ => .bad 4))
/-- The TYPE code of an integer type of width 8·2^lv. -/
def eH (h : HTy) : Nat := (if h.signed then 3 else 7) - h.lv
def ePk (h : HTy) (s : Bool) : TyMod := { tmOf (eH h) with sat := ofB s }
/-- `vunpk`'s destination type: 16-, 32- or 64-bit, held as the width it widens from (R200). -/
def tmUn (t : TyMod) : Chk HTy :=
  t.bare (match t.ty.toNat with
    | 2 => .ok ⟨true, 0⟩ | 1 => .ok ⟨true, 1⟩ | 0 => .ok ⟨true, 2⟩
    | 6 => .ok ⟨false, 0⟩ | 5 => .ok ⟨false, 1⟩ | 4 => .ok ⟨false, 2⟩ | _ => .bad 4)
def eUn (h : HTy) : TyMod := tmOf ((if h.signed then 2 else 6) - h.lv)

/-- The source type in C[3:0], with C[6:4] zero (R51). -/
def srcTy (c : BitVec 7) : Nat := c.toNat % 16
def srcZ {α : Type} (c : BitVec 7) (x : Chk α) : Chk α := x.req 1 (decide (c.toNat < 16))
def c7 (n : Nat) : BitVec 7 := BitVec.ofNat 7 n

def tmFcvt (t : TyMod) (c : BitVec 7) : Chk (FcTy × FcTy × Rm) :=
  srcZ c (t.noSat (t.noFx ((((dFcTy t.ty.toNat).map (fun x y z => (x, y, z))).ap (dFcTy (srcTy c))).ap (dRm t.rm.toNat))))
def eFcvt (d : FcTy) (r : Rm) : TyMod := { tmOf (eFcTy d) with rm := b3 (eRm r) }
def tmFcvti (t : TyMod) (c : BitVec 7) : Chk (ITy × FcTy) :=
  srcZ c (t.bare (((dITy t.ty.toNat).map (fun x y => (x, y))).ap (dFcTy (srcTy c))))
def tmIcvtf (t : TyMod) (c : BitVec 7) : Chk (FcTy × ITy × Rm) :=
  srcZ c (t.noSat (t.noFx ((((dFcTy t.ty.toNat).map (fun x y z => (x, y, z))).ap (dITy (srcTy c))).ap (dRm t.rm.toNat))))

def tmFxcvt (t : TyMod) (c : BitVec 7) : Chk FxCvt :=
  srcZ c (
    if t.ty = 14#4 then
      if srcTy c < 8 then t.noRm ((dITy (srcTy c)).map (fun s => .ofInt (fin 64 t.fxp.toNat) s (bit1 t.sat)))
      else t.noRm (t.noSat ((dFTy (srcTy c)).map (fun s => .ofFp (fin 64 t.fxp.toNat) s)))
    else if srcTy c = 14 then
      if t.ty.toNat < 8 then t.noRm ((dITy t.ty.toNat).map (fun d => .toInt d (fin 64 t.fxp.toNat) (bit1 t.sat)))
      else t.noSat (((dFTy t.ty.toNat).map (fun d r => .toFp d (fin 64 t.fxp.toNat) r)).ap (dRm t.rm.toNat))
    else (.bad 4 : Chk FxCvt).req 1 (t.sat == 0#1 && t.fxp == 0#6))
def eFxcvt : FxCvt → TyMod × BitVec 7
  | .ofFp f s => ({ tmOf 14 with fxp := b6 f }, c7 (eFTy s))
  | .ofInt f s st => ({ tmOf 14 with fxp := b6 f, sat := ofB st }, c7 (eITy s))
  | .toFp d f r => ({ tmOf (eFTy d) with fxp := b6 f, rm := b3 (eRm r) }, c7 14)
  | .toInt d f st => ({ tmOf (eITy d) with fxp := b6 f, sat := ofB st }, c7 14)

def tmVcvt (t : TyMod) (c : BitVec 7) : Chk VCvt :=
  let s := srcTy c
  let d := t.ty.toNat
  srcZ c (
    if d = s then (.bad 4 : Chk VCvt).req 1 (t.sat == 0#1 && (d == 14 || t.fxp == 0#6))
    else if d = 14 then
      if s < 8 then ((dITy s).map (fun x r => .ifx (fin 64 t.fxp.toNat) x (bit1 t.sat) r)).ap (dRm t.rm.toNat)
      else t.noSat (((dFcTy s).map (fun x r => .ffx (fin 64 t.fxp.toNat) x r)).ap (dRm t.rm.toNat))
    else if s = 14 then
      if d < 8 then t.noSat (((dITy d).map (fun x r => .fxi x (fin 64 t.fxp.toNat) r)).ap (dRm t.rm.toNat))
      else t.noSat (((dFcTy d).map (fun x r => .fxf x (fin 64 t.fxp.toNat) r)).ap (dRm t.rm.toNat))
    else if d < 8 then
      if s < 8 then (.bad 4 : Chk VCvt).req 1 (t.sat == 0#1 && t.fxp == 0#6)
      else t.noSat (t.noFx ((((dITy d).map (fun x y r => .fi x y r)).ap (dFcTy s)).ap (dRm t.rm.toNat)))
    else if s < 8 then t.noSat (t.noFx ((((dFcTy d).map (fun x y r => .itof x y r)).ap (dITy s)).ap (dRm t.rm.toNat)))
    else t.noSat (t.noFx ((((dFcTy d).map (fun x y r => .ff x y r)).ap (dFcTy s)).ap (dRm t.rm.toNat))))
def eVcvt : VCvt → TyMod × BitVec 7
  | .ff d s r => ({ tmOf (eFcTy d) with rm := b3 (eRm r) }, c7 (eFcTy s))
  | .fi d s r => ({ tmOf (eITy d) with rm := b3 (eRm r) }, c7 (eFcTy s))
  | .ffx f s r => ({ tmOf 14 with fxp := b6 f, rm := b3 (eRm r) }, c7 (eFcTy s))
  | .itof d s r => ({ tmOf (eFcTy d) with rm := b3 (eRm r) }, c7 (eITy s))
  | .fxf d f r => ({ tmOf (eFcTy d) with fxp := b6 f, rm := b3 (eRm r) }, c7 14)
  | .ifx f s st r => ({ tmOf 14 with fxp := b6 f, sat := ofB st, rm := b3 (eRm r) }, c7 (eITy s))
  | .fxi d f r => ({ tmOf (eITy d) with fxp := b6 f, rm := b3 (eRm r) }, c7 14)

def dMxF (n : Nat) : Chk MxF :=
  match n with | 0 => .ok .fp8 | 1 => .ok .fp8w | 2 => .ok .fp6 | 3 => .ok .fp6p | 4 => .ok .fp4 | _ => .bad 4
def eMxF : MxF → Nat | .fp8 => 0 | .fp8w => 1 | .fp6 => 2 | .fp6p => 3 | .fp4 => 4
def dMxT (n : Nat) : Chk MxT := match n with | 9 => .ok .f32 | 10 => .ok .f16 | 11 => .ok .bf16 | _ => .bad 4
def eMxT : MxT → Nat | .f32 => 9 | .f16 => 10 | .bf16 => 11
/-- TYPE 0xf with MXF in FXP[2:0], FXP[5:3] zero (R52). -/
def tmMx (t : TyMod) (c : BitVec 7) : Chk (MxF × MxT × Rm) :=
  srcZ c (t.noSat (((((dMxF (t.fxp.toNat % 8)).map (fun x y z => (x, y, z))).ap (dMxT (srcTy c))).ap (dRm t.rm.toNat)).req 4 (t.ty == 15#4)
    |>.req 1 (decide (t.fxp.toNat < 8) && (t.ty == 15#4 || t.fxp == 0#6))))
def eMx (m : MxF) (r : Rm) : TyMod := { tmOf 15 with fxp := b6 (eMxF m), rm := b3 (eRm r) }

/-- `acvt`'s types (R227, R228). -/
def tmAcvt (t : TyMod) (c : BitVec 7) : Chk ACvt :=
  let h (x : Chk HTy) : Chk HTy := x
  let ity : Chk HTy := match t.ty.toNat with
    | 3 => .ok ⟨true, 0⟩ | 2 => .ok ⟨true, 1⟩ | 1 => .ok ⟨true, 2⟩ | 7 => .ok ⟨false, 0⟩ | 6 => .ok ⟨false, 1⟩
    | 5 => .ok ⟨false, 2⟩ | _ => .bad 4
  srcZ c (t.noFx (
    if srcTy c = 1 then
      if t.ty.toNat < 8 then
        t.noRm (((h ity).map (fun d => .ii d (bit1 t.sat))).req 4 (t.ty != 1#4)
          |>.req 1 (bit1 t.sat == false || (t.ty != 1#4 && t.ty != 5#4)))
      else t.noSat (((dFcTy t.ty.toNat).map (fun d r => .itof d r)).ap (dRm t.rm.toNat))
    else if srcTy c = 9 ∨ srcTy c = 8 then
      if t.ty.toNat < 8 then t.noSat ((ity.map (fun d r => .fi d (srcTy c == 8) r)).ap (dRm t.rm.toNat))
      else t.noSat (((dFcTy t.ty.toNat).map (fun d r => .ff d (srcTy c == 8) r)).ap (dRm t.rm.toNat)
        |>.req 4 (t.ty.toNat != srcTy c))
    else (.bad 4 : Chk ACvt).req 1 (t.sat == 0#1 || decide (t.ty.toNat < 8))))
def eAcvt : ACvt → TyMod × BitVec 7
  | .ff d s r => ({ tmOf (eFcTy d) with rm := b3 (eRm r) }, c7 (if s then 8 else 9))
  | .fi d s r => ({ tmOf (eH d) with rm := b3 (eRm r) }, c7 (if s then 8 else 9))
  | .itof d r => ({ tmOf (eFcTy d) with rm := b3 (eRm r) }, c7 1)
  | .ii d st => ({ tmOf (eH d) with sat := ofB st }, c7 1)

def tmAA (t : TyMod) : Chk AArith :=
  t.noFx (match t.ty.toNat with
    | 9 => t.noSat ((dRm t.rm.toNat).map .f32) | 8 => t.noSat ((dRm t.rm.toNat).map .f64)
    | 1 => t.noRm (.ok (.i32 (bit1 t.sat))) | _ => .bad 4)
def eAA : AArith → TyMod
  | .f32 r => { tmOf 9 with rm := b3 (eRm r) } | .f64 r => { tmOf 8 with rm := b3 (eRm r) } | .i32 s => { tmOf 1 with sat := ofB s }
def tmAV (t : TyMod) : Chk AView :=
  t.bare (match t.ty.toNat with
    | 1 => .ok .i32 | 5 => .ok .n32 | 9 => .ok .f32 | 0 => .ok .i64 | 4 => .ok .n64 | 8 => .ok .f64 | _ => .bad 4)
def eAV : AView → TyMod
  | .i32 => tmOf 1 | .n32 => tmOf 5 | .f32 => tmOf 9 | .i64 => tmOf 0 | .n64 => tmOf 4 | .f64 => tmOf 8

def dCc (n : Nat) : Chk Cc :=
  match n with | 0 => .ok .eq | 1 => .ok .ne | 2 => .ok .lt | 3 => .ok .le | 4 => .ok .gt | 5 => .ok .ge | _ => .bad 3
def eCc : Cc → Nat | .eq => 0 | .ne => 1 | .lt => 2 | .le => 3 | .gt => 4 | .ge => 5
def dFcc (n : Nat) : Chk Fcc := if n = 6 then .ok .un else (dCc n).map .c
def eFcc : Fcc → Nat | .c c => eCc c | .un => 6
/-- `vcmp`: `un` with an integer or fx64 TYPE is refused with code 0x04 (R194). -/
def tmVCmp (t : TyMod) (mn : BitVec 8) : Chk VCmp :=
  let cc : Chk Cc := if mn = 6#8 then .bad 4 else dCc mn.toNat
  if t.ty.toNat < 8 then ((tmI t).map (fun x y => .int x y)).ap cc
  else if t.ty = 14#4 then t.noRm (t.noSat (cc.map (fun c => .fx (fin 64 t.fxp.toNat) c)))
  else ((tmF t).map (fun x y => .fp x y)).ap (dFcc mn.toNat)
def eVCmp : VCmp → TyMod × Nat
  | .int t c => (tmOf (eITy t), eCc c) | .fx f c => ({ tmOf 14 with fxp := b6 f }, eCc c) | .fp t c => (tmOf (eFTy t), eFcc c)
def dFma (n : Nat) : Chk FmaOp :=
  match n with | 0 => .ok .fma | 1 => .ok .fms | 2 => .ok .fnma | 3 => .ok .fnms | _ => .bad 3
def eFma : FmaOp → Nat | .fma => 0 | .fms => 1 | .fnma => 2 | .fnms => 3

/-! ## Masks (R52, R186) -/

/-- No mask: ME, MZ and KIDX zero, and bit [10] reserved. -/
def FMod.noMask {α : Type} (m : FMod) (x : Chk α) : Chk α :=
  x.req 1 (m.me == 0#1 && m.mz == 0#1 && m.kidx == 0#3 && m.r == 0#1)
def FMod.mask (m : FMod) : Chk Msk :=
  ((if m.me = 1#1 then
      (if m.mz = 1#1 then .ok (.zero (fin 8 m.kidx.toNat)) else .ok (.keep (fin 8 m.kidx.toNat)))
    else if m.mz = 1#1 then .bad 4 else .ok .all : Chk Msk).req 1 (bit1 m.me || m.kidx == 0#3)).req 1 (m.r == 0#1)
def mkMod (t : TyMod) (m : Msk) : FMod :=
  match m with
  | .all => { kidx := 0#3, me := 0#1, mz := 0#1, r := 0#1, sat := t.sat, fxp := t.fxp, rm := t.rm }
  | .keep k => { kidx := b3 k, me := 1#1, mz := 0#1, r := 0#1, sat := t.sat, fxp := t.fxp, rm := t.rm }
  | .zero k => { kidx := b3 k, me := 1#1, mz := 1#1, r := 0#1, sat := t.sat, fxp := t.fxp, rm := t.rm }
/-- ME = 1, MZ = 0 needs a register destination (R186). -/
def keepReg {α : Type} (m : FMod) (d : BitVec 7) (x : Chk α) : Chk α :=
  x.req 7 (!(m.me == 1#1 && m.mz == 0#1 && cls d == 2))

/-! ## Fields of MOD outside R52, and format-specific operands -/

def zA : FA := { mn := 0#8, d := 0#7, a := 0#7, b := 0#7, c := 0#7, ty := 0#4, md := 0#16 }
def m16 (n : Nat) : BitVec 16 := BitVec.ofNat 16 n
def encA (maj : BitVec 8) (f : FA) : Word := f.toWord maj
def encI (maj : BitVec 8) (f : FI) : Word := f.toWord maj
def encM (maj : BitVec 8) (f : FM) : Word := f.toWord maj
def encL (maj : BitVec 8) (f : FL) : Word := f.toWord maj
def encXm (maj : BitVec 8) (f : FXm) : Word := f.toWord maj
def encXa (maj : BitVec 8) (f : FXa) : Word := f.toWord maj
def encXc (maj : BitVec 8) (f : FXc) : Word := f.toWord maj

/-- The special functions take TYPE f32 and no modifier (R209). -/
def tmSF (t : TyMod) : Chk Unit := t.bare (if t.ty = 9#4 then .ok () else .bad 4)
/-- `aput` allows ME with MZ = 0 only (R227). -/
def FMod.keepOnly (m : FMod) : Chk (Option KReg) :=
  (((.ok (if m.me = 1#1 then some (fin 8 m.kidx.toNat) else none) : Chk (Option KReg)).req 1 (m.mz == 0#1)).req 1
    (bit1 m.me || m.kidx == 0#3)).req 1 (m.r == 0#1)
def keepMsk (k : Option KReg) : Msk := match k with | none => .all | some k => .keep k
/-- The width of a conversion's TYPE code, as the exponent of its element size; 3 for one that is refused anyway. -/
def tyLv (n : Nat) : Nat :=
  match n with | 1 | 5 | 9 => 2 | 2 | 6 | 10 | 11 => 1 | 3 | 7 | 12 | 13 => 0 | _ => 3
/-- `vcvt`: B is an operand only where the source is the narrower, and is zero elsewhere (R206). -/
def dVcvtB (f : FA) : Chk SSrc :=
  if tyLv (srcTy f.c) < tyLv f.ty.toNat then dSS f.b else (.ok (.reg 0) : Chk SSrc).req 1 (f.b == 0#7)

/-- WID, and the operand roles of R135. -/
def XDst.wid : XDst → BitVec 2 | .s _ => 0#2 | .pair _ => 1#2 | .k _ => 2#2 | .v _ => 3#2
def XSrc.wid : XSrc → BitVec 2 | .s _ => 0#2 | .pair _ => 1#2 | .k _ => 2#2 | .v _ => 3#2
def dXD (w : BitVec 2) (x : BitVec 7) : Chk XDst :=
  match w.toNat with
  | 0 => (dSD x).map .s | 1 => (dPD x).map .pair | 2 => (dKD x).map .k | _ => (dVD x).map .v
def eXD : XDst → BitVec 7 | .s d => eSD d | .pair d => ePD d | .k d => eKD d | .v d => eVD d
def dXS (w : BitVec 2) (x : BitVec 7) : Chk XSrc :=
  match w.toNat with
  | 0 => (dSS x).map .s | 1 => (dPS x).map .pair | 2 => (dKS x).map .k | _ => (dVS x).map .v
def eXS : XSrc → BitVec 7 | .s d => eSS d | .pair d => ePS d | .k d => eKS d | .v d => eVS d
def eWid (w : BitVec 2) : BitVec 16 := 0#14 ++ w
/-- B, TAGI and TS of a tag. -/
def eTag : TagSrc → BitVec 7 × BitVec 8 × Bool
  | .imm t => (0#7, t, false) | .reg b => (eSS b, 0#8, true)
def eSend (w : BitVec 2) (t : BitVec 7 × BitVec 8 × Bool) : BitVec 16 := t.2.1 ++ (0#5 ++ (ofB t.2.2 ++ w))
def eNb (w : BitVec 2) (dir : Fin 4) (t : BitVec 7 × BitVec 8 × Bool) : BitVec 16 :=
  t.2.1 ++ (0#3 ++ (BitVec.ofNat 2 dir ++ (ofB t.2.2 ++ w)))
/-- The tag of a send: B must be zero with TS = 0 and TAGI with TS = 1 (R134). -/
def dTag (f : FA) : Chk TagSrc :=
  if fld f.md 2 1 = 1#1 then ((dSS f.b).map .reg).req 1 (fld f.md 8 8 == 0#8)
  else (.ok (.imm (fld f.md 8 8)) : Chk TagSrc).req 1 (f.b == 0#7)

def eWTy : WTy → BitVec 4 | .i64 => 0#4 | .i32 => 1#4 | .n64 => 4#4 | .n32 => 5#4
def dWTy (x : BitVec 4) : Chk WTy :=
  match x.toNat with | 0 => .ok .i64 | 1 => .ok .i32 | 4 => .ok .n64 | 5 => .ok .n32 | _ => .bad 4
def dScope (x : BitVec 3) : Chk Scope :=
  match x.toNat with
  | 0 => .ok .ctx | 1 => .ok .tile | 2 => .ok .clus | 3 => .ok .die | 4 => .ok .pkg | 5 => .ok .pod | _ => .bad 4
def eScope : Scope → BitVec 3 | .ctx => 0#3 | .tile => 1#3 | .clus => 2#3 | .die => 3#3 | .pkg => 4#3 | .pod => 5#3
def dOrd (x : BitVec 2) : Chk Ordr := match x.toNat with | 0 => .ok .none | 1 => .ok .acq | 2 => .ok .rel | _ => .ok .ar
def eOrd : Ordr → BitVec 2 | .none => 0#2 | .acq => 1#2 | .rel => 2#2 | .ar => 3#2
def dWSp (x : BitVec 2) : Chk WSpace := match x.toNat with | 0 => .ok .glb | 1 => .ok .csp | 2 => .ok .tcm | _ => .bad 4
def eWSp : WSpace → BitVec 2 | .glb => 0#2 | .csp => 1#2 | .tcm => 2#2
def dWCc (x : BitVec 3) : Chk Cc :=
  match x.toNat with | 0 => .ok .eq | 1 => .ok .ne | 2 => .ok .lt | 3 => .ok .le | 4 => .ok .gt | 5 => .ok .ge | _ => .bad 4
/-- C and MOD of a watch (R148). -/
def eWatch (w : WatchF) : BitVec 7 × BitVec 16 :=
  (match w.dst with | none => 0#7 | some r => eSR r,
   0#7 ++ (ofB w.dst.isSome ++ (eScope w.scope ++ (eWSp w.space ++ b3 (eCc w.cc)))))
def dWatch (f : FA) : Chk WatchF :=
  let dst : Chk (Option SReg) :=
    if fld f.md 8 1 = 1#1 then (dSR f.c).map some else (.ok none : Chk (Option SReg)).req 1 (f.c == 0#7)
  ((((((dWCc (fld f.md 0 3)).map WatchF.mk).ap (dWTy f.ty)).ap (dWSp (fld f.md 3 2))).ap (dScope (fld f.md 5 3))).ap dst
    |>.req 1 (fld f.md 9 7 == 0#7)
    |>.req 4 (let sp := (fld f.md 3 2).toNat; let sc := (fld f.md 5 3).toNat
              if sp = 0 then decide (1 ≤ sc) else if sp = 1 then decide (sc ≤ 2) else decide (sc ≤ 1)))

/-- Format M with its address, scope and ordering. -/
def eM (m : MAddr) (d di : BitVec 7) : FM :=
  { mn := 0#8, d := d, base := eSR m.base, di := di, scope := eScope m.scope, ord := eOrd m.ord, off := m.off }
def dMAddr (f : FM) : Chk MAddr :=
  ((((dSR f.base).map MAddr.mk).ap (.ok f.off)).ap (dScope f.scope)).ap (dOrd f.ord)
/-- Which scopes and orderings a format-M instruction accepts: `top` is the widest scope, `a` and `r` say whether acquire
and release orders are accepted (R237, R277, R362). -/
def mOk {α : Type} (f : FM) (top : Nat) (a r : Bool) (x : Chk α) : Chk α :=
  x.req 4 (decide (f.scope.toNat ≤ top) && (a || !(fld f.ord 0 1 == 1#1)) && (r || !(fld f.ord 1 1 == 1#1)))
def eSz : Sz → Nat | .n8 => 0 | .n16 => 1 | .n32 => 2 | .i64 => 3 | .i8 => 4 | .i16 => 5 | .i32 => 6
/-- SZ in DATA/INDEX [2:0] and the destination of a load (R237). -/
def dLd (f : FM) : Chk LdDst :=
  (match (fld f.di 0 3).toNat with
    | 0 => (dSD f.d).map (LdDst.w .n8) | 1 => (dSD f.d).map (LdDst.w .n16) | 2 => (dSD f.d).map (LdDst.w .n32) | 3 => (dSD f.d).map (LdDst.w .i64)
    | 4 => (dSD f.d).map (LdDst.w .i8) | 5 => (dSD f.d).map (LdDst.w .i16) | 6 => (dSD f.d).map (LdDst.w .i32) | _ => (dPD f.d).map LdDst.p)
  |>.req 1 (fld f.di 3 4 == 0#4)
def eLd (m : MAddr) (d : LdDst) : FM :=
  match d with
  | .w z d => eM m (eSD d) (c7 (eSz z))
  | .p d => eM m (ePD d) (c7 7)
def eStSz : StSz → Nat | .n8 => 0 | .n16 => 1 | .n32 => 2 | .i64 => 3
def dSt (f : FM) : Chk StSrc :=
  (match (fld f.d 0 3).toNat with
    | 0 => (dSS f.di).map (StSrc.w .n8) | 1 => (dSS f.di).map (StSrc.w .n16) | 2 => (dSS f.di).map (StSrc.w .n32) | 3 => (dSS f.di).map (StSrc.w .i64)
    | 7 => (dPS f.di).map StSrc.p | _ => .bad 4)
  |>.req 1 (fld f.d 3 4 == 0#4)
def eSt (m : MAddr) (a : StSrc) : FM :=
  match a with
  | .w z a => eM m (c7 (eStSz z)) (eSS a)
  | .p a => eM m (c7 7) (ePS a)
def eRmw : RmwOp → Nat
  | .add => 0 | .fxadd => 1 | .min => 2 | .max => 3 | .and => 4 | .or => 5 | .xor => 6 | .swap => 7
def dRmw (n : Nat) : Chk RmwOp :=
  match n with
  | 0 => .ok .add | 1 => .ok .fxadd | 2 => .ok .min | 3 => .ok .max | 4 => .ok .and | 5 => .ok .or | 6 => .ok .xor | 7 => .ok .swap
  | _ => .bad 3
def dLAt (f : FM) : Chk LAtomic :=
  match f.mn.toNat with
  | 8 => (dPS f.di).map .cas
  | 9 => (dSS f.di).map .binc
  | n => ((dRmw n).map LAtomic.rmw).ap (dSS f.di)
def eLAt : LAtomic → BitVec 8 × BitVec 7
  | .rmw o a => (BitVec.ofNat 8 (eRmw o), eSS a) | .cas a => (8#8, ePS a) | .binc a => (9#8, eSS a)

def eBuf (n : Fin 8) (form : BitVec 1) : BitVec 16 := 0#12 ++ (form ++ b3 n)
def eBS : BSrc → BitVec 7 × BitVec 1 | .tcm a => (eSS a, 0#1) | .vec a => (eVS a, 1#1)
def dBS (f : FA) : Chk BSrc := if fld f.md 3 1 = 1#1 then (dVS f.a).map .vec else (dSS f.a).map .tcm
def eBD : BDst → BitVec 7 × BitVec 7 × BitVec 1 | .tcm d a => (eP d, eSS a, 0#1) | .vec d => (eVD d, 0#7, 1#1)
def dBD (f : FA) : Chk BDst :=
  if fld f.md 3 1 = 1#1 then ((dVD f.d).map .vec).req 1 (f.a == 0#7) else ((dP f.d).map BDst.tcm).ap (dSS f.a)
def eComb : CombOp → Nat | .fxadd => 0 | .add => 1 | .min => 2 | .max => 3 | .fadd => 4
def dComb (n : Nat) : Chk CombOp :=
  match n with | 0 => .ok .fxadd | 1 => .ok .add | 2 => .ok .min | 3 => .ok .max | 4 => .ok .fadd | _ => .bad 3
def eIx0 : IxTy0 → Nat | .i t => eITy t | .fx => 14
def dIx0 (n : Nat) : Chk IxTy0 := if n = 14 then .ok .fx else (dITy n).map .i

def eMmFmt : MmFmt → Nat
  | .f64 => 0 | .f32 => 1 | .f16 => 2 | .bf16 => 3 | .e4m3 => 4 | .e5m2 => 5 | .i8 => 6 | .n8 => 7 | .mx m => 16 + eMxF m
def dMmFmt (n : Nat) : Chk MmFmt :=
  match n with
  | 0 => .ok .f64 | 1 => .ok .f32 | 2 => .ok .f16 | 3 => .ok .bf16 | 4 => .ok .e4m3 | 5 => .ok .e5m2 | 6 => .ok .i8 | 7 => .ok .n8
  | 16 => .ok (.mx .fp8) | 17 => .ok (.mx .fp8w) | 18 => .ok (.mx .fp6) | 19 => .ok (.mx .fp6p) | 20 => .ok (.mx .fp4)
  | _ => .bad 3
def n2 (n : Fin 4) : BitVec 2 := BitVec.ofNat 2 n
def n5 (n : Fin 32) : BitVec 5 := BitVec.ofNat 5 n
def eMma (f : MmaF) (sm : BitVec 5) (msp : BitVec 1) (r : BitVec 2) : FXm :=
  { mn := BitVec.ofNat 8 (eMmFmt f.fmt), acc := n2 f.blk.acc, mt := n2 f.blk.mt, nt := n2 f.blk.nt, ro := n2 f.blk.ro,
    co := n2 f.blk.co, kt := BitVec.ofNat 6 f.kt, sa := n5 f.sa, sb := n5 f.sb, asp := ofB f.asp, bsp := ofB f.bsp,
    rm := b3 (eRm f.rm), za := ofB f.za, wt := b4 f.wt, pt := b4 f.pt, sm := sm, msp := msp, r := r }
def dBlk (acc mt nt ro co : BitVec 2) : Blk :=
  { acc := fin 4 acc.toNat, mt := fin 4 mt.toNat, nt := fin 4 nt.toNat, ro := fin 4 ro.toNat, co := fin 4 co.toNat }
/-- The checks of R217 that the matrix majors share. -/
def dMma (f : FXm) : Chk MmaF :=
  (((dMmFmt f.mn.toNat).map (fun fmt rm =>
    { fmt := fmt, blk := dBlk f.acc f.mt f.nt f.ro f.co, kt := fin 64 f.kt.toNat, sa := fin 32 f.sa.toNat,
      sb := fin 32 f.sb.toNat, asp := bit1 f.asp, bsp := bit1 f.bsp, rm := rm, za := bit1 f.za,
      wt := fin 16 f.wt.toNat, pt := fin 16 f.pt.toNat : MmaF})).ap (dRm f.rm.toNat))
    |>.req 1 (f.r == 0#2)
    |>.req 4 ((dBlk f.acc f.mt f.nt f.ro f.co).ok (f.mn == 0#8))
    |>.req 4 (f.rm == 0#3 || decide (f.mn.toNat < 2))
def eAccMem (f : AccMemF) : FXa :=
  { mn := 0#8, acc := n2 f.blk.acc, mt := n2 f.blk.mt, nt := n2 f.blk.nt, ro := n2 f.blk.ro, co := n2 f.blk.co,
    ew := ofB f.ew, r0 := 0#5, sa := n5 f.sa, r1 := 0#5, asp := ofB f.asp, r2 := 0#5, wt := b4 f.wt, pt := b4 f.pt, r3 := 0#8 }
def dAccMem (f : FXa) : Chk AccMemF :=
  (.ok { blk := dBlk f.acc f.mt f.nt f.ro f.co, ew := bit1 f.ew, sa := fin 32 f.sa.toNat, asp := bit1 f.asp,
         wt := fin 16 f.wt.toNat, pt := fin 16 f.pt.toNat } : Chk AccMemF)
    |>.req 3 (f.mn == 0#8)
    |>.req 1 (f.r0 == 0#5 && f.r1 == 0#5 && f.r2 == 0#5 && f.r3 == 0#8)
    |>.req 4 ((dBlk f.acc f.mt f.nt f.ro f.co).ok (bit1 f.ew))
def eDSp : DSpace → BitVec 2 | .tcm => 0#2 | .csp => 1#2 | .glb => 2#2 | .win => 3#2
def dDSp (x : BitVec 2) : Chk DSpace := match x.toNat with | 0 => .ok .tcm | 1 => .ok .csp | 2 => .ok .glb | _ => .ok .win
def eSSp : SSpace → BitVec 2 | .tcm => 0#2 | .csp => 1#2 | .glb => 2#2
def dSSp (x : BitVec 2) : Chk SSpace := match x.toNat with | 0 => .ok .tcm | 1 => .ok .csp | 2 => .ok .glb | _ => .bad 4
def eCpy (f : CpyF) : FXc :=
  { mn := 0#8, dsp := eDSp f.dsp, ssp := eSSp f.ssp, sd := n5 f.sd, ss := n5 f.ss, sl := n5 f.sl, label := f.label,
    r0 := 0#6, wt := b4 f.wt, pt := b4 f.pt, r1 := 0#8 }
def dCpy (f : FXc) : Chk CpyF :=
  (((dDSp f.dsp).map (fun d s =>
    { dsp := d, ssp := s, sd := fin 32 f.sd.toNat, ss := fin 32 f.ss.toNat, sl := fin 32 f.sl.toNat, label := f.label,
      wt := fin 16 f.wt.toNat, pt := fin 16 f.pt.toNat : CpyF})).ap (dSSp f.ssp))
    |>.req 3 (f.mn == 0#8)
    |>.req 1 (f.r0 == 0#6 && f.r1 == 0#8 && (f.dsp == 3#2 || f.label == 0#7))

/-! ## The decoder of operations -/

/-- Scalar majors (05_scalar_instructions.md). -/
def decScalar (maj : Nat) (f : FA) : Chk Instr :=
  let m := FMod.ofWord f.md
  match maj with
  | 0x01 => (m.noMask (((((((tmIxS (m.tm f.ty)).map (fun p => Instr.add p.1 p.2))).ap (dSD f.d)).ap (dSS f.a)).ap (dSS f.b)).req 1 (f.c == 0#7))).req 3 (f.mn == 0#8)
  | 0x02 => (m.noMask (((((((tmIxS (m.tm f.ty)).map (fun p => Instr.sub p.1 p.2))).ap (dSD f.d)).ap (dSS f.a)).ap (dSS f.b)).req 1 (f.c == 0#7))).req 3 (f.mn == 0#8)
  | 0x03 => (m.noMask (((((((tmIxS (m.tm f.ty)).map (fun p => Instr.mul p.1 p.2))).ap (dSD f.d)).ap (dSS f.a)).ap (dSS f.b)).req 1 (f.c == 0#7))).req 3 (f.mn == 0#8)
  | 0x04 => (m.noMask (((((((tmI (m.tm f.ty)).map Instr.mulh)).ap (dSD f.d)).ap (dSS f.a)).ap (dSS f.b)).req 1 (f.c == 0#7))).req 3 (f.mn == 0#8)
  | 0x05 => (m.noMask (((((((tmIxS (m.tm f.ty)).map (fun p => Instr.div p.1 p.2))).ap (dSD f.d)).ap (dSS f.a)).ap (dSS f.b)).req 1 (f.c == 0#7))).req 3 (f.mn == 0#8)
  | 0x06 => (m.noMask (((((((tmI (m.tm f.ty)).map Instr.rem)).ap (dSD f.d)).ap (dSS f.a)).ap (dSS f.b)).req 1 (f.c == 0#7))).req 3 (f.mn == 0#8)
  | 0x07 => (m.noMask (((((((tmIx (m.tm f.ty)).map Instr.min)).ap (dSD f.d)).ap (dSS f.a)).ap (dSS f.b)).req 1 (f.c == 0#7))).req 3 (f.mn == 0#8)
  | 0x08 => (m.noMask (((((((tmIx (m.tm f.ty)).map Instr.max)).ap (dSD f.d)).ap (dSS f.a)).ap (dSS f.b)).req 1 (f.c == 0#7))).req 3 (f.mn == 0#8)
  | 0x09 => (m.noMask (((((((tmI (m.tm f.ty)).map Instr.and)).ap (dSD f.d)).ap (dSS f.a)).ap (dSS f.b)).req 1 (f.c == 0#7))).req 3 (f.mn == 0#8)
  | 0x0a => (m.noMask (((((((tmI (m.tm f.ty)).map Instr.or)).ap (dSD f.d)).ap (dSS f.a)).ap (dSS f.b)).req 1 (f.c == 0#7))).req 3 (f.mn == 0#8)
  | 0x0b => (m.noMask (((((((tmI (m.tm f.ty)).map Instr.xor)).ap (dSD f.d)).ap (dSS f.a)).ap (dSS f.b)).req 1 (f.c == 0#7))).req 3 (f.mn == 0#8)
  | 0x0c => (m.noMask (((((((tmI (m.tm f.ty)).map Instr.andn)).ap (dSD f.d)).ap (dSS f.a)).ap (dSS f.b)).req 1 (f.c == 0#7))).req 3 (f.mn == 0#8)
  | 0x0d => (m.noMask (((((((tmI (m.tm f.ty)).map Instr.shl)).ap (dSD f.d)).ap (dSS f.a)).ap (dSS f.b)).req 1 (f.c == 0#7))).req 3 (f.mn == 0#8)
  | 0x0e => (m.noMask (((((((tmI (m.tm f.ty)).map Instr.shr)).ap (dSD f.d)).ap (dSS f.a)).ap (dSS f.b)).req 1 (f.c == 0#7))).req 3 (f.mn == 0#8)
  | 0x0f => (m.noMask (((((((tmI (m.tm f.ty)).map Instr.sra)).ap (dSD f.d)).ap (dSS f.a)).ap (dSS f.b)).req 1 (f.c == 0#7))).req 3 (f.mn == 0#8)
  | 0x10 => match f.mn.toNat with
    | 0 => m.noMask (((((((tmI (m.tm f.ty)).map Instr.rol)).ap (dSD f.d)).ap (dSS f.a)).ap (dSS f.b)).req 1 (f.c == 0#7))
    | 1 => m.noMask (((((((tmI (m.tm f.ty)).map Instr.ror)).ap (dSD f.d)).ap (dSS f.a)).ap (dSS f.b)).req 1 (f.c == 0#7))
    | _ => .bad 3
  | 0x11 => (m.noMask ((((((tmI (m.tm f.ty)).map Instr.clz)).ap (dSD f.d)).ap (dSS f.a)).req 1 (f.b == 0#7 && f.c == 0#7))).req 3 (f.mn == 0#8)
  | 0x12 => (m.noMask ((((((tmI (m.tm f.ty)).map Instr.ctz)).ap (dSD f.d)).ap (dSS f.a)).req 1 (f.b == 0#7 && f.c == 0#7))).req 3 (f.mn == 0#8)
  | 0x13 => (m.noMask ((((((tmI (m.tm f.ty)).map Instr.popc)).ap (dSD f.d)).ap (dSS f.a)).req 1 (f.b == 0#7 && f.c == 0#7))).req 3 (f.mn == 0#8)
  | 0x14 => (m.noMask (((((((tmExt64 (m.tm f.ty)).map Instr.bext)).ap (dSD f.d)).ap (dSS f.a)).ap (dSS f.b)).ap (dSS f.c))).req 3 (f.mn == 0#8)
  | 0x15 => (m.noMask (((((((tmNone (m.tm f.ty)).map (fun _ => Instr.bins))).ap (dSR f.d)).ap (dSS f.a)).ap (dSS f.b)).ap (dSS f.c))).req 3 (f.mn == 0#8)
  | 0x16 => (m.noMask (((((((tmNone (m.tm f.ty)).map (fun _ => Instr.sel))).ap (dSD f.d)).ap (dSS f.a)).ap (dSS f.b)).ap (dP f.c))).req 3 (f.mn == 0#8)
  | 0x17 => m.noMask ((((((dCc f.mn.toNat).map Instr.cmp).ap (tmIx (m.tm f.ty))).ap (dP f.d)).ap (dSS f.a)).ap (dSS f.b) |>.req 1 (f.c == 0#7))
  | 0x1d => (m.noMask (((((tmNone (m.tm f.ty)).map (fun _ => Instr.lea)).ap (dSD f.d)).ap (dSS f.a)).ap (dSS f.b) |>.ap (.ok (fin 8 f.c.toNat)) |>.req 1 (decide (f.c.toNat < 8)))).req 3 (f.mn == 0#8)
  | 0x1e => match f.mn.toNat with
    | 0 => m.noMask ((((((tmExtS (m.tm f.ty)).map Instr.sext)).ap (dSD f.d)).ap (dSS f.a)).req 1 (f.b == 0#7 && f.c == 0#7))
    | 1 => m.noMask ((((((tmExtN (m.tm f.ty)).map Instr.zext)).ap (dSD f.d)).ap (dSS f.a)).req 1 (f.b == 0#7 && f.c == 0#7))
    | _ => .bad 3
  | 0x1f => (m.noMask ((((((tmNone (m.tm f.ty)).map (fun _ => Instr.mov))).ap (dSD f.d)).ap (dSS f.a)).req 1 (f.b == 0#7 && f.c == 0#7))).req 3 (f.mn == 0#8)
  | 0x20 => (m.noMask (((((((tmFR (m.tm f.ty)).map (fun p => Instr.fadd p.1 p.2))).ap (dSD f.d)).ap (dSS f.a)).ap (dSS f.b)).req 1 (f.c == 0#7))).req 3 (f.mn == 0#8)
  | 0x21 => (m.noMask (((((((tmFR (m.tm f.ty)).map (fun p => Instr.fsub p.1 p.2))).ap (dSD f.d)).ap (dSS f.a)).ap (dSS f.b)).req 1 (f.c == 0#7))).req 3 (f.mn == 0#8)
  | 0x22 => (m.noMask (((((((tmFR (m.tm f.ty)).map (fun p => Instr.fmul p.1 p.2))).ap (dSD f.d)).ap (dSS f.a)).ap (dSS f.b)).req 1 (f.c == 0#7))).req 3 (f.mn == 0#8)
  | 0x23 => (m.noMask (((((((tmFR (m.tm f.ty)).map (fun p => Instr.fdiv p.1 p.2))).ap (dSD f.d)).ap (dSS f.a)).ap (dSS f.b)).req 1 (f.c == 0#7))).req 3 (f.mn == 0#8)
  | 0x24 => (m.noMask ((((((tmFR (m.tm f.ty)).map (fun p => Instr.fsqrt p.1 p.2))).ap (dSD f.d)).ap (dSS f.a)).req 1 (f.b == 0#7 && f.c == 0#7))).req 3 (f.mn == 0#8)
  | 0x25 => m.noMask (((((((dFma f.mn.toNat).map (fun o (p : FTy × Rm) => Instr.ffma o p.1 p.2)).ap (tmFR (m.tm f.ty))).ap (dSD f.d)).ap (dSS f.a)).ap (dSS f.b)).ap (dSS f.c))
  | 0x26 => (m.noMask (((((((tmF (m.tm f.ty)).map Instr.fmin)).ap (dSD f.d)).ap (dSS f.a)).ap (dSS f.b)).req 1 (f.c == 0#7))).req 3 (f.mn == 0#8)
  | 0x27 => (m.noMask (((((((tmF (m.tm f.ty)).map Instr.fmax)).ap (dSD f.d)).ap (dSS f.a)).ap (dSS f.b)).req 1 (f.c == 0#7))).req 3 (f.mn == 0#8)
  | 0x28 => m.noMask ((((((dFcc f.mn.toNat).map Instr.fcmp).ap (tmF (m.tm f.ty))).ap (dP f.d)).ap (dSS f.a)).ap (dSS f.b) |>.req 1 (f.c == 0#7))
  | 0x29 => (m.noMask ((((((tmFc (m.tm f.ty)).map Instr.fclass)).ap (dSD f.d)).ap (dSS f.a)).req 1 (f.b == 0#7 && f.c == 0#7))).req 3 (f.mn == 0#8)
  | 0x2a => (m.noMask ((((tmFcvt (m.tm f.ty) f.c).map (fun p => Instr.fcvt p.1 p.2.1 p.2.2)).ap (dSD f.d)).ap (dSS f.a) |>.req 1 (f.b == 0#7))).req 3 (f.mn == 0#8)
  | 0x2b => (m.noMask ((((tmFcvti (m.tm f.ty) f.c).map (fun p => Instr.fcvti p.1 p.2)).ap (dSD f.d)).ap (dSS f.a) |>.req 1 (f.b == 0#7))).req 3 (f.mn == 0#8)
  | 0x2c => (m.noMask ((((tmIcvtf (m.tm f.ty) f.c).map (fun p => Instr.icvtf p.1 p.2.1 p.2.2)).ap (dSD f.d)).ap (dSS f.a) |>.req 1 (f.b == 0#7))).req 3 (f.mn == 0#8)
  | 0x2d => (m.noMask ((((tmFxcvt (m.tm f.ty) f.c).map Instr.fxcvt).ap (dSD f.d)).ap (dSS f.a) |>.req 1 (f.b == 0#7))).req 3 (f.mn == 0#8)
  | 0x2e => match f.mn.toNat with
    | 0 => m.noMask ((((((tmF (m.tm f.ty)).map Instr.fneg)).ap (dSD f.d)).ap (dSS f.a)).req 1 (f.b == 0#7 && f.c == 0#7))
    | 1 => m.noMask ((((((tmF (m.tm f.ty)).map Instr.fabs)).ap (dSD f.d)).ap (dSS f.a)).req 1 (f.b == 0#7 && f.c == 0#7))
    | 2 => m.noMask (((((((tmF (m.tm f.ty)).map Instr.fcpsgn)).ap (dSD f.d)).ap (dSS f.a)).ap (dSS f.b)).req 1 (f.c == 0#7))
    | _ => .bad 3
  | 0x2f => match f.mn.toNat with
    | 0 => m.noMask ((((((tmNone (m.tm f.ty)).map (fun _ => Instr.fflag))).ap (dSD f.d)).ap (dSS f.a)).req 1 (f.b == 0#7 && f.c == 0#7))
    | 1 => m.noMask ((((((tmNone (m.tm f.ty)).map (fun _ => Instr.fflagClr))).ap (dSD f.d)).ap (dSS f.a)).req 1 (f.b == 0#7 && f.c == 0#7))
    | _ => .bad 3
  | _ => .bad 2

/-- Vector and special-function majors (08_vector_instructions.md). -/
def decVector (maj : Nat) (f : FA) : Chk Instr :=
  let m := FMod.ofWord f.md
  match maj with
  | 0x40 => (keepReg m f.d (((((((tmVA (m.tm f.ty)).map Instr.vadd).ap m.mask).ap (dVD f.d)).ap (dVS f.a)).ap (dVS f.b)).req 1 (f.c == 0#7))).req 3 (f.mn == 0#8)
  | 0x41 => (keepReg m f.d (((((((tmVA (m.tm f.ty)).map Instr.vsub).ap m.mask).ap (dVD f.d)).ap (dVS f.a)).ap (dVS f.b)).req 1 (f.c == 0#7))).req 3 (f.mn == 0#8)
  | 0x42 => (keepReg m f.d (((((((tmVA (m.tm f.ty)).map Instr.vmul).ap m.mask).ap (dVD f.d)).ap (dVS f.a)).ap (dVS f.b)).req 1 (f.c == 0#7))).req 3 (f.mn == 0#8)
  | 0x43 => keepReg m f.d ((((((((dFma f.mn.toNat).map (fun o (p : FTy × Rm) => Instr.vfma o p.1 p.2)).ap (tmFR (m.tm f.ty))).ap m.mask).ap (dVD f.d)).ap (dVS f.a)).ap (dVS f.b)).ap (dVS f.c))
  | 0x44 => (keepReg m f.d (((((((tmVA (m.tm f.ty)).map Instr.vdiv).ap m.mask).ap (dVD f.d)).ap (dVS f.a)).ap (dVS f.b)).req 1 (f.c == 0#7))).req 3 (f.mn == 0#8)
  | 0x45 => (keepReg m f.d (((((((tmVP (m.tm f.ty)).map Instr.vmin).ap m.mask).ap (dVD f.d)).ap (dVS f.a)).ap (dVS f.b)).req 1 (f.c == 0#7))).req 3 (f.mn == 0#8)
  | 0x46 => (keepReg m f.d (((((((tmVP (m.tm f.ty)).map Instr.vmax).ap m.mask).ap (dVD f.d)).ap (dVS f.a)).ap (dVS f.b)).req 1 (f.c == 0#7))).req 3 (f.mn == 0#8)
  | 0x47 => (keepReg m f.d ((((((tmVS (m.tm f.ty)).map Instr.vabs).ap m.mask).ap (dVD f.d)).ap (dVS f.a)).req 1 (f.b == 0#7 && f.c == 0#7))).req 3 (f.mn == 0#8)
  | 0x48 => (keepReg m f.d ((((((tmVS (m.tm f.ty)).map Instr.vneg).ap m.mask).ap (dVD f.d)).ap (dVS f.a)).req 1 (f.b == 0#7 && f.c == 0#7))).req 3 (f.mn == 0#8)
  | 0x49 => (keepReg m f.d (((((((tmI (m.tm f.ty)).map Instr.vand).ap m.mask).ap (dVD f.d)).ap (dVS f.a)).ap (dVS f.b)).req 1 (f.c == 0#7))).req 3 (f.mn == 0#8)
  | 0x4a => (keepReg m f.d (((((((tmI (m.tm f.ty)).map Instr.vor).ap m.mask).ap (dVD f.d)).ap (dVS f.a)).ap (dVS f.b)).req 1 (f.c == 0#7))).req 3 (f.mn == 0#8)
  | 0x4b => (keepReg m f.d (((((((tmI (m.tm f.ty)).map Instr.vxor).ap m.mask).ap (dVD f.d)).ap (dVS f.a)).ap (dVS f.b)).req 1 (f.c == 0#7))).req 3 (f.mn == 0#8)
  | 0x4c => (keepReg m f.d (((((((tmI (m.tm f.ty)).map Instr.vshl).ap m.mask).ap (dVD f.d)).ap (dVS f.a)).ap (dVS f.b)).req 1 (f.c == 0#7))).req 3 (f.mn == 0#8)
  | 0x4d => (keepReg m f.d (((((((tmI (m.tm f.ty)).map Instr.vshr).ap m.mask).ap (dVD f.d)).ap (dVS f.a)).ap (dVS f.b)).req 1 (f.c == 0#7))).req 3 (f.mn == 0#8)
  | 0x4e => (keepReg m f.d (((((((tmI (m.tm f.ty)).map Instr.vsra).ap m.mask).ap (dVD f.d)).ap (dVS f.a)).ap (dVS f.b)).req 1 (f.c == 0#7))).req 3 (f.mn == 0#8)
  | 0x4f => keepReg m f.d ((((((tmVCmp (m.tm f.ty) f.mn).map Instr.vcmp).ap m.mask).ap (dKD f.d)).ap (dVS f.a)).ap (dVS f.b) |>.req 1 (f.c == 0#7))
  | 0x50 => (m.noMask (((((((tmE (m.tm f.ty)).map Instr.vsel)).ap (dVD f.d)).ap (dVS f.a)).ap (dVS f.b)).ap (dKS f.c))).req 3 (f.mn == 0#8)
  | 0x51 => (keepReg m f.d ((((((tmE (m.tm f.ty)).map Instr.vbcast).ap m.mask).ap (dVD f.d)).ap (dSS f.a)).req 1 (f.b == 0#7 && f.c == 0#7))).req 3 (f.mn == 0#8)
  | 0x52 => (keepReg m f.d (((((((tmE (m.tm f.ty)).map Instr.vperm).ap m.mask).ap (dVD f.d)).ap (dVS f.a)).ap (dVS f.b)).req 1 (f.c == 0#7))).req 3 (f.mn == 0#8)
  | 0x53 => (keepReg m f.d (((((((tmE (m.tm f.ty)).map Instr.vrot).ap m.mask).ap (dVD f.d)).ap (dVS f.a)).ap (dSS f.b)).req 1 (f.c == 0#7))).req 3 (f.mn == 0#8)
  | 0x54 => (keepReg m f.d (((((((tmPk (m.tm f.ty)).map (fun p => Instr.vpack p.1 p.2)).ap m.mask).ap (dVD f.d)).ap (dVS f.a)).ap (dVS f.b)).req 1 (f.c == 0#7))).req 3 (f.mn == 0#8)
  | 0x55 => (keepReg m f.d (((((((tmUn (m.tm f.ty)).map Instr.vunpk).ap m.mask).ap (dVD f.d)).ap (dVS f.a)).ap (dSS f.b)).req 1 (f.c == 0#7))).req 3 (f.mn == 0#8)
  | 0x56 => (m.noMask (((((((tmE (m.tm f.ty)).map Instr.vcompress)).ap (dVD f.d)).ap (dVS f.a)).ap (dKS f.c)).req 1 (f.b == 0#7))).req 3 (f.mn == 0#8)
  | 0x57 => (m.noMask (((((((tmE (m.tm f.ty)).map Instr.vexpand)).ap (dVD f.d)).ap (dVS f.a)).ap (dKS f.c)).req 1 (f.b == 0#7))).req 3 (f.mn == 0#8)
  | 0x58 => (keepReg m f.d (((((((tmVA (m.tm f.ty)).map Instr.vredsum).ap m.mask).ap (dSD f.d)).ap (dVS f.a)).ap (dSS f.b)).req 1 (f.c == 0#7))).req 3 (f.mn == 0#8)
  | 0x59 => (keepReg m f.d (((((((tmVP (m.tm f.ty)).map Instr.vredmin).ap m.mask).ap (dSD f.d)).ap (dVS f.a)).ap (dSS f.b)).req 1 (f.c == 0#7))).req 3 (f.mn == 0#8)
  | 0x5a => (keepReg m f.d (((((((tmVP (m.tm f.ty)).map Instr.vredmax).ap m.mask).ap (dSD f.d)).ap (dVS f.a)).ap (dSS f.b)).req 1 (f.c == 0#7))).req 3 (f.mn == 0#8)
  | 0x5b => match f.mn.toNat with
    | 0 => keepReg m f.d (((((((tmI (m.tm f.ty)).map Instr.vredand).ap m.mask).ap (dSD f.d)).ap (dVS f.a)).ap (dSS f.b)).req 1 (f.c == 0#7))
    | 1 => keepReg m f.d (((((((tmI (m.tm f.ty)).map Instr.vredor).ap m.mask).ap (dSD f.d)).ap (dVS f.a)).ap (dSS f.b)).req 1 (f.c == 0#7))
    | 2 => keepReg m f.d (((((((tmI (m.tm f.ty)).map Instr.vredxor).ap m.mask).ap (dSD f.d)).ap (dVS f.a)).ap (dSS f.b)).req 1 (f.c == 0#7))
    | _ => .bad 3
  | 0x5c => ((keepReg m f.d (((((((tmVA (m.tm f.ty)).map Instr.vscan).ap m.mask).ap (dVD f.d)).ap (dVS f.a)).ap (dSS f.b)).req 1 (f.c == 0#7))).req 4 (f.ty != 10#4 && f.ty != 11#4)).req 3 (f.mn == 0#8)
  | 0x5d => (keepReg m f.d (((((tmVcvt (m.tm f.ty) f.c).map Instr.vcvt).ap m.mask).ap (dVD f.d)).ap (dVS f.a) |>.ap (dVcvtB f))).req 3 (f.mn == 0#8)
  | 0x5e => (m.noMask (((((tmMx (m.tm f.ty) f.c).map (fun p => Instr.vmxq p.1 p.2.1 p.2.2)).ap (dVD f.d)).ap (dVS f.a)).ap (dSR f.b))).req 3 (f.mn == 0#8)
  | 0x5f => (m.noMask (((((tmMx (m.tm f.ty) f.c).map (fun p => Instr.vmxd p.1 p.2.1 p.2.2)).ap (dVD f.d)).ap (dVS f.a)).ap (dSS f.b))).req 3 (f.mn == 0#8)
  | 0x60 => (keepReg m f.d ((((((tmE (m.tm f.ty)).map Instr.vmov).ap m.mask).ap (dVD f.d)).ap (dVS f.a)).req 1 (f.b == 0#7 && f.c == 0#7))).req 3 (f.mn == 0#8)
  | 0x61 => (m.noMask (((((((tmE (m.tm f.ty)).map Instr.vext)).ap (dSD f.d)).ap (dVS f.a)).ap (dSS f.b)).req 1 (f.c == 0#7))).req 3 (f.mn == 0#8)
  | 0x62 => (m.noMask (((((((tmE (m.tm f.ty)).map Instr.vins)).ap (dVR f.d)).ap (dSS f.a)).ap (dSS f.b)).req 1 (f.c == 0#7))).req 3 (f.mn == 0#8)
  | 0x63 => match f.mn.toNat with
    | 0 => m.noMask (((((((tmNone (m.tm f.ty)).map (fun _ => Instr.kand))).ap (dKD f.d)).ap (dKS f.a)).ap (dKS f.b)).req 1 (f.c == 0#7))
    | 1 => m.noMask (((((((tmNone (m.tm f.ty)).map (fun _ => Instr.kor))).ap (dKD f.d)).ap (dKS f.a)).ap (dKS f.b)).req 1 (f.c == 0#7))
    | 2 => m.noMask (((((((tmNone (m.tm f.ty)).map (fun _ => Instr.kxor))).ap (dKD f.d)).ap (dKS f.a)).ap (dKS f.b)).req 1 (f.c == 0#7))
    | 3 => m.noMask (((((((tmNone (m.tm f.ty)).map (fun _ => Instr.kandn))).ap (dKD f.d)).ap (dKS f.a)).ap (dKS f.b)).req 1 (f.c == 0#7))
    | 4 => m.noMask ((((((tmNone (m.tm f.ty)).map (fun _ => Instr.knot))).ap (dKD f.d)).ap (dKS f.a)).req 1 (f.b == 0#7 && f.c == 0#7))
    | 5 => m.noMask ((((((tmNone (m.tm f.ty)).map (fun _ => Instr.kmov))).ap (dKD f.d)).ap (dKS f.a)).req 1 (f.b == 0#7 && f.c == 0#7))
    | _ => .bad 3
  | 0x64 => (m.noMask ((((((tmNone (m.tm f.ty)).map (fun _ => Instr.kpop))).ap (dSD f.d)).ap (dKS f.a)).req 1 (f.b == 0#7 && f.c == 0#7))).req 3 (f.mn == 0#8)
  | 0x65 => (m.noMask ((((((tmNone (m.tm f.ty)).map (fun _ => Instr.kfind))).ap (dSD f.d)).ap (dKS f.a)).req 1 (f.b == 0#7 && f.c == 0#7))).req 3 (f.mn == 0#8)
  | 0x66 => (keepReg m f.d ((((((tmI (m.tm f.ty)).map Instr.viota).ap m.mask).ap (dVD f.d)).ap (dSS f.a)).req 1 (f.b == 0#7 && f.c == 0#7))).req 3 (f.mn == 0#8)
  | 0x67 => (keepReg m f.d (((((((tmFc (m.tm f.ty)).map Instr.vclass).ap m.mask).ap (dKD f.d)).ap (dVS f.a)).ap (dSS f.b)).req 1 (f.c == 0#7))).req 3 (f.mn == 0#8)
  | 0x68 => (keepReg m f.d (((((((tmVA (m.tm f.ty)).map Instr.vadds).ap m.mask).ap (dVD f.d)).ap (dVS f.a)).ap (dSS f.b)).req 1 (f.c == 0#7))).req 3 (f.mn == 0#8)
  | 0x69 => (keepReg m f.d (((((((tmVA (m.tm f.ty)).map Instr.vsubs).ap m.mask).ap (dVD f.d)).ap (dVS f.a)).ap (dSS f.b)).req 1 (f.c == 0#7))).req 3 (f.mn == 0#8)
  | 0x6a => (keepReg m f.d ((((((((tmVA (m.tm f.ty)).map Instr.vdot).ap m.mask).ap (dSD f.d)).ap (dVS f.a)).ap (dVS f.b)).ap (dSS f.c)).req 4 (f.ty != 14#4))).req 3 (f.mn == 0#8)
  | 0x70 => (keepReg m f.d ((((((tmSF (m.tm f.ty)).map (fun _ => Instr.sfrcp)).ap m.mask).ap (dVD f.d)).ap (dVS f.a)).req 1 (f.b == 0#7 && f.c == 0#7))).req 3 (f.mn == 0#8)
  | 0x71 => (keepReg m f.d ((((((tmSF (m.tm f.ty)).map (fun _ => Instr.sfrsqrt)).ap m.mask).ap (dVD f.d)).ap (dVS f.a)).req 1 (f.b == 0#7 && f.c == 0#7))).req 3 (f.mn == 0#8)
  | 0x72 => (keepReg m f.d ((((((tmSF (m.tm f.ty)).map (fun _ => Instr.sfsqrt)).ap m.mask).ap (dVD f.d)).ap (dVS f.a)).req 1 (f.b == 0#7 && f.c == 0#7))).req 3 (f.mn == 0#8)
  | 0x73 => (keepReg m f.d ((((((tmSF (m.tm f.ty)).map (fun _ => Instr.sfexp2)).ap m.mask).ap (dVD f.d)).ap (dVS f.a)).req 1 (f.b == 0#7 && f.c == 0#7))).req 3 (f.mn == 0#8)
  | 0x74 => (keepReg m f.d ((((((tmSF (m.tm f.ty)).map (fun _ => Instr.sflog2)).ap m.mask).ap (dVD f.d)).ap (dVS f.a)).req 1 (f.b == 0#7 && f.c == 0#7))).req 3 (f.mn == 0#8)
  | 0x75 => (keepReg m f.d ((((((tmSF (m.tm f.ty)).map (fun _ => Instr.sfsinpi)).ap m.mask).ap (dVD f.d)).ap (dVS f.a)).req 1 (f.b == 0#7 && f.c == 0#7))).req 3 (f.mn == 0#8)
  | 0x76 => (keepReg m f.d ((((((tmSF (m.tm f.ty)).map (fun _ => Instr.sfcospi)).ap m.mask).ap (dVD f.d)).ap (dVS f.a)).req 1 (f.b == 0#7 && f.c == 0#7))).req 3 (f.mn == 0#8)
  | 0x77 => ((((((tmSF (m.tm f.ty)).map (fun _ => Instr.sfsincospi)).ap m.mask).ap (dVPair f.d)).ap (dVS f.a)).req 1 (f.b == 0#7 && f.c == 0#7)).req 3 (f.mn == 0#8)
  | _ => .bad 2

/-- Format-A matrix majors (09_matrix_instructions.md). -/
def decMatrix (maj : Nat) (f : FA) : Chk Instr :=
  let m := FMod.ofWord f.md
  match maj with
  | 0x83 => (m.noMask (((((tmNone (m.tm f.ty)).map (fun _ => Instr.azero))).ap (dAR f.d)).req 1 (f.a == 0#7 && f.b == 0#7 && f.c == 0#7))).req 3 (f.mn == 0#8)
  | 0x86 => (m.noMask (((((tmAcvt (m.tm f.ty) f.c).map Instr.acvt).ap (dVD f.d)).ap (dAR f.a)).ap (dSS f.b))).req 3 (f.mn == 0#8)
  | 0x87 => (m.noMask ((((((tmAA (m.tm f.ty)).map Instr.ascale)).ap (dAR f.d)).ap (dSS f.a)).req 1 (f.b == 0#7 && f.c == 0#7))).req 3 (f.mn == 0#8)
  | 0x88 => (m.noMask (((((((tmAV (m.tm f.ty)).map Instr.aget)).ap (dVD f.d)).ap (dAR f.a)).ap (dSS f.b)).req 1 (f.c == 0#7))).req 3 (f.mn == 0#8)
  | 0x89 => (((((((tmAV (m.tm f.ty)).map Instr.aput).ap m.keepOnly).ap (dAR f.d)).ap (dVS f.a)).ap (dSS f.b) |>.req 1 (f.c == 0#7))).req 3 (f.mn == 0#8)
  | 0x8a => (m.noMask (((((((tmAA (m.tm f.ty)).map Instr.aadd)).ap (dAR f.d)).ap (dVS f.a)).ap (dSS f.b)).req 1 (f.c == 0#7))).req 3 (f.mn == 0#8)
  | 0x8b => (m.noMask ((((((tmNone (m.tm f.ty)).map (fun _ => Instr.atrans))).ap (dAR f.d)).ap (dAR f.a)).req 1 (f.b == 0#7 && f.c == 0#7))).req 3 (f.mn == 0#8)
  | _ => .bad 2

/-- The fields that `u` does not name are zero: TYPE, and D, A, B, C and MOD where the mask says so (R46). -/
def zeroA {α : Type} (f : FA) (d a b c md : Bool) (x : Chk α) : Chk α :=
  x.req 1 (f.ty == 0#4 && (!d || f.d == 0#7) && (!a || f.a == 0#7) && (!b || f.b == 0#7) && (!c || f.c == 0#7) &&
    (!md || f.md == 0#16))
/-- MOD below `n` only. -/
def modLt {α : Type} (f : FA) (n : Nat) (x : Chk α) : Chk α := x.req 1 (decide (f.md.toNat < n))

/-- Majors 0x30 to 0x3f (05, 06_channel_control_instructions.md). -/
def decChannel (maj : Nat) (f : FA) : Chk Instr :=
  let wid := fld f.md 0 2
  let m := FMod.ofWord f.md
  match maj with
  | 0x30 => match f.mn.toNat with
    | 0 => m.noMask (((((((tmNone (m.tm f.ty)).map (fun _ => Instr.pand))).ap (dP f.d)).ap (dP f.a)).ap (dP f.b)).req 1 (f.c == 0#7))
    | 1 => m.noMask (((((((tmNone (m.tm f.ty)).map (fun _ => Instr.por))).ap (dP f.d)).ap (dP f.a)).ap (dP f.b)).req 1 (f.c == 0#7))
    | 2 => m.noMask (((((((tmNone (m.tm f.ty)).map (fun _ => Instr.pxor))).ap (dP f.d)).ap (dP f.a)).ap (dP f.b)).req 1 (f.c == 0#7))
    | 3 => m.noMask (((((((tmNone (m.tm f.ty)).map (fun _ => Instr.pandn))).ap (dP f.d)).ap (dP f.a)).ap (dP f.b)).req 1 (f.c == 0#7))
    | 4 => m.noMask ((((((tmNone (m.tm f.ty)).map (fun _ => Instr.pnot))).ap (dP f.d)).ap (dP f.a)).req 1 (f.b == 0#7 && f.c == 0#7))
    | 5 => m.noMask ((((((tmNone (m.tm f.ty)).map (fun _ => Instr.pmov))).ap (dP f.d)).ap (dP f.a)).req 1 (f.b == 0#7 && f.c == 0#7))
    | _ => .bad 3
  | 0x31 => match f.mn.toNat with
    | 0 => modLt f 4 (zeroA f false false true true false (((dXD wid f.d).map Instr.recv).ap (dCI f.a)))
    | 1 => modLt f 4 (zeroA f false false true false false ((((dXD wid f.d).map Instr.tryrecv).ap (dCI f.a)).ap (dP f.c)))
    | _ => .bad 3
  | 0x32 => match f.mn.toNat with
    | 0 => (zeroA f false false false true false ((((dCO f.d).map Instr.send).ap (dXS wid f.a)).ap (dTag f))).req 1 (fld f.md 3 5 == 0#5)
    | 1 => (zeroA f false false false false false (((((dCO f.d).map Instr.trysend).ap (dXS wid f.a)).ap (dTag f)).ap (dP f.c))).req 1 (fld f.md 3 5 == 0#5)
    | _ => .bad 3
  | 0x33 => match f.mn.toNat with
    | 0 => modLt f 4 (zeroA f false false true true false (((dXD wid f.d).map Instr.peek).ap (dCI f.a)))
    | 1 => modLt f 4 (zeroA f false false true false false ((((dXD wid f.d).map Instr.trypeek).ap (dCI f.a)).ap (dP f.c)))
    | _ => .bad 3
  | 0x34 => (zeroA f false false true true true (((dSD f.d).map Instr.tagh).ap (dCI f.a))).req 3 (f.mn == 0#8)
  | 0x35 => (zeroA f true false true true true ((dCI f.a).map Instr.chreset)).req 3 (f.mn == 0#8)
  | 0x36 => match f.mn.toNat with
    | 0 => zeroA f false true true true true ((dPres f.d).map Instr.pset)
    | 1 => zeroA f false true true true true ((dPres f.d).map Instr.pclr)
    | _ => .bad 3
  | 0x37 => match f.mn.toNat with
    | 0 => zeroA f false false true true true (((dSD f.d).map Instr.chcount).ap (dCI f.a))
    | 1 => zeroA f false false true true true (((dSD f.d).map Instr.chfree).ap (dCO f.a))
    | _ => .bad 3
  | 0x38 => (modLt f 256 (zeroA f true true true true false (.ok (Instr.done (fld f.md 0 8))))).req 3 (f.mn == 0#8)
  | 0x39 => (zeroA f true true true true true (.ok .yield)).req 3 (f.mn == 0#8)
  | 0x3a => (zeroA f true true true true true (.ok .handover)).req 3 (f.mn == 0#8)
  | 0x3b => (zeroA f true false true true false (((dSS f.a).map Instr.trap).ap (.ok f.md))).req 3 (f.mn == 0#8)
  | 0x3c => ((((dWatch f).map Instr.watch).ap (dP f.d)).ap (dSS f.a) |>.ap (dSS f.b)).req 3 (f.mn == 0#8)
  | 0x3d => (zeroA f false true true true true ((dP f.d).map Instr.unwatch)).req 3 (f.mn == 0#8)
  | 0x3e => (zeroA f true true true true false (.ok (.sleep f.md))).req 3 (f.mn == 0#8)
  | 0x3f => (zeroA f true true true true false (.ok (.bkpt f.md))).req 3 (f.mn == 0#8)
  | _ => .bad 2

/-- The format-A majors of 0x90 to 0xc8 and the fabric majors. -/
def decMemA (maj : Nat) (f : FA) : Chk Instr :=
  let wid := fld f.md 0 2
  let g := fin 8 f.md.toNat
  let pc := fin 16 f.md.toNat
  match maj with
  | 0x90 => (modLt f 8 (zeroA f true false false true false (((Chk.ok (Instr.gcfg g)).ap (dPair f.a)).ap (dPair f.b)))).req 3 (f.mn == 0#8)
  | 0x91 => (modLt f 8 (zeroA f true true true true false (.ok (.gstart g)))).req 3 (f.mn == 0#8)
  | 0x92 => (modLt f 8 (zeroA f false true true true false (((dSD f.d).map Instr.gstop).ap (.ok g)))).req 3 (f.mn == 0#8)
  | 0x93 => (modLt f 512 (zeroA f false true true true false ((((dP f.d).map Instr.gbar).ap (.ok (fld f.md 0 8))).ap (.ok (bit1 (fld f.md 8 1)))))).req 3 (f.mn == 0#8)
  | 0x9b => match f.mn.toNat with
    | 0 => zeroA f false true true true true ((dP f.d).map Instr.drainTcm)
    | 1 => zeroA f false true true true true ((dP f.d).map Instr.drainCsp)
    | 2 => zeroA f false true true true true ((dP f.d).map Instr.drainGlb)
    | _ => .bad 3
  | 0xa5 => match f.mn.toNat with
    | 0 => modLt f 16 (zeroA f false false true true false ((((dP f.d).map Instr.bput).ap (.ok (fin 8 (fld f.md 0 3).toNat))).ap (dBS f)))
    | 1 => modLt f 16 (zeroA f false false true false false (((((dP f.d).map Instr.trybput).ap (.ok (fin 8 (fld f.md 0 3).toNat))).ap (dBS f)).ap (dP f.c)))
    | _ => .bad 3
  | 0xa6 => match f.mn.toNat with
    | 0 => modLt f 16 (zeroA f false false true true false (((dBD f).map Instr.bget).ap (.ok (fin 8 (fld f.md 0 3).toNat))))
    | 1 => modLt f 16 (zeroA f false false true false false ((((dBD f).map Instr.trybget).ap (.ok (fin 8 (fld f.md 0 3).toNat))).ap (dP f.c)))
    | _ => .bad 3
  | 0xa7 => (modLt f 16 (zeroA f false true true true false ((((dP f.d).map Instr.bwait).ap (.ok (fin 8 (fld f.md 0 3).toNat))).ap (.ok (bit1 (fld f.md 3 1)))))).req 3 (f.mn == 0#8)
  | 0xa8 => match f.mn.toNat with
    | 0 => (zeroA f true false false true false (((Chk.ok (Instr.nsend (fin 4 (fld f.md 3 2).toNat))).ap (dXS wid f.a)).ap (dTag f))).req 1 (fld f.md 5 3 == 0#3)
    | 1 => (zeroA f true false false false false ((((Chk.ok (Instr.trynsend (fin 4 (fld f.md 3 2).toNat))).ap (dXS wid f.a)).ap (dTag f)).ap (dP f.c))).req 1 (fld f.md 5 3 == 0#3)
    | _ => .bad 3
  | 0xa9 => match f.mn.toNat with
    | 0 => (modLt f 32 (zeroA f false true true true false (((dXD wid f.d).map Instr.nrecv).ap (.ok (fin 4 (fld f.md 3 2).toNat))))).req 1 (fld f.md 2 1 == 0#1)
    | 1 => (modLt f 32 (zeroA f false true true false false ((((dXD wid f.d).map Instr.trynrecv).ap (.ok (fin 4 (fld f.md 3 2).toNat))).ap (dP f.c)))).req 1 (fld f.md 2 1 == 0#1)
    | _ => .bad 3
  | 0xab => (zeroA f false true true true true ((dP f.d).map Instr.cbar)).req 3 (f.mn == 0#8)
  | 0xb8 => (zeroA f true true true true false (
      if fld f.md 0 1 = 1#1 then
        (.ok (Instr.otpubCirc (fld f.md 5 7) (fin 8 (fld f.md 1 3).toNat)) : Chk Instr).req 1 (fld f.md 4 1 == 0#1 && fld f.md 12 4 == 0#4)
      else (.ok (Instr.otpub (fin 16 (fld f.md 1 4).toNat)) : Chk Instr).req 1 (fld f.md 5 11 == 0#11) |>.req 4 (fld f.md 1 4 != 0#4))).req 3 (f.mn == 0#8)
  | 0xb9 => (modLt f 16 (zeroA f false true true true false (((dP f.d).map Instr.otwait).ap (.ok pc)))).req 3 (f.mn == 0#8) |>.req 4 (fld f.md 0 4 != 0#4)
  | 0xba => (modLt f 256 (zeroA f false true true true false (((dP f.d).map Instr.join).ap (.ok (fld f.md 0 8))))).req 3 (f.mn == 0#8) |>.req 4 (fld f.md 0 8 != 0#8)
  | 0xc0 => match f.mn.toNat with
    | 0 => zeroA f false false false false true (((((dSR f.d).map Instr.tspawn).ap (dSS f.a)).ap (dSS f.b)).ap (dSS f.c))
    | 1 => modLt f 16 (zeroA f false false false false false ((((((dSR f.d).map Instr.trytspawn).ap (dSS f.a)).ap (dSS f.b)).ap (dSS f.c)).ap (.ok pc)))
    | _ => .bad 3
  | 0xc1 => match f.mn.toNat with
    | 0 => zeroA f false false true true true (((dSD f.d).map Instr.tenq).ap (dSS f.a))
    | 1 => modLt f 16 (zeroA f false false true true false ((((dSD f.d).map Instr.trytenq).ap (dSS f.a)).ap (.ok pc)))
    | _ => .bad 3
  | 0xc2 => (zeroA f true false true true true ((dSS f.a).map Instr.tdec)).req 3 (f.mn == 0#8)
  | 0xc3 => (zeroA f false false true true true (((dSD f.d).map Instr.tstatus).ap (dSS f.a))).req 3 (f.mn == 0#8)
  | 0xc4 => (zeroA f false false false true true ((((dP f.d).map Instr.tcancel).ap (dSS f.a)).ap (dSS f.b))).req 3 (f.mn == 0#8)
  | 0xc5 => (zeroA f false false false true true ((((dP f.d).map Instr.tinc).ap (dSS f.a)).ap (dSS f.b))).req 3 (f.mn == 0#8)
  | 0xc6 => (zeroA f false false true true true (((dSD f.d).map Instr.tparam).ap (dSS f.a))).req 3 (f.mn == 0#8)
  | 0xc7 => (zeroA f false true true true true ((dSD f.d).map Instr.tbound)).req 3 (f.mn == 0#8)
  | 0xc8 => match f.mn.toNat with
    | 0 => (zeroA f false false false true false (((Chk.ok (Instr.rsend f.d)).ap (dXS wid f.a)).ap (dTag f))).req 1 (fld f.md 3 5 == 0#5)
    | 1 => (zeroA f false false false false false ((((Chk.ok (Instr.tryrsend f.d)).ap (dXS wid f.a)).ap (dTag f)).ap (dP f.c))).req 1 (fld f.md 3 5 == 0#5)
    | _ => .bad 3
  | 0xca => (zeroA f true false false true true (((dSS f.a).map Instr.rdec).ap (dSS f.b))).req 3 (f.mn == 0#8)
  | 0xcb => (zeroA f false true false true true (((dP f.d).map Instr.pbar).ap (dSS f.b))).req 3 (f.mn == 0#8)
  | 0xcc => zeroA f false false false true true (((((dComb f.mn.toNat).map Instr.pcomb).ap (dSD f.d)).ap (dSS f.a)).ap (dSS f.b))
  | 0xcd => (zeroA f false false false true true ((((dSD f.d).map Instr.pbcast).ap (dSS f.a)).ap (dSS f.b))).req 3 (f.mn == 0#8)
  | 0xce => (zeroA f true true false true true ((dSS f.b).map Instr.pabort)).req 3 (f.mn == 0#8)
  | _ => .bad 2

/-- Three scalar operands D, A, B. -/
def d3 (f : FA) (k : SDst → SSrc → SSrc → Instr) : Chk Instr := (((dSD f.d).map k).ap (dSS f.a)).ap (dSS f.b)

/-- Majors 0xd0 to 0xdd (22_system_instructions.md). `wres` codes 5 to 7 are legal and answer STATUS 0x02 (R448). -/
def decSystem (maj : Nat) (f : FA) : Chk Instr :=
  (match maj with
  | 0xd0 => zeroA f false false true true true (((dSD f.d).map Instr.cfgr).ap (dSS f.a))
  | 0xd1 => zeroA f false false false true true ((((dP f.d).map Instr.cfgw).ap (dSS f.a)).ap (dSS f.b))
  | 0xd2 => zeroA f false false false true true (d3 f .vfsetEnable)
  | 0xd3 => zeroA f false false false true true (d3 f .quota)
  | 0xd4 => zeroA f false false false true true (d3 f .wtouch)
  | 0xd5 => modLt f 8 (zeroA f false false false true false (
      match f.md.toNat with
      | 0 => d3 f .wresMobile | 1 => d3 f .wresFixed | 2 => d3 f .wresUp | 3 => d3 f .wresDown
      | n => d3 f (.wresQuery (fin 4 (n - 4)))))
  | 0xd6 => zeroA f false false false true true (d3 f .csave)
  | 0xd7 => zeroA f false false true true true (((dSD f.d).map Instr.crest).ap (dSS f.a))
  | 0xd8 => modLt f 3 (zeroA f false false false false false ((((((Chk.ok (Instr.xinv (fin 3 f.md.toNat)))).ap (dP f.d)).ap (dSS f.a)).ap (dSS f.b)).ap (dSS f.c)))
  | 0xd9 => zeroA f false false true true true (((dVR f.d).map Instr.fqpop).ap (dSS f.a))
  | 0xda => zeroA f false false false true true (d3 f .mtret)
  | 0xdb => zeroA f false false false false true (((((dSD f.d).map Instr.ctxw).ap (dSS f.a)).ap (dSS f.b)).ap (dSS f.c))
  | 0xdc => zeroA f false false true true true (((dSD f.d).map Instr.srd).ap (dSS f.a))
  | 0xdd => zeroA f false false false true true ((((dP f.d).map Instr.swr).ap (dSS f.a)).ap (dSS f.b))
  | _ => .bad 2 : Chk Instr) |>.req 3 (f.mn == 0#8 || maj > 0xdd)

/-- Format I (R121). -/
def decI (maj : Nat) (f : FI) : Chk Instr :=
  let sh (k : SDst → SSrc → Fin 64 → Instr) : Chk Instr :=
    (((dSD f.d).map k).ap (dSS f.a)).ap (.ok (fin 64 f.imm.toNat)) |>.req 1 (decide (f.imm.toNat < 64))
  let im (k : SDst → SSrc → BitVec 32 → Instr) : Chk Instr := (((dSD f.d).map k).ap (dSS f.a)).ap (.ok f.imm)
  (match maj with
  | 0x18 => match f.mn.toNat with | 0 => im .addi | _ => .bad 3
  | 0x19 => match f.mn.toNat with | 0 => im .andi | 1 => im .ori | 2 => im .xori | _ => .bad 3
  | 0x1a => match f.mn.toNat with | 0 => sh .shli | 1 => sh .shri | 2 => sh .srai | 3 => sh .roli | _ => .bad 3
  | 0x1b => (((((dCc f.mn.toNat).map Instr.cmpi).ap (dIx0 (fld f.imm 28 4).toNat)).ap (dP f.d)).ap (dSS f.a)).ap (.ok (fld f.imm 0 28))
  | _ => .bad 2 : Chk Instr).req 1 (f.r == 0#2)

/-- Format L (R122). -/
def decL (f : FL) : Chk Instr :=
  (match f.mn.toNat with
  | 0 => ((dSD f.d).map Instr.li).ap (.ok f.imm)
  | 1 => ((dSR f.d).map Instr.lih).ap (.ok f.imm)
  | _ => .bad 3 : Chk Instr).req 1 (f.r == 0#1)

/-- Format M (R45). -/
def decM (maj : Nat) (f : FM) : Chk Instr :=
  let mn0 (x : Chk Instr) : Chk Instr := x.req 3 (f.mn == 0#8)
  let z7 (y : BitVec 7) (x : Chk Instr) : Chk Instr := x.req 1 (y == 0#7)
  let m := dMAddr f
  match maj with
  | 0x94 => mn0 (mOk f 1 true false ((m.map Instr.ld).ap (dLd f)))
  | 0x95 => mn0 (mOk f 1 false true ((m.map Instr.st).ap (dSt f)))
  | 0x96 => mn0 (z7 f.di (mOk f 1 true false ((m.map Instr.vld).ap (dVD f.d))))
  | 0x97 => mn0 (z7 f.d (mOk f 1 false true ((m.map Instr.vst).ap (dVS f.di))))
  | 0x98 => mOk f 1 true true (((m.map Instr.tamo).ap (dSD f.d)).ap (dLAt f))
  | 0x9c => mn0 (mOk f 1 false false (((m.map Instr.vgath).ap (dVD f.d)).ap (dVS f.di)))
  | 0x9d => mn0 (mOk f 1 false false (((m.map Instr.vscat).ap (dVS f.di)).ap (dVS f.d)))
  | 0xa0 => mn0 (mOk f 2 true false ((m.map Instr.cld).ap (dLd f)))
  | 0xa1 => mn0 (mOk f 2 false true ((m.map Instr.cst).ap (dSt f)))
  | 0xa2 => mn0 (z7 f.di (mOk f 2 true false ((m.map Instr.cvld).ap (dVD f.d))))
  | 0xa3 => mn0 (z7 f.d (mOk f 2 false true ((m.map Instr.cvst).ap (dVS f.di))))
  | 0xa4 => mOk f 2 true true (((m.map Instr.camo).ap (dSD f.d)).ap (dLAt f))
  | 0xb0 => mn0 (mOk f 5 true false ((m.map Instr.ldg).ap (dLd f)))
  | 0xb1 => mn0 (mOk f 5 false true ((m.map Instr.stg).ap (dSt f)))
  | 0xb2 => mn0 (z7 f.di (mOk f 5 true false ((m.map Instr.vldg).ap (dVD f.d))))
  | 0xb3 => mn0 (z7 f.d (mOk f 5 false true ((m.map Instr.vstg).ap (dVS f.di))))
  | 0xb4 => ((((m.map Instr.amo).ap (dRmw f.mn.toNat)).ap (dSD f.d)).ap (dSS f.di))
  | 0xb5 => mn0 (((m.map Instr.cas).ap (dSD f.d)).ap (dPS f.di))
  | 0xb6 => mn0 (((m.map Instr.aincBound).ap (dSD f.d)).ap (dSS f.di))
  | 0xb7 => mn0 (((dScope f.scope).map Instr.fence).req 1
      (f.d == 0#7 && f.base == 0#7 && f.di == 0#7 && f.ord == 0#2 && f.off == 0#22))
  | 0xbb => mn0 (((((dSR f.base).map Instr.pfg).ap (.ok f.off)).ap (dSS f.di)).req 1 (f.d == 0#7 && f.scope == 0#3 && f.ord == 0#2))
  | 0xc9 => mn0 (mOk f 5 false true (((Chk.ok (Instr.rstore f.d)).ap m).ap (dSS f.di)))
  | _ => .bad 2

/-- Format X (R45). The quad of `mmv` is misaligned or runs past v15 with code 0x08 (R49, R61, R217). -/
def decX (maj : Nat) (w : Word) : Chk Instr :=
  let f := FXm.ofWord w
  match maj with
  | 0x80 => ((dMma f).map Instr.mma).req 1 (f.sm == 0#5 && f.msp == 0#1)
  | 0x81 => (((dMma f).map Instr.mmas).ap (.ok (fin 32 f.sm.toNat))).ap (.ok (bit1 f.msp))
      |>.req 3 (decide (2 ≤ f.mn.toNat ∧ f.mn.toNat < 8))
  | 0x82 => ((dMma f).map Instr.mmv).req 1 (f.sm == 0#5 && f.msp == 0#1 && f.mt == 0#2 && f.kt == 0#6 && f.asp == 0#1)
      |>.req 3 (decide (f.mn.toNat < 16)) |>.req 8 (decide (f.sa.toNat < 16)) |>.req 8 (fld f.sa 0 2 == 0#2)
  | 0x84 => (dAccMem (FXa.ofWord w)).map Instr.aload
  | 0x85 => (dAccMem (FXa.ofWord w)).map Instr.astore
  | 0x99 => (dCpy (FXc.ofWord w)).map Instr.cpy
  | 0x9a => ((dCpy (FXc.ofWord w)).map Instr.cpy2d).req 8 (fld (FXc.ofWord w).sl 0 1 == 0#1)
  | 0xaa => (((dMma f).map Instr.mmr).ap (.ok (bit1 f.msp))).req 1 (f.sm == 0#5 && f.asp == 0#1 && f.bsp == 0#1)
      |>.req 8 (fld f.sa 0 1 == 0#1 && fld f.sb 0 1 == 0#1)
  | _ => .bad 2

/-- The minor codes of every major (R57, R216). -/
def minOk (maj mn : Nat) : Bool :=
  match maj with
  | 0x10 | 0x1c | 0x1e | 0x2f | 0x31 | 0x32 | 0x33 | 0x36 | 0x37 | 0xa5 | 0xa6 | 0xa8 | 0xa9 | 0xc0 | 0xc1 | 0xc8 => decide (mn < 2)
  | 0x17 | 0x1b | 0x30 | 0x63 => decide (mn < 6)
  | 0x19 | 0x2e | 0x5b | 0x9b => decide (mn < 3)
  | 0x1a | 0x25 | 0x43 => decide (mn < 4)
  | 0x28 | 0x4f => decide (mn < 7)
  | 0x98 | 0xa4 => decide (mn < 10)
  | 0xb4 => decide (mn < 8)
  | 0xcc => decide (mn < 5)
  | 0x80 | 0xaa => decide (mn < 8) || (decide (16 ≤ mn) && decide (mn < 21))
  | 0x81 => decide (2 ≤ mn) && decide (mn < 8)
  | 0x82 => decide (mn < 8)
  | _ => mn == 0
/-- Reserved majors (R55). -/
def majOk (maj : Nat) : Bool :=
  decide (maj < 0x6b) || (decide (0x70 ≤ maj) && decide (maj < 0x78)) || (decide (0x80 ≤ maj) && decide (maj < 0x8c)) ||
  (decide (0x90 ≤ maj) && decide (maj < 0x9e)) || (decide (0xa0 ≤ maj) && decide (maj < 0xac)) ||
  (decide (0xb0 ≤ maj) && decide (maj < 0xbc)) || (decide (0xc0 ≤ maj) && decide (maj < 0xcf)) ||
  (decide (0xd0 ≤ maj) && decide (maj < 0xde))

/-- The bits that every form of MAJ must hold zero are zero: the reserved bits of its format (R45), the fields that R217 and R286 want zero whatever
the minor code, and those of the layout its majors give MOD (R52, R133, R134, R281, R285, R286). A minor code that is not listed has no further fields to judge. (DEDUCED, log 11.) -/
def fmtZero (maj : Nat) (w : Word) : Bool :=
  if 0x18 ≤ maj ∧ maj < 0x1c then fld w 32 2 == 0#2
  else if maj = 0x1c then fld w 40 1 == 0#1
  else if (0 < maj ∧ maj < 0x31) ∨ (0x40 ≤ maj ∧ maj < 0x78) ∨ maj = 0x83 ∨ (0x86 ≤ maj ∧ maj < 0x8c) then fld w 10 1 == 0#1
  else match maj with
    | 0x31 | 0x33 => fld w 2 14 == 0#14
    | 0x32 | 0xc8 => fld w 3 5 == 0#5
    | 0x36 | 0x37 | 0x9b => fld w 0 16 == 0#16
    | 0xa5 | 0xa6 => fld w 4 12 == 0#12
    | 0xa8 => fld w 5 3 == 0#3
    | 0xa9 => fld w 5 11 == 0#11
    | 0xc0 | 0xc1 => fld w 4 12 == 0#12
    | 0x80 => fld w 0 8 == 0#8
    | 0x81 => fld w 0 2 == 0#2
    | 0x82 => fld w 0 8 == 0#8 && fld w 44 2 == 0#2 && fld w 32 6 == 0#6 && fld w 21 1 == 0#1
    | 0xaa => fld w 0 2 == 0#2 && fld w 3 5 == 0#5 && fld w 20 2 == 0#2
    | 0x84 | 0x85 => fld w 32 5 == 0#5 && fld w 22 5 == 0#5 && fld w 16 5 == 0#5 && fld w 0 8 == 0#8
    | 0x99 | 0x9a => fld w 16 6 == 0#6 && fld w 0 8 == 0#8
    | _ => true

/-- Read one operation doubleword (R45, R55, R56): the instruction, or the first failing check of R61. Where MAJ or MIN names no
instruction, no rule says which of the other operand fields must be zero: beside that check only the reserved bits of the format
and of MOD are judged. (DEDUCED, log 11; DEDUCED, log 12; DEDUCED, log 13.) -/
def decodeOp (w : Word) : Chk Instr :=
  let maj := (fld w 56 8).toNat
  if !majOk maj then .bad 2
  else if !minOk maj (fld w 48 8).toNat then .bad (if fmtZero maj w then 3 else 1)
  else if maj = 0 then (if w = 0#64 then .ok .nop else .bad 1)
  else if maj < 0x18 then decScalar maj (FA.ofWord w)
  else if maj < 0x1c then decI maj (FI.ofWord w)
  else if maj = 0x1c then decL (FL.ofWord w)
  else if maj < 0x30 then decScalar maj (FA.ofWord w)
  else if maj < 0x40 then decChannel maj (FA.ofWord w)
  else if maj < 0x78 then decVector maj (FA.ofWord w)
  else if maj < 0x80 then .bad 2
  else if maj ≤ 0x82 ∨ maj = 0x84 ∨ maj = 0x85 ∨ maj = 0x99 ∨ maj = 0x9a ∨ maj = 0xaa then decX maj w
  else if maj < 0x8c then decMatrix maj (FA.ofWord w)
  else if (0x94 ≤ maj ∧ maj ≤ 0x98) ∨ maj = 0x9c ∨ maj = 0x9d ∨ (0xa0 ≤ maj ∧ maj ≤ 0xa4) ∨ (0xb0 ≤ maj ∧ maj ≤ 0xb7) ∨
    maj = 0xbb ∨ maj = 0xc9 then decM maj (FM.ofWord w)
  else if maj < 0xd0 then decMemA maj (FA.ofWord w)
  else decSystem maj (FA.ofWord w)

/-- The operation doubleword of an instruction, from the same tables; none for what has no encoding of its own: `vfset` has one
encoding for its two actions, which the value of B chooses (R444), and the agents' steps stand in no slot. -/
def encodeOp (i : Instr) : Option Word :=
  match i with
  | .cmp cc t d a b => some (encA 0x17#8 { mn := BitVec.ofNat 8 (eCc cc), d := eP d, a := eSS a, b := eSS b, c := 0#7, ty := (eIx t).ty, md := (mkMod (eIx t) .all).toWord })
  | .addi d a imm => some (encI 0x18#8 { mn := 0#8, d := eSD d, a := eSS a, r := 0#2, imm := imm })
  | .andi d a imm => some (encI 0x19#8 { mn := 0#8, d := eSD d, a := eSS a, r := 0#2, imm := imm })
  | .ori d a imm => some (encI 0x19#8 { mn := 1#8, d := eSD d, a := eSS a, r := 0#2, imm := imm })
  | .xori d a imm => some (encI 0x19#8 { mn := 2#8, d := eSD d, a := eSS a, r := 0#2, imm := imm })
  | .shli d a n => some (encI 0x1a#8 { mn := 0#8, d := eSD d, a := eSS a, r := 0#2, imm := BitVec.ofNat 32 n })
  | .shri d a n => some (encI 0x1a#8 { mn := 1#8, d := eSD d, a := eSS a, r := 0#2, imm := BitVec.ofNat 32 n })
  | .srai d a n => some (encI 0x1a#8 { mn := 2#8, d := eSD d, a := eSS a, r := 0#2, imm := BitVec.ofNat 32 n })
  | .roli d a n => some (encI 0x1a#8 { mn := 3#8, d := eSD d, a := eSS a, r := 0#2, imm := BitVec.ofNat 32 n })
  | .cmpi cc t d a imm => some (encI 0x1b#8 { mn := BitVec.ofNat 8 (eCc cc), d := eP d, a := eSS a, r := 0#2, imm := b4 (eIx0 t) ++ imm })
  | .li d imm => some (encL 0x1c#8 { mn := 0#8, d := eSD d, r := 0#1, imm := imm })
  | .lih d imm => some (encL 0x1c#8 { mn := 1#8, d := eSR d, r := 0#1, imm := imm })
  | .lea d a b k => some (encA 0x1d#8 { mn := 0#8, d := eSD d, a := eSS a, b := eSS b, c := c7 k, ty := 0#4, md := 0#16 })
  | .ffma op t rm d a b c => some (encA 0x25#8 { mn := BitVec.ofNat 8 (eFma op), d := eSD d, a := eSS a, b := eSS b, c := eSS c, ty := (eFR t rm).ty, md := (mkMod (eFR t rm) .all).toWord })
  | .fcmp cc t d a b => some (encA 0x28#8 { mn := BitVec.ofNat 8 (eFcc cc), d := eP d, a := eSS a, b := eSS b, c := 0#7, ty := b4 (eFTy t), md := 0#16 })
  | .fcvt dt st rm d a => some (encA 0x2a#8 { mn := 0#8, d := eSD d, a := eSS a, b := 0#7, c := c7 (eFcTy st), ty := (eFcvt dt rm).ty, md := (mkMod (eFcvt dt rm) .all).toWord })
  | .fcvti dt st d a => some (encA 0x2b#8 { mn := 0#8, d := eSD d, a := eSS a, b := 0#7, c := c7 (eFcTy st), ty := b4 (eITy dt), md := 0#16 })
  | .icvtf dt st rm d a => some (encA 0x2c#8 { mn := 0#8, d := eSD d, a := eSS a, b := 0#7, c := c7 (eITy st), ty := (eFcvt dt rm).ty, md := (mkMod (eFcvt dt rm) .all).toWord })
  | .fxcvt c d a => some (encA 0x2d#8 { mn := 0#8, d := eSD d, a := eSS a, b := 0#7, c := (eFxcvt c).2, ty := (eFxcvt c).1.ty, md := (mkMod (eFxcvt c).1 .all).toWord })
  | .vfma op t rm mk d a b c => some (encA 0x43#8 { mn := BitVec.ofNat 8 (eFma op), d := eVD d, a := eVS a, b := eVS b, c := eVS c, ty := (eFR t rm).ty, md := (mkMod (eFR t rm) mk).toWord })
  | .vcmp c mk d a b => some (encA 0x4f#8 { mn := BitVec.ofNat 8 (eVCmp c).2, d := eKD d, a := eVS a, b := eVS b, c := 0#7, ty := (eVCmp c).1.ty, md := (mkMod (eVCmp c).1 mk).toWord })
  | .vcvt c mk d a b => some (encA 0x5d#8 { mn := 0#8, d := eVD d, a := eVS a, b := eSS b, c := (eVcvt c).2, ty := (eVcvt c).1.ty, md := (mkMod (eVcvt c).1 mk).toWord })
  | .vmxq x t rm d a b => some (encA 0x5e#8 { mn := 0#8, d := eVD d, a := eVS a, b := eSR b, c := c7 (eMxT t), ty := (eMx x rm).ty, md := (mkMod (eMx x rm) .all).toWord })
  | .vmxd x t rm d a b => some (encA 0x5f#8 { mn := 0#8, d := eVD d, a := eVS a, b := eSS b, c := c7 (eMxT t), ty := (eMx x rm).ty, md := (mkMod (eMx x rm) .all).toWord })
  | .acvt c d a b => some (encA 0x86#8 { mn := 0#8, d := eVD d, a := eAR a, b := eSS b, c := (eAcvt c).2, ty := (eAcvt c).1.ty, md := (mkMod (eAcvt c).1 .all).toWord })
  | .aput t mk d a b => some (encA 0x89#8 { mn := 0#8, d := eAR d, a := eVS a, b := eSS b, c := 0#7, ty := (eAV t).ty, md := (mkMod (eAV t) (keepMsk mk)).toWord })
  | .nop => some (encA 0#8 zA)
  | .recv d a => some (encA 0x31#8 { zA with d := eXD d, a := eCI a, md := eWid (XDst.wid d) })
  | .tryrecv d a pc => some (encA 0x31#8 { zA with mn := 1#8, d := eXD d, a := eCI a, c := eP pc, md := eWid (XDst.wid d) })
  | .send d a tag => some (encA 0x32#8 { zA with d := eCO d, a := eXS a, b := (eTag tag).1, md := eSend (XSrc.wid a) (eTag tag) })
  | .trysend d a tag pc => some (encA 0x32#8 { zA with mn := 1#8, d := eCO d, a := eXS a, b := (eTag tag).1, c := eP pc, md := eSend (XSrc.wid a) (eTag tag) })
  | .peek d a => some (encA 0x33#8 { zA with d := eXD d, a := eCI a, md := eWid (XDst.wid d) })
  | .trypeek d a pc => some (encA 0x33#8 { zA with mn := 1#8, d := eXD d, a := eCI a, c := eP pc, md := eWid (XDst.wid d) })
  | .tagh d a => some (encA 0x34#8 { zA with d := eSD d, a := eCI a })
  | .chreset a => some (encA 0x35#8 { zA with a := eCI a })
  | .pset d => some (encA 0x36#8 { zA with d := ePres d })
  | .pclr d => some (encA 0x36#8 { zA with mn := 1#8, d := ePres d })
  | .chcount d a => some (encA 0x37#8 { zA with d := eSD d, a := eCI a })
  | .chfree d a => some (encA 0x37#8 { zA with mn := 1#8, d := eSD d, a := eCO a })
  | .done code => some (encA 0x38#8 { zA with md := 0#8 ++ code })
  | .yield => some (encA 0x39#8 zA)
  | .handover => some (encA 0x3a#8 zA)
  | .trap a code => some (encA 0x3b#8 { zA with a := eSS a, md := code })
  | .watch w d a b => some (encA 0x3c#8 { zA with d := eP d, a := eSS a, b := eSS b, c := (eWatch w).1, ty := eWTy w.ty, md := (eWatch w).2 })
  | .unwatch d => some (encA 0x3d#8 { zA with d := eP d })
  | .sleep n => some (encA 0x3e#8 { zA with md := n })
  | .bkpt code => some (encA 0x3f#8 { zA with md := code })
  | .mma f => some (encXm 0x80#8 (eMma f 0#5 0#1 0#2))
  | .mmas f sm msp => some (encXm 0x81#8 (eMma f (BitVec.ofNat 5 sm) (ofB msp) 0#2))
  | .mmv f => some (encXm 0x82#8 (eMma f 0#5 0#1 0#2))
  | .mmr f ns => some (encXm 0xaa#8 (eMma f 0#5 (ofB ns) 0#2))
  | .aload f => some (encXa 0x84#8 (eAccMem f))
  | .astore f => some (encXa 0x85#8 (eAccMem f))
  | .gcfg g a b => some (encA 0x90#8 { zA with a := ePair a, b := ePair b, md := m16 g })
  | .gstart g => some (encA 0x91#8 { zA with md := m16 g })
  | .gstop d g => some (encA 0x92#8 { zA with d := eSD d, md := m16 g })
  | .gbar d mask e => some (encA 0x93#8 { zA with d := eP d, md := 0#7 ++ (ofB e ++ mask) })
  | .ld m d => some (encM 0x94#8 (eLd m d))
  | .st m a => some (encM 0x95#8 (eSt m a))
  | .vld m d => some (encM 0x96#8 (eM m (eVD d) 0#7))
  | .vst m a => some (encM 0x97#8 (eM m 0#7 (eVS a)))
  | .tamo m d o => some (encM 0x98#8 { eM m (eSD d) (eLAt o).2 with mn := (eLAt o).1 })
  | .vgath m d i => some (encM 0x9c#8 (eM m (eVD d) (eVS i)))
  | .vscat m i a => some (encM 0x9d#8 (eM m (eVS a) (eVS i)))
  | .cpy f => some (encXc 0x99#8 (eCpy f))
  | .cpy2d f => some (encXc 0x9a#8 (eCpy f))
  | .drainTcm d => some (encA 0x9b#8 { zA with d := eP d })
  | .drainCsp d => some (encA 0x9b#8 { zA with mn := 1#8, d := eP d })
  | .drainGlb d => some (encA 0x9b#8 { zA with mn := 2#8, d := eP d })
  | .cld m d => some (encM 0xa0#8 (eLd m d))
  | .cst m a => some (encM 0xa1#8 (eSt m a))
  | .cvld m d => some (encM 0xa2#8 (eM m (eVD d) 0#7))
  | .cvst m a => some (encM 0xa3#8 (eM m 0#7 (eVS a)))
  | .camo m d o => some (encM 0xa4#8 { eM m (eSD d) (eLAt o).2 with mn := (eLAt o).1 })
  | .bput d n a => some (encA 0xa5#8 { zA with d := eP d, a := (eBS a).1, md := eBuf n (eBS a).2 })
  | .trybput d n a pc => some (encA 0xa5#8 { zA with mn := 1#8, d := eP d, a := (eBS a).1, c := eP pc, md := eBuf n (eBS a).2 })
  | .bget d n => some (encA 0xa6#8 { zA with d := (eBD d).1, a := (eBD d).2.1, md := eBuf n (eBD d).2.2 })
  | .trybget d n pc => some (encA 0xa6#8 { zA with mn := 1#8, d := (eBD d).1, a := (eBD d).2.1, c := eP pc, md := eBuf n (eBD d).2.2 })
  | .bwait d n e => some (encA 0xa7#8 { zA with d := eP d, md := eBuf n (ofB e) })
  | .nsend dir a tag => some (encA 0xa8#8 { zA with a := eXS a, b := (eTag tag).1, md := eNb (XSrc.wid a) dir (eTag tag) })
  | .trynsend dir a tag pc => some (encA 0xa8#8 { zA with mn := 1#8, a := eXS a, b := (eTag tag).1, c := eP pc, md := eNb (XSrc.wid a) dir (eTag tag) })
  | .nrecv d dir => some (encA 0xa9#8 { zA with d := eXD d, md := eNb (XDst.wid d) dir (0#7, 0#8, false) })
  | .trynrecv d dir pc => some (encA 0xa9#8 { zA with mn := 1#8, d := eXD d, c := eP pc, md := eNb (XDst.wid d) dir (0#7, 0#8, false) })
  | .cbar d => some (encA 0xab#8 { zA with d := eP d })
  | .ldg m d => some (encM 0xb0#8 (eLd m d))
  | .stg m a => some (encM 0xb1#8 (eSt m a))
  | .vldg m d => some (encM 0xb2#8 (eM m (eVD d) 0#7))
  | .vstg m a => some (encM 0xb3#8 (eM m 0#7 (eVS a)))
  | .amo m o d a => some (encM 0xb4#8 { eM m (eSD d) (eSS a) with mn := BitVec.ofNat 8 (eRmw o) })
  | .cas m d a => some (encM 0xb5#8 (eM m (eSD d) (ePS a)))
  | .aincBound m d a => some (encM 0xb6#8 (eM m (eSD d) (eSS a)))
  | .fence sc => some (encM 0xb7#8 (eM { base := 0, off := 0#22, scope := sc, ord := .none } 0#7 0#7))
  | .otpub n => some (encA 0xb8#8 { zA with md := 0#11 ++ (b4 n ++ 0#1) })
  | .otpubCirc label ix => some (encA 0xb8#8 { zA with md := 0#4 ++ (label ++ (0#1 ++ (b3 ix ++ 1#1))) })
  | .otwait d n => some (encA 0xb9#8 { zA with d := eP d, md := m16 n })
  | .join d mask => some (encA 0xba#8 { zA with d := eP d, md := 0#8 ++ mask })
  | .pfg base off a => some (encM 0xbb#8 { mn := 0#8, d := 0#7, base := eSR base, di := eSS a, scope := 0#3, ord := 0#2, off := off })
  | .tspawn d a b c => some (encA 0xc0#8 { zA with d := eSR d, a := eSS a, b := eSS b, c := eSS c })
  | .trytspawn d a b c pc => some (encA 0xc0#8 { zA with mn := 1#8, d := eSR d, a := eSS a, b := eSS b, c := eSS c, md := m16 pc })
  | .tenq d a => some (encA 0xc1#8 { zA with d := eSD d, a := eSS a })
  | .trytenq d a pc => some (encA 0xc1#8 { zA with mn := 1#8, d := eSD d, a := eSS a, md := m16 pc })
  | .tdec a => some (encA 0xc2#8 { zA with a := eSS a })
  | .tstatus d a => some (encA 0xc3#8 { zA with d := eSD d, a := eSS a })
  | .tcancel d a b => some (encA 0xc4#8 { zA with d := eP d, a := eSS a, b := eSS b })
  | .tinc d a b => some (encA 0xc5#8 { zA with d := eP d, a := eSS a, b := eSS b })
  | .tparam d a => some (encA 0xc6#8 { zA with d := eSD d, a := eSS a })
  | .tbound d => some (encA 0xc7#8 { zA with d := eSD d })
  | .rsend label a tag => some (encA 0xc8#8 { zA with d := label, a := eXS a, b := (eTag tag).1, md := eSend (XSrc.wid a) (eTag tag) })
  | .tryrsend label a tag pc => some (encA 0xc8#8 { zA with mn := 1#8, d := label, a := eXS a, b := (eTag tag).1, c := eP pc, md := eSend (XSrc.wid a) (eTag tag) })
  | .rstore label m a => some (encM 0xc9#8 (eM m label (eSS a)))
  | .rdec a b => some (encA 0xca#8 { zA with a := eSS a, b := eSS b })
  | .pbar d b => some (encA 0xcb#8 { zA with d := eP d, b := eSS b })
  | .pcomb op d a b => some (encA 0xcc#8 { zA with mn := BitVec.ofNat 8 (eComb op), d := eSD d, a := eSS a, b := eSS b })
  | .pbcast d a b => some (encA 0xcd#8 { zA with d := eSD d, a := eSS a, b := eSS b })
  | .pabort b => some (encA 0xce#8 { zA with b := eSS b })
  | .cfgr d a => some (encA 0xd0#8 { zA with d := eSD d, a := eSS a })
  | .cfgw d a b => some (encA 0xd1#8 { zA with d := eP d, a := eSS a, b := eSS b })
  | .vfsetEnable d a b => some (encA 0xd2#8 { zA with d := eSD d, a := eSS a, b := eSS b })
  | .vfsetTeardown _ _ _ => none
  | .operationWriteback | .handoverStep | .contextStop | .contextRelease | .migrateTrap
  | .channelEntryArrival | .creditArrival | .egressTransmit | .windowWriteArrival
  | .windowRefusal | .acknowledgementArrival | .watchArm | .watchNotify
  | .sleepTimerExpiry | .drawRefill | .overrun | .ruleStoreScrub | .tcmScrub | .cspScrub
  | .ruleImageLoad | .streamElement | .gbarRelease | .copyChunk | .copyComplete
  | .orderTokenComplete | .matrixOperationStart | .neighbourEntryArrival | .neighbourRetry
  | .bufferRequest | .fullBitChange | .barrierArrival | .barrierRelease | .mmrPanelArrival
  | .globalRead | .globalWrite | .globalAtomic | .translationWalk | .walkComplete
  | .mergeEntryClose | .circuitToken | .flushToken | .roundMarker | .sweepMarker | .sweepEcho
  | .linkFlushMarker | .linkFlushEcho | .linkRetirementNotice | .decrementArrival
  | .taskRequest | .waitingRequestApply | .stagingGateOpen | .stagingAllowanceExpiry | .cspStagingCopy
  | .placementDecision | .taskRetirement | .instanceCompletion | .launch | .class0Preemption
  | .victimSaveComplete | .migrationDestinationFree | .stubOpen | .stubClose | .migrationResume
  | .pageMove | .packageTick | .switchSave | .saveDeadlineKill | .switchIn | .teardown
  | .abortMarker | .vfFunctionLevelReset | .vfctlEnable | .vfctlTeardown | .configRegisterWrite
  | .launchWrite | .completionEntryWrite | .cqheadWrite | .msixCoalesceTimer | .hostRead
  | .hostWrite | .pcapWrite | .coldStart | .warmStart | .startTimeout | .attestationReport
  | .telemetrySample | .thermalSample | .linkDataFlit | .controlFlit | .replayTimeout
  | .linkRetrain | .retrainAttemptTimeout | .rtcntDecay | .d2dLinkFailure | .podGroupPacket
  | .rsendRetry | .apertureWrite | .templateRegistration | .templateUnregistration
  | .watchDisarm | .pageMoveComplete | .taskSaveComplete | .taskRestoreComplete
  | .bar0RegisterWrite | .linkControlFlitInterval | .ualinkPortFailure | .d2dLinkRetraining => none
  | .quota d a b => some (encA 0xd3#8 { zA with d := eSD d, a := eSS a, b := eSS b })
  | .wtouch d a b => some (encA 0xd4#8 { zA with d := eSD d, a := eSS a, b := eSS b })
  | .wresMobile d a b => some (encA 0xd5#8 { zA with d := eSD d, a := eSS a, b := eSS b })
  | .wresFixed d a b => some (encA 0xd5#8 { zA with d := eSD d, a := eSS a, b := eSS b, md := m16 1 })
  | .wresUp d a b => some (encA 0xd5#8 { zA with d := eSD d, a := eSS a, b := eSS b, md := m16 2 })
  | .wresDown d a b => some (encA 0xd5#8 { zA with d := eSD d, a := eSS a, b := eSS b, md := m16 3 })
  | .wresQuery code d a b => some (encA 0xd5#8 { zA with d := eSD d, a := eSS a, b := eSS b, md := m16 (4 + code) })
  | .csave d a b => some (encA 0xd6#8 { zA with d := eSD d, a := eSS a, b := eSS b })
  | .crest d a => some (encA 0xd7#8 { zA with d := eSD d, a := eSS a })
  | .xinv range d a b c => some (encA 0xd8#8 { zA with d := eP d, a := eSS a, b := eSS b, c := eSS c, md := m16 range })
  | .fqpop d a => some (encA 0xd9#8 { zA with d := eVR d, a := eSS a })
  | .mtret d a b => some (encA 0xda#8 { zA with d := eSD d, a := eSS a, b := eSS b })
  | .ctxw d a b c => some (encA 0xdb#8 { zA with d := eSD d, a := eSS a, b := eSS b, c := eSS c })
  | .srd d a => some (encA 0xdc#8 { zA with d := eSD d, a := eSS a })
  | .swr d a b => some (encA 0xdd#8 { zA with d := eP d, a := eSS a, b := eSS b })
  | .add t sat d a b => some (encA 1#8 { mn := 0#8, d := eSD d, a := eSS a, b := eSS b, c := 0#7, ty := (eIxS t sat).ty, md := (mkMod (eIxS t sat) .all).toWord })
  | .sub t sat d a b => some (encA 2#8 { mn := 0#8, d := eSD d, a := eSS a, b := eSS b, c := 0#7, ty := (eIxS t sat).ty, md := (mkMod (eIxS t sat) .all).toWord })
  | .mul t sat d a b => some (encA 3#8 { mn := 0#8, d := eSD d, a := eSS a, b := eSS b, c := 0#7, ty := (eIxS t sat).ty, md := (mkMod (eIxS t sat) .all).toWord })
  | .mulh t d a b => some (encA 4#8 { mn := 0#8, d := eSD d, a := eSS a, b := eSS b, c := 0#7, ty := (tmOf (eITy t)).ty, md := (mkMod (tmOf (eITy t)) .all).toWord })
  | .div t sat d a b => some (encA 5#8 { mn := 0#8, d := eSD d, a := eSS a, b := eSS b, c := 0#7, ty := (eIxS t sat).ty, md := (mkMod (eIxS t sat) .all).toWord })
  | .rem t d a b => some (encA 6#8 { mn := 0#8, d := eSD d, a := eSS a, b := eSS b, c := 0#7, ty := (tmOf (eITy t)).ty, md := (mkMod (tmOf (eITy t)) .all).toWord })
  | .min t d a b => some (encA 7#8 { mn := 0#8, d := eSD d, a := eSS a, b := eSS b, c := 0#7, ty := (eIx t).ty, md := (mkMod (eIx t) .all).toWord })
  | .max t d a b => some (encA 8#8 { mn := 0#8, d := eSD d, a := eSS a, b := eSS b, c := 0#7, ty := (eIx t).ty, md := (mkMod (eIx t) .all).toWord })
  | .and t d a b => some (encA 9#8 { mn := 0#8, d := eSD d, a := eSS a, b := eSS b, c := 0#7, ty := (tmOf (eITy t)).ty, md := (mkMod (tmOf (eITy t)) .all).toWord })
  | .or t d a b => some (encA 10#8 { mn := 0#8, d := eSD d, a := eSS a, b := eSS b, c := 0#7, ty := (tmOf (eITy t)).ty, md := (mkMod (tmOf (eITy t)) .all).toWord })
  | .xor t d a b => some (encA 11#8 { mn := 0#8, d := eSD d, a := eSS a, b := eSS b, c := 0#7, ty := (tmOf (eITy t)).ty, md := (mkMod (tmOf (eITy t)) .all).toWord })
  | .andn t d a b => some (encA 12#8 { mn := 0#8, d := eSD d, a := eSS a, b := eSS b, c := 0#7, ty := (tmOf (eITy t)).ty, md := (mkMod (tmOf (eITy t)) .all).toWord })
  | .shl t d a b => some (encA 13#8 { mn := 0#8, d := eSD d, a := eSS a, b := eSS b, c := 0#7, ty := (tmOf (eITy t)).ty, md := (mkMod (tmOf (eITy t)) .all).toWord })
  | .shr t d a b => some (encA 14#8 { mn := 0#8, d := eSD d, a := eSS a, b := eSS b, c := 0#7, ty := (tmOf (eITy t)).ty, md := (mkMod (tmOf (eITy t)) .all).toWord })
  | .sra t d a b => some (encA 15#8 { mn := 0#8, d := eSD d, a := eSS a, b := eSS b, c := 0#7, ty := (tmOf (eITy t)).ty, md := (mkMod (tmOf (eITy t)) .all).toWord })
  | .rol t d a b => some (encA 16#8 { mn := 0#8, d := eSD d, a := eSS a, b := eSS b, c := 0#7, ty := (tmOf (eITy t)).ty, md := (mkMod (tmOf (eITy t)) .all).toWord })
  | .ror t d a b => some (encA 16#8 { mn := 1#8, d := eSD d, a := eSS a, b := eSS b, c := 0#7, ty := (tmOf (eITy t)).ty, md := (mkMod (tmOf (eITy t)) .all).toWord })
  | .clz t d a => some (encA 17#8 { mn := 0#8, d := eSD d, a := eSS a, b := 0#7, c := 0#7, ty := (tmOf (eITy t)).ty, md := (mkMod (tmOf (eITy t)) .all).toWord })
  | .ctz t d a => some (encA 18#8 { mn := 0#8, d := eSD d, a := eSS a, b := 0#7, c := 0#7, ty := (tmOf (eITy t)).ty, md := (mkMod (tmOf (eITy t)) .all).toWord })
  | .popc t d a => some (encA 19#8 { mn := 0#8, d := eSD d, a := eSS a, b := 0#7, c := 0#7, ty := (tmOf (eITy t)).ty, md := (mkMod (tmOf (eITy t)) .all).toWord })
  | .bext t d a b c => some (encA 20#8 { mn := 0#8, d := eSD d, a := eSS a, b := eSS b, c := eSS c, ty := (eExt64 t).ty, md := (mkMod (eExt64 t) .all).toWord })
  | .bins d a b c => some (encA 21#8 { mn := 0#8, d := eSR d, a := eSS a, b := eSS b, c := eSS c, ty := (tmOf 0).ty, md := (mkMod (tmOf 0) .all).toWord })
  | .sel d a b c => some (encA 22#8 { mn := 0#8, d := eSD d, a := eSS a, b := eSS b, c := eP c, ty := (tmOf 0).ty, md := (mkMod (tmOf 0) .all).toWord })
  | .sext t d a => some (encA 30#8 { mn := 0#8, d := eSD d, a := eSS a, b := 0#7, c := 0#7, ty := (eExtS t).ty, md := (mkMod (eExtS t) .all).toWord })
  | .zext t d a => some (encA 30#8 { mn := 1#8, d := eSD d, a := eSS a, b := 0#7, c := 0#7, ty := (eExtN t).ty, md := (mkMod (eExtN t) .all).toWord })
  | .mov d a => some (encA 31#8 { mn := 0#8, d := eSD d, a := eSS a, b := 0#7, c := 0#7, ty := (tmOf 0).ty, md := (mkMod (tmOf 0) .all).toWord })
  | .fadd t rm d a b => some (encA 32#8 { mn := 0#8, d := eSD d, a := eSS a, b := eSS b, c := 0#7, ty := (eFR t rm).ty, md := (mkMod (eFR t rm) .all).toWord })
  | .fsub t rm d a b => some (encA 33#8 { mn := 0#8, d := eSD d, a := eSS a, b := eSS b, c := 0#7, ty := (eFR t rm).ty, md := (mkMod (eFR t rm) .all).toWord })
  | .fmul t rm d a b => some (encA 34#8 { mn := 0#8, d := eSD d, a := eSS a, b := eSS b, c := 0#7, ty := (eFR t rm).ty, md := (mkMod (eFR t rm) .all).toWord })
  | .fdiv t rm d a b => some (encA 35#8 { mn := 0#8, d := eSD d, a := eSS a, b := eSS b, c := 0#7, ty := (eFR t rm).ty, md := (mkMod (eFR t rm) .all).toWord })
  | .fsqrt t rm d a => some (encA 36#8 { mn := 0#8, d := eSD d, a := eSS a, b := 0#7, c := 0#7, ty := (eFR t rm).ty, md := (mkMod (eFR t rm) .all).toWord })
  | .fmin t d a b => some (encA 38#8 { mn := 0#8, d := eSD d, a := eSS a, b := eSS b, c := 0#7, ty := (tmOf (eFTy t)).ty, md := (mkMod (tmOf (eFTy t)) .all).toWord })
  | .fmax t d a b => some (encA 39#8 { mn := 0#8, d := eSD d, a := eSS a, b := eSS b, c := 0#7, ty := (tmOf (eFTy t)).ty, md := (mkMod (tmOf (eFTy t)) .all).toWord })
  | .fclass t d a => some (encA 41#8 { mn := 0#8, d := eSD d, a := eSS a, b := 0#7, c := 0#7, ty := (tmOf (eFcTy t)).ty, md := (mkMod (tmOf (eFcTy t)) .all).toWord })
  | .fneg t d a => some (encA 46#8 { mn := 0#8, d := eSD d, a := eSS a, b := 0#7, c := 0#7, ty := (tmOf (eFTy t)).ty, md := (mkMod (tmOf (eFTy t)) .all).toWord })
  | .fabs t d a => some (encA 46#8 { mn := 1#8, d := eSD d, a := eSS a, b := 0#7, c := 0#7, ty := (tmOf (eFTy t)).ty, md := (mkMod (tmOf (eFTy t)) .all).toWord })
  | .fcpsgn t d a b => some (encA 46#8 { mn := 2#8, d := eSD d, a := eSS a, b := eSS b, c := 0#7, ty := (tmOf (eFTy t)).ty, md := (mkMod (tmOf (eFTy t)) .all).toWord })
  | .fflag d a => some (encA 47#8 { mn := 0#8, d := eSD d, a := eSS a, b := 0#7, c := 0#7, ty := (tmOf 0).ty, md := (mkMod (tmOf 0) .all).toWord })
  | .fflagClr d a => some (encA 47#8 { mn := 1#8, d := eSD d, a := eSS a, b := 0#7, c := 0#7, ty := (tmOf 0).ty, md := (mkMod (tmOf 0) .all).toWord })
  | .pand d a b => some (encA 48#8 { mn := 0#8, d := eP d, a := eP a, b := eP b, c := 0#7, ty := (tmOf 0).ty, md := (mkMod (tmOf 0) .all).toWord })
  | .por d a b => some (encA 48#8 { mn := 1#8, d := eP d, a := eP a, b := eP b, c := 0#7, ty := (tmOf 0).ty, md := (mkMod (tmOf 0) .all).toWord })
  | .pxor d a b => some (encA 48#8 { mn := 2#8, d := eP d, a := eP a, b := eP b, c := 0#7, ty := (tmOf 0).ty, md := (mkMod (tmOf 0) .all).toWord })
  | .pandn d a b => some (encA 48#8 { mn := 3#8, d := eP d, a := eP a, b := eP b, c := 0#7, ty := (tmOf 0).ty, md := (mkMod (tmOf 0) .all).toWord })
  | .pnot d a => some (encA 48#8 { mn := 4#8, d := eP d, a := eP a, b := 0#7, c := 0#7, ty := (tmOf 0).ty, md := (mkMod (tmOf 0) .all).toWord })
  | .pmov d a => some (encA 48#8 { mn := 5#8, d := eP d, a := eP a, b := 0#7, c := 0#7, ty := (tmOf 0).ty, md := (mkMod (tmOf 0) .all).toWord })
  | .vadd t mk d a b => some (encA 64#8 { mn := 0#8, d := eVD d, a := eVS a, b := eVS b, c := 0#7, ty := (eVA t).ty, md := (mkMod (eVA t) mk).toWord })
  | .vsub t mk d a b => some (encA 65#8 { mn := 0#8, d := eVD d, a := eVS a, b := eVS b, c := 0#7, ty := (eVA t).ty, md := (mkMod (eVA t) mk).toWord })
  | .vmul t mk d a b => some (encA 66#8 { mn := 0#8, d := eVD d, a := eVS a, b := eVS b, c := 0#7, ty := (eVA t).ty, md := (mkMod (eVA t) mk).toWord })
  | .vdiv t mk d a b => some (encA 68#8 { mn := 0#8, d := eVD d, a := eVS a, b := eVS b, c := 0#7, ty := (eVA t).ty, md := (mkMod (eVA t) mk).toWord })
  | .vmin t mk d a b => some (encA 69#8 { mn := 0#8, d := eVD d, a := eVS a, b := eVS b, c := 0#7, ty := (eVP t).ty, md := (mkMod (eVP t) mk).toWord })
  | .vmax t mk d a b => some (encA 70#8 { mn := 0#8, d := eVD d, a := eVS a, b := eVS b, c := 0#7, ty := (eVP t).ty, md := (mkMod (eVP t) mk).toWord })
  | .vabs t mk d a => some (encA 71#8 { mn := 0#8, d := eVD d, a := eVS a, b := 0#7, c := 0#7, ty := (eVSg t).ty, md := (mkMod (eVSg t) mk).toWord })
  | .vneg t mk d a => some (encA 72#8 { mn := 0#8, d := eVD d, a := eVS a, b := 0#7, c := 0#7, ty := (eVSg t).ty, md := (mkMod (eVSg t) mk).toWord })
  | .vand t mk d a b => some (encA 73#8 { mn := 0#8, d := eVD d, a := eVS a, b := eVS b, c := 0#7, ty := (tmOf (eITy t)).ty, md := (mkMod (tmOf (eITy t)) mk).toWord })
  | .vor t mk d a b => some (encA 74#8 { mn := 0#8, d := eVD d, a := eVS a, b := eVS b, c := 0#7, ty := (tmOf (eITy t)).ty, md := (mkMod (tmOf (eITy t)) mk).toWord })
  | .vxor t mk d a b => some (encA 75#8 { mn := 0#8, d := eVD d, a := eVS a, b := eVS b, c := 0#7, ty := (tmOf (eITy t)).ty, md := (mkMod (tmOf (eITy t)) mk).toWord })
  | .vshl t mk d a b => some (encA 76#8 { mn := 0#8, d := eVD d, a := eVS a, b := eVS b, c := 0#7, ty := (tmOf (eITy t)).ty, md := (mkMod (tmOf (eITy t)) mk).toWord })
  | .vshr t mk d a b => some (encA 77#8 { mn := 0#8, d := eVD d, a := eVS a, b := eVS b, c := 0#7, ty := (tmOf (eITy t)).ty, md := (mkMod (tmOf (eITy t)) mk).toWord })
  | .vsra t mk d a b => some (encA 78#8 { mn := 0#8, d := eVD d, a := eVS a, b := eVS b, c := 0#7, ty := (tmOf (eITy t)).ty, md := (mkMod (tmOf (eITy t)) mk).toWord })
  | .vadds t mk d a b => some (encA 104#8 { mn := 0#8, d := eVD d, a := eVS a, b := eSS b, c := 0#7, ty := (eVA t).ty, md := (mkMod (eVA t) mk).toWord })
  | .vsubs t mk d a b => some (encA 105#8 { mn := 0#8, d := eVD d, a := eVS a, b := eSS b, c := 0#7, ty := (eVA t).ty, md := (mkMod (eVA t) mk).toWord })
  | .vclass t mk d a b => some (encA 103#8 { mn := 0#8, d := eKD d, a := eVS a, b := eSS b, c := 0#7, ty := (tmOf (eFcTy t)).ty, md := (mkMod (tmOf (eFcTy t)) mk).toWord })
  | .vmov t mk d a => some (encA 96#8 { mn := 0#8, d := eVD d, a := eVS a, b := 0#7, c := 0#7, ty := (tmOf (eETy t)).ty, md := (mkMod (tmOf (eETy t)) mk).toWord })
  | .vbcast t mk d a => some (encA 81#8 { mn := 0#8, d := eVD d, a := eSS a, b := 0#7, c := 0#7, ty := (tmOf (eETy t)).ty, md := (mkMod (tmOf (eETy t)) mk).toWord })
  | .viota t mk d a => some (encA 102#8 { mn := 0#8, d := eVD d, a := eSS a, b := 0#7, c := 0#7, ty := (tmOf (eITy t)).ty, md := (mkMod (tmOf (eITy t)) mk).toWord })
  | .vsel t d a b c => some (encA 80#8 { mn := 0#8, d := eVD d, a := eVS a, b := eVS b, c := eKS c, ty := (tmOf (eETy t)).ty, md := (mkMod (tmOf (eETy t)) .all).toWord })
  | .vperm t mk d a b => some (encA 82#8 { mn := 0#8, d := eVD d, a := eVS a, b := eVS b, c := 0#7, ty := (tmOf (eETy t)).ty, md := (mkMod (tmOf (eETy t)) mk).toWord })
  | .vrot t mk d a b => some (encA 83#8 { mn := 0#8, d := eVD d, a := eVS a, b := eSS b, c := 0#7, ty := (tmOf (eETy t)).ty, md := (mkMod (tmOf (eETy t)) mk).toWord })
  | .vext t d a b => some (encA 97#8 { mn := 0#8, d := eSD d, a := eVS a, b := eSS b, c := 0#7, ty := (tmOf (eETy t)).ty, md := (mkMod (tmOf (eETy t)) .all).toWord })
  | .vins t d a b => some (encA 98#8 { mn := 0#8, d := eVR d, a := eSS a, b := eSS b, c := 0#7, ty := (tmOf (eETy t)).ty, md := (mkMod (tmOf (eETy t)) .all).toWord })
  | .vcompress t d a c => some (encA 86#8 { mn := 0#8, d := eVD d, a := eVS a, c := eKS c, b := 0#7, ty := (tmOf (eETy t)).ty, md := (mkMod (tmOf (eETy t)) .all).toWord })
  | .vexpand t d a c => some (encA 87#8 { mn := 0#8, d := eVD d, a := eVS a, c := eKS c, b := 0#7, ty := (tmOf (eETy t)).ty, md := (mkMod (tmOf (eETy t)) .all).toWord })
  | .vpack t sat mk d a b => some (encA 84#8 { mn := 0#8, d := eVD d, a := eVS a, b := eVS b, c := 0#7, ty := (ePk t sat).ty, md := (mkMod (ePk t sat) mk).toWord })
  | .vunpk t mk d a b => some (encA 85#8 { mn := 0#8, d := eVD d, a := eVS a, b := eSS b, c := 0#7, ty := (eUn t).ty, md := (mkMod (eUn t) mk).toWord })
  | .kand d a b => some (encA 99#8 { mn := 0#8, d := eKD d, a := eKS a, b := eKS b, c := 0#7, ty := (tmOf 0).ty, md := (mkMod (tmOf 0) .all).toWord })
  | .kor d a b => some (encA 99#8 { mn := 1#8, d := eKD d, a := eKS a, b := eKS b, c := 0#7, ty := (tmOf 0).ty, md := (mkMod (tmOf 0) .all).toWord })
  | .kxor d a b => some (encA 99#8 { mn := 2#8, d := eKD d, a := eKS a, b := eKS b, c := 0#7, ty := (tmOf 0).ty, md := (mkMod (tmOf 0) .all).toWord })
  | .kandn d a b => some (encA 99#8 { mn := 3#8, d := eKD d, a := eKS a, b := eKS b, c := 0#7, ty := (tmOf 0).ty, md := (mkMod (tmOf 0) .all).toWord })
  | .knot d a => some (encA 99#8 { mn := 4#8, d := eKD d, a := eKS a, b := 0#7, c := 0#7, ty := (tmOf 0).ty, md := (mkMod (tmOf 0) .all).toWord })
  | .kmov d a => some (encA 99#8 { mn := 5#8, d := eKD d, a := eKS a, b := 0#7, c := 0#7, ty := (tmOf 0).ty, md := (mkMod (tmOf 0) .all).toWord })
  | .kpop d a => some (encA 100#8 { mn := 0#8, d := eSD d, a := eKS a, b := 0#7, c := 0#7, ty := (tmOf 0).ty, md := (mkMod (tmOf 0) .all).toWord })
  | .kfind d a => some (encA 101#8 { mn := 0#8, d := eSD d, a := eKS a, b := 0#7, c := 0#7, ty := (tmOf 0).ty, md := (mkMod (tmOf 0) .all).toWord })
  | .vredsum t mk d a b => some (encA 88#8 { mn := 0#8, d := eSD d, a := eVS a, b := eSS b, c := 0#7, ty := (eVA t).ty, md := (mkMod (eVA t) mk).toWord })
  | .vredmin t mk d a b => some (encA 89#8 { mn := 0#8, d := eSD d, a := eVS a, b := eSS b, c := 0#7, ty := (eVP t).ty, md := (mkMod (eVP t) mk).toWord })
  | .vredmax t mk d a b => some (encA 90#8 { mn := 0#8, d := eSD d, a := eVS a, b := eSS b, c := 0#7, ty := (eVP t).ty, md := (mkMod (eVP t) mk).toWord })
  | .vredand t mk d a b => some (encA 91#8 { mn := 0#8, d := eSD d, a := eVS a, b := eSS b, c := 0#7, ty := (tmOf (eITy t)).ty, md := (mkMod (tmOf (eITy t)) mk).toWord })
  | .vredor t mk d a b => some (encA 91#8 { mn := 1#8, d := eSD d, a := eVS a, b := eSS b, c := 0#7, ty := (tmOf (eITy t)).ty, md := (mkMod (tmOf (eITy t)) mk).toWord })
  | .vredxor t mk d a b => some (encA 91#8 { mn := 2#8, d := eSD d, a := eVS a, b := eSS b, c := 0#7, ty := (tmOf (eITy t)).ty, md := (mkMod (tmOf (eITy t)) mk).toWord })
  | .vdot t mk d a b c => some (encA 106#8 { mn := 0#8, d := eSD d, a := eVS a, b := eVS b, c := eSS c, ty := (eVA t).ty, md := (mkMod (eVA t) mk).toWord })
  | .vscan t mk d a b => some (encA 92#8 { mn := 0#8, d := eVD d, a := eVS a, b := eSS b, c := 0#7, ty := (eVA t).ty, md := (mkMod (eVA t) mk).toWord })
  | .sfrcp mk d a => some (encA 112#8 { mn := 0#8, d := eVD d, a := eVS a, b := 0#7, c := 0#7, ty := (tmOf 9).ty, md := (mkMod (tmOf 9) mk).toWord })
  | .sfrsqrt mk d a => some (encA 113#8 { mn := 0#8, d := eVD d, a := eVS a, b := 0#7, c := 0#7, ty := (tmOf 9).ty, md := (mkMod (tmOf 9) mk).toWord })
  | .sfsqrt mk d a => some (encA 114#8 { mn := 0#8, d := eVD d, a := eVS a, b := 0#7, c := 0#7, ty := (tmOf 9).ty, md := (mkMod (tmOf 9) mk).toWord })
  | .sfexp2 mk d a => some (encA 115#8 { mn := 0#8, d := eVD d, a := eVS a, b := 0#7, c := 0#7, ty := (tmOf 9).ty, md := (mkMod (tmOf 9) mk).toWord })
  | .sflog2 mk d a => some (encA 116#8 { mn := 0#8, d := eVD d, a := eVS a, b := 0#7, c := 0#7, ty := (tmOf 9).ty, md := (mkMod (tmOf 9) mk).toWord })
  | .sfsinpi mk d a => some (encA 117#8 { mn := 0#8, d := eVD d, a := eVS a, b := 0#7, c := 0#7, ty := (tmOf 9).ty, md := (mkMod (tmOf 9) mk).toWord })
  | .sfcospi mk d a => some (encA 118#8 { mn := 0#8, d := eVD d, a := eVS a, b := 0#7, c := 0#7, ty := (tmOf 9).ty, md := (mkMod (tmOf 9) mk).toWord })
  | .sfsincospi mk d a => some (encA 119#8 { mn := 0#8, d := eVPair d, a := eVS a, b := 0#7, c := 0#7, ty := (tmOf 9).ty, md := (mkMod (tmOf 9) mk).toWord })
  | .azero d => some (encA 131#8 { mn := 0#8, d := eAR d, a := 0#7, b := 0#7, c := 0#7, ty := (tmOf 0).ty, md := (mkMod (tmOf 0) .all).toWord })
  | .ascale t d a => some (encA 135#8 { mn := 0#8, d := eAR d, a := eSS a, b := 0#7, c := 0#7, ty := (eAA t).ty, md := (mkMod (eAA t) .all).toWord })
  | .aget t d a b => some (encA 136#8 { mn := 0#8, d := eVD d, a := eAR a, b := eSS b, c := 0#7, ty := (eAV t).ty, md := (mkMod (eAV t) .all).toWord })
  | .aadd t d a b => some (encA 138#8 { mn := 0#8, d := eAR d, a := eVS a, b := eSS b, c := 0#7, ty := (eAA t).ty, md := (mkMod (eAA t) .all).toWord })
  | .atrans d a => some (encA 139#8 { mn := 0#8, d := eAR d, a := eAR a, b := 0#7, c := 0#7, ty := (tmOf 0).ty, md := (mkMod (tmOf 0) .all).toWord })

/-! ## Rule slots (R40 to R44) -/

/-- Bits [127:64] of a slot. -/
structure FSlot where
  v : BitVec 1
  pri : BitVec 3
  r0 : BitVec 2
  t0 : BitVec 6
  t1 : BitVec 6
  t2 : BitVec 6
  kind : BitVec 3
  index : BitVec 5
  arg : BitVec 8
  pw0 : BitVec 7
  pw1 : BitVec 7
  dq : BitVec 1
  ho : BitVec 1
  clr : BitVec 1
  r1 : BitVec 7
deriving DecidableEq, Repr

def FSlot.ofWord (w : Word) : FSlot :=
  { v := fld w 63 1, pri := fld w 60 3, r0 := fld w 58 2, t0 := fld w 52 6, t1 := fld w 46 6, t2 := fld w 40 6,
    kind := fld w 37 3, index := fld w 32 5, arg := fld w 24 8, pw0 := fld w 17 7, pw1 := fld w 10 7, dq := fld w 9 1,
    ho := fld w 8 1, clr := fld w 7 1, r1 := fld w 0 7 }
def FSlot.toWord (f : FSlot) : Word :=
  f.v ++ (f.pri ++ (f.r0 ++ (f.t0 ++ (f.t1 ++ (f.t2 ++ (f.kind ++ (f.index ++ (f.arg ++ (f.pw0 ++ (f.pw1 ++ (f.dq ++ (f.ho ++
    (f.clr ++ f.r1)))))))))))))

/-- A predicate term (R41). -/
def dTerm (x : BitVec 6) : Chk (Option Term) :=
  if fld x 5 1 = 1#1 then .ok (some { pol := bit1 (fld x 4 1), p := fin 16 (fld x 0 4).toNat })
  else (.ok none : Chk (Option Term)).req 1 (x == 0#6)
def eTerm : Option Term → BitVec 6
  | none => 0#6
  | some t => 1#1 ++ (ofB t.pol ++ nP t.p)
/-- A predicate write (R43). -/
def dPw (x : BitVec 7) : Chk (Option PWrite) :=
  if fld x 6 1 = 1#1 then
    .ok (some { src := (match (fld x 4 2).toNat with | 0 => .clear | 1 => .set | 2 => .rc | _ => .toggle), p := fin 16 (fld x 0 4).toNat })
  else (.ok none : Chk (Option PWrite)).req 1 (x == 0#7)
def ePw : Option PWrite → BitVec 7
  | none => 0#7
  | some w => 1#1 ++ ((match w.src with | .clear => 0#2 | .set => 1#2 | .rc => 2#2 | .toggle => 3#2 : BitVec 2) ++ nP w.p)
/-- The register a condition of KIND 100 or 101 names, by ARG and INDEX. -/
def dCondReg (index arg : Nat) : Chk PresReg :=
  match arg with
  | 0 => .ok (.s (fin 32 index))
  | 1 => if index < 16 then .ok (.v (fin 16 index)) else .bad 5
  | 2 => if index < 8 then .ok (.k (fin 8 index)) else .bad 5
  | _ => .bad 5
def eCondReg : PresReg → Nat × Nat | .s r => (r, 0) | .v r => (r, 1) | .k r => (r, 2)
/-- The resource condition (R14, R42). -/
def dCond (kind index arg : Nat) : Chk Cond :=
  match kind with
  | 0 => (.ok .always : Chk Cond).req 1 (index == 0 && arg == 0)
  | 1 => (.ok (.count (fin 16 index) (fin 8 (arg - 1))) : Chk Cond).req 5 (decide (index < 16) && decide (1 ≤ arg) && decide (arg ≤ 8))
  | 2 => (.ok (.tagEq (fin 16 index) (BitVec.ofNat 8 arg)) : Chk Cond).req 5 (decide (index < 16))
  | 3 => (.ok (.tagNe (fin 16 index) (BitVec.ofNat 8 arg)) : Chk Cond).req 5 (decide (index < 16))
  | 4 => (dCondReg index arg).map .full
  | 5 => (dCondReg index arg).map .empty
  | 6 => (.ok (.space (fin 16 index) (fin 8 (arg - 1))) : Chk Cond).req 5 (decide (index < 16) && decide (1 ≤ arg) && decide (arg ≤ 8))
  | _ => (.ok (.idle (fin 4 index)) : Chk Cond).req 5 (decide (index < 4) && arg == 0)
def eCond : Cond → Nat × Nat × Nat
  | .always => (0, 0, 0) | .count c n => (1, c, n + 1) | .tagEq c t => (2, c, t.toNat) | .tagNe c t => (3, c, t.toNat)
  | .full r => (4, eCondReg r) | .empty r => (5, eCondReg r) | .space c n => (6, c, n + 1) | .idle a => (7, a, 0)

/-- Source 10 on a major that has no result condition, seen from the operation's bits, so that code 0x06 is reported even where
another check of the operation fails too. -/
def noRcOp (w : Word) : Bool :=
  match decodeOp w with
  | .ok i => i.noRc
  | .bad _ =>
    let m := (fld w 56 8).toNat
    m == 0 || (0x38 ≤ m && m < 0x40) || (0x80 ≤ m && m ≤ 0x85) || [0x87, 0x89, 0x8a, 0x8b, 0x90, 0x91, 0x95, 0x97, 0x99, 0x9a,
      0x9d, 0xa1, 0xa3, 0xaa, 0xb1, 0xb3, 0xb7, 0xb8, 0xbb, 0xc2, 0xc9, 0xca, 0xce, 0xd1, 0xd8, 0xdd].contains m

/-- The effects checks (code 0x06) on the raw fields (R25, R26, R27, R44). -/
def effectsOk (f : FSlot) (w : Word) : Bool :=
  let maj := (fld w 56 8).toNat
  let kind := f.kind.toNat
  (f.dq == 0#1 || (1 ≤ kind && kind ≤ 3 && !((maj == 0x31 || maj == 0x35) && fld w 34 7 == spec 2 f.index.toNat)))
  && (f.clr == 0#1 || kind == 4 || kind == 5)
  && (!(fld f.pw0 4 3 == 6#3 || fld f.pw1 4 3 == 6#3) || !noRcOp w)
  && (f.ho == 0#1 || !(0x38 ≤ maj && maj ≤ 0x3b))

/-- Decode a valid slot from its two doublewords. (DEDUCED, log 11.) -/
def decodeParts (hi lo : Word) : Chk Rule :=
  let f := FSlot.ofWord hi
  ((((((((((((.ok (fun t0 t1 t2 cond pw0 pw1 op =>
      { pri := fin 8 f.pri.toNat, t0 := t0, t1 := t1, t2 := t2, cond := cond, pw0 := pw0, pw1 := pw1, dq := bit1 f.dq,
        ho := bit1 f.ho, clr := bit1 f.clr, op := op : Rule}) :
      Chk (Option Term → Option Term → Option Term → Cond → Option PWrite → Option PWrite → Instr → Rule)).ap
    (dTerm f.t0)).ap (dTerm f.t1)).ap (dTerm f.t2)).ap (dCond f.kind.toNat f.index.toNat f.arg.toNat)).ap (dPw f.pw0)).ap
    (dPw f.pw1)).ap (decodeOp lo)).req 1 (f.r0 == 0#2)).req 1 (f.r1 == 0#7)).req 6 (effectsOk f lo)).req 1 (f.v == 1#1))

/-- Decode a slot: no rule where V = 0 and every bit is zero (R62), a rule, or the first failing check of R61 that does not
depend on the task record. -/
def decodeSlot (x : SlotWord) : Chk (Option Rule) :=
  if fld x 127 1 = 0#1 then (.ok none : Chk (Option Rule)).req 1 (x == 0#128)
  else (decodeParts (fld x 64 64) (fld x 0 64)).map some

/-- The guard half of a slot. -/
def encodeGuard (r : Rule) : Word :=
  let c := eCond r.cond
  FSlot.toWord
    { v := 1#1, pri := BitVec.ofNat 3 r.pri, r0 := 0#2, t0 := eTerm r.t0, t1 := eTerm r.t1, t2 := eTerm r.t2,
      kind := BitVec.ofNat 3 c.1, index := BitVec.ofNat 5 c.2.1, arg := BitVec.ofNat 8 c.2.2, pw0 := ePw r.pw0,
      pw1 := ePw r.pw1, dq := ofB r.dq, ho := ofB r.ho, clr := ofB r.clr, r1 := 0#7 }

/-- The slot of a rule. -/
def encodeRule (r : Rule) : Option SlotWord := (encodeOp r.op).map (fun w => encodeGuard r ++ w)

/-- The rule in a slot, if the slot is valid and decodes. -/
def slotRule (x : SlotWord) : Option Rule :=
  match decodeSlot x with
  | .ok r => r
  | .bad _ => none

/-! ## The environment checks of R61 -/

/-- What the loader knows of the task and the tile (R58, R59, R64, R170, R232, R264, R286, R288). -/
structure LoadEnv where
  priv : Bool
  mhmask : BitVec 16
  acnt : Nat
  gcnt : Nat
  bufv : BitVec 8
  barv : Bool
  nsendOk : BitVec 4
  nrecvOk : BitVec 4
  bisqueImage : Bool
  tiles : Nat
deriving DecidableEq, Repr

/-- Marked inbound channels named by a blocking twin form (R59). -/
def Instr.mhUse (i : Instr) : List Chan :=
  let x (a : XSrc) : List Chan :=
    match a with
    | .s (.chan c) => [c] | .pair (.chan c) => [c] | .k (.chan c) => [c] | .v (.chan c) => [c] | _ => []
  let s (a : SSrc) : List Chan := match a with | .chan c => [c] | _ => []
  let t (g : TagSrc) : List Chan := match g with | .reg b => s b | .imm _ => []
  match i with
  | .recv _ a => [a] | .peek _ a => [a] | .send _ a g => x a ++ t g | .nsend _ a g => x a ++ t g
  | .rsend _ a g => x a ++ t g
  | .bput _ _ (.tcm a) => s a | .bput _ _ (.vec (.chan c)) => [c] | .bget (.tcm _ a) _ => s a
  | .tspawn _ a b c => s a ++ s b ++ s c | .tenq _ a => s a
  | _ => []

/-- Accumulators an operation names (R170). -/
def Instr.accs : Instr → List AReg
  | .mma f | .mmas f _ _ | .mmv f | .mmr f _ => [f.blk.acc]
  | .aload f | .astore f => [f.blk.acc]
  | .azero d => [d] | .acvt _ _ a _ => [a] | .ascale _ d _ => [d] | .aget _ _ a _ => [a] | .aput _ _ d _ _ => [d]
  | .aadd _ d _ _ => [d] | .atrans d a => [d, a]
  | _ => []

/-- Streams an operation names, as the least count that grants them (R232). -/
def Instr.gneed : Instr → Nat
  | .gcfg g _ _ => g + 1 | .gstart g => g + 1 | .gstop _ g => g + 1
  | .gbar _ m _ => if m = 0#8 then 0 else m.toNat.log2 + 1
  | _ => 0

def Instr.bufUse : Instr → Option (Fin 8)
  | .bput _ n _ => some n | .trybput _ n _ _ => some n | .bget _ n => some n | .trybget _ n _ => some n | .bwait _ n _ => some n
  | _ => none
def Instr.isMmr : Instr → Bool | .mmr _ _ => true | _ => false
def Instr.isCbar : Instr → Bool | .cbar _ => true | _ => false

def Instr.nsendDir : Instr → Option (Fin 4) | .nsend d _ _ => some d | .trynsend d _ _ _ => some d | _ => none
def Instr.nrecvDir : Instr → Option (Fin 4) | .nrecv _ d => some d | .trynrecv _ d _ => some d | _ => none
/-- The accumulator a guard of KIND 111 tests must be granted (R170). -/
def Cond.accOk (c : Cond) (n : Nat) : Bool := match c with | .idle a => decide (a.val < n) | _ => true

/-- The checks that depend on the task record or the profile, least code first: granted accumulators and streams (R170),
buffers (R264), the gang of `mmr` (R286), the barrier (R288) and neighbour queues (R267); the Bisque image (R64); privilege
(R58); message handlers (R59). (DEDUCED, log 11.) -/
def envCheck (e : LoadEnv) (r : Rule) : Option Nat :=
  let i := r.op
  if !(i.accs.all (fun a => decide (a.val < e.acnt))) || !(decide (i.gneed ≤ e.gcnt)) ||
      !(r.cond.accOk e.acnt) ||
      (match i.nsendDir with | some d => !e.nsendOk.getLsbD d | none => false) ||
      (match i.nrecvDir with | some d => !e.nrecvOk.getLsbD d | none => false) ||
      (match i.bufUse with | some n => !e.bufv.getLsbD n | none => false) ||
      (i.isMmr && e.tiles != 16) || (i.isCbar && !e.barv) then some 7
  else if e.bisqueImage && i.glazeOnly then some 0x0a
  else if i.privileged && !e.priv then some 0x0b
  else if i.mhUse.any (fun c => e.mhmask.getLsbD c) then some 0x0c
  else none

/-- The task-record checks of code 0x07 seen from a slot's bits (R170, R232, R267, R286), so that a slot which fails a later
check of R61 too is still reported by the lower code. -/
def envBits (e : LoadEnv) (hi lo : Word) : Bool :=
  let f := FSlot.ofWord hi
  let acc := (fld lo 46 2).toNat
  (!(f.kind == 7#3 && decide (f.index.toNat < 4) && f.arg == 0#8) || decide (f.index.toNat < e.acnt)) &&
  (match (fld lo 56 8).toNat with
  | 0x82 => decide (acc < e.acnt)
  | 0xaa => decide (acc < e.acnt) && e.tiles == 16
  | 0x90 | 0x92 => decide ((fld lo 0 3).toNat < e.gcnt)
  | 0xa8 => e.nsendOk.getLsbD (fld lo 3 2).toNat
  | 0xa9 => e.nrecvOk.getLsbD (fld lo 3 2).toNat
  | _ => true)

/-- Every check of one slot: the code that R61's order puts first, or none. (DEDUCED, log 11.) -/
def slotCheck (e : LoadEnv) (x : SlotWord) : Option Nat :=
  match decodeSlot x with
  | .bad k => some (if 7 < k && !envBits e (fld x 64 64) (fld x 0 64) then 7 else k)
  | .ok none => none
  | .ok (some r) => envCheck e r

/-- The instruction the decoder reads from a word numbered as spec/opcode_table.json numbers it: up to 64 bits are the operation
doubleword of a slot, its low bits first; more are the slot. -/
def decodeTableWord (nbits w : Nat) : Option Instr :=
  if nbits ≤ 64 then
    match decodeOp (BitVec.ofNat 64 w) with
    | .ok i => some i
    | .bad _ => none
  else (slotRule (BitVec.ofNat 128 w)).map (·.op)

end Sys2Proof
end

