-- ==== Sys2Proof/Machine/Flags.lean ====
section
/-! DEFINITION. The sticky exception flags, the arithmetic modes and the generator SRNG (R98 to R105). -/

namespace Sys2Proof.Machine

/-- The six flags of FLAGS: bit 0 NX, 1 UF, 2 OF, 3 DZ, 4 IV, 5 SA (R103). -/
abbrev Fl := BitVec 6

def fNone : Fl := 0#6
def fNX : Fl := 1#6
def fUF : Fl := 2#6
def fOF : Fl := 4#6
def fDZ : Fl := 8#6
def fIV : Fl := 16#6
def fSA : Fl := 32#6

/-- A flag when the condition holds. -/
def flagIf (b : Bool) (f : Fl) : Fl := if b then f else fNone

/-- The fields of AMODE (R104): RND [2:0], FZ [3], TEN [9:4]. -/
abbrev AMode := BitVec 10
def AMode.rnd (a : AMode) : BitVec 3 := fld a 0 3
def AMode.fz (a : AMode) : Bool := a.getLsbD 3
def AMode.ten (a : AMode) : Fl := fld a 4 6

/-- The rounding that is in force once RM and AMODE.RND have been combined (R53, R98). -/
inductive Rnd where
  | rn | rz | ru | rd | rs
deriving DecidableEq, Repr

/-- AMODE.RND as a rounding: 000, 001, 110 and 111 round to nearest (R98). -/
def AMode.dyn (a : AMode) : Rnd :=
  match (a.rnd).toNat with
  | 2 => .rz | 3 => .ru | 4 => .rd | 5 => .rs | _ => .rn

/-- RM, or the dynamic mode when RM is 000 (R53). -/
def rndOf (r : Rm) (a : AMode) : Rnd :=
  match r with
  | .dyn => a.dyn | .rn => .rn | .rz => .rz | .ru => .ru | .rd => .rd | .rs => .rs

/-- The cause of R105 for the trapping flags `f`: the one of highest code, none when no flag traps. -/
def trapCause (f ten : Fl) : Option (BitVec 8) :=
  let t := f &&& ten
  if t.getLsbD 5 then some 6#8 else if t.getLsbD 4 then some 5#8 else if t.getLsbD 3 then some 4#8
  else if t.getLsbD 2 then some 3#8 else if t.getLsbD 1 then some 2#8 else if t.getLsbD 0 then some 1#8 else none

/-- Integer or FX64 division by zero (R105). -/
def causeDiv0 : BitVec 8 := 7#8
/-- Uncorrectable ECC on a loaded or read value (R105). -/
def causeEcc : BitVec 8 := 8#8
/-- Uncorrectable error in channel storage (R156). -/
def causeChan : BitVec 8 := 9#8

/-- One advance of the generator (R99). -/
def srngNext (s : BitVec 32) : BitVec 32 := s * 0x0019660d#32 + 0x3c6ef35f#32

end Sys2Proof.Machine
end

