-- ==== Sys2Proof/Machine/Fp.lean ====
section
/-! DEFINITION. Floating point (R91 to R102, R106, R107): values as exact dyadic numbers, one rounding. -/

namespace Sys2Proof.Machine

/-! ## Formats (R91) -/

/-- What the all-ones exponent of a format encodes (R91). -/
inductive FKind where
  | ieee | e4m3 | plain
deriving DecidableEq, Repr

/-- A format of R91: exponent bits, fraction bits, bias and kind. -/
structure FFmt where
  eb : Nat
  mb : Nat
  bias : Nat
  kind : FKind
deriving DecidableEq, Repr

def fmt64 : FFmt := ⟨11, 52, 1023, .ieee⟩
def fmt32 : FFmt := ⟨8, 23, 127, .ieee⟩
def fmt16 : FFmt := ⟨5, 10, 15, .ieee⟩
def fmtB16 : FFmt := ⟨8, 7, 127, .ieee⟩
def fmtE4M3 : FFmt := ⟨4, 3, 7, .e4m3⟩
def fmtE5M2 : FFmt := ⟨5, 2, 15, .ieee⟩
/-- MX elements: E4M3 and E5M2 keep their specials when read, E3M2, E2M3 and E2M1 have none (R91). -/
def fmtMx : MxF → FFmt
  | .fp8 => fmtE4M3 | .fp8w => fmtE5M2 | .fp6 => ⟨3, 2, 3, .plain⟩ | .fp6p => ⟨2, 3, 1, .plain⟩ | .fp4 => ⟨2, 1, 1, .plain⟩
/-- emax of R96. -/
def mxEmax : MxF → Int | .fp8 => 8 | .fp8w => 15 | .fp6 => 4 | .fp6p => 2 | .fp4 => 2

def fmtOf : FTy → FFmt | .f64 => fmt64 | .f32 => fmt32 | .f16 => fmt16 | .bf16 => fmtB16
def fmtOfC : FcTy → FFmt | .f t => fmtOf t | .e4m3 => fmtE4M3 | .e5m2 => fmtE5M2

def FFmt.width (f : FFmt) : Nat := 1 + f.eb + f.mb
/-- The exponent of the smallest normal number. -/
def FFmt.emin (f : FFmt) : Int := 1 - (f.bias : Int)
/-- The exponent of a unit of the subnormals. -/
def FFmt.umin (f : FFmt) : Int := f.emin - f.mb
/-- The largest finite magnitude is `maxM · 2^maxU`. -/
def FFmt.maxM (f : FFmt) : Nat := match f.kind with | .e4m3 => 2 ^ (f.mb + 1) - 2 | _ => 2 ^ (f.mb + 1) - 1
def FFmt.maxU (f : FFmt) : Int :=
  match f.kind with
  | .ieee => (2 ^ f.eb - 2 : Nat) - (f.bias : Int) - f.mb
  | _ => (2 ^ f.eb - 1 : Nat) - (f.bias : Int) - f.mb
def FFmt.signBit (f : FFmt) (neg : Bool) : Nat := if neg then 2 ^ (f.eb + f.mb) else 0
/-- The bits of infinity, where the format has one. -/
def FFmt.infBits (f : FFmt) (neg : Bool) : Nat := f.signBit neg + (2 ^ f.eb - 1) * 2 ^ f.mb
/-- The bits of the largest finite number. -/
def FFmt.maxBits (f : FFmt) (neg : Bool) : Nat :=
  f.signBit neg + (f.maxU + f.mb + f.bias - 1).toNat * 2 ^ f.mb + f.maxM
/-- The canonical NaN of R91. -/
def FFmt.nanBits (f : FFmt) : Nat :=
  match f.kind with
  | .ieee => (2 ^ f.eb - 1) * 2 ^ f.mb + 2 ^ (f.mb - 1)
  | _ => 2 ^ (f.eb + f.mb) - 1

/-! ## Values -/

/-- A floating-point value: a NaN (signalling or not), an infinity, or ±m·2^e. -/
inductive FVal where
  | nan (sig : Bool) | inf (neg : Bool) | num (neg : Bool) (m : Nat) (e : Int)
deriving DecidableEq, Repr

/-- The value that bits encode (R91). -/
def FFmt.read (f : FFmt) (x : Nat) : FVal :=
  let neg := x / 2 ^ (f.eb + f.mb) % 2 == 1
  let e := x / 2 ^ f.mb % 2 ^ f.eb
  let m := x % 2 ^ f.mb
  let fin : FVal := if e = 0 then .num neg m f.umin else .num neg (2 ^ f.mb + m) ((e : Int) - f.bias - f.mb)
  match f.kind with
  | .plain => fin
  | .e4m3 => if e = 2 ^ f.eb - 1 ∧ m = 2 ^ f.mb - 1 then .nan false else fin
  | .ieee =>
    if e = 2 ^ f.eb - 1 then (if m = 0 then .inf neg else .nan (m < 2 ^ (f.mb - 1))) else fin

/-- A subnormal operand is read as zero of the same sign under FZ (R102); FP8 and MX never flush. -/
def FFmt.isSub (f : FFmt) (x : Nat) : Bool := x / 2 ^ f.mb % 2 ^ f.eb == 0 && x % 2 ^ f.mb != 0
def FFmt.flushes (f : FFmt) : Bool := decide (f.width ≥ 16)
def FFmt.readZ (f : FFmt) (fz : Bool) (x : Nat) : FVal :=
  if fz && f.flushes && f.isSub x then .num (x / 2 ^ (f.eb + f.mb) % 2 == 1) 0 0 else f.read x

def FVal.isNan : FVal → Bool | .nan _ => true | _ => false
def FVal.isSNan : FVal → Bool | .nan s => s | _ => false
def FVal.neg : FVal → FVal | .nan s => .nan s | .inf n => .inf !n | .num n m e => .num (!n) m e
def FVal.sign : FVal → Bool | .nan _ => false | .inf n => n | .num n _ _ => n
def FVal.isZero : FVal → Bool | .num _ m _ => m == 0 | _ => false

/-! ## Rounding (R92, R99, R101, R102) -/

/-- What an operation leaves: the bits of the result, the flags it raises and SRNG after it. -/
structure FRes where
  bits : Nat
  fl : Fl
  srng : BitVec 32
deriving DecidableEq, Repr

/-- Division of a natural number by 2^q for an integer q, rounded down. -/
def shr' (m : Nat) (q : Int) : Nat := if q ≤ 0 then m * 2 ^ (-q).toNat else m / 2 ^ q.toNat
/-- What that division drops, as a numerator over 2^q. -/
def rem' (m : Nat) (q : Int) : Nat := if q ≤ 0 then 0 else m % 2 ^ q.toNat

/-- Whether a magnitude is rounded up from `lo`, given what was dropped: `rem/2^q`, and `st` when the exact value lies strictly
above that by less than one unit of the last kept bit of `rem`. -/
def roundUp (r : Rnd) (neg : Bool) (lo rem : Nat) (q : Int) (st : Bool) : Bool :=
  let inex := rem != 0 || st
  match r with
  | .rn => if q ≤ 0 then false else
      let half := 2 ^ (q - 1).toNat
      decide (half < rem) || (rem == half && (st || lo % 2 == 1))
  | .rz => false
  | .ru => inex && !neg
  | .rd => inex && neg
  | .rs => false

/-- The result of an overflow (R101); E4M3 gives its largest number in every mode. -/
def FFmt.overflow (f : FFmt) (r : Rnd) (neg : Bool) : Nat :=
  match f.kind with
  | .ieee =>
    match r with
    | .rn | .rs => f.infBits neg
    | .rz => f.maxBits neg
    | .ru => if neg then f.maxBits neg else f.infBits neg
    | .rd => if neg then f.infBits neg else f.maxBits neg
  | _ => f.maxBits neg

/-- Round ±m·2^e to the format, `m` not zero or `st` set; `st` says that the exact magnitude is strictly between m·2^e and
(m+1)·2^e, and is used only with m of far more bits than the format. MX elements (`mx`) raise NX alone and saturate (R96). -/
def FFmt.round (f : FFmt) (r : Rnd) (fz mx : Bool) (srng : BitVec 32) (neg : Bool) (m : Nat) (e : Int) (st : Bool) : FRes :=
  let lead : Int := e + m.log2
  let u : Int := max (lead - f.mb) f.umin
  let q : Int := u - e
  let lo := shr' m q
  let rem := rem' m q
  let inex := rem != 0 || st
  let sr := srngNext srng
  let up :=
    if r == .rs then decide ((rem * 2 ^ 24) / 2 ^ q.toNat > (sr >>> 8).toNat) && decide (0 < q)
    else roundUp r neg lo rem q st
  let mag := if up then lo + 1 else lo
  let srng' := if r == .rs then sr else srng
  let sgn := f.signBit neg
  let tiny : Bool :=
    if r == .rs then decide (u = f.umin) && decide (mag < 2 ^ f.mb)
    else
      let uq : Int := lead - f.mb - e
      let ulo := shr' m uq
      decide (lead < f.emin) &&
        !(lead == f.emin - 1 && roundUp r neg ulo (rem' m uq) uq st && ulo + 1 == 2 ^ (f.mb + 1))
  if decide (u > f.maxU) || (decide (u = f.maxU) && decide (mag > f.maxM)) then
    if mx then ⟨f.maxBits neg, fNX, srng'⟩ else ⟨f.overflow r neg, fOF ||| fNX, srng'⟩
  else if tiny && fz && f.flushes then ⟨sgn, fUF ||| fNX, srng'⟩
  else
    ⟨sgn + (u + f.mb + f.bias - 1).toNat * 2 ^ f.mb + mag, flagIf inex fNX ||| flagIf (tiny && inex && !mx) fUF, srng'⟩

/-- The environment of a rounding: mode, FZ, and SRNG on entry. -/
structure FEnv where
  r : Rnd
  fz : Bool
  srng : BitVec 32
deriving DecidableEq, Repr

/-- A canonical NaN with the given flags. -/
def FFmt.resNan (f : FFmt) (v : FEnv) (fl : Fl) : FRes := ⟨f.nanBits, fl, v.srng⟩
/-- An infinite result; a format without infinities takes its largest number and raises IV (R101, R96). -/
def FFmt.resInf (f : FFmt) (v : FEnv) (neg : Bool) (fl : Fl) : FRes :=
  if f.kind = .ieee then ⟨f.infBits neg, fl, v.srng⟩ else ⟨f.maxBits neg, fl ||| fIV, v.srng⟩
def FFmt.resZero (f : FFmt) (v : FEnv) (neg : Bool) (fl : Fl) : FRes := ⟨f.signBit neg, fl, v.srng⟩

/-- Round a value into the format. -/
def FFmt.ofVal (f : FFmt) (v : FEnv) (x : FVal) : FRes :=
  match x with
  | .nan s => f.resNan v (flagIf s fIV)
  | .inf n => f.resInf v n fNone
  | .num n m e => if m = 0 then f.resZero v n fNone else f.round v.r v.fz false v.srng n m e false

/-! ## Exact arithmetic -/

/-- A signed dyadic number z·2^e. -/
structure Dy where
  z : Int
  e : Int
deriving DecidableEq, Repr

def Dy.zero : Dy := ⟨0, 0⟩
def dyOf (n : Bool) (m : Nat) (e : Int) : Dy := ⟨if n then -(m : Int) else m, e⟩
def Dy.add (a b : Dy) : Dy :=
  if a.e ≤ b.e then ⟨a.z + b.z * 2 ^ (b.e - a.e).toNat, a.e⟩ else ⟨a.z * 2 ^ (a.e - b.e).toNat + b.z, b.e⟩
def Dy.mul (a b : Dy) : Dy := ⟨a.z * b.z, a.e + b.e⟩
def Dy.scale (a : Dy) (k : Int) : Dy := ⟨a.z, a.e + k⟩

/-- Round an exact number; `zneg` is the sign of an exact zero. -/
def FFmt.ofDy (f : FFmt) (v : FEnv) (zneg : Bool) (x : Dy) (fl : Fl) : FRes :=
  if x.z = 0 then f.resZero v zneg fl
  else
    let r := f.round v.r v.fz false v.srng (decide (x.z < 0)) x.z.natAbs x.e false
    ⟨r.bits, r.fl ||| fl, r.srng⟩

/-- The sign of an exact sum that is zero: that of the addends when they agree, else minus only under `rd` (R93). -/
def zeroSign (r : Rnd) (a b : Bool) : Bool := if a = b then a else r == .rd

/-- A signalling NaN among the operands raises IV (R92). -/
def snan (xs : List FVal) : Fl := flagIf (xs.any FVal.isSNan) fIV

/-- a + b (R126). -/
def FFmt.add (f : FFmt) (v : FEnv) (a b : FVal) : FRes :=
  match a, b with
  | .nan s, y => f.resNan v (flagIf (s || y.isSNan) fIV)
  | x, .nan s => f.resNan v (flagIf (s || x.isSNan) fIV)
  | .inf n, .inf k => if n = k then f.resInf v n fNone else f.resNan v fIV
  | .inf n, .num _ _ _ => f.resInf v n fNone
  | .num _ _ _, .inf n => f.resInf v n fNone
  | .num n m e, .num k p g => f.ofDy v (zeroSign v.r n k) ((dyOf n m e).add (dyOf k p g)) fNone

def FFmt.sub (f : FFmt) (v : FEnv) (a b : FVal) : FRes := f.add v a b.neg

/-- a × b (R126). -/
def FFmt.mul (f : FFmt) (v : FEnv) (a b : FVal) : FRes :=
  match a, b with
  | .nan s, y => f.resNan v (flagIf (s || y.isSNan) fIV)
  | x, .nan s => f.resNan v (flagIf (s || x.isSNan) fIV)
  | .inf n, y => if y.isZero then f.resNan v fIV else f.resInf v (n != y.sign) fNone
  | x, .inf n => if x.isZero then f.resNan v fIV else f.resInf v (n != x.sign) fNone
  | .num n m e, .num k p g => f.ofDy v (n != k) ((dyOf n m e).mul (dyOf k p g)) fNone

/-- ±(a × b) ± c, rounded once (R126): 0 × ∞ gives NaN and IV whatever c is. -/
def FFmt.fma (f : FFmt) (v : FEnv) (a b c : FVal) : FRes :=
  let bad := match a, b with
    | .inf _, y => y.isZero
    | x, .inf _ => x.isZero
    | _, _ => false
  if bad then f.resNan v fIV
  else if a.isNan || b.isNan || c.isNan then f.resNan v (snan [a, b, c])
  else
    let pn := a.sign != b.sign
    match a, b, c with
    | .num n m e, .num k p g, .num l q h =>
      let pr := (dyOf n m e).mul (dyOf k p g)
      f.ofDy v (zeroSign v.r pn l) (pr.add (dyOf l q h)) fNone
    | .num _ _ _, .num _ _ _, .inf l => f.resInf v l fNone
    | _, _, .inf l => if l = pn then f.resInf v l fNone else f.resNan v fIV
    | _, _, _ => f.resInf v pn fNone

/-- A quotient with its sticky bit: `k` extra bits below the point. -/
def FFmt.ofQuot (f : FFmt) (v : FEnv) (neg : Bool) (num den : Nat) (e : Int) : FRes :=
  let k := 160 + den.log2 + 1 - num.log2
  let n := num * 2 ^ k
  f.round v.r v.fz false v.srng neg (n / den) (e - k) (n % den != 0)

/-- a / b (R126). -/
def FFmt.div (f : FFmt) (v : FEnv) (a b : FVal) : FRes :=
  match a, b with
  | .nan s, y => f.resNan v (flagIf (s || y.isSNan) fIV)
  | x, .nan s => f.resNan v (flagIf (s || x.isSNan) fIV)
  | .inf _, .inf _ => f.resNan v fIV
  | .inf n, .num k _ _ => f.resInf v (n != k) fNone
  | .num n _ _, .inf k => f.resZero v (n != k) fNone
  | .num n m e, .num k p g =>
    if p = 0 then (if m = 0 then f.resNan v fIV else f.resInf v (n != k) fDZ)
    else if m = 0 then f.resZero v (n != k) fNone
    else f.ofQuot v (n != k) m p (e - g)

/-- The integer square root, by bits from the top: `k` bits remain. -/
def isqrtGo : Nat → Nat → Nat → Nat
  | 0, _, r => r
  | k + 1, n, r =>
    let t := r + 2 ^ k
    if t * t ≤ n then isqrtGo k n t else isqrtGo k n r
def isqrt (n : Nat) : Nat := isqrtGo (n.log2 / 2 + 1) n 0

/-- √a (R126). -/
def FFmt.sqrt (f : FFmt) (v : FEnv) (a : FVal) : FRes :=
  match a with
  | .nan s => f.resNan v (flagIf s fIV)
  | .inf n => if n then f.resNan v fIV else f.resInf v false fNone
  | .num n m e =>
    if m = 0 then f.resZero v n fNone
    else if n then f.resNan v fIV
    else
      let k : Nat := 320 + (if (e - 320) % 2 = 0 then 0 else 1)
      let x := m * 2 ^ k
      let r := isqrt x
      f.round v.r v.fz false v.srng false r ((e - k) / 2) (r * r != x)

/-! ## Comparison -/

/-- The order of two numbers, none when unordered (R128). -/
def FVal.cmp (a b : FVal) : Option Ordering :=
  match a, b with
  | .nan _, _ => none
  | _, .nan _ => none
  | .inf n, .inf k => some (if n = k then .eq else if n then .lt else .gt)
  | .inf n, .num _ _ _ => some (if n then .lt else .gt)
  | .num _ _ _, .inf n => some (if n then .gt else .lt)
  | .num n m e, .num k p g =>
    let d := (dyOf n m e).add (dyOf (!k) p g)
    some (if d.z < 0 then .lt else if d.z = 0 then .eq else .gt)

/-- `fcmp` (R128): the condition and the flags. -/
def fcmpVal (cc : Fcc) (a b : FVal) : Bool × Fl :=
  let o := a.cmp b
  let sn := snan [a, b]
  let an := flagIf (o == none) fIV
  match cc with
  | .c .eq => (o == some .eq, sn)
  | .c .ne => (o != some .eq, sn)
  | .c .lt => (o == some .lt, an)
  | .c .le => (o == some .lt || o == some .eq, an)
  | .c .gt => (o == some .gt, an)
  | .c .ge => (o == some .gt || o == some .eq, an)
  | .un => (o == none, sn)

/-- `fmin` and `fmax` (R127), on the bits that FZ leaves: the operand chosen and the flags. -/
def fminmax (f : FFmt) (v : FEnv) (isMax : Bool) (xa xb : Nat) : FRes :=
  let a := f.readZ v.fz xa
  let b := f.readZ v.fz xb
  let z (x : Nat) : Nat := if v.fz && f.flushes && f.isSub x then f.signBit (f.read x).sign else x
  let fl := snan [a, b]
  match a.isNan, b.isNan with
  | true, true => ⟨f.nanBits, fl, v.srng⟩
  | true, false => ⟨z xb, fl, v.srng⟩
  | false, true => ⟨z xa, fl, v.srng⟩
  | false, false =>
    let less : Bool := match a.cmp b with
      | some .lt => true
      | some .eq => a.sign && !b.sign
      | _ => false
    ⟨if less != isMax then z xa else z xb, fl, v.srng⟩

/-- The number of the class bit of R129. -/
def FFmt.class (f : FFmt) (x : Nat) : Nat :=
  match f.read x with
  | .nan s => if s then 8 else 9
  | .inf n => if n then 0 else 7
  | .num n m _ =>
    if m = 0 then (if n then 3 else 4)
    else if f.isSub x then (if n then 2 else 5)
    else (if n then 1 else 6)

/-- The sign operations of R131: a NaN gives the canonical NaN. -/
def signOp (f : FFmt) (v : FEnv) (neg : Bool) (x : Nat) : FRes :=
  match f.read x with
  | .nan s => f.resNan v (flagIf s fIV)
  | _ => ⟨f.signBit neg + x % 2 ^ (f.eb + f.mb), fNone, v.srng⟩

/-! ## Conversions between numbers and integers (R106) -/

/-- Round ±m·2^e to an integer: the integer, whether it was inexact, SRNG after. -/
def roundInt (v : FEnv) (neg : Bool) (m : Nat) (e : Int) : Int × Bool × BitVec 32 :=
  if m = 0 then (0, false, v.srng)
  else
    let q : Int := -e
    let lo := shr' m q
    let rem := rem' m q
    let sr := srngNext v.srng
    let up :=
      if v.r == .rs then decide (rem * 2 ^ 24 / 2 ^ q.toNat > (sr >>> 8).toNat) && decide (0 < q)
      else roundUp v.r neg lo rem q false
    let mag := if up then lo + 1 else lo
    (if neg then -(mag : Int) else mag, rem != 0, if v.r == .rs then sr else v.srng)

/-- To an integer in [lo, hi] (R106): NaN gives 0 and IV, out of range the nearer end and IV alone, else NX when inexact. -/
def toInt (v : FEnv) (lo hi : Int) (x : FVal) : Int × Fl × BitVec 32 :=
  match x with
  | .nan _ => (0, fIV, v.srng)
  | .inf n => (if n then lo else hi, fIV, v.srng)
  | .num n m e =>
    let r := roundInt v n m e
    if r.1 < lo then (lo, fIV, r.2.2) else if hi < r.1 then (hi, fIV, r.2.2) else (r.1, flagIf r.2.1 fNX, r.2.2)

/-- Scale a value by 2^k, exactly. -/
def FVal.scale (x : FVal) (k : Int) : FVal := match x with | .num n m e => .num n m (e + k) | x => x

/-- An integer times 2^k as a value. -/
def ofInt (z : Int) (k : Int) : FVal := .num (decide (z < 0)) z.natAbs k

/-- Between floating-point formats (R92, R106): E4M3 takes an infinity to ±448 with IV. -/
def FFmt.conv (d : FFmt) (v : FEnv) (x : FVal) : FRes := d.ofVal v x

/-! ## Group sums (R107) -/

/-- The terms of a group so far: the exact sum, NaN, 0 × ∞ or IV, infinities of either sign, and whether every finite term is a
negative zero or there is none (for the sign of a zero sum). -/
structure GSum where
  dy : Dy
  nan : Bool
  iv : Bool
  pinf : Bool
  ninf : Bool
  allNeg : Bool
  allPos : Bool
deriving DecidableEq, Repr

def GSum.empty : GSum := ⟨Dy.zero, false, false, false, false, true, true⟩

/-- One term. -/
def GSum.term (g : GSum) (x : FVal) : GSum :=
  match x with
  | .nan s => { g with nan := true, iv := g.iv || s }
  | .inf n => if n then { g with ninf := true } else { g with pinf := true }
  | .num n m e => { g with dy := g.dy.add (dyOf n m e), allNeg := g.allNeg && n, allPos := g.allPos && !n }

/-- One product as a term: 0 × ∞ is a NaN term with IV. -/
def mulVal (a b : FVal) : FVal × Bool :=
  match a, b with
  | .nan s, y => (.nan (s || y.isSNan), false)
  | x, .nan s => (.nan (s || x.isSNan), false)
  | .inf n, y => if y.isZero then (.nan false, true) else (.inf (n != y.sign), false)
  | x, .inf n => if x.isZero then (.nan false, true) else (.inf (n != x.sign), false)
  | .num n m e, .num k p g => (.num (n != k) (m * p) (e + g), false)

def GSum.prod (g : GSum) (a b : FVal) : GSum :=
  let p := mulVal a b
  { g.term p.1 with iv := (g.term p.1).iv || p.2 }

/-- acc := round(acc + Σ terms), once (R107). -/
def FFmt.group (f : FFmt) (v : FEnv) (acc : FVal) (g : GSum) : FRes :=
  let g := g.term acc
  if g.nan || (g.pinf && g.ninf) then f.resNan v (flagIf (g.iv || (g.pinf && g.ninf)) fIV)
  else if g.pinf then f.resInf v false (flagIf g.iv fIV)
  else if g.ninf then f.resInf v true (flagIf g.iv fIV)
  else f.ofDy v (if g.allNeg then true else if g.allPos then false else v.r == .rd) g.dy (flagIf g.iv fIV)

end Sys2Proof.Machine
end

