-- ==== Sys2Proof/Machine/Special.lean ====
section
/-! DEFINITION. The special functions of R209 and the square roots: exact argument reduction, then a fixed-point series of
400 fraction bits. Every result that is not exact is irrational (exp2 of a non-integer, log2 of a number that is no power of
two, sin and cos of π times a number that is no multiple of 1/2), so a truncated value with its sticky bit rounds as the exact
one does. (DEDUCED, log 14.) -/

namespace Sys2Proof.Machine

/-- Fraction bits of the series. (DEDUCED, log 14.) -/
def sfP : Nat := 400
/-- floor(π · 2^400). -/
def sfPi : Nat := 8112377246730971238862271351300894519161151600179265203591191037615230905373990498745523360926816815427566779727327576236
/-- floor(ln 2 · 2^400). -/
def sfLn2 : Nat := 1789879222497203190815761498240779176894896805856420935579692301363062920687047601279850318367644315849030039181347319086

/-- Σ t^k/k! from the term `c` of index `k` on, `n` terms more. -/
def expGo (t : Nat) : Nat → Nat → Nat → Nat
  | 0, _, c => c
  | n + 1, k, c => c + expGo t n (k + 1) (c * t / 2 ^ sfP / (k + 1))
/-- 2^f for f in [0, 1), both in fixed point. -/
def exp2Frac (f : Nat) : Nat := expGo (f * sfLn2 / 2 ^ sfP) 100 0 (2 ^ sfP)

/-- Σ z^(2k+1)/(2k+1). -/
def atanhGo (z2 : Nat) : Nat → Nat → Nat → Nat
  | 0, _, _ => 0
  | n + 1, k, c => c / k + atanhGo z2 n (k + 2) (c * z2 / 2 ^ sfP)
/-- log2 of y in [1, 2), both in fixed point. -/
def log2Frac (y : Nat) : Nat :=
  let z := (y - 2 ^ sfP) * 2 ^ sfP / (y + 2 ^ sfP)
  2 * atanhGo (z * z / 2 ^ sfP) 140 1 z * 2 ^ sfP / sfLn2

/-- Alternating series c - c·t2/(k(k+1)) + …: sine from c = t, k = 2; cosine from c = 1, k = 1. -/
def altGo (t2 : Int) : Nat → Int → Int → Int
  | 0, _, _ => 0
  | n + 1, k, c => c + altGo t2 n (k + 2) (-(c * t2 / 2 ^ sfP / (k * (k + 1))))

/-- sin(π·a) for a in [0, 1/2] in fixed point, and whether it is exact. -/
def sinQ (a : Nat) : Nat × Bool :=
  if a = 0 then (0, true)
  else if a = 2 ^ (sfP - 1) then (2 ^ sfP, true)
  else if a ≤ 2 ^ (sfP - 2) then
    let t : Int := (a * sfPi / 2 ^ sfP : Nat)
    ((altGo (t * t / 2 ^ sfP) 60 2 t).toNat, false)
  else
    let t : Int := ((2 ^ (sfP - 1) - a) * sfPi / 2 ^ sfP : Nat)
    ((altGo (t * t / 2 ^ sfP) 60 1 (2 ^ sfP)).toNat, false)

/-- sin(π·x) for x ≥ 0 given in fixed point modulo 2: sign, magnitude, exactness. -/
def sinTurn (x : Nat) : Bool × Nat × Bool :=
  let y := x % 2 ^ (sfP + 1)
  let neg := decide (2 ^ sfP ≤ y)
  let a := y % 2 ^ sfP
  let b := if 2 ^ (sfP - 1) < a then 2 ^ sfP - a else a
  (neg, sinQ b)

/-- |x| in fixed point. -/
def fixOf (m : Nat) (e : Int) : Nat := if e + sfP ≥ 0 then m * 2 ^ (e + sfP).toNat else m / 2 ^ (-(e + sfP)).toNat

/-- A binary32 result under nearest-even with FZ. (DEDUCED, log 14.) -/
def sfRound (fz : Bool) (neg : Bool) (m : Nat) (e : Int) (st : Bool) : FRes :=
  fmt32.round .rn fz false 0#32 neg m e st

def sfEnv (fz : Bool) : FEnv := ⟨.rn, fz, 0#32⟩

/-- The functions of R209 on one binary32 element. -/
inductive Sf where
  | rcp | rsqrt | sqrt | exp2 | log2 | sinpi | cospi
deriving DecidableEq, Repr

def sfRcp (fz : Bool) (x : FVal) : FRes := fmt32.div (sfEnv fz) (.num false 1 0) x

def sfRsqrt (fz : Bool) (x : FVal) : FRes :=
  match x with
  | .nan s => fmt32.resNan (sfEnv fz) (flagIf s fIV)
  | .inf n => if n then fmt32.resNan (sfEnv fz) fIV else fmt32.resZero (sfEnv fz) false fNone
  | .num n m e =>
    if m = 0 then fmt32.resInf (sfEnv fz) n fDZ
    else if n then fmt32.resNan (sfEnv fz) fIV
    else
      let m2 := if e % 2 = 0 then m else 2 * m
      let e2 := if e % 2 = 0 then e else e - 1
      let r := isqrt (2 ^ 600 / m2)
      sfRound fz false r (-(300 : Int) - e2 / 2) (r * r * m2 != 2 ^ 600)

def sfExp2 (fz : Bool) (x : FVal) : FRes :=
  match x with
  | .nan s => fmt32.resNan (sfEnv fz) (flagIf s fIV)
  | .inf n => if n then fmt32.resZero (sfEnv fz) false fNone else fmt32.resInf (sfEnv fz) false fNone
  | .num n m e =>
    let z : Int := if n then -(fixOf m e : Int) else fixOf m e
    let i := z / 2 ^ sfP
    let f := (z % 2 ^ sfP).toNat
    sfRound fz false (exp2Frac f) (max i (-1000) - sfP) (f != 0)

def sfLog2 (fz : Bool) (x : FVal) : FRes :=
  match x with
  | .nan s => fmt32.resNan (sfEnv fz) (flagIf s fIV)
  | .inf n => if n then fmt32.resNan (sfEnv fz) fIV else fmt32.resInf (sfEnv fz) false fNone
  | .num n m e =>
    if m = 0 then fmt32.resInf (sfEnv fz) true fDZ
    else if n then fmt32.resNan (sfEnv fz) fIV
    else
      let k : Int := e + m.log2
      if m = 2 ^ m.log2 then fmt32.ofVal (sfEnv fz) (ofInt k 0)
      else
        let t : Int := k * 2 ^ sfP + log2Frac (m * 2 ^ (sfP - m.log2))
        if 0 ≤ t then sfRound fz false t.toNat (-(sfP : Int)) true else sfRound fz true (-t - 1).toNat (-(sfP : Int)) true

def sfSinpi (fz : Bool) (x : FVal) : FRes :=
  match x with
  | .nan s => fmt32.resNan (sfEnv fz) (flagIf s fIV)
  | .inf _ => fmt32.resNan (sfEnv fz) fIV
  | .num n m e =>
    let r := sinTurn (fixOf m e)
    if r.2.1 = 0 then fmt32.resZero (sfEnv fz) n fNone else sfRound fz (n != r.1) r.2.1 (-(sfP : Int)) (!r.2.2)

def sfCospi (fz : Bool) (x : FVal) : FRes :=
  match x with
  | .nan s => fmt32.resNan (sfEnv fz) (flagIf s fIV)
  | .inf _ => fmt32.resNan (sfEnv fz) fIV
  | .num _ m e =>
    let r := sinTurn (fixOf m e + 2 ^ (sfP - 1))
    if r.2.1 = 0 then fmt32.resZero (sfEnv fz) false fNone else sfRound fz r.1 r.2.1 (-(sfP : Int)) (!r.2.2)

/-- One element: FZ reads a subnormal operand as zero (R102). (DEDUCED, log 14.) -/
def sfEval (f : Sf) (fz : Bool) (x : Nat) : FRes :=
  let v := fmt32.readZ fz x
  match f with
  | .rcp => sfRcp fz v
  | .rsqrt => sfRsqrt fz v
  | .sqrt => fmt32.sqrt (sfEnv fz) v
  | .exp2 => sfExp2 fz v
  | .log2 => sfLog2 fz v
  | .sinpi => sfSinpi fz v
  | .cospi => sfCospi fz v

end Sys2Proof.Machine
end

