-- ==== Sys2Proof/Machine/Arith.lean ====
section
/-! DEFINITION. Integer, FX64 and floating-point operations on words: source values, fitting, shifts, comparisons and
conversions (R87 to R89, R111, R116 to R131). The vector instructions use the same operations element by element. -/

namespace Sys2Proof.Machine

/-! ## Source values and fitting (R87, R111, R116) -/

def ITy.signed : ITy → Bool | .i64 | .i32 | .i16 | .i8 => true | _ => false

/-- The low `w` bits of a word, as a number. -/
def low (w : Nat) (x : Word) : Nat := x.toNat % 2 ^ w

/-- A `w`-bit pattern as a signed number. -/
def signedOf (w n : Nat) : Int := if 2 ^ (w - 1) ≤ n then (n : Int) - 2 ^ w else n

/-- The value of the low w bits, by signedness (R111). -/
def srcVal (t : ITy) (x : Word) : Int := if ITy.signed t then signedOf t.width (low t.width x) else low t.width x

def ITy.lo (t : ITy) : Int := if ITy.signed t then -(2 ^ (t.width - 1)) else 0
def ITy.hi (t : ITy) : Int := if ITy.signed t then 2 ^ (t.width - 1) - 1 else 2 ^ t.width - 1

/-- The result of an operation on words: bits as a register holds them, flags, and division by zero. -/
structure ARes where
  w : Word
  fl : Fl
  div0 : Bool
deriving DecidableEq, Repr

def aval (w : Word) : ARes := ⟨w, fNone, false⟩
def adiv0 : ARes := ⟨0#64, fNone, true⟩

/-- The low w bits of x, extended to 64 bits by the type's signedness (R111). -/
def wrapTo (t : ITy) (x : Int) : Word :=
  let n := (x % 2 ^ t.width).toNat
  BitVec.ofInt 64 (if ITy.signed t then signedOf t.width n else n)

/-- Fit an exact result to the type: wrap, or clamp and raise SA (R116). -/
def fit (t : ITy) (sat : Bool) (x : Int) : ARes :=
  if sat && decide (x < ITy.lo t) then ⟨wrapTo t (ITy.lo t), fSA, false⟩
  else if sat && decide (ITy.hi t < x) then ⟨wrapTo t (ITy.hi t), fSA, false⟩
  else aval (wrapTo t x)

/-- The integer type FX64 acts as: i64 (R88, R89). -/
def IxTy.base : IxTy → ITy | .i t => t | .fx _ => .i64
def ixVal (t : IxTy) (x : Word) : Int := srcVal (IxTy.base t) x

def iAdd (t : IxTy) (sat : Bool) (a b : Word) : ARes := fit (IxTy.base t) sat (ixVal t a + ixVal t b)
def iSub (t : IxTy) (sat : Bool) (a b : Word) : ARes := fit (IxTy.base t) sat (ixVal t a - ixVal t b)
/-- INT: a × b; fx64: floor(a × b / 2^f) (R89). -/
def iMul (t : IxTy) (sat : Bool) (a b : Word) : ARes :=
  match t with
  | .i t => fit t sat (srcVal t a * srcVal t b)
  | .fx f => fit .i64 sat ((srcVal .i64 a * srcVal .i64 b).fdiv (2 ^ f.val))
/-- Division rounds toward zero; by zero it is poison (R116). -/
def iDiv (t : IxTy) (sat : Bool) (a b : Word) : ARes :=
  if ixVal t b = 0 then adiv0
  else match t with
    | .i t => fit t sat ((srcVal t a).tdiv (srcVal t b))
    | .fx f => fit .i64 sat ((srcVal .i64 a * 2 ^ f.val).tdiv (srcVal .i64 b))
def iRem (t : ITy) (a b : Word) : ARes :=
  if srcVal t b = 0 then adiv0 else fit t false ((srcVal t a).tmod (srcVal t b))
def iMulh (t : ITy) (a b : Word) : ARes := fit t false ((srcVal t a * srcVal t b).fdiv (2 ^ t.width))
def iMin (t : IxTy) (a b : Word) : ARes := aval (wrapTo (IxTy.base t) (if ixVal t a ≤ ixVal t b then ixVal t a else ixVal t b))
def iMax (t : IxTy) (a b : Word) : ARes := aval (wrapTo (IxTy.base t) (if ixVal t a ≥ ixVal t b then ixVal t a else ixVal t b))

/-- Bitwise results are taken at width w and extended (R111, R116). -/
def ext (t : ITy) (x : Word) : Word := wrapTo t (low t.width x)
def iAnd (t : ITy) (a b : Word) : ARes := aval (ext t (a &&& b))
def iOr (t : ITy) (a b : Word) : ARes := aval (ext t (a ||| b))
def iXor (t : ITy) (a b : Word) : ARes := aval (ext t (a ^^^ b))
def iAndn (t : ITy) (a b : Word) : ARes := aval (ext t (a &&& ~~~b))

/-- The shift count: the low log2(w) bits of b (R116). -/
def shCount (t : ITy) (b : Word) : Nat := b.toNat % t.width
def iShl (t : ITy) (a b : Word) : ARes := aval (wrapTo t (srcVal t a * 2 ^ shCount t b))
def iShr (t : ITy) (a b : Word) : ARes := aval (wrapTo t ((low t.width a / 2 ^ shCount t b : Nat)))
def iSra (t : ITy) (a b : Word) : ARes := aval (wrapTo t ((signedOf t.width (low t.width a)).fdiv (2 ^ shCount t b)))
/-- Rotation left of w bits by n. -/
def rotl (w n x : Nat) : Nat := (x * 2 ^ n + x / 2 ^ (w - n)) % 2 ^ w
def iRol (t : ITy) (a b : Word) : ARes := aval (wrapTo t (rotl t.width (shCount t b) (low t.width a)))
def iRor (t : ITy) (a b : Word) : ARes :=
  aval (wrapTo t (rotl t.width ((t.width - shCount t b) % t.width) (low t.width a)))

/-- The number of leading zero bits of an n in w bits (R117). -/
def clzN (w n : Nat) : Nat := if n = 0 then w else w - 1 - n.log2
/-- Trailing zero bits: recursion on the width left. -/
def ctzN : Nat → Nat → Nat
  | 0, _ => 0
  | w + 1, n => if n % 2 = 1 then 0 else 1 + ctzN w (n / 2)
/-- Set bits. -/
def popN : Nat → Nat → Nat
  | 0, _ => 0
  | w + 1, n => n % 2 + popN w (n / 2)
def iClz (t : ITy) (a : Word) : ARes := aval (BitVec.ofNat 64 (clzN t.width (low t.width a)))
def iCtz (t : ITy) (a : Word) : ARes := aval (BitVec.ofNat 64 (ctzN t.width (low t.width a)))
def iPop (t : ITy) (a : Word) : ARes := aval (BitVec.ofNat 64 (popN t.width (low t.width a)))

/-- pos and len of `bext` and `bins` (R118). -/
def bfPos (b : Word) : Nat := b.toNat % 64
def bfLen (b c : Word) : Nat := min (c.toNat % 128) (64 - bfPos b)
def iBext (signed : Bool) (a b c : Word) : ARes :=
  let len := bfLen b c
  let x := a.toNat / 2 ^ bfPos b % 2 ^ len
  if len = 0 then aval 0#64
  else aval (BitVec.ofInt 64 (if signed then signedOf len x else x))
def iBins (d a b c : Word) : ARes :=
  let len := bfLen b c
  let msk : Word := BitVec.ofNat 64 ((2 ^ len - 1) * 2 ^ bfPos b)
  aval ((d &&& ~~~msk) ||| ((a <<< bfPos b) &&& msk))

/-- An integer comparison (R120). -/
def ccHolds (cc : Cc) (a b : Int) : Bool :=
  match cc with
  | .eq => decide (a = b) | .ne => decide (a ≠ b) | .lt => decide (a < b) | .le => decide (a ≤ b) | .gt => decide (a > b)
  | .ge => decide (a ≥ b)
def iCmp (cc : Cc) (t : IxTy) (a b : Word) : Bool := ccHolds cc (ixVal t a) (ixVal t b)
/-- The value of a `cmpi` immediate: 28 bits extended, then its low w bits (R121). -/
def cmpiImm (t : IxTy0) (imm : BitVec 28) : Word :=
  match t with
  | .fx => imm.signExtend 64
  | .i t => if ITy.signed t then imm.signExtend 64 else imm.setWidth 64
def IxTy0.ty : IxTy0 → IxTy | .i t => .i t | .fx => .fx 0

def ExtTy.width : ExtTy → Nat | .w8 => 8 | .w16 => 16 | .w32 => 32
def iSext (t : ExtTy) (a : Word) : ARes := aval (BitVec.ofInt 64 (signedOf (ExtTy.width t) (low (ExtTy.width t) a)))
def iZext (t : ExtTy) (a : Word) : ARes := aval (BitVec.ofNat 64 (low (ExtTy.width t) a))

/-! ## Floating point on words -/

/-- A rounding's result with SRNG, as a register holds it. -/
structure WRes where
  w : Word
  fl : Fl
  srng : BitVec 32
deriving DecidableEq, Repr

def FRes.toW (r : FRes) : WRes := ⟨BitVec.ofNat 64 r.bits, r.fl, r.srng⟩
/-- An operand of a floating-point type: its low bits (R111), subnormals read under FZ. -/
def fVal (t : FTy) (fz : Bool) (x : Word) : FVal := (fmtOf t).readZ fz (low t.width x)
def fcVal (t : FcTy) (fz : Bool) (x : Word) : FVal := (fmtOfC t).readZ fz (low t.width x)

def fAdd (t : FTy) (v : FEnv) (a b : Word) : FRes := (fmtOf t).add v (fVal t v.fz a) (fVal t v.fz b)
def fSub (t : FTy) (v : FEnv) (a b : Word) : FRes := (fmtOf t).sub v (fVal t v.fz a) (fVal t v.fz b)
def fMul (t : FTy) (v : FEnv) (a b : Word) : FRes := (fmtOf t).mul v (fVal t v.fz a) (fVal t v.fz b)
def fDiv (t : FTy) (v : FEnv) (a b : Word) : FRes := (fmtOf t).div v (fVal t v.fz a) (fVal t v.fz b)
def fSqrt (t : FTy) (v : FEnv) (a : Word) : FRes := (fmtOf t).sqrt v (fVal t v.fz a)
/-- a × b + c with the signs of the four forms (R126). -/
def fFma (op : FmaOp) (t : FTy) (v : FEnv) (a b c : Word) : FRes :=
  let x := fVal t v.fz a
  let z := fVal t v.fz c
  let x := match op with | .fnma | .fnms => x.neg | _ => x
  let z := match op with | .fms | .fnms => z.neg | _ => z
  (fmtOf t).fma v x (fVal t v.fz b) z
def fMin (t : FTy) (v : FEnv) (a b : Word) : FRes := fminmax (fmtOf t) v false (low t.width a) (low t.width b)
def fMax (t : FTy) (v : FEnv) (a b : Word) : FRes := fminmax (fmtOf t) v true (low t.width a) (low t.width b)
def fCmp (cc : Fcc) (t : FTy) (fz : Bool) (a b : Word) : Bool × Fl := fcmpVal cc (fVal t fz a) (fVal t fz b)
def fClass (t : FcTy) (a : Word) : Nat := 2 ^ (fmtOfC t).class (low t.width a)
def fNeg (t : FTy) (v : FEnv) (a : Word) : FRes := signOp (fmtOf t) v (!((fmtOf t).signBit true ≤ low t.width a)) (low t.width a)
def fAbs (t : FTy) (v : FEnv) (a : Word) : FRes := signOp (fmtOf t) v false (low t.width a)
def fCpsgn (t : FTy) (v : FEnv) (a b : Word) : FRes :=
  signOp (fmtOf t) v (decide ((fmtOf t).signBit true ≤ low t.width b)) (low t.width a)

/-! ## Conversions (R106, R130) -/

/-- The format holds every value of another. -/
def FcTy.holds : FcTy → FcTy → Bool
  | .f .f64, _ => true
  | .f .f32, s => s != .f .f64
  | .f .f16, s => s == .f .f16 || s == .e4m3 || s == .e5m2
  | .f .bf16, s => s == .f .bf16 || s == .e4m3 || s == .e5m2
  | d, s => d == s
/-- The format holds every value of an integer type: those of as many bits as its significand. -/
def FcTy.holdsInt (d : FcTy) (s : ITy) : Bool :=
  match d with
  | .f .f64 => decide (s.width ≤ 32) | .f .f32 => decide (s.width ≤ 16) | .f _ => decide (s.width ≤ 8) | _ => false
/-- A conversion rounds nothing where the destination holds every source value, and then leaves SRNG alone (R100, R130). -/
def FEnv.cvt (v : FEnv) (held : Bool) : FEnv := if held then { v with r := .rn } else v
def cvtFF (d s : FcTy) (v : FEnv) (a : Word) : FRes := (fmtOfC d).conv (v.cvt (FcTy.holds d s)) (fcVal s v.fz a)
def cvtIF (d : FcTy) (s : ITy) (v : FEnv) (a : Word) : FRes := (fmtOfC d).conv (v.cvt (FcTy.holdsInt d s)) (ofInt (srcVal s a) 0)
def cvtXF (d : FcTy) (f : Nat) (v : FEnv) (a : Word) : FRes := (fmtOfC d).conv v (ofInt (srcVal .i64 a) (-(f : Int)))
/-- To an integer type, extended as a register holds it. -/
def cvtFI (d : ITy) (s : FcTy) (v : FEnv) (a : Word) : WRes :=
  let r := toInt v (ITy.lo d) (ITy.hi d) (fcVal s v.fz a)
  ⟨wrapTo d r.1, r.2.1, r.2.2⟩
/-- To fx64: the multiple of 2^-f. -/
def cvtFX (f : Nat) (s : FcTy) (v : FEnv) (a : Word) : WRes :=
  let r := toInt v (ITy.lo .i64) (ITy.hi .i64) ((fcVal s v.fz a).scale f)
  ⟨wrapTo .i64 r.1, r.2.1, r.2.2⟩
/-- fx64 to an integer as `vcvt` converts it: rounded and clamped (R206). -/
def cvtXIround (d : ITy) (f : Nat) (v : FEnv) (a : Word) : WRes :=
  let r := toInt v (ITy.lo d) (ITy.hi d) (ofInt (srcVal .i64 a) (-(f : Int)))
  ⟨wrapTo d r.1, r.2.1, r.2.2⟩
/-- INT to fx64: n × 2^f (R130). -/
def cvtIX (f : Nat) (s : ITy) (sat : Bool) (a : Word) : ARes := fit .i64 sat (srcVal s a * 2 ^ f)
/-- fx64 to INT as `fxcvt` converts it: floor(q / 2^f) (R130). -/
def cvtXIfloor (d : ITy) (f : Nat) (sat : Bool) (a : Word) : ARes := fit d sat ((srcVal .i64 a).fdiv (2 ^ f))

/-! ## MX blocks (R94 to R97, R207, R208) -/

/-- Element width in bits. -/
def MxF.width : MxF → Nat | .fp8 => 8 | .fp8w => 8 | .fp6 => 6 | .fp6p => 6 | .fp4 => 4

/-- floor(log2 |x|) of a nonzero m·2^e. -/
def lg (m : Nat) (e : Int) : Int := e + m.log2

/-- Round each value scaled by 2^-X into the element format, in order, advancing SRNG. -/
def mxElems (m : MxF) (v : FEnv) (x : Int) : List FVal → List Nat × Fl × BitVec 32
  | [] => ([], fNone, v.srng)
  | y :: ys =>
    let r := match y with
      | .num n k e => if k = 0 then (⟨(fmtMx m).signBit n, fNone, v.srng⟩ : FRes)
          else (fmtMx m).round v.r false true v.srng n k (e - x) false
      | _ => ⟨0, fNone, v.srng⟩
    let t := mxElems m { v with srng := r.srng } x ys
    (r.bits :: t.1, r.fl ||| t.2.1, t.2.2)

/-- The largest floor(log2 |x|) of the nonzero values, none when all are zero. -/
def maxLg : List FVal → Option Int
  | [] => none
  | .num _ m e :: xs =>
    if m = 0 then maxLg xs
    else match maxLg xs with
      | none => some (lg m e)
      | some k => some (max (lg m e) k)
  | _ :: xs => maxLg xs

/-- One block of R96: scale code, element codes, flags, SRNG. -/
def mxBlock (m : MxF) (v : FEnv) (xs : List FVal) : Nat × List Nat × Fl × BitVec 32 :=
  if xs.any (fun x => match x with | .num _ _ _ => false | _ => true) then
    (0xff, xs.map (fun _ => 0), flagIf (xs.any (fun x => match x with | .inf _ => true | .nan s => s | _ => false)) fIV, v.srng)
  else
    let x : Int := match maxLg xs with
      | none => -127
      | some k => min (max (k - mxEmax m) (-127)) 127
    let r := mxElems m v x xs
    ((x + 127).toNat, r.1, r.2.1, r.2.2)

/-- The value of an element with a scale code (R95). -/
def mxVal (m : MxF) (scale code : Nat) : FVal :=
  if scale = 0xff then .nan false else ((fmtMx m).read code).scale ((scale : Int) - 127)

end Sys2Proof.Machine
end

