-- ==== Sys2Proof/Config.lean ====
section
/-! DEFINITION. What the module fixes once and for all: sizes, address ranges and the constants of time that several files share.
`freeValue` stands for the values that the spec leaves open. -/

namespace Sys2Proof.Config

/-- Tiles of a die, dies, clusters of a die (R1). -/
def tilesPerDie : Nat := 192
def dies : Nat := 8
def clustersPerDie : Nat := 12
/-- Rule slots of a tile (R40, R161). -/
def slots : Nat := 512
/-- Bytes of TCM on a Glaze and on a Bisque tile (R3, R161). -/
def tcmGlaze : Nat := 262144
def tcmBisque : Nat := 196608
/-- Bytes of the CSP (R259). -/
def cspBytes : Nat := 67108864
/-- Physical ranges (R310). -/
def farBase : Nat := 0
def farSize : Nat := 0x018000000000
def hearthBase : Nat := 0x800000000000
def hearthSize : Nat := 0x200000000
def nearBase : Nat := 0x900000000000
def nearStep : Nat := 0x010000000000
def nearSize : Nat := 0x50000000
/-- Cycles of one millisecond and of two microseconds at 1.05 GHz (R4, R424). -/
def msCycles : Nat := 1050000
def twoUs : Nat := 2100

/-- The values that the spec leaves open, in the order in which they are taken: nothing says what they are (DESIGN CHOICE, log 8). -/
opaque freeValue : Nat → BitVec 64
/-- The signatures of the module's identities, 0 ECDSA and 1 LMS, with a leaf, over a message (R466): no key is known (DESIGN CHOICE, log 79). -/
opaque signature : Nat → Nat → List Nat → Nat

end Sys2Proof.Config
end

