-- ==== Sys2Proof/Machine/Map.lean ====
section
/-! DEFINITION. Sparse maps from natural numbers: lists of key and value pairs, keys strictly rising, no entry equal to what an
unlisted key reads as. Memories, rule stores and every sparse table of the machine have this form. -/

namespace Sys2Proof.Machine

/-- A sparse map; canonical when `mapWf` holds. (DESIGN CHOICE, log 36.) -/
abbrev AMap (α : Type) := List (Nat × α)

/-- The value at a key; `d` where the key is not listed. -/
def mget {α : Type} (d : α) : AMap α → Nat → α
  | [], _ => d
  | (k, v) :: m, n => if n = k then v else if n < k then d else mget d m n

/-- Write a value, keeping the canonical form: writing `d` removes the entry. -/
def mset {α : Type} [DecidableEq α] (d : α) : AMap α → Nat → α → AMap α
  | [], n, x => if x = d then [] else [(n, x)]
  | (k, v) :: m, n, x =>
    if n < k then (if x = d then (k, v) :: m else (n, x) :: (k, v) :: m)
    else if n = k then (if x = d then m else (n, x) :: m)
    else (k, v) :: mset d m n x

/-- The canonical form: keys strictly rising from `lo` on, no default value listed. -/
def mapWfFrom {α : Type} [DecidableEq α] (d : α) : Nat → AMap α → Bool
  | _, [] => true
  | lo, (k, v) :: m => decide (lo ≤ k) && decide (v ≠ d) && mapWfFrom d (k + 1) m
def mapWf {α : Type} [DecidableEq α] (d : α) (m : AMap α) : Bool := mapWfFrom d 0 m

/-- A memory: bytes by address; an unlisted byte reads as zero (DESIGN CHOICE, log 5). (DESIGN CHOICE, log 5.) -/
abbrev Memory := List Host.Cell
/-- DESIGN CHOICE, log 5. -/
def Memory.wf (m : Memory) : Bool := mapWf 0#8 m

/-- DESIGN CHOICE, log 5. -/
def byteAt (m : Memory) (a : Nat) : Byte := mget 0#8 m a
/-- DESIGN CHOICE, log 5. -/
def setByte (m : Memory) (a : Nat) (b : Byte) : Memory := mset 0#8 m a b

/-- The `n` bytes from `a` on, lowest address first. -/
def readBytes (m : Memory) : Nat → Nat → List Byte
  | _, 0 => []
  | a, n + 1 => byteAt m a :: readBytes m (a + 1) n
/-- Write bytes from `a` on. -/
def writeBytes (m : Memory) : Nat → List Byte → Memory
  | _, [] => m
  | a, b :: bs => writeBytes (setByte m a b) (a + 1) bs

/-- Little-endian value of bytes (R86). -/
def leNat : List Byte → Nat
  | [] => 0
  | b :: bs => b.toNat + 256 * leNat bs
/-- The low `n` bytes of a number, lowest first. -/
def leBytes : Nat → Nat → List Byte
  | 0, _ => []
  | n + 1, x => BitVec.ofNat 8 x :: leBytes n (x / 256)

/-- A set of natural numbers as a strictly rising list. -/
def sinsert : List Nat → Nat → List Nat
  | [], n => [n]
  | k :: l, n => if n < k then n :: k :: l else if n = k then k :: l else k :: sinsert l n
def sremove : List Nat → Nat → List Nat
  | [], _ => []
  | k :: l, n => if n = k then l else k :: sremove l n

end Sys2Proof.Machine
end

