-- ==== Sys2Proof/Machine/Tile.lean ====
section
/-! DEFINITION. The state of one tile: contexts (R17, R18, R163, R177), the operations that have fired and not written back (R15),
streams (R231), copies (R242), accumulators (R211, R212) and the tile's own registers (R161, R162). -/

namespace Sys2Proof.Machine

/-- A register with its presence bit (R29) and its hidden poison bit (R155). -/
structure Reg (w : Nat) where
  bits : BitVec w
  full : Bool
  pois : Bool
deriving DecidableEq, Repr

/-- The states of a context (R19). -/
inductive CSt where
  | free | shadow | running | stopped | faulted | saved | migrating
deriving DecidableEq, Repr

/-- An inbound binding (R177). `src` is SRCID [31:0]. -/
structure IBind where
  bv : Bool
  gen : BitVec 2
  mh : Bool
  src : BitVec 32
deriving DecidableEq, Repr

/-- An egress binding (R177). -/
structure EBind where
  bv : Bool
  label : BitVec 7
  cred : BitVec 4
deriving DecidableEq, Repr

/-- CTXCFG without STATE (R18). -/
structure CtxCfg where
  rbase : BitVec 9
  rlast : BitVec 9
  succ : BitVec 3
  hen : Bool
  hmask : BitVec 16
  srot : BitVec 9
deriving DecidableEq, Repr

/-- AGMAP (R163). -/
structure AgMap where
  amap : BitVec 8
  acnt : BitVec 3
  gmap : BitVec 24
  gcnt : BitVec 4
deriving DecidableEq, Repr

/-- The registers and modes of a context (R17, R100, R103, R104). `bad` names the registers whose storage holds an uncorrectable
error (R158). -/
structure Regs where
  s : Vector (Reg 64) 32
  v : Vector (Reg 2048) 16
  k : Vector (Reg 256) 8
  p : BitVec 16
  flags : Fl
  amode : AMode
  srng : BitVec 32
  bad : List PresReg
deriving DecidableEq, Repr

/-- An armed watch (R148, R149). `addr` is the value of A; `sent` says that the arming has arrived at
the word's home. -/
structure Watch where
  pred : PReg
  f : WatchF
  addr : Word
  val : Word
  sent : Bool
  due : Nat
  note : Option Word
deriving DecidableEq, Repr

/-- A notification that has been held for a trapped rule, with the watch that it ends and the word that it observed (R68, R394). -/
structure Held where
  w : Watch
  val : Word
deriving DecidableEq, Repr

/-- Sleep (R147): the cycle after whose end the context wakes, when n was not zero. -/
structure Sleep where
  till : Option Nat
deriving DecidableEq, Repr

/-- What a fault record says of a stop (R359). -/
structure StopInfo where
  cause : BitVec 8
  slot : BitVec 16
  payload : Word
  pmark : Bool
  loc : Word
  code : BitVec 16
  chlab : BitVec 8
  bytes : BitVec 32
  cyc : Word
deriving DecidableEq, Repr

/-- Why a context fires no further rule although it is still RUNNING (R35, R143, R146, R159, R165, R67). -/
inductive Ending where
  | none
  | done (code : BitVec 8)
  | hand
  | stop (i : StopInfo)
  | mig (slot : BitVec 9)
  | save
deriving DecidableEq, Repr

/-- The control part of a context that the spec implies and gives no register for. `first` is the slot of a trapped rule that
must be the first to fire (R68); `frozen` the egress channels that R159 froze; `trapped` says that later appends and memory
writes are discarded (R159); `mark` that the places of the handover markers are reserved (R33). -/
structure Ctl where
  ending : Ending
  asleep : Option Sleep
  yielded : Bool
  trapped : Bool
  frozen : BitVec 16
  mark : Bool
  resume : CSt
  first : Option (BitVec 9)
  held : List Held
deriving DecidableEq, Repr

/-- The task of a context: the die that holds its record, the record's index, and the gang member that this tile is. -/
structure TRef where
  die : Nat
  idx : Nat
  member : Nat
  copy : Nat
deriving DecidableEq, Repr

/-- A context (R17). `owe` says of each entry of `inb` whether its dequeue returns a credit (R178, R504); `badIn` names the entries, by
channel and place, in which the storage holds an uncorrectable error (R158); `fnow` is a cycle with the flags that writebacks have raised in
it (R103). -/
structure Ctx where
  st : CSt
  cfg : CtxCfg
  regs : Regs
  inb : Vector (List Entry) 16
  owe : Vector (List Bool) 16
  egr : Vector (List Entry) 16
  ib : Vector IBind 16
  eb : Vector EBind 16
  arr : Vector Nat 8
  watches : List Watch
  tbase : BitVec 18
  tlen : BitVec 19
  quota : BitVec 20
  left : BitVec 20
  ag : AgMap
  ctl : Ctl
  task : Option TRef
  tenant : BitVec 4
  code : BitVec 8
  badIn : List (Chan × Nat)
  fnow : Nat × Fl
deriving DecidableEq, Repr

/-- One resource of the operand interlock (R15 condition 3). -/
inductive Res where
  | s (r : SReg) | v (r : VReg) | k (r : KReg) | p (r : PReg) | eg (c : Chan) | flags | amode | srng
deriving DecidableEq, Repr

/-- A write that an operation makes at its writeback. A value with its poison bit; for `eg` the entries to append. -/
inductive Wr where
  | s (r : SReg) (x : Word) (p : Bool)
  | v (r : VReg) (x : VWord) (p : Bool)
  | k (r : KReg) (x : KWord) (p : Bool)
  | p (r : PReg) (b : Bool)
  | sys (r : SysW) (x : Word)
  | clr (mask : Fl)
  | eg (c : Chan) (es : List Entry)
deriving DecidableEq, Repr

/-- The memory that an access names. -/
inductive Space where
  | tcm | csp | glb
deriving DecidableEq, Repr

/-- What a TCM, CSP or global access does when it is performed (R237 to R239, R277, R362, R365). -/
inductive MemOp where
  | ld (d : LdDst)
  | st (bytes : List Byte)
  | vld (d : VDst)
  | atom (d : SDst) (o : RmwOp) (a : Word)
  | cas (d : SDst) (c n : Word)
  | binc (d : SDst) (b : Word)
  | gath (d : VDst) (idx : VWord)
  | scat (idx : VWord) (a : VWord)
deriving DecidableEq, Repr

/-- A memory access that has fired and is not yet performed. `pa` is the physical address once the walk has answered. (DEDUCED, log 31.) -/
structure MemAcc where
  sp : Space
  op : MemOp
  addr : Int
  size : Nat
  ord : Ordr
  scope : Scope
  label : Option (BitVec 7)
  pa : List Nat
  sent : Bool
  home : Nat
  /-- the words of the CSP at which the access has been performed already, one by one as their banks granted them, with the bytes that a load found (R262) -/
  part : List (Nat × List Byte) := []
deriving DecidableEq, Repr

/-- What an operation still has to do before it can write back. -/
inductive Act where
  /-- nothing: the results stand in `wr` -/
  | plain
  | mem (m : MemAcc)
  /-- a matrix-unit operation that has not started, or has started when `due` is set -/
  | mat (i : Instr) (vals : List Word) (quad : List (Reg 2048)) (wt k : Nat)
  /-- bytes that are written at the writeback: those of an `astore` that has started -/
  | put (csp : Bool) (pa : Nat) (bytes : List Byte)
  /-- a buffer request that has its slot: the buffer, the TCM bytes that a `bget` of FORM 0 writes at the writeback, or that a `bput` of FORM 0 has read, whether it
  is a put, the slot's bytes in the CSP -/
  | claim (buf pa : Nat) (bytes : List Byte) (wr : Bool) (slot len : Nat)
  | fence (scope : Scope)
  | otpub (n : Nat)
  | circ (label : BitVec 7) (idx : Fin 8)
  | otwait (d : PReg) (n k : Nat)
  | join (d : PReg) (mask : BitVec 8)
  | gbar (d : PReg) (mask : BitVec 8) (fin : Bool)
  | drain (d : PReg) (ids : List Nat)
  /-- an `mmr` that has started: its operands, the panels it sends, its fire number, whether it has received A and B and sent A and B, and the
  cycle before which it does not write back -/
  | rot (f : MmaF) (vals : List Word) (a b : List Byte) (j : Nat) (gotA gotB sentA sentB : Bool) (ends : Nat)
  /-- a request that has no slot yet; `data` is absent while the TCM range [pa, pa + len) of FORM 0 is not read -/
  | bput (d : PReg) (buf : Nat) (vec : Bool) (data : Option (List Byte)) (pa len : Nat) (twin : Option PReg)
  | bget (d : BDst) (buf : Nat) (pa len : Nat) (twin : Option PReg)
  | bwait (d : PReg) (buf : Nat) (empty : Bool)
  | cbar (d : PReg) (bar : Nat) (arrived : Bool) (phase : Bool)
  | req (i : Instr) (vals : List Word)
  | rsend (label : BitVec 7) (es : List Entry) (twin : Option PReg) (sent : Bool)
  | group (i : Instr) (vals : List Word)
deriving DecidableEq, Repr

/-- An operation that has fired and not written back. `poison` is the payload of a poisoned result, `hard` says that the result goes to a
predicate or a short system register (R113 item 5); `dsts` are its outstanding writes, `room` the egress places reserved,
`accs` the physical accumulators it is outstanding on, `am` AMODE as read at the fire, `pt` the order token it publishes and the number of the publication, `ents` the
entries of bound egress channels that a release waits for (R327, R328). -/
structure Op where
  id : Nat
  ctx : Fin 8
  slot : BitVec 9
  fired : Nat
  due : Option Nat
  act : Act
  wr : List Wr
  poison : Option Word
  hard : Bool
  rc : Option Bool
  srng : Option (BitVec 32)
  pws : List PWrite
  fl : Fl
  am : AMode
  dsts : List Res
  room : List (Chan × Nat)
  accs : List Nat
  pt : Nat × Nat
  ents : List (Chan × Nat)
deriving DecidableEq, Repr

/-- States of a stream (R231). -/
inductive StSt where
  | idle | conf | run
deriving DecidableEq, Repr

/-- A stream (R231 to R236): descriptor, state, next element, the cycle from which that may be performed, whether it stalls on a page
and whether nothing is to be issued after it, whether its element is discarded on arrival (R234), number of its publication, pending acquires of its context that it follows (R328),
serving context, slot of its `gstart`. -/
structure Strm where
  st : StSt
  desc : BitVec 256
  next : Nat
  start : Nat
  stall : Bool
  halt : Bool
  lose : Bool
  ptk : Nat
  hold : List Nat
  ctx : Fin 8
  slot : BitVec 9
deriving DecidableEq, Repr

/-- A command of the copy queue (R241, R242). `wtk` publications of WT are waited for, `ptk` is the number of its
own; `hold` are the pending acquires of its context that it follows (R328); `row` and `off` are the next chunk; `outs` the window writes not yet
acknowledged, as (offset, bytes), oldest first; `dead` says that the command has ended with a stop and only its acknowledgements are awaited (R180, R243). -/
structure Copy where
  id : Nat
  ctx : Fin 8
  slot : BitVec 9
  start : Nat
  f : CpyF
  da : Word
  sa : Word
  rows : Nat
  len : Nat
  sstr : Int
  dstr : Int
  wtk : Nat
  ptk : Nat
  hold : List Nat
  row : Nat
  off : Nat
  outs : List (Nat × Nat)
  dead : Bool
deriving DecidableEq, Repr

/-- An accumulator (R211, R212). -/
structure Acc where
  rows : AMap VWord
  pois : Bool
  payload : Word
deriving DecidableEq, Repr

/-- What a tile holds for a task placed on it: BLEFT (R50, R357), order tokens (R331: publications fired, and the incomplete
ones as (token, publication number)), the count of `mmr` fires (R287), and flags of its record. -/
structure TTask where
  ref : TRef
  bleft : Nat
  debug : Bool
  priv : Bool
  gang : Nat
  otok : AMap Nat
  pend : List (Nat × Nat)
  mmr : Nat
deriving DecidableEq, Repr

/-- A route-table entry and a window register are kept as the 64-bit registers the spec lays out (R176, R179). -/
structure TileRegs where
  routes : AMap Word
  win : AMap Word
  dropcnt : Word
  nackcnt : Word
  ecccnt : Word
  crot : BitVec 3
deriving DecidableEq, Repr

/-- Cycles from which each unit can accept a rule (R30). -/
structure Units where
  chan : Nat
  vec : Nat
  sf : Nat
  mat : Nat
  mem : Nat
  div : Nat
deriving DecidableEq, Repr

/-- What the fire of a cycle leaves for the arrivals of the same cycle: the context that fired, the entries it has taken from each inbound
channel (R24), the channel that `chreset` has emptied with its generation before and the predicates that its result condition goes to
(R140, R153), and the watch that `unwatch` has disarmed (R150). -/
structure Recent where
  cyc : Nat
  ctx : Fin 8
  taken : List (Chan × Nat)
  reset : Option (Chan × BitVec 2 × List PReg)
  off : Option Watch
deriving DecidableEq, Repr

/-- What a pre-empted task still holds of a tile while the rest of it is saved after the part that the class-0 task takes (R358). -/
structure Husk where
  die : Nat
  idx : Nat
  ctxs : List (Fin 8)
  accs : List Nat
  strms : List Nat
  tcm : List (Nat × Nat)
deriving DecidableEq, Repr

/-- What asks for a bank (R174, R261): kind, number and two more numbers of the access. -/
abbrev BankKey := Nat × Nat × Nat × Nat
/-- An access at the banks of a TCM or CSP: its requester or port, the banks that it uses and those still to be granted, a bank once for each
access to it; the cycles that a grant holds a bank; whether it writes. -/
structure BankReq where
  port : Nat
  key : BankKey
  banks : List Nat
  left : List Nat
  hold : Nat
  wr : Bool
deriving DecidableEq, Repr
/-- The banks of a TCM (R174) or CSP (R260, R261): per bank the requester at which its rotation starts and the cycle from which it is free, the
accesses that wait for more grants, a cycle with the accesses that have all their grants in it, and the banks granted in that cycle. -/
structure Banks where
  next : AMap Nat
  busy : AMap Nat
  wait : List BankReq
  at_ : Nat
  got : List BankKey
  used : List Nat
deriving DecidableEq, Repr
def Banks.zero : Banks := { next := [], busy := [], wait := [], at_ := 0, got := [], used := [] }

/-- An entry on a neighbour link (R268): its sender, the number that an operation fired with it has or would have, the pending acquires that it follows
(R328), the cycle at whose end it is placed, its failed sends. -/
structure NEnt where
  e : Entry
  ctx : Fin 8
  op : Nat
  hold : List Nat
  due : Nat
  fails : Nat
deriving DecidableEq, Repr

/-- An entry of a translation cache (R314). `vpn` is VA[47:16] of the page's first 64 KiB, `big` a 2 MiB page. -/
structure TlbE where
  tenant : BitVec 4
  vpn : Nat
  big : Bool
  rd : Bool
  wr : Bool
  dirty : Bool
  page : Nat
deriving DecidableEq, Repr

/-- An entry sent to another module that has not said yet that it is placed (R320): its number, its context, and the operations fired before it left that
stood behind it. (DESIGN CHOICE, log 68.) (DEDUCED, log 27.) -/
structure Away where
  id : Nat
  ctx : Fin 8
  before : List Nat
deriving DecidableEq, Repr
/-- A tile (R161). `away` holds the entries sent to other modules that are not known to be placed (R320). `banks` are those of its TCM (R174). `handed` holds what walks have handed to its accesses and they have not yet used, by agent (as in `Waiter`) and number (R315). `panels` holds the panels that neighbours have sent and the tile has not yet written: fire number, whether it is an A, bytes (R287). `nlink` holds the entries on the four outgoing links and `nout` the links that are retired (R268). `nqBad` names the entries of the neighbour queues, by queue and place, that hold an uncorrectable error (R285). `marks` and `badslots` are the migrate marks (R66) and slots with an uncorrectable error (R71); `tcmBad`
and `tcmSoft` the TCM words with an uncorrectable and with a single-bit error (R175); `gates` the gated route labels (R399) and `dead` those whose declared target was cancelled before it was ever placed (R79);
`nq` the four neighbour queues (R267), `ncred` the credits of the four outgoing links; `fwd` says, for 32 × context + channel (egress channels
from 16 on), one more than the context to which a handover has carried that channel (R292). (DEDUCED, log 17; DEDUCED, log 39.) (DEDUCED, log 22.) -/
structure Tile where
  store : AMap SlotWord
  marks : List Nat
  badslots : List Nat
  ctxs : Vector Ctx 8
  acc : Vector Acc 4
  strm : Vector Strm 8
  tcm : Memory
  tcmBad : List Nat
  tcmSoft : List Nat
  copies : List Copy
  ops : List Op
  nextId : Nat
  units : Units
  r : TileRegs
  tasks : List TTask
  nq : Vector (List Entry) 4
  ncred : Vector Nat 4
  gates : List Nat
  dead : List Nat
  fwd : AMap Nat
  last : Recent
  nqBad : List (Fin 4 × Nat)
  husks : List Husk
  nlink : Vector (List NEnt) 4
  nout : List (Fin 4)
  banks : Banks
  handed : List (Nat × Nat × TlbE)
  panels : List (Nat × Bool × List Byte)
  away : List Away
deriving DecidableEq, Repr

/-! ## Values at reset -/

def Reg.zero (w : Nat) : Reg w := { bits := 0, full := false, pois := false }
def Entry.zero : Entry := { data := 0, tag := 0, w := 0, p := false }
def IBind.zero : IBind := { bv := false, gen := 0, mh := false, src := 0 }
def EBind.zero : EBind := { bv := false, label := 0, cred := 0 }
def CtxCfg.zero : CtxCfg := { rbase := 0, rlast := 0, succ := 0, hen := false, hmask := 0, srot := 0 }
def AgMap.zero : AgMap := { amap := 0, acnt := 0, gmap := 0, gcnt := 0 }
/-- Registers at a context's start (R17): p0 set, everything else zero and empty. -/
def Regs.start (seed : BitVec 32) : Regs :=
  { s := Vector.replicate 32 (Reg.zero 64), v := Vector.replicate 16 (Reg.zero 2048), k := Vector.replicate 8 (Reg.zero 256),
    p := 1, flags := 0, amode := 0, srng := seed, bad := [] }
def Ctl.zero : Ctl :=
  { ending := .none, asleep := none, yielded := false, trapped := false, frozen := 0, mark := false, resume := .free,
    first := none, held := [] }
/-- A FREE context. (DESIGN CHOICE, log 6.) -/
def Ctx.zero : Ctx :=
  { st := .free, cfg := .zero, regs := Regs.start 0, inb := Vector.replicate 16 [], owe := Vector.replicate 16 [], egr := Vector.replicate 16 [],
    ib := Vector.replicate 16 .zero, eb := Vector.replicate 16 .zero, arr := Vector.replicate 8 0, watches := [],
    tbase := 0, tlen := 0, quota := 0, left := 0, ag := .zero, ctl := .zero, task := none, tenant := 0, code := 0, badIn := [], fnow := (0, 0) }
def Strm.zero : Strm := { st := .idle, desc := 0, next := 0, start := 0, stall := false, halt := false, lose := false, ptk := 0, hold := [], ctx := 0, slot := 0 }
def Acc.zero : Acc := { rows := [], pois := false, payload := 0 }
def TileRegs.zero : TileRegs := { routes := [], win := [], dropcnt := 0, nackcnt := 0, ecccnt := 0, crot := 0 }
def Units.zero : Units := { chan := 0, vec := 0, sf := 0, mat := 0, mem := 0, div := 0 }
def Recent.zero : Recent := { cyc := 0, ctx := 0, taken := [], reset := none, off := none }
/-- A tile right after reset (R161, R162). (DESIGN CHOICE, log 6.) -/
def Tile.zero : Tile :=
  { store := [], marks := [], badslots := [], ctxs := Vector.replicate 8 .zero, acc := Vector.replicate 4 .zero,
    strm := Vector.replicate 8 .zero, tcm := [], tcmBad := [], tcmSoft := [], copies := [], ops := [], nextId := 0,
    units := .zero, r := .zero, tasks := [], nq := Vector.replicate 4 [], ncred := Vector.replicate 4 8, gates := [], dead := [], fwd := [],
    last := .zero, nqBad := [], husks := [], nlink := Vector.replicate 4 [], nout := [], banks := .zero, handed := [], panels := [], away := [] }

/-! ## Registers as the spec lays them out -/

/-- STATE (R19). -/
def CSt.code : CSt → BitVec 3
  | .free => 0 | .shadow => 1 | .running => 2 | .stopped => 3 | .faulted => 4 | .saved => 5 | .migrating => 6
def CSt.ofCode (c : BitVec 3) : CSt :=
  match c.toNat with
  | 1 => .shadow | 2 => .running | 3 => .stopped | 4 => .faulted | 5 => .saved | 6 => .migrating | _ => .free

/-- A Bool as a number. -/
def b2n (b : Bool) : Nat := if b then 1 else 0
/-- The bits [lo + len - 1 : lo] of a number. -/
def nfld (x lo len : Nat) : Nat := x / 2 ^ lo % 2 ^ len
/-- A field written at its place. -/
def at_ (lo : Nat) (x : Nat) : Nat := x * 2 ^ lo

/-- CTXCFG as rules and configuration reads see it (R18). -/
def Ctx.ctxcfg (c : Ctx) : Word :=
  BitVec.ofNat 64 (c.cfg.rbase.toNat + at_ 9 c.cfg.rlast.toNat + at_ 18 c.cfg.succ.toNat + at_ 21 (b2n c.cfg.hen)
    + at_ 24 c.cfg.hmask.toNat + at_ 40 c.st.code.toNat + at_ 43 c.cfg.srot.toNat)
def CtxCfg.ofWord (w : Word) : CtxCfg :=
  { rbase := w.extractLsb' 0 9, rlast := w.extractLsb' 9 9, succ := w.extractLsb' 18 3, hen := w.getLsbD 21,
    hmask := w.extractLsb' 24 16, srot := w.extractLsb' 43 9 }
def IBind.word (b : IBind) : Word :=
  BitVec.ofNat 64 (b2n b.bv + at_ 1 b.gen.toNat + at_ 3 (b2n b.mh) + at_ 16 b.src.toNat)
def IBind.ofWord (w : Word) : IBind :=
  { bv := w.getLsbD 0, gen := w.extractLsb' 1 2, mh := w.getLsbD 3, src := w.extractLsb' 16 32 }
def EBind.word (b : EBind) : Word := BitVec.ofNat 64 (b2n b.bv + at_ 1 b.label.toNat + at_ 8 b.cred.toNat)
def EBind.ofWord (w : Word) : EBind :=
  { bv := w.getLsbD 0, label := w.extractLsb' 1 7, cred := w.extractLsb' 8 4 }
def AgMap.word (a : AgMap) : Word :=
  BitVec.ofNat 64 (a.amap.toNat + at_ 8 a.acnt.toNat + at_ 12 a.gmap.toNat + at_ 36 a.gcnt.toNat)
def AgMap.ofWord (w : Word) : AgMap :=
  { amap := w.extractLsb' 0 8, acnt := w.extractLsb' 8 3, gmap := w.extractLsb' 12 24, gcnt := w.extractLsb' 36 4 }

end Sys2Proof.Machine
end

