-- ==== Sys2Proof/Machine/Module.lean ====
section
/-! DEFINITION. The state of the module above the tile: clusters (R257), dies with their Kilns and graph memory (R341, R353),
the coordinator, the Winder, the Shuttle, the host port, Saloc and the fabric links. Registers of a configuration space are kept
by offset, as 64-bit registers of the spec's layout; what the spec implies and gives no register for has a field of its own. -/

namespace Sys2Proof.Machine

/-- A buffer request at its controller (R265): the tile, its operation, the cycle of its arrival, whether the controller has applied it and it
waits. -/
structure BufReq where
  buf : Nat
  tile : Nat
  op : Nat
  cyc : Nat
  tried : Bool
deriving DecidableEq, Repr

/-- A cluster (R257 to R273). `last` holds, per buffer, the position at which its controller's rotation starts, `served` one more than the cycle in
which it last served a request; `banks` are those of the CSP; `port` is the cycle from which the staging port is free (R274). (DEDUCED, log 39.) -/
structure Cluster where
  regs : AMap Word
  csp : Memory
  cspBad : List Nat
  cspSoft : List Nat
  last : AMap Nat
  served : AMap Nat
  banks : Banks
  port : Nat
  wait : List BufReq
  tlb : AMap (List TlbE)
deriving DecidableEq, Repr

/-- The states of a task record (R343). -/
inductive RSt where
  | free | created | waiting | staging | ready | placed | running | retiring | retired | preempted | migrating | faulted
deriving DecidableEq, Repr

/-- One tile of a placement: tile number within the module, its contexts by image index, gang member, twin copy, TCM base, first rule slot,
accumulators and streams. -/
structure Seat where
  tile : Nat
  ctxs : List (Fin 8)
  member : Nat
  copy : Nat
  base : Nat
  first : Nat
  accs : List Nat
  strms : List Nat
deriving DecidableEq, Repr

/-- A recorded wait of a saved context: the publications it waits for (R331), AMODE as read at its fire (R104), its slot, its number, and the cycle of its fire. -/
structure PWait where
  k : Nat
  am : AMode
  slot : BitVec 9
  id : Nat
  fired : Nat
deriving DecidableEq, Repr
/-- What a save keeps of a stream beside its record: its publication's number, its slot, a `gstop` that lets it perform one more element (and whether that is
lost on arrival), the pending acquires that it follows. -/
structure SStrm where
  ptk : Nat
  slot : BitVec 9
  halt : Bool
  lose : Bool
  hold : List Nat
deriving DecidableEq, Repr
/-- What a save keeps of a copy command beside its record: its context's position, its slot, the publications it waits for, the number of its own, the pending
acquires that it follows. -/
structure SCopy where
  pos : Nat
  slot : BitVec 9
  wtk : Nat
  ptk : Nat
  hold : List Nat
deriving DecidableEq, Repr
/-- What a save keeps beside the record of one seat: the count of `mmr` fires, the lengths of the neighbour queues, the panels that wait (R287), streams, copies,
and the recorded waits of each context. (DEDUCED, log 57.) (DEDUCED, log 23.) -/
structure Side where
  mmr : Nat
  nq : List Nat
  panels : List (Nat × Bool × List Byte)
  strms : List SStrm
  copies : List SCopy
  waits : List (List PWait)
deriving DecidableEq, Repr

/-- A task record (R341) with what the Kiln keeps beside it: enqueue sequence (R353), placement, cycle of placement, cycle of
entry to STAGING (R350), staged copies not complete, PF pages asked for, held (R449), save records as (address, length), one per seat of `old`, their Glaze form
(R404), the first stop, staged CSP buffers as (buffer, cluster, descriptor), the cycle since which it waits for CSP room (R274), the private buffers
of the second twin (R182), route labels and windows that it uses, its largest completion code, whether the save that runs is to hold it, the twin copies
that have stopped, operations parked by a save that have no place in the save record, the trapped rule that is to fire first (R68), the
`csave` request that waits for an answer, what is kept beside the records of the saved seats, how far a save or a restore has come (`sv`: 0 none, 1 the
contexts stop, 2 the record is written, 3 a victim's tile is given up already, 4 restored and waiting for the others), why it is made (`why`: 1 a class-0
victim, 2 `csave` or `bkpt`, 3 a switch, 4 a migration that a switch overtakes) and when it ends. (DEDUCED, log 57.) -/
structure TRec where
  w : Vector Word 16
  seq : Nat
  seats : List Seat
  since : Nat
  copies : Nat
  pages : List Nat
  held : Bool
  saved : List (Nat × Nat)
  old : List Seat
  glazeForm : Bool
  info : Option StopInfo
  csp : List (Nat × Nat × Nat)
  nofit : Option Nat
  twinB : List (Nat × Nat)
  labels : List Nat
  wins : List Nat
  code : BitVec 8
  hold : Bool
  stopd : List Nat
  parked : List (Nat × Op)
  firstR : Option (Nat × Nat)
  reply : Option (Nat × Nat)
  side : List Side
  sv : Nat
  why : Nat
  svEnd : Nat
deriving DecidableEq, Repr

/-- A graph buffer held in a CSP (R264, R274): the instance, the backing's address, the cluster, the descriptor, whether it may be written, the
cycle at whose end its copy is complete, and whether it is. -/
structure Staged where
  inst : Nat
  baddr : Nat
  clus : Nat
  bufd : Nat
  wrt : Bool
  start : Nat
  ends : Nat
  got : Bool
  done : Bool
deriving DecidableEq, Repr

/-- A request in a merge entry: the tile and the operation, or 4096 and a request of another module, its operand, and the contributions it stands for. -/
structure MPart where
  tile : Nat
  id : Nat
  a : Word
  n : Nat
deriving DecidableEq, Repr
/-- An entry of a merge buffer (R336): home word, tenant, operation, contributions in arrival order, the cycle of its first request, and once it is
forwarded the cycle in which it reaches the next boundary or its home. -/
structure MergeE where
  pa : Nat
  tenant : BitVec 4
  op : MemOp
  parts : List MPart
  opened : Nat
  due : Option Nat
deriving DecidableEq, Repr

/-- An access that waits for a walk: its tile, its agent (0 operation, 1 stream, 2 copy, 3 remote request), the number of it, and
whether it reads (0), writes (1) or is an atomic (2). -/
structure Waiter where
  tile : Nat
  agent : Nat
  id : Nat
  kind : Nat
deriving DecidableEq, Repr

/-- A walk (R315): tenant, page as VA[47:16], its end, whether it waits for residency (R317), the accesses that wait, and whether it has still to start,
behind 256 others. -/
structure Walk where
  tenant : BitVec 4
  vpn : Nat
  ends : Nat
  resid : Bool
  who : List Waiter
  wait : Bool
deriving DecidableEq, Repr

/-- A compute die: its Kiln (R341 to R358), circuit table (R306), walker (R315), merge buffers (R336), thermal throttle (R468), tiles
that have sent their round markers (R429), the pre-emption under way as (victim, cycle of its first part), staged buffers, and the images in its
rule-image cache (R70) as (handle, bytes, cycle from which it is there), the one used last at the end. (DESIGN CHOICE, log 93.) -/
structure Die where
  regs : AMap Word
  recs : AMap TRec
  succ : AMap Word
  seqs : AMap Nat
  deft : AMap Nat
  lastT : AMap Nat
  lastQ : AMap Nat
  circ : AMap Word
  failed : List Nat
  merge : List MergeE
  walks : List Walk
  throttle : Bool
  settled : List Nat
  pre : Option (Nat × Nat × Option Nat)
  staged : List Staged
  rcache : List (Nat × Nat × Nat)
deriving DecidableEq, Repr

/-- A registered image after the checks of R84 (R82). -/
structure Image where
  handle : Nat
  profile : BitVec 2
  slots : List SlotWord
  descs : List Word
  data : List Byte
deriving DecidableEq, Repr

/-- A registered template (R344): graph buffers as pairs of doublewords. -/
structure Template where
  handle : Nat
  tenant : BitVec 4
  entries : List TEntry
  bufs : List (Word × Word)
  images : List Nat
deriving DecidableEq, Repr

/-- An instance (R346, R348, R361). Times are in cycles. `wr` are the ranges that its WR buffers take, `fault` is one more than the instance of its fault template, `entryNo` the number of its
completion entry among those of its function, `arrived` the arrival of its request. -/
structure Inst where
  used : Bool
  arrived : Nat
  isFault : Bool
  entryNo : Option Nat
  tenant : BitVec 4
  tmpl : Nat
  ctag : BitVec 32
  promised : Option Nat
  code : BitVec 8
  failed : Bool
  status : BitVec 8
  recs : List (Nat × Nat)
  bufs : List (Nat × Nat)
  wr : List (Nat × Nat)
  ext : List Word
  retired : Nat
  capped : Bool
  ended : Bool
  fault : Option Nat
deriving DecidableEq, Repr

/-- A request that waits at the coordinator (R377): the tile and operation that made it, and its arrival. -/
structure WaitReq where
  tile : Nat
  op : Nat
  tenant : BitVec 4
  at_ : Nat
deriving DecidableEq, Repr

/-- A member's contribution to a pod group (R508): its tile (from 2048 on, a saved member), the member's CTXID, the operation that waits, form, value, root. -/
structure Contrib where
  tile : Nat
  op : Nat
  ctxid : Nat
  gop : Nat
  val : Word
  root : Bool
  abort : Bool
deriving DecidableEq, Repr

/-- A value of a module for a group's phase (R496, R511): how many members contributed and aborted, and the flags of its fold. -/
structure ModVal where
  mod : Nat
  phase : Bool
  gop : Nat
  val : Word
  n : Nat
  root : Bool
  aborted : Nat
  fl : BitVec 6
deriving DecidableEq, Repr

/-- A pod group (R507 to R512): arrivals of the phase and of the next, values that modules have sent (and one of this module's own, once the time of R497 has
passed), on how many of the rings of R496 this module has sent, and the CTXIDs that arrived in the phase before. -/
structure GPhase where
  g : Nat
  parts : List Contrib
  next : List Contrib
  mods : List ModVal
  sent : Nat
  known : List Nat
deriving DecidableEq, Repr

/-- A domain's slicing state (R423 to R433). `cur` is the plan position and tenant in slice; `ends` the tick at which it ends;
`out` a tenant being switched out with the cycle of the tick; `inn` the tenant that comes in. -/
structure Dom where
  plan : List (Nat × Nat)
  pos : Nat
  cur : Option Nat
  ends : Nat
  out : Option (Nat × Nat)
  inn : Option Nat
deriving DecidableEq, Repr

/-- A migration in progress (R394 to R401): source seats, destination seats, record, whether the save is complete, gated
entries still without their flush token. -/
structure Mig where
  die : Nat
  idx : Nat
  src : List Seat
  dst : List Seat
  slot : Nat
  ctx : Nat
  stage : Nat
  start : Nat
  bytes : Nat
  gates : List (Nat × Nat)
deriving DecidableEq, Repr

/-- A mobile page (R405): far slot, near frame when it is near, ACC order. -/
structure MPage where
  tenant : BitVec 4
  vpn : Nat
  far : Nat
  frame : Option Nat
deriving DecidableEq, Repr

/-- A move that has been asked for or runs (R406, R411): tenant, page, up, chosen die (8: the Hearth), class, end. -/
structure Move where
  tenant : BitVec 4
  vpn : Nat
  up : Bool
  die : Nat
  cls : Nat
  ends : Option Nat
  reply : Option (Nat × Nat)
deriving DecidableEq, Repr

/-- The coordinator (R415, R416, R423, R446, R492, R507) with what it keeps of instances, requests and groups: results kept for saved members (R511), tags that are
retiring, the pages whose write-downs a switch awaits as (domain, page, tenant), sweeps as (tag, VF, modules whose echo is awaited), and the round markers received by each tile. -/
structure Coord where
  regs : AMap Word
  images : List Image
  tmpls : List Template
  insts : AMap Inst
  wait : List WaitReq
  arena : List (Nat × Nat × Nat)
  groups : List GPhase
  kept : List (Nat × Nat × Nat × Word)
  retiring : List Nat
  tick : Nat
  doms : AMap Dom
  downs : List (Nat × Nat × Nat)
  sweeps : List (Nat × Nat × List Nat)
  rounds : AMap Nat
  kills : List (Nat × Nat)
deriving DecidableEq, Repr

/-- The Winder (R405 to R412) and the Shuttle's list of migrations. -/
structure Winder where
  regs : AMap Word
  pages : List MPage
  moves : List Move
  migs : List Mig
deriving DecidableEq, Repr

/-- The Hearth: its circuit table (R306), its translation cache and its walker (R315). (DEDUCED, log 39.) -/
structure Hearth where
  circ : AMap Word
  tlb : AMap (List TlbE)
  memBad : List Nat
  merge : List MergeE
deriving DecidableEq, Repr

/-- A completion entry that waits for room (R459). -/
structure CEntry where
  fn : Nat
  w0 : Word
  w1 : Word
deriving DecidableEq, Repr

/-- The host port: BAR0 registers of functions 0 to 16 by 0x2000 × function + offset (R456), waiting entries, and per function
the completion entries not yet signalled with the cycle of the oldest (R456 COAL), the parity of the queue's wraps (R458), and the number of entries written (R361). -/
structure HostIf where
  regs : AMap Word
  waiting : List CEntry
  unsig : AMap Nat
  since : AMap Nat
  wraps : AMap Nat
  written : AMap Nat
deriving DecidableEq, Repr

/-- Saloc (R461 to R469): STARTST, PCAP, the stored security versions by image, the LMS leaf counter, the measurement registers and the hash of the configuration
record, the cap factor, its count of low samples and the cycle up to which capped time has been counted, the accepted configuration record, whether the dies have
power, the trained parameters of steps 3 to 5, and the start in progress with the cycles in which it and its step began. -/
structure Saloc where
  startst : Word
  pcap : Word
  versions : AMap Nat
  leaf : Nat
  meas : List (BitVec 384)
  cfgHash : BitVec 384
  capF : Nat
  low : Nat
  capAt : Nat
  cfg : CfgRec
  power : Bool
  params : List Word
  run : Option (StartIn × Nat × Nat)
deriving DecidableEq, Repr

/-- A port-to-port link (R485 to R490): packets that wait, as flits with their virtual channel, next SEQ, flits not yet acknowledged from the oldest with the cycles in which they were last sent, last SEQ received (LGSEQ), whether a NAK has
been sent since, replays of the oldest flit, failed attempts of the retraining under way, the cycle from which the retraining waits, CRED last
received and places consumed of each virtual channel, places freed here, flits accepted since the last control flit and its cycle, the flits received of a
packet that is not complete, and where its grants stand (R300, R422): the flits that may go before a waiting sync flit, and the virtual networks last granted, of the sync class and of the others. -/
structure Link where
  tx : List (List (BitVec 256) × Nat)
  seq : BitVec 10
  buf : List (BitVec 256 × Nat)
  lgseq : BitVec 10
  naked : Bool
  replays : Nat
  tries : Nat
  since : Nat
  cred : AMap Nat
  used : AMap Nat
  freed : AMap Nat
  fresh : Nat
  told : Nat
  rx : List (BitVec 256)
  turn : Nat
  lastS : Nat
  lastO : Nat
deriving DecidableEq, Repr

/-- A request of another module (R305): its packet, once it is on its way to its home the addresses at which it enters its pages, and what walks have handed
to it (R315). -/
structure Rq where
  pkt : Pkt
  pas : List Nat
  hand : List TlbE
deriving DecidableEq, Repr

/-- An open entry of the merge buffer of a link (R494): the link, its port die, the torus port that its packets came in by, the packets, and the cycle of
the first. -/
structure PMerge where
  link : Nat
  port : Nat
  came : Option Nat
  parts : List Pkt
  opened : Nat
deriving DecidableEq, Repr
/-- The pod fabric: the 24 links; retired links as 24 × module + link (R489); gated circuits and failed ones (R489, R490), by `circKey`; packets that wait at a
gated circuit; failed UALink ports (R500); the sequence numbers of aperture writes, sent and awaited, and those
that came early (R500); copies received of markers that are sent in every class (R303); requests of other modules (R305); open entries of the
merge buffers of the links, and the packets of merged ones whose answers are awaited, by number (R494). -/
structure Fabric where
  links : AMap Link
  retired : List Nat
  gated : List Nat
  failed : List Nat
  held : List Pkt
  uaFailed : List Nat
  uaSent : AMap Nat
  uaNext : AMap Nat
  uaEarly : List (Nat × Nat × Pkt)
  marks : AMap Nat
  reqs : AMap Rq
  nextReq : Nat
  ports : List PMerge
  merged : AMap (List Pkt)
deriving DecidableEq, Repr

/-- A packet or message that leaves the module (R301, R303, R455, R460, R485). (DESIGN CHOICE, log 80.) -/
inductive Out where
  | packet (port : Nat) (p : Pkt)
  | aperture (port seq : Nat) (p : Pkt)
  | hostEntry (fn addr : Nat) (w0 w1 : Word)
  | barData (fn off : Nat) (w : Word)
  | msix (fn vec : Nat)
  | hostData (w : List Byte)
  | flit (link : Nat) (data : BitVec 256) (trailer : BitVec 32)
  | report (nonce : BitVec 384) (meas : List (BitVec 384)) (startst : Word) (cfgHash : BitVec 384) (leaf ecdsa lms : Nat)
  | registration (handle status : Nat)
  | linkDown
  | packageFault (die exit : Nat)
deriving DecidableEq, Repr

/-- DESIGN CHOICE, log 6. -/
def Cluster.zero : Cluster :=
  { regs := [], csp := [], cspBad := [], cspSoft := [], last := [], served := [], banks := .zero, port := 0, wait := [], tlb := [] }
def PWait.zero : PWait := { k := 0, am := 0, slot := 0, id := 0, fired := 0 }
def SStrm.zero : SStrm := { ptk := 0, slot := 0, halt := false, lose := false, hold := [] }
def SCopy.zero : SCopy := { pos := 0, slot := 0, wtk := 0, ptk := 0, hold := [] }
def Side.zero : Side := { mmr := 0, nq := [], panels := [], strms := [], copies := [], waits := [] }
/-- A FREE record: zero but for DCLASS 0b10, TCMK 1 and DAFF 8 (R341). -/
def TRec.zero : TRec :=
  { w := ((Vector.replicate 16 (0 : Word)).set 0 0x2000000#64).set 1 0x80010000000000#64, seq := 0, seats := [], since := 0, copies := 0, pages := [], held := false, saved := [], old := [],
    glazeForm := false, info := none, csp := [], nofit := none, twinB := [], labels := [], wins := [],
    code := 0, hold := false, stopd := [], parked := [], firstR := none, reply := none, side := [], sv := 0, why := 0, svEnd := 0 }
/-- DESIGN CHOICE, log 6. -/
def Die.zero : Die :=
  { regs := [], recs := [], succ := [], seqs := [], deft := [], lastT := [], lastQ := [], circ := [], failed := [],
    merge := [], walks := [], throttle := false, settled := [], pre := none, staged := [], rcache := [] }
def Coord.zero : Coord :=
  { regs := [], images := [], tmpls := [], insts := [], wait := [], arena := [], groups := [], kept := [], retiring := [],
    tick := 0, doms := [], downs := [], sweeps := [], rounds := [], kills := [] }
def Winder.zero : Winder := { regs := [], pages := [], moves := [], migs := [] }
def Hearth.zero : Hearth := { circ := [], tlb := [], memBad := [], merge := [] }
def HostIf.zero : HostIf := { regs := [], waiting := [], unsig := [], since := [], wraps := [], written := [] }
/-- A standalone module with no torus port and no VF (R467 DEFCFG). -/
def cfgNone : CfgRec := { module := 0, nx := 1, ny := 1, nz := 1, ualink := false, maxPcap := 3400, vfs := 0 }
/-- DESIGN CHOICE, log 6. -/
def Saloc.zero : Saloc :=
  { startst := 0, pcap := 3400, versions := [], leaf := 0, meas := [], cfgHash := 0, capF := 16, low := 0, capAt := 0, cfg := cfgNone, power := true, params := [],
    run := none }
/-- DESIGN CHOICE, log 6. -/
def Link.zero : Link :=
  { tx := [], seq := 1, buf := [], lgseq := 0, naked := false, replays := 0, tries := 0, since := 0, cred := [], used := [], freed := [], fresh := 0, told := 0,
    rx := [], turn := 0, lastS := 0, lastO := 0 }
def Rq.zero : Rq := { pkt := .zero, pas := [], hand := [] }
def Fabric.zero : Fabric :=
  { links := [], retired := [], gated := [], failed := [], held := [], uaFailed := [], uaSent := [], uaNext := [], uaEarly := [], marks := [], reqs := [], nextReq := 0, ports := [], merged := [] }
def Inst.zero : Inst :=
  { used := false, arrived := 0, isFault := false, entryNo := none, tenant := 0, tmpl := 0, ctag := 0, promised := none, code := 0, failed := false, status := 0, recs := [], bufs := [],
    wr := [], ext := [], retired := 0, capped := false, ended := false, fault := none }
def Dom.zero : Dom := { plan := [], pos := 0, cur := none, ends := 0, out := none, inn := none }

/-! ## The task record's fields (R341) -/

def RSt.code : RSt → Nat
  | .free => 0 | .created => 1 | .waiting => 2 | .staging => 3 | .ready => 4 | .placed => 5 | .running => 6
  | .retiring => 7 | .retired => 8 | .preempted => 9 | .migrating => 10 | .faulted => 11
def RSt.ofCode : Nat → RSt
  | 1 => .created | 2 => .waiting | 3 => .staging | 4 => .ready | 5 => .placed | 6 => .running | 7 => .retiring
  | 8 => .retired | 9 => .preempted | 10 => .migrating | 11 => .faulted | _ => .free

/-- A word with the field [lo + len - 1 : lo] replaced. -/
def putFld (w : Word) (lo len x : Nat) : Word :=
  BitVec.ofNat 64 (w.toNat - nfld w.toNat lo len * 2 ^ lo + x % 2 ^ len * 2 ^ lo)

def TRec.f (r : TRec) (i : Fin 16) (lo len : Nat) : Nat := nfld r.w[i].toNat lo len
def TRec.put (r : TRec) (i : Fin 16) (lo len x : Nat) : TRec := { r with w := r.w.set i (putFld r.w[i] lo len x) }
def TRec.cnt (r : TRec) : Nat := r.f 0 0 16
def TRec.st (r : TRec) : RSt := RSt.ofCode (r.f 0 16 4)
def TRec.setSt (r : TRec) (x : RSt) : TRec := r.put 0 16 4 x.code
def TRec.tenant (r : TRec) : BitVec 4 := BitVec.ofNat 4 (r.f 0 20 4)
def TRec.dclass (r : TRec) : Nat := r.f 0 24 2
def TRec.profile (r : TRec) : Nat := r.f 0 26 2
def TRec.priv (r : TRec) : Bool := r.w[0].getLsbD 28
def TRec.twin (r : TRec) : Bool := r.w[0].getLsbD 29
def TRec.debug (r : TRec) : Bool := r.w[0].getLsbD 30
def TRec.ftv (r : TRec) : Bool := r.w[0].getLsbD 31
def TRec.gang (r : TRec) : Nat := r.f 0 32 4
def TRec.nctx (r : TRec) : Nat := r.f 0 36 3 + 1
def TRec.acnt (r : TRec) : Nat := r.f 0 39 3
def TRec.gcnt (r : TRec) : Nat := r.f 0 42 4
def TRec.hwq (r : TRec) : Nat := r.f 0 48 4
def TRec.barq (r : TRec) : Bool := r.w[0].getLsbD 52
def TRec.bexp (r : TRec) : Nat := r.f 0 53 8
def TRec.bound (r : TRec) : Nat := r.f 1 0 40
def TRec.tcmk (r : TRec) : Nat := r.f 1 40 9
def TRec.pcnt (r : TRec) : Nat := r.f 1 49 2
def TRec.gl (r : TRec) : Bool := r.w[1].getLsbD 51
def TRec.daff (r : TRec) : Nat := r.f 1 52 4
def TRec.image (r : TRec) : Nat := r.f 2 0 32
def TRec.tmplEntry (r : TRec) : Nat := r.f 2 32 16
def TRec.ftmpl (r : TRec) : Nat := r.f 2 48 16
def TRec.succoff (r : TRec) : Nat := r.f 3 0 32
def TRec.nsucc (r : TRec) : Nat := r.f 3 32 8
def TRec.nstrm (r : TRec) : Nat := r.f 3 40 8
def TRec.seed (r : TRec) : BitVec 32 := BitVec.ofNat 32 (r.f 4 0 32)
def TRec.mhmask (r : TRec) : BitVec 16 := BitVec.ofNat 16 (r.f 4 32 16)
def TRec.inst (r : TRec) : Nat := r.f 4 48 16
/-- BFL k, BADDR k and BSIZE k. -/
def TRec.bfl (r : TRec) (k : Fin 8) : Nat := nfld r.w[7].toNat (8 * k.val) 8
def TRec.bword (r : TRec) (k : Fin 8) : Word := r.w[8 + k.val]
def TRec.baddr (r : TRec) (k : Fin 8) : Nat := nfld (r.bword k).toNat 0 48
def TRec.bsize (r : TRec) (k : Fin 8) : Nat := nfld (r.bword k).toNat 48 16

end Sys2Proof.Machine
end

