-- ==== Sys2Proof/Machine/State.lean ====
section
/-! DEFINITION. The state of the module, its reset, and the reasons a step can stop. One tile is in focus, so that the picker and
the meanings of rule operations work on plain data; `others` holds the tiles that differ from a tile at reset. -/

namespace Sys2Proof.Machine

/-- Why an execution stops with a fault. -/
inductive Fault where
  /-- A rule operation is executed although a condition of R15 for it does not hold (an operand's channel entry is absent, an
  egress place is missing, an operand has an outstanding write, its unit is busy). The picker never chooses such a rule, so no
  step raises it (DESIGN CHOICE, log 7). Safe: the hardware has no behaviour there. -/
  | notEligible
deriving DecidableEq, Repr

/-- Why there is no meaning. -/
inductive Refusal where
  /-- The instruction has no meaning yet. Raised by an arm of `exec` only. Safe. -/
  | notModelled (mnemonic : String)
deriving DecidableEq, Repr

/-- Where a cycle stands: tiles fire in turn, each followed by its own agents, the state changes of its contexts last; then the module's
agents act. (DESIGN CHOICE, log 1.) -/
inductive Stage where
  | fire | agents | settle | next | module | turn
deriving DecidableEq, Repr

/-- The rule that is firing: its context and slot, its predicate writes pw0 and pw1, the register its CLR has cleared with the
presence it had, the entries its DQ removes, and HO. (DEDUCED, log 18.) -/
structure Fire where
  ctx : Fin 8
  slot : BitVec 9
  pws : List PWrite
  clr : Option (PresReg × Bool)
  dq : Option (Chan × Nat)
  ho : Bool
deriving DecidableEq, Repr

/-- The module. `clock` is CYCLE of every tile (R50); `cur` the number of the tile in focus, 192 × die + tile; `todo` the tiles
still to be attended to in this cycle; `agenda` the events to be taken next, in order; `ev` the event being
taken; `queue` the events due in later cycles, as
(cycle, event); `out` what left the module, latest first. `free` is the model's own: the number of free values taken so far (the values that the
spec leaves open are `Config.freeValue` of it; log 8). One clock serves all tiles (DEDUCED, log 9). -/
structure State where
  clock : Nat
  cur : Nat
  tile : Tile
  others : AMap Tile
  clusters : AMap Cluster
  dies : AMap Die
  mem : Memory
  hearth : Hearth
  coord : Coord
  winder : Winder
  host : HostIf
  saloc : Saloc
  fab : Fabric
  stage : Stage
  fire : Fire
  todo : List Nat
  agenda : List Ev
  ev : Ev
  queue : List (Nat × Ev)
  out : List Out
  free : Nat
deriving DecidableEq, Repr

def Fire.zero : Fire := { ctx := 0, slot := 0, pws := [], clr := none, dq := none, ho := false }

/-- The module right after reset: nothing placed, memory with nothing listed, tile 0 of die 0 in focus. (DESIGN CHOICE, log 6.) -/
def State.reset : State :=
  { clock := 0, cur := 0, tile := .zero, others := [], clusters := [], dies := [], mem := [], hearth := .zero, coord := .zero,
    winder := .zero, host := .zero, saloc := .zero, fab := .zero, stage := .fire, fire := .zero, todo := [], agenda := [], ev := .drawRefill,
    queue := [], out := [], free := 0 }

end Sys2Proof.Machine
end

