-- ==== Sys2Proof/Machine/Ops.lean ====
section
/-! DEFINITION. The named operations over the state: contexts and registers, memories, channels, the writeback of an operation (R28,
R112, R113), taking a stop (R160, R165) and the return from one (R433, R401), events and time. -/

namespace Sys2Proof.Machine
open Sys2Proof

/-! ## Tiles, clusters, dies -/

/-- Where an operation runs: die, tile within the die, CYCLE. -/
structure Env where
  die : Nat
  tile : Nat
  cyc : Nat
deriving DecidableEq, Repr

def dieOf (n : Nat) : Nat := n / 192
def tileIn (n : Nat) : Nat := n % 192
/-- The cluster of a tile, 12 × die + cluster (R255). -/
def clusOf (n : Nat) : Nat := 12 * dieOf n + 4 * (tileIn n / 16 / 4) + tileIn n % 16 / 4
/-- The position of a tile in its cluster (R255). -/
def posOf (n : Nat) : Nat := 4 * (tileIn n / 16 % 4) + tileIn n % 16 % 4
/-- The tile at a position of a cluster. -/
def tileAtPos (k p : Nat) : Nat :=
  192 * (k / 12) + 16 * (4 * (k % 12 / 4) + p / 4) + 4 * (k % 12 % 4) + p % 4
/-- The torus neighbour of a tile in a direction: 0 north, 1 east, 2 south, 3 west (R256). -/
def neighbour (n : Nat) (dir : Fin 4) : Nat :=
  let x := posOf n % 4; let y := posOf n / 4
  let (x', y') := match dir with
    | 0 => (x, (y + 3) % 4) | 1 => ((x + 1) % 4, y) | 2 => (x, (y + 1) % 4) | 3 => ((x + 3) % 4, y)
  tileAtPos (clusOf n) (4 * y' + x')
/-- Odd dies are Bisque (R2). -/
def isBisque (die : Nat) : Bool := die % 2 == 1
def tcmSize (n : Nat) : Nat := if isBisque (dieOf n) then Config.tcmBisque else Config.tcmGlaze

def allCtx : List (Fin 8) := List.finRange 8
def sumL (l : List Nat) : Nat := l.foldl (· + ·) 0
def maxL (l : List Nat) : Nat := l.foldl max 0
def State.env (s : State) : Env := { die := dieOf s.cur, tile := tileIn s.cur, cyc := s.clock }
def State.tileN (s : State) (n : Nat) : Tile := if n = s.cur then s.tile else mget Tile.zero s.others n
def State.setTile (s : State) (n : Nat) (t : Tile) : State :=
  if n = s.cur then { s with tile := t } else { s with others := mset Tile.zero s.others n t }
def State.modTile (s : State) (n : Nat) (f : Tile → Tile) : State := s.setTile n (f (s.tileN n))
def State.onTile (s : State) (f : Tile → Tile) : State := { s with tile := f s.tile }
/-- Move the focus to tile `n`. -/
def State.focus (s : State) (n : Nat) : State :=
  if n = s.cur then s
  else { s with cur := n, tile := mget Tile.zero s.others n,
                others := mset Tile.zero (mset Tile.zero s.others s.cur s.tile) n Tile.zero }
def State.clus (s : State) (k : Nat) : Cluster := mget Cluster.zero s.clusters k
def State.setClus (s : State) (k : Nat) (c : Cluster) : State := { s with clusters := mset Cluster.zero s.clusters k c }
def State.modClus (s : State) (k : Nat) (f : Cluster → Cluster) : State := s.setClus k (f (s.clus k))
def State.die (s : State) (d : Nat) : Die := mget Die.zero s.dies d
def State.setDie (s : State) (d : Nat) (x : Die) : State := { s with dies := mset Die.zero s.dies d x }
def State.modDie (s : State) (d : Nat) (f : Die → Die) : State := s.setDie d (f (s.die d))
def State.trec (s : State) (d i : Nat) : TRec := mget TRec.zero (s.die d).recs i
def State.setRec (s : State) (d i : Nat) (r : TRec) : State :=
  s.modDie d fun x => { x with recs := mset TRec.zero x.recs i r }
def State.modRec (s : State) (d i : Nat) (f : TRec → TRec) : State := s.setRec d i (f (s.trec d i))
def State.inst (s : State) (i : Nat) : Inst := mget Inst.zero s.coord.insts i
def State.setInst (s : State) (i : Nat) (x : Inst) : State :=
  { s with coord := { s.coord with insts := mset Inst.zero s.coord.insts i x } }
def State.modInst (s : State) (i : Nat) (f : Inst → Inst) : State := s.setInst i (f (s.inst i))
/-- A register of a configuration space kept by offset. (DESIGN CHOICE, log 36.) -/
def reg (m : AMap Word) (off : Nat) : Word := mget 0 m off
/-- DESIGN CHOICE, log 36. -/
def setReg (m : AMap Word) (off : Nat) (x : Word) : AMap Word := mset 0 m off x
/-- Counters saturate at 2^64 - 1 (R162, R257, R409, R439, R446). -/
def satInc (w : Word) (n : Nat) : Word := BitVec.ofNat 64 (min (w.toNat + n) (2 ^ 64 - 1))
def bumpReg (m : AMap Word) (off n : Nat) : AMap Word := setReg m off (satInc (reg m off) n)

/-! ## Events and time -/

/-- Take the events next, in order. -/
def State.push (s : State) (is : List Ev) : State := { s with agenda := s.agenda ++ is }
/-- An event that waits goes ahead of what stands in the queue for its cycle. -/
def qfront (c : Nat) (i : Ev) : List (Nat × Ev) → List (Nat × Ev)
  | [] => [(c, i)]
  | (k, j) :: q => if c ≤ k then (c, i) :: (k, j) :: q else (k, j) :: qfront c i q
/-- Insert in the order of cycles, behind those of the same cycle. -/
def qinsert (c : Nat) (i : Ev) : List (Nat × Ev) → List (Nat × Ev)
  | [] => [(c, i)]
  | (k, j) :: q => if c < k then (c, i) :: (k, j) :: q else (k, j) :: qinsert c i q
/-- Take an event `n` cycles later. -/
def State.later (s : State) (n : Nat) (i : Ev) : State :=
  if n = 0 then s.push [i] else { s with queue := qinsert (s.clock + n) i s.queue }
def State.emit (s : State) (o : Out) : State := { s with out := o :: s.out }

/-! ## Contexts -/

def Tile.ctx (t : Tile) (c : Fin 8) : Ctx := t.ctxs[c]
def Tile.setCtx (t : Tile) (c : Fin 8) (x : Ctx) : Tile := { t with ctxs := t.ctxs.set c x }
def Tile.modCtx (t : Tile) (c : Fin 8) (f : Ctx → Ctx) : Tile := t.setCtx c (f (t.ctx c))
def Ctx.setRegs (c : Ctx) (r : Regs) : Ctx := { c with regs := r }
def Ctx.setCtl (c : Ctx) (x : Ctl) : Ctx := { c with ctl := x }
/-- The task of a context, as its tile holds it. -/
def Tile.taskOf (t : Tile) (c : Ctx) : Option TTask :=
  match c.task with
  | none => none
  | some r => t.tasks.find? (fun x => x.ref == r)
def Tile.modTask (t : Tile) (r : TRef) (f : TTask → TTask) : Tile :=
  { t with tasks := t.tasks.map fun x => if x.ref == r then f x else x }
/-- Contexts of the tile that run the task of `r`. -/
def Tile.ctxsOf (t : Tile) (r : TRef) : List (Fin 8) := (List.finRange 8).filter fun c => (t.ctx c).task == some r
def CSt.live (c : CSt) : Bool := c != .free

/-! ## Poison (R155, R156, R157) -/

/-- The payload of R156. (DEDUCED, log 39.) -/
def mkPayload (cause : BitVec 8) (slot : Nat) (ctx : Fin 8) (e : Env) (cyc : Nat) : Word :=
  BitVec.ofNat 64 (cause.toNat + at_ 8 (slot % 512) + at_ 17 ctx.val + at_ 20 (e.tile % 256) + at_ 28 (e.die % 8) + at_ 32 (cyc % 2 ^ 32))

/-- A value read, with its poison bit; a poisoned value carries the payload in its low 64 bits. -/
structure Val (w : Nat) where
  bits : BitVec w
  pois : Bool
deriving DecidableEq, Repr
def Val.payload {w : Nat} (v : Val w) : Option Word := if v.pois then some (v.bits.setWidth 64) else none
def clean {w : Nat} (x : BitVec w) : Val w := { bits := x, pois := false }
/-- The payload of the first poisoned source (R113 item 1, R157). -/
def firstPois : List (Option Word) → Option Word
  | [] => none
  | some x :: _ => some x
  | none :: l => firstPois l

/-! ## Reading operands (R22, R28, R48, R50, R158) -/

/-- A register as a reading rule finds it when its storage holds an error: poison with this payload. -/
def Regs.readBad (pl : Word) (r : Regs) : PresReg → Regs
  | .s i => { r with s := r.s.set i { r.s[i] with bits := pl, pois := true } }
  | .v i => { r with v := r.v.set i { r.v[i] with bits := pl.setWidth 2048, pois := true } }
  | .k i => { r with k := r.k.set i { r.k[i] with bits := pl.setWidth 256, pois := true } }
/-- An entry in which an uncorrectable error is found: P is set, with this payload (R158). -/
def Entry.lost (pl : Word) (e : Entry) : Entry := { e with data := pl.setWidth 512, p := true }
/-- Channels whose storage holds errors, as a reader finds them: the payload has cause 0x09 and names the channel (R156, R158). -/
def Ctx.readIn (c : Ctx) (pl : Chan → Word) : Ctx :=
  { c with inb := c.badIn.foldl (fun b x => b.set x.1 ((b[x.1]).modify x.2 (Entry.lost (pl x.1)))) c.inb }
/-- The context as a rule reads it: what its storage has lost is poison (R158). (DEDUCED, log 39; DEDUCED, log 83.) -/
def Ctx.seen (c : Ctx) (reg : Word) (ent : Chan → Word) : Ctx :=
  if c.regs.bad.isEmpty && c.badIn.isEmpty then c
  else { (c.readIn ent) with regs := c.regs.bad.foldl (Regs.readBad reg) c.regs }
/-- The firing context, with the sources of the firing rule as it reads them. -/
def State.fctx (s : State) : Ctx :=
  (s.tile.ctx s.fire.ctx).seen (mkPayload 8#8 s.fire.slot.toNat s.fire.ctx s.env s.clock) (fun ch => mkPayload 9#8 ch.val s.fire.ctx s.env s.clock)

/-- A short system register as a scalar source (R50). (DEDUCED, log 9.) -/
def State.rdSys (s : State) (c : Fin 8) (r : SysR) : Word :=
  let x := s.tile.ctx c
  match r with
  | .ctxcfg => x.ctxcfg
  | .ctxid => BitVec.ofNat 64 (c.val + at_ 3 (tileIn s.cur) + at_ 11 (dieOf s.cur))
  | .flags => x.regs.flags.setWidth 64
  | .amode => x.regs.amode.setWidth 64
  | .srng => x.regs.srng.setWidth 64
  | .cycle => BitVec.ofNat 64 s.clock
  | .draw => x.left.setWidth 64
  | .tbase => x.tbase.setWidth 64
  | .taskid => match x.task with | some t => BitVec.ofNat 64 (t.idx % 65536) | none => 0
  | .tenant => x.tenant.setWidth 64
  | .bleft => match s.tile.taskOf x with | some t => BitVec.ofNat 64 t.bleft | none => 0

def entVal (e : Entry) (w : Nat) : Val w := { bits := e.data.setWidth w, pois := e.p }
/-- Entry `n` of an inbound channel, from the head. -/
def Ctx.head (c : Ctx) (ch : Chan) (n : Nat) : Option Entry := (c.inb[ch])[n]?
def Reg.val {w : Nat} (r : Reg w) : Val w := { bits := r.bits, pois := r.pois }

def Ctx.s (c : Ctx) (r : SReg) : Val 64 := (c.regs.s[r]).val
def Ctx.v (c : Ctx) (r : VReg) : Val 2048 := (c.regs.v[r]).val
def Ctx.k (c : Ctx) (r : KReg) : Val 256 := (c.regs.k[r]).val
def Ctx.p (c : Ctx) (r : PReg) : Bool := c.regs.p.getLsbD r.val

/-- One entry's data as a value; an absent entry reads as zero, and no rule that fires reads one (R15 condition 4). -/
def Ctx.chan1 (c : Ctx) (ch : Chan) (w : Nat) : Val w :=
  match c.head ch 0 with
  | some e => entVal e w
  | none => clean 0
/-- Four entries as a vector; poison when any has P set, with the payload of the first (R22). -/
def vecOfEntries (es : List Entry) : Val 2048 :=
  match es.find? (·.p) with
  | some e => { bits := (e.data.setWidth 64).setWidth 2048, pois := true }
  | none => clean (BitVec.ofNat 2048 (es.foldr (fun e acc => e.data.toNat + acc * 2 ^ 512) 0))

def State.ss (s : State) (a : SSrc) : Val 64 :=
  match a with
  | .reg r => s.fctx.s r
  | .chan c => s.fctx.chan1 c 64
  | .sys r => clean (s.rdSys s.fire.ctx r)
def State.vs (s : State) (a : VSrc) : Val 2048 :=
  match a with
  | .reg r => s.fctx.v r
  | .chan c => vecOfEntries ((s.fctx.inb[c]).take 4)
def State.ks (s : State) (a : KSrc) : Val 256 :=
  match a with
  | .reg r => s.fctx.k r
  | .chan c => s.fctx.chan1 c 256
def pairLo (n : Fin 16) : SReg := ⟨2 * n.val, by omega⟩
def pairHi (n : Fin 16) : SReg := ⟨2 * n.val + 1, by omega⟩
/-- A pair; a poisoned register passes on the payload of the lowest-numbered one (R157). -/
def pairVal (lo hi : Val 64) : Val 128 :=
  if lo.pois then { bits := lo.bits.setWidth 128, pois := true }
  else if hi.pois then { bits := hi.bits.setWidth 128, pois := true }
  else clean (hi.bits ++ lo.bits)
def State.ps (s : State) (a : PSrc) : Val 128 :=
  match a with
  | .pair n => pairVal (s.fctx.s (pairLo n)) (s.fctx.s (pairHi n))
  | .chan c => s.fctx.chan1 c 128

/-! ## Writing (R23, R29, R112) -/

def Regs.setS (r : Regs) (i : SReg) (x : Word) (p : Bool) : Regs := { r with s := r.s.set i { bits := x, full := true, pois := p }, bad := r.bad.filter (· != .s i) }
def Regs.setV (r : Regs) (i : VReg) (x : VWord) (p : Bool) : Regs := { r with v := r.v.set i { bits := x, full := true, pois := p }, bad := r.bad.filter (· != .v i) }
def Regs.setK (r : Regs) (i : KReg) (x : KWord) (p : Bool) : Regs := { r with k := r.k.set i { bits := x, full := true, pois := p }, bad := r.bad.filter (· != .k i) }
def setBit {n : Nat} (x : BitVec n) (i : Nat) (b : Bool) : BitVec n :=
  if b then x ||| BitVec.ofNat n (2 ^ i) else x &&& ~~~(BitVec.ofNat n (2 ^ i))
def Regs.setP (r : Regs) (i : PReg) (b : Bool) : Regs := { r with p := setBit r.p i.val b }
def Regs.setSys (r : Regs) (x : SysW) (w : Word) : Regs :=
  match x with
  | .flags => { r with flags := w.setWidth 6 }
  | .amode => { r with amode := w.setWidth 10 }
  | .srng => { r with srng := w.setWidth 32 }
/-- Presence of a register (R29). -/
def Regs.full (r : Regs) : PresReg → Bool
  | .s i => (r.s[i]).full | .v i => (r.v[i]).full | .k i => (r.k[i]).full
def Regs.setFull (r : Regs) (x : PresReg) (b : Bool) : Regs :=
  match x with
  | .s i => { r with s := r.s.set i { r.s[i] with full := b } }
  | .v i => { r with v := r.v.set i { r.v[i] with full := b } }
  | .k i => { r with k := r.k.set i { r.k[i] with full := b } }

def Ctx.setInb (c : Ctx) (ch : Chan) (es : List Entry) : Ctx := { c with inb := c.inb.set ch es }
def Ctx.setEgr (c : Ctx) (ch : Chan) (es : List Entry) : Ctx := { c with egr := c.egr.set ch es }

/-- A predicate write (R27); source 10 takes the result condition. -/
def pwApply (w : PWrite) (rc : Bool) (r : Regs) : Regs :=
  match w.src with
  | .clear => r.setP w.p false
  | .set => r.setP w.p true
  | .toggle => r.setP w.p (!r.p.getLsbD w.p.val)
  | .rc => r.setP w.p rc
def pwIsRc (w : PWrite) : Bool := w.src == .rc
def applyPws (ws : List PWrite) (rc : Bool) (r : Regs) : Regs := ws.foldl (fun r w => pwApply w rc r) r

/-- The stop of a context, taken at its next CONTEXT_STOP: it fires no further rule (R159, R165). The first cause stands. Cause 0x01
also discards the appends and memory writes of earlier fires. (DEDUCED, log 92.) -/
def Ctx.stop (c : Ctx) (i : StopInfo) : Ctx :=
  match c.ctl.ending with
  | .stop _ => c
  | _ => c.setCtl { c.ctl with ending := .stop i, trapped := c.ctl.trapped || i.cause == 1#8, asleep := none }

def StopInfo.mk0 (cause : BitVec 8) (slot : Nat) (cyc : Nat) : StopInfo :=
  { cause := cause, slot := BitVec.ofNat 16 slot, payload := 0, pmark := false, loc := 0, code := 0, chlab := 0, bytes := 0,
    cyc := BitVec.ofNat 64 cyc }
/-- A stop with cause 0x01 (R159). -/
def StopInfo.poison (slot : Nat) (pl : Word) (cyc : Nat) : StopInfo :=
  { StopInfo.mk0 1#8 slot cyc with payload := pl, pmark := true }

/-- A trap has come in an earlier cycle: what the context writes back to channels and memory is discarded (R159). (DEDUCED, log 92.) -/
def Ctx.dead (c : Ctx) (cyc : Nat) : Bool :=
  c.ctl.trapped && match c.ctl.ending with | .stop i => decide (i.cyc.toNat < cyc) | _ => true
/-- Append entries at a writeback (R23). A context that was trapped discards them; a poisoned entry freezes the channel and stops the
context (R159). -/
def Ctx.append (c : Ctx) (ch : Chan) (es : List Entry) (slot cyc : Nat) : Ctx :=
  if c.dead cyc then c
  else
    let c1 := c.setEgr ch (c.egr[ch] ++ es)
    match es.find? (·.p) with
    | none => c1
    | some e =>
      { (c1.stop { StopInfo.poison slot (e.data.setWidth 64) cyc with chlab := BitVec.ofNat 8 ch.val }) with
        ctl := { (c1.stop { StopInfo.poison slot (e.data.setWidth 64) cyc with chlab := BitVec.ofNat 8 ch.val }).ctl with
                 frozen := setBit c1.ctl.frozen ch.val true } }

def Wr.apply (w : Wr) (slot cyc : Nat) (c : Ctx) : Ctx :=
  match w with
  | .s r x q => c.setRegs (c.regs.setS r x q)
  | .v r x q => c.setRegs (c.regs.setV r x q)
  | .k r x q => c.setRegs (c.regs.setK r x q)
  | .p r b => c.setRegs (c.regs.setP r b)
  | .sys r x => c.setRegs (c.regs.setSys r x)
  | .clr m => c.setRegs { c.regs with flags := c.regs.flags &&& ~~~m }
  | .eg ch es => c.append ch es slot cyc

/-- Item 5 of R113 applies: the poisoned result would reach a predicate or a short system register. (DEDUCED, log 15.) -/
def Op.trapped (o : Op) : Option Word :=
  match o.poison with
  | none => none
  | some pl => if o.hard || o.pws.any pwIsRc then some pl else none

def Wr.isFlags : Wr → Bool | .sys .flags _ => true | .clr _ => true | _ => false
/-- The flags that writebacks of this cycle have raised so far. -/
def Ctx.raisedIn (c : Ctx) (cyc : Nat) : Fl := if c.fnow.1 = cyc then c.fnow.2 else 0
/-- Flags are raised at a writeback; a write of FLAGS in the same cycle keeps them (R103). -/
def Ctx.raise (c : Ctx) (cyc : Nat) (fl : Fl) : Ctx :=
  { c with regs := { c.regs with flags := c.regs.flags ||| fl }, fnow := (cyc, c.raisedIn cyc ||| fl) }
/-- The writeback of an operation in its context (R28, R112, R113): results, then the predicate writes `o.pws`, then the raised
flags, also those that another writeback of the cycle raised before a write of FLAGS (R103). SRNG advances before the results are written, so that a result that is
written to SRNG stands. (DESIGN CHOICE, log 98.) -/
def Op.write (o : Op) (cyc : Nat) (c : Ctx) : Ctx :=
  let c1 := match o.trapped with
    | some pl =>
      let c1 := c.setRegs (applyPws (o.pws.filter fun w => !pwIsRc w) false c.regs)
      c1.stop (StopInfo.poison o.slot.toNat pl cyc)
    | none =>
      let c0 := match o.srng with | some x => c.setRegs { c.regs with srng := x } | none => c
      let c1 := o.wr.foldl (fun c x => Wr.apply x o.slot.toNat cyc c) c0
      c1.setRegs (applyPws o.pws (o.rc.getD false) c1.regs)
  c1.raise cyc (if o.wr.any Wr.isFlags then o.fl ||| c.raisedIn cyc else o.fl)

/-! ## Destinations -/

/-- An entry with a value in its low bits and width code `w` (R21, R23); poisoned, it carries the payload alone. -/
def mkEntry (x : Nat) (w : BitVec 2) (tag : BitVec 8) (p : Bool) : Entry :=
  { data := BitVec.ofNat 512 x, tag := tag, w := w, p := p }
def Val.num {w : Nat} (v : Val w) : Nat := if v.pois then (v.bits.setWidth 64).toNat else v.bits.toNat
/-- The four entries of a vector (R23). -/
def vecEntries (x : Val 2048) (tag : BitVec 8) : List Entry :=
  if x.pois then List.replicate 4 (mkEntry x.num 3#2 tag true)
  else (List.range 4).map fun i => mkEntry (x.bits.extractLsb' (512 * i) 512).toNat 3#2 tag false

def wrS (d : SDst) (x : Val 64) : List Wr :=
  match d with
  | .reg r => [.s r x.bits x.pois]
  | .chan c => [.eg c [mkEntry x.num 0#2 0#8 x.pois]]
  | .sys r => [.sys r x.bits]
def wrV (d : VDst) (x : Val 2048) : List Wr :=
  match d with
  | .reg r => [.v r (BitVec.ofNat 2048 x.num) x.pois]
  | .chan c => [.eg c (vecEntries x 0#8)]
def wrK (d : KDst) (x : Val 256) : List Wr :=
  match d with
  | .reg r => [.k r (BitVec.ofNat 256 x.num) x.pois]
  | .chan c => [.eg c [mkEntry x.num 2#2 0#8 x.pois]]
/-- A pair: a poisoned one poisons both registers (R105). -/
def wrP2 (d : PDst) (x : Val 128) : List Wr :=
  match d with
  | .pair n =>
    if x.pois then [.s (pairLo n) (x.bits.setWidth 64) true, .s (pairHi n) (x.bits.setWidth 64) true]
    else [.s (pairLo n) (x.bits.setWidth 64) false, .s (pairHi n) (x.bits.extractLsb' 64 64) false]
  | .chan c => [.eg c [mkEntry x.num 1#2 0#8 x.pois]]
def sdHard : SDst → Bool
  | .sys _ => true | _ => false

/-! ## Physical units of a tile -/

/-- The physical accumulator of a_n (R170). -/
def Ctx.accOf (c : Ctx) (a : AReg) : Fin 4 := Fin.ofNat 4 (nfld c.ag.amap.toNat (2 * a.val) 2)
/-- The physical stream of g_n (R170). -/
def Ctx.strmOf (c : Ctx) (g : Fin 8) : Fin 8 := Fin.ofNat 8 (nfld c.ag.gmap.toNat (3 * g.val) 3)
def Tile.setAcc (t : Tile) (a : Fin 4) (x : Acc) : Tile := { t with acc := t.acc.set a x }
def Tile.setStrm (t : Tile) (g : Fin 8) (x : Strm) : Tile := { t with strm := t.strm.set g x }
/-- An accumulator has no operation outstanding (R14 KIND 111, R214). -/
def Tile.accIdle (t : Tile) (a : Fin 4) : Bool := t.ops.all fun o => !o.accs.contains a.val
/-- Egress places that are not reserved (R15 condition 5, R33, R142). -/
def Tile.egFree (t : Tile) (c : Fin 8) (ch : Chan) : Nat :=
  let x := t.ctx c
  let resv := t.ops.foldl (fun n o => if o.ctx = c then o.room.foldl (fun n r => if r.1 = ch then n + r.2 else n) n else n) 0
  8 - (x.egr[ch]).length - resv - b2n (x.ctl.mark && (x.eb[ch]).bv)
/-- An earlier fire of context `c` has not written back. -/
def Tile.pendingOps (t : Tile) (c : Fin 8) : List Op := t.ops.filter fun o => o.ctx == c
def Tile.locked (t : Tile) (c : Fin 8) (r : Res) : Bool := t.ops.any fun o => o.ctx == c && o.dsts.contains r

/-! ## TCM and CSP (R173, R175, R259, R263) -/

/-- Some word of a byte range is in a list of words. -/
def hitsWord (bad : List Nat) (a n : Nat) : Bool := bad.any fun w => decide (w * 8 < a + n ∧ a < w * 8 + 8)
/-- Words wholly inside a byte range leave a list of words. -/
def healWords (bad : List Nat) (a n : Nat) : List Nat := bad.filter fun w => !decide (a ≤ w * 8 ∧ w * 8 + 8 ≤ a + n)

/-- A range lies in the context's TCM allocation (R173). -/
def Ctx.tcmOk (c : Ctx) (off : Int) (n : Nat) : Bool := decide (0 ≤ off ∧ off + n ≤ c.tlen.toNat)
def Ctx.tcmPa (c : Ctx) (off : Nat) : Nat := c.tbase.toNat + off
def Tile.tcmRd (t : Tile) (pa n : Nat) : List Byte := readBytes t.tcm pa n
def Tile.tcmWr (t : Tile) (pa : Nat) (bs : List Byte) : Tile :=
  { t with tcm := writeBytes t.tcm pa bs, tcmBad := healWords t.tcmBad pa bs.length, tcmSoft := healWords t.tcmSoft pa bs.length }
/-- A read corrects the single-bit errors it meets and counts them (R175). -/
def Tile.tcmCorr (t : Tile) (pa n : Nat) : Tile :=
  let hit := t.tcmSoft.filter fun w => hitsWord [w] pa n
  { t with tcmSoft := t.tcmSoft.filter (fun w => !hitsWord [w] pa n), r := { t.r with ecccnt := satInc t.r.ecccnt hit.length } }

/-- CSPW and BMAP of a context (R257, R258). -/
def State.cspw (s : State) (n : Nat) (c : Fin 8) : Word := reg (s.clus (clusOf n)).regs (0x10 * (8 * posOf n + c.val))
def State.bmap (s : State) (n : Nat) (c : Fin 8) : Word := reg (s.clus (clusOf n)).regs (0x10 * (8 * posOf n + c.val) + 8)
def State.cspOk (s : State) (n : Nat) (c : Fin 8) (off : Int) (len : Nat) : Bool :=
  decide (0 ≤ off ∧ off + len ≤ nfld (s.cspw n c).toNat 10 11 * 65536)
def State.cspPa (s : State) (n : Nat) (c : Fin 8) (off : Nat) : Nat := nfld (s.cspw n c).toNat 0 10 * 65536 + off
def Cluster.wr (k : Cluster) (pa : Nat) (bs : List Byte) : Cluster :=
  { k with csp := writeBytes k.csp pa bs, cspBad := healWords k.cspBad pa bs.length, cspSoft := healWords k.cspSoft pa bs.length }
def Cluster.corr (k : Cluster) (pa n : Nat) : Cluster :=
  let hit := k.cspSoft.filter fun w => hitsWord [w] pa n
  { k with cspSoft := k.cspSoft.filter (fun w => !hitsWord [w] pa n), regs := if hit.isEmpty then k.regs else bumpReg k.regs 0xac0 hit.length }

/-! ## Physical memory (R310) -/

/-- Where a physical address lies: 0 far, 1 Hearth near, 2 + d near memory of die d. -/
def memHome (a : Nat) : Option Nat :=
  if a < Config.farSize then some 0
  else if Config.hearthBase ≤ a ∧ a < Config.hearthBase + Config.hearthSize then some 1
  else if Config.nearBase ≤ a ∧ (a - Config.nearBase) / Config.nearStep < 8 ∧ (a - Config.nearBase) % Config.nearStep < Config.nearSize then
    some (2 + (a - Config.nearBase) / Config.nearStep)
  else none
/-- The near-memory slice and the far-memory channel of an address (R310). -/
def nearSlice (a : Nat) : Nat := (a - Config.nearBase) % Config.nearStep / 4096 % 12
def farChan (a : Nat) : Nat := a / 256 % 24
/-- The code of the agent that is the home of an address (R301): a slice of near memory, the Hearth's, the far memory's. -/
def homeCode (a : Nat) : Nat := match memHome a with | some 0 => 0xfc | some 1 => 0xf8 | some _ => 0xc0 + nearSlice a | none => 0xf8
/-- The unloaded time of R385 for a global access from a die to a home. (DEDUCED, log 77.) -/
def homeL (die home : Nat) : Nat :=
  if home = 0 then 180 else if home = 1 then 64
  else if home - 2 = die then 36
  else if (home - 2) = (die + 1) % 8 ∨ (home - 2) = (die + 7) % 8 then 76 else 100
/-- The constant S of R319. (DEDUCED, log 77.) -/
def homeS (die home : Nat) : Nat :=
  if home = 0 then 190 else if home = 1 then 72
  else if home - 2 = die then 40
  else if (home - 2) = (die + 1) % 8 ∨ (home - 2) = (die + 7) % 8 then 84 else 110
def State.memRd (s : State) (pa n : Nat) : List Byte := readBytes s.mem pa n
def State.memWr (s : State) (pa : Nat) (bs : List Byte) : State :=
  { s with mem := writeBytes s.mem pa bs, hearth := { s.hearth with memBad := healWords s.hearth.memBad pa bs.length } }
def State.memWord (s : State) (pa : Nat) : Word := BitVec.ofNat 64 (leNat (s.memRd pa 8))
def State.setMemWord (s : State) (pa : Nat) (w : Word) : State := s.memWr pa (leBytes 8 w.toNat)

/-! ## Order tokens (R331) -/

/-- Publications of token `n` that the task has fired on the tile. -/
def TTask.fired (t : TTask) (n : Nat) : Nat := mget 0 t.otok n
/-- Publications 1 to `k` of `n` are complete. -/
def TTask.met (t : TTask) (n k : Nat) : Bool := t.pend.all fun x => !(x.1 == n && decide (x.2 ≤ k))
def TTask.publish (t : TTask) (n : Nat) : TTask :=
  { t with otok := mset 0 t.otok n (t.fired n + 1), pend := t.pend ++ [(n, t.fired n + 1)] }
/-- Publication number `k` of `n` completes. -/
def TTask.complete (t : TTask) (n k : Nat) : TTask := { t with pend := t.pend.filter fun x => !(x == (n, k)) }
def TTask.room (t : TTask) (n : Nat) : Bool := decide ((t.pend.filter fun x => x.1 == n).length < 255)

end Sys2Proof.Machine
end

