-- ==== Sys2Proof/Machine/VecOps.lean ====
section
/-! DEFINITION. Operations on vector values: elements, masks, the element-wise map, reductions, scans, rearrangements,
conversions and MX blocks (R184 to R209), as functions of values. -/

namespace Sys2Proof.Machine

/-! ## Elements (R86, R184) -/

/-- The first `n` elements of width `w` of the number `x`, element 0 first. -/
def splitN (w : Nat) : Nat → Nat → List Word
  | 0, _ => []
  | n + 1, x => BitVec.ofNat 64 (x % 2 ^ w) :: splitN w n (x / 2 ^ w)

/-- Elements packed from bit 0 upward, each cut to `w` bits. -/
def joinN (w : Nat) : List Word → Nat
  | [] => 0
  | x :: xs => x.toNat % 2 ^ w + joinN w xs * 2 ^ w

def splitV (w : Nat) (x : VWord) : List Word := splitN w (2048 / w) x.toNat
def joinV (w : Nat) (xs : List Word) : VWord := BitVec.ofNat 2048 (joinN w xs)

/-- Bits of a number as Bools, bit 0 first. -/
def bitsN : Nat → Nat → List Bool
  | 0, _ => []
  | n + 1, x => (x % 2 == 1) :: bitsN n (x / 2)
def boolsN : List Bool → Nat
  | [] => 0
  | b :: bs => (if b then 1 else 0) + 2 * boolsN bs

/-- Which of `n` elements are active: all of them without a mask (R186). -/
def activeBits (n : Nat) (m : Option KWord) : List Bool :=
  match m with
  | none => List.replicate n true
  | some k => bitsN n k.toNat

/-- The nth element, zero past the end. -/
def nthW (xs : List Word) (n : Nat) : Word := xs.getD n 0#64

/-! ## The element-wise map -/

/-- One element's result. -/
structure EOut where
  w : Word
  fl : Fl
  srng : BitVec 32
  div0 : Bool
deriving DecidableEq, Repr

def ARes.toE (v : FEnv) (r : ARes) : EOut := ⟨r.w, r.fl, v.srng, r.div0⟩
def FRes.toE (r : FRes) : EOut := ⟨BitVec.ofNat 64 r.bits, r.fl, r.srng, false⟩
def WRes.toE (r : WRes) : EOut := ⟨r.w, r.fl, r.srng, false⟩

/-- An element operation of up to three sources. -/
abbrev ElemOp := FEnv → Word → Word → Word → EOut

/-- What a vector operation leaves: the elements, the flags of the active ones, SRNG, a division by zero, and whether an active
element written is not zero. -/
structure VOut where
  xs : List Word
  fl : Fl
  srng : BitVec 32
  div0 : Bool
  nz : Bool
deriving DecidableEq, Repr

/-- Apply an operation to every active element in increasing order; a masked-off element takes the element of `old` (R186). -/
def emap (f : ElemOp) (isZ : Word → Bool) (v : FEnv) : List Bool → List Word → List Word → List Word → List Word → VOut
  | a :: as, o :: os, x :: xs, y :: ys, z :: zs =>
    if a then
      let r := f v x y z
      let t := emap f isZ { v with srng := r.srng } as os xs ys zs
      ⟨r.w :: t.xs, r.fl ||| t.fl, t.srng, r.div0 || t.div0, !isZ r.w || t.nz⟩
    else
      let t := emap f isZ v as os xs ys zs
      ⟨o :: t.xs, t.fl, t.srng, t.div0, t.nz⟩
  | _, _, _, _, _ => ⟨[], fNone, v.srng, false, false⟩

/-- Whether an element is zero: by its low w bits for integers, ±0 for floating point (R114, R190). -/
def zeroW (w : Nat) (x : Word) : Bool := low w x == 0
def zeroF (f : FFmt) (x : Word) : Bool := low f.width x % 2 ^ (f.eb + f.mb) == 0

/-! ## Kinds of arithmetic -/

def VArith.width : VArith → Nat | .int t _ => t.width | .fx _ _ => 64 | .fp t _ => t.width
def VPlain.width : VPlain → Nat | .int t => t.width | .fx _ => 64 | .fp t => t.width
def VArith.isZ : VArith → Word → Bool | .int t _ => zeroW t.width | .fx _ _ => zeroW 64 | .fp t _ => zeroF (fmtOf t)
def VPlain.isZ : VPlain → Word → Bool | .int t => zeroW t.width | .fx _ => zeroW 64 | .fp t => zeroF (fmtOf t)
def VArith.rm : VArith → Rm | .fp _ r => r | _ => .rn
def VArith.isFp : VArith → Bool | .fp _ _ => true | _ => false
def VPlain.isFp : VPlain → Bool | .fp _ => true | _ => false

def VArith.addOp (t : VArith) : ElemOp := fun v a b _ =>
  match t with
  | .int t s => (iAdd (.i t) s a b).toE v | .fx f s => (iAdd (.fx f) s a b).toE v | .fp t _ => (fAdd t v a b).toE
def VArith.subOp (t : VArith) : ElemOp := fun v a b _ =>
  match t with
  | .int t s => (iSub (.i t) s a b).toE v | .fx f s => (iSub (.fx f) s a b).toE v | .fp t _ => (fSub t v a b).toE
def VArith.mulOp (t : VArith) : ElemOp := fun v a b _ =>
  match t with
  | .int t s => (iMul (.i t) s a b).toE v | .fx f s => (iMul (.fx f) s a b).toE v | .fp t _ => (fMul t v a b).toE
def VArith.divOp (t : VArith) : ElemOp := fun v a b _ =>
  match t with
  | .int t s => (iDiv (.i t) s a b).toE v | .fx f s => (iDiv (.fx f) s a b).toE v | .fp t _ => (fDiv t v a b).toE
def VPlain.minOp (t : VPlain) : ElemOp := fun v a b _ =>
  match t with
  | .int t => (iMin (.i t) a b).toE v | .fx f => (iMin (.fx f) a b).toE v | .fp t => (fMin t v a b).toE
def VPlain.maxOp (t : VPlain) : ElemOp := fun v a b _ =>
  match t with
  | .int t => (iMax (.i t) a b).toE v | .fx f => (iMax (.fx f) a b).toE v | .fp t => (fMax t v a b).toE

/-- `vabs` and `vneg` (R191). -/
def VSgn.width : VSgn → Nat | .i64 _ => 64 | .i32 _ => 32 | .i16 _ => 16 | .i8 _ => 8 | .fx _ _ => 64 | .fp t => t.width
def VSgn.isZ : VSgn → Word → Bool | .fp t => zeroF (fmtOf t) | t => zeroW (VSgn.width t)
def VSgn.int : VSgn → ITy × Bool
  | .i64 s => (.i64, s) | .i32 s => (.i32, s) | .i16 s => (.i16, s) | .i8 s => (.i8, s) | .fx _ s => (.i64, s) | .fp _ => (.i64, false)
def VSgn.absOp (t : VSgn) : ElemOp := fun v a _ _ =>
  match t with
  | .fp t => (fAbs t v a).toE
  | t => (fit (VSgn.int t).1 (VSgn.int t).2 (srcVal (VSgn.int t).1 a).natAbs).toE v
def VSgn.negOp (t : VSgn) : ElemOp := fun v a _ _ =>
  match t with
  | .fp t => (fNeg t v a).toE
  | t => (fit (VSgn.int t).1 (VSgn.int t).2 (-(srcVal (VSgn.int t).1 a))).toE v

/-- `vcmp` on one pair of elements (R194). -/
def VCmp.width : VCmp → Nat | .int t _ => t.width | .fx _ _ => 64 | .fp t _ => t.width
def VCmp.isFp : VCmp → Bool | .fp _ _ => true | _ => false
def VCmp.test (c : VCmp) (fz : Bool) (a b : Word) : Bool × Fl :=
  match c with
  | .int t c => (iCmp c (.i t) a b, fNone)
  | .fx f c => (iCmp c (.fx f) a b, fNone)
  | .fp t c => fCmp c t fz a b

/-- The mask an element-wise test writes: masked-off bits come from `old`. -/
def kmap (f : Word → Word → Bool × Fl) : List Bool → List Bool → List Word → List Word → List Bool × Fl
  | a :: as, o :: os, x :: xs, y :: ys =>
    let t := kmap f as os xs ys
    if a then ((f x y).1 :: t.1, (f x y).2 ||| t.2) else (o :: t.1, t.2)
  | _, _, _, _ => ([], fNone)

/-! ## Rearrangements (R196 to R200) -/

def vpermL (n : Nat) (xs is : List Word) : List Word := is.map (fun i => nthW xs (i.toNat % n))
def vrotL (n k : Nat) (xs : List Word) : List Word := (List.range n).map (fun i => nthW xs ((i + k) % n))
def compressL : List Bool → List Word → List Word
  | true :: bs, x :: xs => x :: compressL bs xs
  | false :: bs, _ :: xs => compressL bs xs
  | _, _ => []
def expandL : List Bool → List Word → List Word
  | true :: bs, x :: xs => x :: expandL bs xs
  | true :: bs, [] => 0#64 :: expandL bs []
  | false :: bs, xs => 0#64 :: expandL bs xs
  | [], _ => []
/-- Zeros up to `n` elements. -/
def padTo (n : Nat) (xs : List Word) : List Word := xs ++ List.replicate (n - xs.length) 0#64

def HTy.narrow (h : HTy) : ITy :=
  match h.signed, h.lv.val with
  | true, 0 => .i8 | true, 1 => .i16 | true, _ => .i32 | false, 0 => .n8 | false, 1 => .n16 | false, _ => .n32
def HTy.wide (h : HTy) : ITy :=
  match h.signed, h.lv.val with
  | true, 0 => .i16 | true, 1 => .i32 | true, _ => .i64 | false, 0 => .n16 | false, 1 => .n32 | false, _ => .n64

/-! ## Reductions, dot products and scans (R202 to R205) -/

/-- The accumulating format of R203. -/
def accFmt : FTy → FTy | .f64 => .f64 | _ => .f32
/-- Elements per group: one beat (R203). -/
def groupOf : FTy → Nat | .f64 => 8 | .f32 => 16 | _ => 32

/-- A result with its flags and SRNG. -/
structure SumOut where
  bits : Nat
  fl : Fl
  srng : BitVec 32
deriving DecidableEq, Repr

/-- The group steps of R203, the active terms of each group given as exact sums; an empty group is skipped. -/
def groupSteps (f : FFmt) (v : FEnv) : Nat → List (Option GSum) → SumOut
  | acc, [] => ⟨acc, fNone, v.srng⟩
  | acc, none :: gs => groupSteps f v acc gs
  | acc, some g :: gs =>
    let r := f.group v (f.readZ v.fz acc) g
    let t := groupSteps f { v with srng := r.srng } r.bits gs
    ⟨t.bits, r.fl ||| t.fl, t.srng⟩

/-- Terms in chunks of `k`. -/
def chunks {α : Type} (k : Nat) : Nat → List α → List (List α)
  | 0, _ => []
  | n + 1, xs => xs.take k :: chunks k n (xs.drop k)

/-- The exact sum of the active terms of a group, none when the group has none. -/
def gsumOf (xs : List (Option (FVal × FVal))) : Option GSum :=
  xs.foldl (fun g t => match t with
    | none => g
    | some (a, b) => some ((g.getD GSum.empty).prod a b)) none
def gsum1 (xs : List (Option FVal)) : Option GSum :=
  xs.foldl (fun g t => match t with
    | none => g
    | some a => some ((g.getD GSum.empty).term a)) none

/-- Pair each element with its activity. -/
def acts {α : Type} : List Bool → List α → List (Option α)
  | b :: bs, x :: xs => (if b then some x else none) :: acts bs xs
  | _, _ => []

/-- `vredsum` on floating point. -/
def redsumF (t : FTy) (v : FEnv) (act : List Bool) (xs : List Word) (b : Word) : SumOut :=
  let n := 2048 / t.width
  groupSteps (fmtOf (accFmt t)) v (low (accFmt t).width b)
    ((chunks (groupOf t) (n / groupOf t) (acts act (xs.map (fVal t v.fz)))).map gsum1)
/-- `vdot` on floating point. -/
def dotF (t : FTy) (v : FEnv) (act : List Bool) (xs ys : List Word) (c : Word) : SumOut :=
  let n := 2048 / t.width
  groupSteps (fmtOf (accFmt t)) v (low (accFmt t).width c)
    ((chunks (groupOf t) (n / groupOf t) (acts act ((xs.map (fVal t v.fz)).zip (ys.map (fVal t v.fz))))).map gsumOf)

/-- Σ over the active elements, exact. -/
def sumI (t : ITy) : List Bool → List Word → Int
  | b :: bs, x :: xs => (if b then srcVal t x else 0) + sumI t bs xs
  | _, _ => 0
def dotI (t : ITy) : List Bool → List Word → List Word → Int
  | b :: bs, x :: xs, y :: ys => (if b then srcVal t x * srcVal t y else 0) + dotI t bs xs ys
  | _, _, _ => 0
/-- The 64-bit type a reduction's result is fitted to (R202). -/
def wide64 (t : ITy) : ITy := if ITy.signed t then .i64 else .n64

/-- Combine the active elements in increasing order. -/
def redGo (f : FEnv → Word → Word → EOut) (v : FEnv) : List Bool → List Word → Word → EOut
  | true :: bs, x :: xs, acc =>
    let r := f v acc x
    let t := redGo f { v with srng := r.srng } bs xs r.w
    ⟨t.w, r.fl ||| t.fl, t.srng, r.div0 || t.div0⟩
  | false :: bs, _ :: xs, acc => redGo f v bs xs acc
  | _, _, acc => ⟨acc, fNone, v.srng, false⟩

/-- An inclusive prefix (R205): masked-off elements take `old` and leave acc. -/
def scanGo (f : ElemOp) (isZ : Word → Bool) (v : FEnv) : List Bool → List Word → List Word → Word → VOut
  | a :: as, o :: os, x :: xs, acc =>
    if a then
      let r := f v acc x 0#64
      let t := scanGo f isZ { v with srng := r.srng } as os xs r.w
      ⟨r.w :: t.xs, r.fl ||| t.fl, t.srng, r.div0 || t.div0, !isZ r.w || t.nz⟩
    else
      let t := scanGo f isZ v as os xs acc
      ⟨o :: t.xs, t.fl, t.srng, t.div0, t.nz⟩
  | _, _, _, _ => ⟨[], fNone, v.srng, false, false⟩

/-! ## Conversions and MX (R206 to R208) -/

def VCvt.rm : VCvt → Rm
  | .ff _ _ r => r | .fi _ _ r => r | .ffx _ _ r => r | .itof _ _ r => r | .fxf _ _ r => r | .ifx _ _ _ r => r | .fxi _ _ r => r
/-- The conversion rounds under its RM (R188). One from integers to fx64 is exact but for wrapping: it does not round, and advances SRNG under no mode.
(DESIGN CHOICE, log 99.) -/
def VCvt.rounds : VCvt → Bool | .ifx _ _ _ _ => false | _ => true
def VCvt.elem (c : VCvt) : ElemOp := fun v a _ _ =>
  match c with
  | .ff d s _ => (cvtFF d s v a).toE
  | .fi d s _ => (cvtFI d s v a).toE
  | .ffx f s _ => (cvtFX f s v a).toE
  | .itof d s _ => (cvtIF d s v a).toE
  | .fxf d f _ => (cvtXF d f v a).toE
  | .ifx f s sat _ => (cvtIX f s sat a).toE v
  | .fxi d f _ => (cvtXIround d f v a).toE
/-- Whether a destination element of the conversion is zero. -/
def VCvt.isZ : VCvt → Word → Bool
  | .ff d _ _ => zeroF (fmtOfC d) | .itof d _ _ => zeroF (fmtOfC d) | .fxf d _ _ => zeroF (fmtOfC d)
  | .fi d _ _ => zeroW d.width | .fxi d _ _ => zeroW d.width | .ffx _ _ _ => zeroW 64 | .ifx _ _ _ _ => zeroW 64

def MxT.fty : MxT → FTy | .f32 => .f32 | .f16 => .f16 | .bf16 => .bf16
/-- Blocks per vector of the plain type. -/
def MxT.blocks : MxT → Nat | .f32 => 2 | _ => 4
/-- Bits of one block's elements. -/
def MxF.blockBits (m : MxF) : Nat := 32 * MxF.width m

/-- `vmxq` block by block: codes packed from bit 0, scale bytes, flags, SRNG, and whether a scale is 0xff. -/
def mxqGo (m : MxF) (t : MxT) (v : FEnv) : Nat → List Word → Nat × Nat × Fl × BitVec 32 × Bool
  | 0, _ => (0, 0, fNone, v.srng, false)
  | n + 1, xs =>
    let r := mxBlock m v ((xs.take 32).map (fVal (MxT.fty t) v.fz))
    let u := mxqGo m t { v with srng := r.2.2.2 } n (xs.drop 32)
    (joinN (MxF.width m) (r.2.1.map (BitVec.ofNat 64)) + u.1 * 2 ^ MxF.blockBits m, r.1 + u.2.1 * 256, r.2.2.1 ||| u.2.2.1,
      u.2.2.2.1, r.1 == 0xff || u.2.2.2.2)

/-- The exact values of the blocks of `vmxd`. -/
def mxdVals (m : MxF) : Nat → Nat → Nat → List FVal
  | 0, _, _ => []
  | n + 1, x, s =>
    (splitN (MxF.width m) 32 x).map (fun c => mxVal m (s % 256) c.toNat) ++ mxdVals m n (x / 2 ^ MxF.blockBits m) (s / 256)
/-- Round each value in order. -/
def roundAll (f : FFmt) (v : FEnv) : List FVal → VOut
  | [] => ⟨[], fNone, v.srng, false, false⟩
  | x :: xs =>
    let r := f.ofVal v x
    let t := roundAll f { v with srng := r.srng } xs
    ⟨BitVec.ofNat 64 r.bits :: t.xs, r.fl ||| t.fl, t.srng, false, !zeroF f (BitVec.ofNat 64 r.bits) || t.nz⟩

end Sys2Proof.Machine
end

