-- ==== Sys2Proof/Machine/Operands.lean ====
section
/-! DEFINITION. What each rule operation reads and writes (R15 conditions 3 to 5, R48, R186, R214), the implicit reads and writes of
FLAGS, AMODE and SRNG (R100, R103, R104), and the wait that each makes on accumulators and places. -/

namespace Sys2Proof
open Sys2Proof.Machine

/-- The operands of an operation: resources read and written, entries needed, places written. -/
structure Foot where
  rd : List Res
  need : List (Chan × Nat)
  wr : List Res
  room : List (Chan × Nat)
deriving DecidableEq, Repr

def Foot.nil : Foot := ⟨[], [], [], []⟩
def Foot.cat (a b : Foot) : Foot := ⟨a.rd ++ b.rd, a.need ++ b.need, a.wr ++ b.wr, a.room ++ b.room⟩
def fcat : List Foot → Foot
  | [] => .nil
  | a :: l => a.cat (fcat l)

/-! ## Operand forms -/

def rS (r : SReg) : Foot := ⟨[.s r], [], [], []⟩
def rV (r : VReg) : Foot := ⟨[.v r], [], [], []⟩
def rK (r : KReg) : Foot := ⟨[.k r], [], [], []⟩
def rP (r : PReg) : Foot := ⟨[.p r], [], [], []⟩
def wS (r : SReg) : Foot := ⟨[], [], [.s r], []⟩
def wV (r : VReg) : Foot := ⟨[], [], [.v r], []⟩
def wK (r : KReg) : Foot := ⟨[], [], [.k r], []⟩
def wP (r : PReg) : Foot := ⟨[], [], [.p r], []⟩
/-- Entries needed of an inbound channel. -/
def rCh (c : Chan) (n : Nat) : Foot := ⟨[], [(c, n)], [], []⟩
/-- Entries appended to an egress channel. -/
def wCh (c : Chan) (n : Nat) : Foot := ⟨[], [], [.eg c], [(c, n)]⟩
def rSS : SSrc → Foot
  | .reg r => rS r | .chan c => rCh c 1 | .sys .flags => ⟨[.flags], [], [], []⟩ | .sys .amode => ⟨[.amode], [], [], []⟩
  | .sys .srng => ⟨[.srng], [], [], []⟩ | .sys _ => .nil
def wSD : SDst → Foot
  | .reg r => wS r | .chan c => wCh c 1 | .sys .flags => ⟨[], [], [.flags], []⟩ | .sys .amode => ⟨[], [], [.amode], []⟩
  | .sys .srng => ⟨[], [], [.srng], []⟩
def rVS : VSrc → Foot | .reg r => rV r | .chan c => rCh c 4
def wVD : VDst → Foot | .reg r => wV r | .chan c => wCh c 4
def rKS : KSrc → Foot | .reg r => rK r | .chan c => rCh c 1
def wKD : KDst → Foot | .reg r => wK r | .chan c => wCh c 1
def rPS : PSrc → Foot | .pair n => (rS (pairLo n)).cat (rS (pairHi n)) | .chan c => rCh c 1
def wPD : PDst → Foot | .pair n => (wS (pairLo n)).cat (wS (pairHi n)) | .chan c => wCh c 1
def rXS : XSrc → Foot | .s a => rSS a | .pair a => rPS a | .k a => rKS a | .v a => rVS a
def wXD : XDst → Foot | .s d => wSD d | .pair d => wPD d | .k d => wKD d | .v d => wVD d
def rTag : TagSrc → Foot | .imm _ => .nil | .reg b => rSS b
/-- Entries that an operand of a width takes: one, or four for a vector (R135). -/
def XSrc.n : XSrc → Nat | .v _ => 4 | _ => 1
def XDst.n : XDst → Nat | .v _ => 4 | _ => 1
def wPres : PresReg → Foot | .s r => wS r | .v r => wV r | .k r => wK r
/-- A vector or mask destination under a mask: with ME = 1 and MZ = 0 the destination is read (R186). -/
def rMskV (m : Msk) (d : VDst) : Foot :=
  match m, d with
  | .all, _ => .nil | .zero k, _ => rK k | .keep k, .reg r => (rK k).cat (rV r) | .keep k, .chan _ => rK k
def rMskK (m : Msk) (d : KDst) : Foot :=
  match m, d with
  | .all, _ => .nil | .zero k, _ => rK k | .keep k, .reg r => (rK k).cat (rK r) | .keep k, .chan _ => rK k
/-- A scalar destination read as a source. -/
def rOld : SDst → Foot
  | .reg r => rS r | .sys .flags => rSS (.sys .flags) | .sys .amode => rSS (.sys .amode) | .sys .srng => rSS (.sys .srng) | .chan _ => .nil
def rMskS (m : Msk) (d : SDst) : Foot :=
  match m with
  | .all => .nil | .zero k => rK k | .keep k => (rK k).cat (rOld d)
def rLd (m : MAddr) : Foot := rS m.base
def wLd : LdDst → Foot | .w _ d => wSD d | .p d => wPD d
def rSt : StSrc → Foot | .w _ a => rSS a | .p a => rPS a
def rAt : LAtomic → Foot | .rmw _ a => rSS a | .cas a => rPS a | .binc a => rSS a
def rEven (s : SReg) : Foot := (rS s).cat (rS (Fin.ofNat 32 (s.val + 1)))
def rQuad (s : SReg) : Foot :=
  fcat ((List.range 4).map fun i => rV (Fin.ofNat 16 (s.val + i)))

/-- Operands in the order destination, sources. -/
def Instr.foot (i : Instr) : Foot :=
  match i with
  | .nop => .nil
  | .add _ _ d a b | .sub _ _ d a b | .mul _ _ d a b | .div _ _ d a b => fcat [wSD d, rSS a, rSS b]
  | .mulh _ d a b | .rem _ d a b | .and _ d a b | .or _ d a b | .xor _ d a b | .andn _ d a b | .shl _ d a b | .shr _ d a b
  | .sra _ d a b | .rol _ d a b | .ror _ d a b => fcat [wSD d, rSS a, rSS b]
  | .min _ d a b | .max _ d a b => fcat [wSD d, rSS a, rSS b]
  | .clz _ d a | .ctz _ d a | .popc _ d a => fcat [wSD d, rSS a]
  | .bext _ d a b c => fcat [wSD d, rSS a, rSS b, rSS c]
  | .bins d a b c => fcat [wS d, rS d, rSS a, rSS b, rSS c]
  | .sel d a b c => fcat [wSD d, rSS a, rSS b, rP c]
  | .cmp _ _ d a b => fcat [wP d, rSS a, rSS b]
  | .addi d a _ | .andi d a _ | .ori d a _ | .xori d a _ => fcat [wSD d, rSS a]
  | .shli d a _ | .shri d a _ | .srai d a _ | .roli d a _ => fcat [wSD d, rSS a]
  | .cmpi _ _ d a _ => fcat [wP d, rSS a]
  | .li d _ => wSD d
  | .lih d _ => fcat [wS d, rS d]
  | .lea d a b _ => fcat [wSD d, rSS a, rSS b]
  | .sext _ d a | .zext _ d a => fcat [wSD d, rSS a]
  | .mov d a => fcat [wSD d, rSS a]
  | .fadd _ _ d a b | .fsub _ _ d a b | .fmul _ _ d a b | .fdiv _ _ d a b => fcat [wSD d, rSS a, rSS b]
  | .fsqrt _ _ d a => fcat [wSD d, rSS a]
  | .ffma _ _ _ d a b c => fcat [wSD d, rSS a, rSS b, rSS c]
  | .fmin _ d a b | .fmax _ d a b | .fcpsgn _ d a b => fcat [wSD d, rSS a, rSS b]
  | .fcmp _ _ d a b => fcat [wP d, rSS a, rSS b]
  | .fclass _ d a => fcat [wSD d, rSS a]
  | .fcvt _ _ _ d a => fcat [wSD d, rSS a]
  | .fcvti _ _ d a => fcat [wSD d, rSS a]
  | .icvtf _ _ _ d a => fcat [wSD d, rSS a]
  | .fxcvt _ d a => fcat [wSD d, rSS a]
  | .fneg _ d a | .fabs _ d a => fcat [wSD d, rSS a]
  | .fflag d a => fcat [wSD d, rSS a, ⟨[.flags], [], [], []⟩]
  | .fflagClr d a => fcat [wSD d, rSS a, ⟨[.flags], [], [.flags], []⟩]
  | .pand d a b | .por d a b | .pxor d a b | .pandn d a b => fcat [wP d, rP a, rP b]
  | .pnot d a | .pmov d a => fcat [wP d, rP a]
  | .recv d a | .peek d a => fcat [wXD d, rCh a (XDst.n d)]
  | .tryrecv d _ pc | .trypeek d _ pc => fcat [wXD d, wP pc]
  | .send d a t => fcat [wCh d (XSrc.n a), rXS a, rTag t]
  | .trysend d a t pc => fcat [⟨[], [], [.eg d], []⟩, rXS a, rTag t, wP pc]
  | .tagh d a => fcat [wSD d, rCh a 1]
  | .chreset _ => .nil
  | .pset d | .pclr d => wPres d
  | .chcount d _ => wSD d
  | .chfree d a => fcat [wSD d, ⟨[.eg a], [], [], []⟩]
  | .done _ | .yield | .handover | .sleep _ | .bkpt _ => .nil
  | .trap a _ => rSS a
  | .watch w d a b => fcat [wP d, rSS a, rSS b, match w.dst with | some r => wS r | none => .nil]
  | .unwatch d => wP d
  | .vadd _ m d a b | .vsub _ m d a b | .vmul _ m d a b | .vdiv _ m d a b => fcat [wVD d, rVS a, rVS b, rMskV m d]
  | .vmin _ m d a b | .vmax _ m d a b => fcat [wVD d, rVS a, rVS b, rMskV m d]
  | .vfma _ _ _ m d a b c => fcat [wVD d, rVS a, rVS b, rVS c, rMskV m d]
  | .vabs _ m d a | .vneg _ m d a => fcat [wVD d, rVS a, rMskV m d]
  | .vadds _ m d a b | .vsubs _ m d a b => fcat [wVD d, rVS a, rSS b, rMskV m d]
  | .vand _ m d a b | .vor _ m d a b | .vxor _ m d a b | .vshl _ m d a b | .vshr _ m d a b | .vsra _ m d a b =>
    fcat [wVD d, rVS a, rVS b, rMskV m d]
  | .vcmp _ m d a b => fcat [wKD d, rVS a, rVS b, rMskK m d]
  | .vclass _ m d a b => fcat [wKD d, rVS a, rSS b, rMskK m d]
  | .vmov _ m d a => fcat [wVD d, rVS a, rMskV m d]
  | .vbcast _ m d a => fcat [wVD d, rSS a, rMskV m d]
  | .viota _ m d a => fcat [wVD d, rSS a, rMskV m d]
  | .vsel _ d a b c => fcat [wVD d, rVS a, rVS b, rKS c]
  | .vperm _ m d a b => fcat [wVD d, rVS a, rVS b, rMskV m d]
  | .vrot _ m d a b => fcat [wVD d, rVS a, rSS b, rMskV m d]
  | .vext _ d a b => fcat [wSD d, rVS a, rSS b]
  | .vins _ d a b => fcat [wV d, rV d, rSS a, rSS b]
  | .vcompress _ d a c | .vexpand _ d a c => fcat [wVD d, rVS a, rKS c]
  | .vpack _ _ m d a b => fcat [wVD d, rVS a, rVS b, rMskV m d]
  | .vunpk _ m d a b => fcat [wVD d, rVS a, rSS b, rMskV m d]
  | .kand d a b | .kor d a b | .kxor d a b | .kandn d a b => fcat [wKD d, rKS a, rKS b]
  | .knot d a | .kmov d a => fcat [wKD d, rKS a]
  | .kpop d a | .kfind d a => fcat [wSD d, rKS a]
  | .vredsum _ m d a b => fcat [wSD d, rVS a, rSS b, rMskS m d]
  | .vredmin _ m d a b | .vredmax _ m d a b => fcat [wSD d, rVS a, rSS b, rMskS m d]
  | .vredand _ m d a b | .vredor _ m d a b | .vredxor _ m d a b => fcat [wSD d, rVS a, rSS b, rMskS m d]
  | .vdot _ m d a b c => fcat [wSD d, rVS a, rVS b, rSS c, rMskS m d]
  | .vscan _ m d a b => fcat [wVD d, rVS a, rSS b, rMskV m d]
  | .vcvt c m d a b => fcat [wVD d, rVS a, if c.sw < c.dw then rSS b else Foot.nil, rMskV m d]
  | .vmxq _ _ _ d a b => fcat [wVD d, rVS a, wS b]
  | .vmxd _ _ _ d a b => fcat [wVD d, rVS a, rSS b]
  | .sfrcp m d a | .sfrsqrt m d a | .sfsqrt m d a | .sfexp2 m d a | .sflog2 m d a | .sfsinpi m d a | .sfcospi m d a =>
    fcat [wVD d, rVS a, rMskV m d]
  | .sfsincospi m d a =>
    let lo : VReg := ⟨2 * d.val, by omega⟩
    let hi : VReg := ⟨2 * d.val + 1, by omega⟩
    fcat [wV lo, wV hi, rVS a, rMskV m (.reg lo), rMskV m (.reg hi)]
  | .mma f => fcat [rS f.sa, rS f.sb]
  | .mmas f sm _ => fcat [rS f.sa, rS f.sb, rS sm]
  | .mmv f => fcat [rQuad f.sa, rS f.sb]
  | .mmr f _ => fcat [rEven f.sa, rEven f.sb]
  | .azero _ | .atrans _ _ => .nil
  | .aload f | .astore f => rS f.sa
  | .acvt _ d _ b => fcat [wVD d, rSS b]
  | .aget _ d _ b => fcat [wVD d, rSS b]
  | .ascale _ _ a => rSS a
  | .aput _ m _ a b => fcat [rVS a, rSS b, match m with | some k => rK k | none => .nil]
  | .aadd _ _ a b => fcat [rVS a, rSS b]
  | .gcfg _ a b => fcat [rPS (.pair a), rPS (.pair b)]
  | .gstart _ => .nil
  | .gstop d _ => wSD d
  | .gbar d _ _ => wP d
  | .ld m d | .cld m d | .ldg m d => fcat [wLd d, rLd m]
  | .st m a | .cst m a | .stg m a => fcat [rLd m, rSt a]
  | .vld m d | .cvld m d | .vldg m d => fcat [wVD d, rLd m]
  | .vst m a | .cvst m a | .vstg m a => fcat [rLd m, rVS a]
  | .tamo m d o | .camo m d o => fcat [wSD d, rLd m, rAt o]
  | .vgath m d x => fcat [wVD d, rLd m, rVS x]
  | .vscat m x a => fcat [rLd m, rVS x, rVS a]
  | .cpy f => fcat [rS f.sd, rS f.ss, rS f.sl]
  | .cpy2d f => fcat [rS f.sd, rS f.ss, rEven f.sl]
  | .drainTcm d | .drainCsp d | .drainGlb d => wP d
  | .bput d _ a => fcat [wP d, match a with | .tcm a => rSS a | .vec a => rVS a]
  | .trybput d _ a pc => fcat [wP d, wP pc, match a with | .tcm a => rSS a | .vec a => rVS a]
  | .bget d _ => match d with | .tcm d a => fcat [wP d, rSS a] | .vec d => wVD d
  | .trybget d _ pc => match d with | .tcm d a => fcat [wP d, wP pc, rSS a] | .vec d => fcat [wVD d, wP pc]
  | .bwait d _ _ => wP d
  | .nsend _ a t => fcat [rXS a, rTag t]
  | .trynsend _ a t pc => fcat [rXS a, rTag t, wP pc]
  | .nrecv d _ => wXD d
  | .trynrecv d _ pc => fcat [wXD d, wP pc]
  | .cbar d => wP d
  | .amo m _ d a => fcat [wSD d, rLd m, rSS a]
  | .cas m d a => fcat [wSD d, rLd m, rPS a]
  | .aincBound m d a => fcat [wSD d, rLd m, rSS a]
  | .fence _ | .otpub _ | .otpubCirc _ _ => .nil
  | .otwait d _ => wP d
  | .join d _ => wP d
  | .pfg b _ a => fcat [rS b, rSS a]
  | .tspawn d a b c => fcat [wS d, rSS a, rSS b, rSS c]
  | .trytspawn d a b c pc => fcat [wS d, rSS a, rSS b, rSS c, wP pc]
  | .tenq d a => fcat [wSD d, rSS a]
  | .trytenq d a pc => fcat [wSD d, rSS a, wP pc]
  | .tdec a => rSS a
  | .tinc d a b | .tcancel d a b => fcat [wP d, rSS a, rSS b]
  | .tstatus d a | .tparam d a => fcat [wSD d, rSS a]
  | .tbound d => wSD d
  | .rsend _ a t => fcat [rXS a, rTag t]
  | .tryrsend _ a t pc => fcat [rXS a, rTag t, wP pc]
  | .rstore _ m a => fcat [rLd m, rSS a]
  | .rdec a b => fcat [rSS a, rSS b]
  | .pbar d b => fcat [wP d, rSS b]
  | .pcomb _ d a b | .pbcast d a b => fcat [wSD d, rSS a, rSS b]
  | .pabort b => rSS b
  | .cfgr d a => fcat [wSD d, rSS a]
  | .cfgw d a b => fcat [wP d, rSS a, rSS b]
  | .vfsetEnable d a b | .vfsetTeardown d a b | .quota d a b | .wtouch d a b | .wresMobile d a b | .wresFixed d a b | .wresUp d a b
  | .wresDown d a b | .wresQuery _ d a b | .csave d a b | .mtret d a b => fcat [wSD d, rSS a, rSS b]
  | .crest d a | .srd d a => fcat [wSD d, rSS a]
  | .ctxw d a b c => fcat [wSD d, rSS a, rSS b, rSS c]
  | .xinv _ d a b c => fcat [wP d, rSS a, rSS b, rSS c]
  | .fqpop d a => fcat [wV d, rSS a]
  | .swr d a b => fcat [wP d, rSS a, rSS b]
  | _ => .nil

/-- How an operation depends on the arithmetic modes (R104): it rounds under an RM, it may raise a flag or flush, or neither. -/
inductive FpUse where
  | no | flags | rounds (r : Rm)
deriving DecidableEq, Repr

def VArith.use : VArith → FpUse
  | .int _ s | .fx _ s => if s then .flags else .no
  | .fp _ r => .rounds r
def VPlain.use : VPlain → FpUse
  | .fp _ => .flags | _ => .no
def VSgn.use : VSgn → FpUse
  | .i64 s | .i32 s | .i16 s | .i8 s | .fx _ s => if s then .flags else .no
  | .fp _ => .flags
def satUse (s : Bool) : FpUse := if s then .flags else .no
def FxCvt.use : FxCvt → FpUse
  | .ofFp _ _ => .rounds .dyn | .ofInt _ _ s => satUse s | .toFp _ _ r => .rounds r | .toInt _ _ s => satUse s
def VCvt.use : VCvt → FpUse
  | .ff _ _ r | .fi _ _ r | .ffx _ _ r | .itof _ _ r | .fxf _ _ r | .fxi _ _ r => .rounds r
  | .ifx _ _ s _ => satUse s
def ACvt.use : ACvt → FpUse
  | .ff _ _ r | .fi _ _ r | .itof _ r => .rounds r
  | .ii _ s => satUse s
def AArith.use : AArith → FpUse
  | .f32 r | .f64 r => .rounds r
  | .i32 s => satUse s
/-- RM has a meaning only for f64 and f32; the other formats round to nearest (R217, R222). -/
def MmaF.use (f : MmaF) : FpUse :=
  match f.fmt with
  | .f64 | .f32 => .rounds f.rm
  | _ => .flags

def Instr.fpUse (i : Instr) : FpUse :=
  match i with
  | .add _ s _ _ _ | .sub _ s _ _ _ | .mul _ s _ _ _ | .div _ s _ _ _ => satUse s
  | .fadd _ r _ _ _ | .fsub _ r _ _ _ | .fmul _ r _ _ _ | .fdiv _ r _ _ _ => .rounds r
  | .fsqrt _ r _ _ => .rounds r
  | .ffma _ _ r _ _ _ _ => .rounds r
  | .fmin _ _ _ _ | .fmax _ _ _ _ | .fcmp _ _ _ _ _ | .fneg _ _ _ | .fabs _ _ _ | .fcpsgn _ _ _ _ => .flags
  | .fcvt _ _ r _ _ | .icvtf _ _ r _ _ => .rounds r
  | .fcvti _ _ _ _ => .rounds .dyn
  | .fxcvt c _ _ => c.use
  | .vadd t _ _ _ _ | .vsub t _ _ _ _ | .vmul t _ _ _ _ | .vdiv t _ _ _ _ => t.use
  | .vadds t _ _ _ _ | .vsubs t _ _ _ _ => t.use
  | .vmin t _ _ _ _ | .vmax t _ _ _ _ => t.use
  | .vfma _ _ r _ _ _ _ _ => .rounds r
  | .vabs t _ _ _ | .vneg t _ _ _ => t.use
  | .vcmp (.fp _ _) _ _ _ _ => .flags
  | .vpack _ s _ _ _ _ => satUse s
  | .vredsum t _ _ _ _ => t.use
  | .vredmin t _ _ _ _ | .vredmax t _ _ _ _ => t.use
  | .vdot t _ _ _ _ _ => t.use
  | .vscan t _ _ _ _ => t.use
  | .vcvt c _ _ _ _ => c.use
  | .vmxq _ _ r _ _ _ | .vmxd _ _ r _ _ _ => .rounds r
  | .sfrcp _ _ _ | .sfrsqrt _ _ _ | .sfsqrt _ _ _ | .sfexp2 _ _ _ | .sflog2 _ _ _ | .sfsinpi _ _ _ | .sfcospi _ _ _
  | .sfsincospi _ _ _ => .flags
  | .mma f | .mmas f _ _ | .mmv f | .mmr f _ => f.use
  | .acvt c _ _ _ => c.use
  | .ascale t _ _ => t.use
  | .aadd t _ _ _ => t.use
  | .pcomb .fadd _ _ _ => .flags
  | _ => .no

/-- The operation rounds stochastically, given the dynamic mode (R53, R98, R100). -/
def FpUse.stoch (u : FpUse) (a : AMode) : Bool :=
  match u with
  | .rounds r => rndOf r a == .rs
  | _ => false
/-- It rounds under the dynamic mode (R69). -/
def FpUse.dyn : FpUse → Bool
  | .rounds .dyn => true
  | _ => false

/-- The footprint with the implicit operands: AMODE is read by whatever depends on it, SRNG is read and written by a stochastic
rounding (R100, R104). (DEDUCED, log 12.) -/
def Instr.footOf (i : Instr) (a : AMode) : Foot :=
  let f := i.foot
  match i.fpUse with
  | .no => f
  | u => if u.stoch a then f.cat ⟨[.amode, .srng], [], [.srng], []⟩ else f.cat ⟨[.amode], [], [], []⟩

/-- Logical accumulators that must have no operation outstanding (R214), and those the operation becomes outstanding on. -/
def Instr.accWait (i : Instr) : List AReg :=
  match i with
  | .azero d => [d] | .acvt _ _ a _ => [a] | .ascale _ d _ => [d] | .aget _ _ a _ => [a] | .aput _ _ d _ _ => [d]
  | .aadd _ d _ _ => [d] | .atrans d a => [d, a] | .astore f => [f.blk.acc]
  | _ => []
def Instr.accUse (i : Instr) : List AReg :=
  match i with
  | .mma f | .mmas f _ _ | .mmv f | .mmr f _ => [f.blk.acc]
  | .aload f => [f.blk.acc]
  | i => i.accWait

/-- The order token that an operation publishes, 0 for none (R331). -/
def Instr.pub (i : Instr) : Nat :=
  match i with
  | .mma f | .mmas f _ _ | .mmv f | .mmr f _ => f.pt.val
  | .aload f | .astore f => f.pt.val
  | .cpy f | .cpy2d f => f.pt.val
  | .otpub n => n.val
  | _ => 0
def Instr.waitTok (i : Instr) : Nat :=
  match i with
  | .mma f | .mmas f _ _ | .mmv f | .mmr f _ => f.wt.val
  | .aload f | .astore f => f.wt.val
  | .cpy f | .cpy2d f => f.wt.val
  | _ => 0

/-- The route label of a blocking or non-blocking `rsend` (R504). -/
def Instr.rsLabel (i : Instr) : Option (BitVec 7) :=
  match i with
  | .rsend l _ _ | .tryrsend l _ _ _ => some l
  | _ => none

/-- Counts toward the 64 global requests of a tile (R364, R374, R505). -/
def Instr.isGlobal (i : Instr) : Bool :=
  match i with
  | .ldg _ _ | .stg _ _ | .vldg _ _ | .vstg _ _ | .amo _ _ _ _ | .cas _ _ _ | .aincBound _ _ _ | .tspawn _ _ _ _ | .trytspawn _ _ _ _ _
  | .tenq _ _ | .trytenq _ _ _ | .tdec _ | .tinc _ _ _ | .tstatus _ _ | .tcancel _ _ _ | .tparam _ _ | .tbound _ | .rstore _ _ _ => true
  | _ => false
def Instr.isBuf (i : Instr) : Bool :=
  match i with
  | .bput _ _ _ | .trybput _ _ _ _ | .bget _ _ | .trybget _ _ _ | .bwait _ _ _ => true
  | _ => false

end Sys2Proof
end

