-- ==== Sys2Proof/Machine/Timing.lean ====
section
/-! DEFINITION. Functional units (R30), their busy cycles and the latencies of the rule operations (R133, R154, R210, R230, R247, R290,
R385, R454, R512), and the draw weights (R168). -/

namespace Sys2Proof
open Sys2Proof.Machine

inductive FUnit where
  | none | scalar | chan | vec | sf | mat | mem
deriving DecidableEq, Repr

def cdiv (a b : Nat) : Nat := (a + b - 1) / b

/-! ## Matrix panels (R216, R219, R220, R221, R230) -/

def MmFmt.bits : MmFmt → Nat
  | .f64 => 64 | .f32 => 32 | .f16 | .bf16 => 16 | .e4m3 | .e5m2 | .i8 | .n8 => 8 | .mx m => MxF.width m
def MmFmt.mxOf : MmFmt → Option MxF
  | .mx m => some m | _ => none
/-- MAC per cycle (R216). -/
def MmFmt.rate : MmFmt → Nat
  | .f64 => 256 | .f32 => 1024 | .f16 | .bf16 => 4096 | .e4m3 | .e5m2 | .i8 | .n8 => 8192
  | .mx .fp8 | .mx .fp8w => 8192 | .mx _ => 16384
def Blk.m (b : Blk) : Nat := 16 * (b.mt.val + 1)
def Blk.n (b : Blk) : Nat := 16 * (b.nt.val + 1)
def MmaF.k (f : MmaF) : Nat := 32 * (f.kt.val + 1)
/-- K of `mmv` (R220). -/
def MmFmt.kv (f : MmFmt) : Nat := 8192 / (16 * f.bits)
def MmFmt.scales (f : MmFmt) (rows k : Nat) : Nat := match f with | .mx _ => rows * (k / 32) | _ => 0
/-- Bytes of panels A and B (R219), of the sparse A and its metadata (R221). -/
def MmaF.bytesA (f : MmaF) : Nat := f.blk.m * f.k * f.fmt.bits / 8 + f.fmt.scales f.blk.m f.k
def MmaF.bytesB (f : MmaF) (k : Nat) : Nat := k * f.blk.n * f.fmt.bits / 8 + f.fmt.scales f.blk.n k
def MmaF.bytesSp (f : MmaF) : Nat := f.blk.m * f.k * f.fmt.bits / 16
def MmaF.bytesMeta (f : MmaF) : Nat := f.blk.m * f.k / 8
/-- Cycles of a fetch of `t` bytes from TCM and `c` bytes from CSP (R230). -/
def fetchCyc (t c : Nat) : Nat := max (cdiv t 512) (cdiv c 128)
def inSp (csp : Bool) (n : Nat) : Nat × Nat := if csp then (0, n) else (n, 0)
def add2 (a b : Nat × Nat) : Nat × Nat := (a.1 + b.1, a.2 + b.2)
def MmaF.busy (f : MmaF) : Nat :=
  let b := add2 (inSp f.asp f.bytesA) (inSp f.bsp (f.bytesB f.k))
  max (cdiv (f.blk.m * f.blk.n * f.k) f.fmt.rate) (fetchCyc b.1 b.2)
def MmaF.busySp (f : MmaF) (msp : Bool) : Nat :=
  let b := add2 (add2 (inSp f.asp f.bytesSp) (inSp f.bsp (f.bytesB f.k))) (inSp msp f.bytesMeta)
  max (cdiv (f.blk.m * f.blk.n * f.k) (2 * f.fmt.rate)) (fetchCyc b.1 b.2)
def MmaF.busyV (f : MmaF) : Nat :=
  let b := inSp f.bsp (f.bytesB f.fmt.kv)
  max (cdiv (f.blk.m * f.blk.n * f.fmt.kv) f.fmt.rate) (fetchCyc b.1 b.2)
def MmaF.busyR (f : MmaF) : Nat := max f.busy (max (cdiv f.bytesA 64) (cdiv (f.bytesB f.k) 64))
def AccMemF.ebytes (f : AccMemF) : Nat := if f.ew then 8 else 4
def AccMemF.bytes (f : AccMemF) : Nat := f.blk.m * f.blk.n * f.ebytes
def AccMemF.busy (f : AccMemF) : Nat := cdiv f.bytes (if f.asp then 128 else 512)

/-! ## Units -/

def Instr.unit (i : Instr) : FUnit :=
  match i with
  | .nop | .done _ | .yield | .handover | .trap _ _ | .watch _ _ _ _ | .unwatch _ | .sleep _ | .bkpt _ => .none
  | .pand _ _ _ | .por _ _ _ | .pxor _ _ _ | .pandn _ _ _ | .pnot _ _ | .pmov _ _ | .recv _ _ | .tryrecv _ _ _ | .send _ _ _
  | .trysend _ _ _ _ | .peek _ _ | .trypeek _ _ _ | .tagh _ _ | .chreset _ | .pset _ | .pclr _ | .chcount _ _ | .chfree _ _ => .chan
  | .rsend _ _ _ | .tryrsend _ _ _ _ | .rstore _ _ _ | .rdec _ _ | .pbar _ _ | .pcomb _ _ _ _ | .pbcast _ _ _ | .pabort _ => .chan
  | .vadd _ _ _ _ _ | .vsub _ _ _ _ _ | .vmul _ _ _ _ _ | .vfma _ _ _ _ _ _ _ _ | .vdiv _ _ _ _ _ | .vmin _ _ _ _ _ | .vmax _ _ _ _ _
  | .vabs _ _ _ _ | .vneg _ _ _ _ | .vadds _ _ _ _ _ | .vsubs _ _ _ _ _ | .vand _ _ _ _ _ | .vor _ _ _ _ _ | .vxor _ _ _ _ _
  | .vshl _ _ _ _ _ | .vshr _ _ _ _ _ | .vsra _ _ _ _ _ | .vcmp _ _ _ _ _ | .vclass _ _ _ _ _ | .vmov _ _ _ _ | .vbcast _ _ _ _
  | .viota _ _ _ _ | .vsel _ _ _ _ _ | .vperm _ _ _ _ _ | .vrot _ _ _ _ _ | .vext _ _ _ _ | .vins _ _ _ _ | .vcompress _ _ _ _
  | .vexpand _ _ _ _ | .vpack _ _ _ _ _ _ | .vunpk _ _ _ _ _ | .kand _ _ _ | .kor _ _ _ | .kxor _ _ _ | .kandn _ _ _ | .knot _ _
  | .kmov _ _ | .kpop _ _ | .kfind _ _ | .vredsum _ _ _ _ _ | .vredmin _ _ _ _ _ | .vredmax _ _ _ _ _ | .vredand _ _ _ _ _
  | .vredor _ _ _ _ _ | .vredxor _ _ _ _ _ | .vdot _ _ _ _ _ _ | .vscan _ _ _ _ _ | .vcvt _ _ _ _ _ | .vmxq _ _ _ _ _ _
  | .vmxd _ _ _ _ _ _ => .vec
  | .sfrcp _ _ _ | .sfrsqrt _ _ _ | .sfsqrt _ _ _ | .sfexp2 _ _ _ | .sflog2 _ _ _ | .sfsinpi _ _ _ | .sfcospi _ _ _
  | .sfsincospi _ _ _ => .sf
  | .mma _ | .mmas _ _ _ | .mmv _ | .azero _ | .aload _ | .astore _ | .acvt _ _ _ _ | .ascale _ _ _ | .aget _ _ _ _ | .aput _ _ _ _ _
  | .aadd _ _ _ _ | .atrans _ _ => .mat
  | .gcfg _ _ _ | .gstart _ | .gstop _ _ | .gbar _ _ _ | .ld _ _ | .st _ _ | .vld _ _ | .vst _ _ | .tamo _ _ _ | .vgath _ _ _
  | .vscat _ _ _ | .cpy _ | .cpy2d _ | .drainTcm _ | .drainCsp _ | .drainGlb _ | .cld _ _ | .cst _ _ | .cvld _ _ | .cvst _ _
  | .camo _ _ _ | .bput _ _ _ | .trybput _ _ _ _ | .bget _ _ | .trybget _ _ _ | .bwait _ _ _ | .nsend _ _ _ | .trynsend _ _ _ _
  | .nrecv _ _ | .trynrecv _ _ _ | .mmr _ _ | .cbar _ | .ldg _ _ | .stg _ _ | .vldg _ _ | .vstg _ _ | .amo _ _ _ _ | .cas _ _ _
  | .aincBound _ _ _ | .fence _ | .otpub _ | .otpubCirc _ _ | .otwait _ _ | .join _ _ | .pfg _ _ _ | .tspawn _ _ _ _
  | .trytspawn _ _ _ _ _ | .tenq _ _ | .trytenq _ _ _ | .tdec _ | .tinc _ _ _ | .tstatus _ _ | .tcancel _ _ _ | .tparam _ _
  | .tbound _ => .mem
  | _ => .scalar

/-- Divider instructions and their latency (R133). -/
def ixDivL (t : IxTy) : Nat := match t with | .i t => if t.width ≤ 32 then 12 else 20 | .fx _ => 20
def Instr.divL (i : Instr) : Option Nat :=
  match i with
  | .div t _ _ _ _ => some (ixDivL t)
  | .rem t _ _ _ => some (if t.width ≤ 32 then 12 else 20)
  | .fdiv t _ _ _ _ => some (match t with | .f16 | .bf16 => 8 | .f32 => 10 | .f64 => 16)
  | .fsqrt t _ _ _ => some (match t with | .f16 | .bf16 => 8 | .f32 => 11 | .f64 => 18)
  | _ => none

def VArith.timeAdd (t : VArith) : Nat × Nat := if VArith.isFp t then (4, 8) else (4, 5)
def VArith.timeMul (t : VArith) : Nat × Nat := if VArith.isFp t then (4, 8) else (4, 7)
def VPlain.timeMin (t : VPlain) : Nat × Nat := if VPlain.isFp t then (4, 6) else (4, 5)
def VSgn.timeAbs (t : VSgn) : Nat × Nat := match t with | .fp _ => (4, 6) | _ => (4, 5)
def XSrc.time (a : XSrc) : Nat × Nat := match a with | .v _ => (4, 4) | _ => (1, 1)
def XDst.time (a : XDst) : Nat × Nat := match a with | .v _ => (4, 4) | _ => (1, 1)

/-- Busy cycles of the unit and L. Operations that write back on an event of their own have L = 0 here. (DEDUCED, log 32.) -/
def Instr.time (i : Instr) : Nat × Nat :=
  match i with
  | .bext _ _ _ _ _ | .bins _ _ _ _ | .fmin _ _ _ _ | .fmax _ _ _ _ | .fcmp _ _ _ _ _ => (1, 2)
  | .mul _ _ _ _ _ | .fcvt _ _ _ _ _ | .fcvti _ _ _ _ | .icvtf _ _ _ _ _ | .fxcvt _ _ _ => (1, 3)
  | .mulh _ _ _ _ | .fadd _ _ _ _ _ | .fsub _ _ _ _ _ | .fmul _ _ _ _ _ | .ffma _ _ _ _ _ _ _ => (1, 4)
  | .div t _ _ _ _ => (1, ixDivL t)
  | .rem _ _ _ _ | .fdiv _ _ _ _ _ | .fsqrt _ _ _ _ => (1, i.divL.getD 1)
  | .recv d _ | .tryrecv d _ _ | .peek d _ | .trypeek d _ _ => d.time
  | .send _ a _ | .trysend _ a _ _ => a.time
  | .vadd t _ _ _ _ | .vsub t _ _ _ _ => t.timeAdd
  | .vadds t _ _ _ _ | .vsubs t _ _ _ _ => t.timeAdd
  | .vmul t _ _ _ _ => t.timeMul
  | .vfma _ _ _ _ _ _ _ _ => (4, 8)
  | .vdiv t _ _ _ _ => (4, if VArith.width t ≤ 32 then 20 else 28)
  | .vmin t _ _ _ _ | .vmax t _ _ _ _ => t.timeMin
  | .vabs t _ _ _ | .vneg t _ _ _ => t.timeAbs
  | .vand _ _ _ _ _ | .vor _ _ _ _ _ | .vxor _ _ _ _ _ | .vshl _ _ _ _ _ | .vshr _ _ _ _ _ | .vsra _ _ _ _ _ => (4, 5)
  | .vcmp c _ _ _ _ => if VCmp.isFp c then (4, 6) else (4, 5)
  | .vclass _ _ _ _ _ | .vmov _ _ _ _ | .vbcast _ _ _ _ | .viota _ _ _ _ | .vsel _ _ _ _ _ => (4, 5)
  | .vperm _ _ _ _ _ | .vrot _ _ _ _ _ | .vpack _ _ _ _ _ _ | .vunpk _ _ _ _ _ | .vcompress _ _ _ _ | .vexpand _ _ _ _ => (4, 6)
  | .vext _ _ _ _ | .vins _ _ _ _ | .kand _ _ _ | .kor _ _ _ | .kxor _ _ _ | .kandn _ _ _ | .knot _ _ | .kmov _ _ | .kpop _ _
  | .kfind _ _ => (1, 2)
  | .vredsum _ _ _ _ _ | .vdot _ _ _ _ _ _ | .vmxq _ _ _ _ _ _ => (4, 12)
  | .vredmin _ _ _ _ _ | .vredmax _ _ _ _ _ | .vredand _ _ _ _ _ | .vredor _ _ _ _ _ | .vredxor _ _ _ _ _ => (4, 8)
  | .vscan _ _ _ _ _ => (4, 14)
  | .vcvt _ _ _ _ _ => (4, 7)
  | .vmxd _ _ _ _ _ _ => (4, 8)
  | .sfrcp _ _ _ | .sfrsqrt _ _ _ | .sfsqrt _ _ _ | .sfexp2 _ _ _ | .sflog2 _ _ _ | .sfsinpi _ _ _ | .sfcospi _ _ _ => (16, 22)
  | .sfsincospi _ _ _ => (32, 38)
  | .mma f => (f.busy, f.busy + 7)
  | .mmas f _ msp => (f.busySp msp, f.busySp msp + 7)
  | .mmv f => (f.busyV, f.busyV + 7)
  | .mmr f _ => (f.busyR, f.busyR + 7)
  | .aload f | .astore f => (f.busy, f.busy + 5)
  | .azero _ => (1, 2)
  | .aget _ _ _ _ | .aput _ _ _ _ _ => (4, 6)
  | .aadd _ _ _ _ => (4, 9)
  | .acvt _ _ _ _ => (4, 8)
  | .ascale _ _ _ | .atrans _ _ => (64, 70)
  | .gstop _ _ => (1, 2)
  | .ld _ _ | .st _ _ => (1, 4)
  | .vld _ _ | .vst _ _ => (1, 5)
  | .tamo _ _ _ => (2, 6)
  | .vgath _ _ _ | .vscat _ _ _ => (4, 8)
  | .cld _ _ | .cst _ _ => (1, 5)
  | .cvld _ _ | .cvst _ _ => (2, 6)
  | .camo _ _ _ => (2, 7)
  | .bput _ _ _ | .trybput _ _ _ _ | .bget _ _ | .trybget _ _ _ => (2, 0)
  | .nsend _ a _ | .trynsend _ a _ _ => a.time
  | .nrecv d _ | .trynrecv d _ _ => d.time
  | .vldg _ _ | .vstg _ _ => (2, 0)
  | .tparam _ _ => (1, 4)
  | .gbar _ _ _ | .drainTcm _ | .drainCsp _ | .drainGlb _ | .bwait _ _ _ | .cbar _ | .ldg _ _ | .stg _ _ | .amo _ _ _ _ | .cas _ _ _
  | .aincBound _ _ _ | .fence _ | .otwait _ _ | .join _ _ | .tdec _ | .tinc _ _ _ | .tstatus _ _ | .tcancel _ _ _
  | .tspawn _ _ _ _ | .trytspawn _ _ _ _ _ | .tenq _ _ | .trytenq _ _ _ | .tbound _ => (1, 0)
  | .rsend _ _ _ | .tryrsend _ _ _ _ | .rstore _ _ _ | .pbar _ _ | .pcomb _ _ _ _ | .pbcast _ _ _ => (1, 0)
  | .cfgr _ _ | .cfgw _ _ _ | .vfsetEnable _ _ _ | .vfsetTeardown _ _ _ | .quota _ _ _ | .wtouch _ _ _ | .wresMobile _ _ _
  | .wresFixed _ _ _ | .wresUp _ _ _ | .wresDown _ _ _ | .wresQuery _ _ _ _ | .csave _ _ _ | .crest _ _ | .ctxw _ _ _ _
  | .xinv _ _ _ _ _ | .fqpop _ _ | .mtret _ _ _ | .srd _ _ | .swr _ _ _ => (1, 0)
  | _ => (1, 1)

def Instr.busy (i : Instr) : Nat := i.time.1
def Instr.lat (i : Instr) : Nat := i.time.2

/-- Draw weights (R168). -/
def Instr.weight (i : Instr) : Nat :=
  match i with
  | .yield | .sleep _ => 0
  | .pand _ _ _ | .por _ _ _ | .pxor _ _ _ | .pandn _ _ _ | .pnot _ _ | .pmov _ _ => 1
  | .fqpop _ _ => 1
  | i =>
    match i.unit with
    | .none => 1
    | .scalar => if i.divL.isSome then 4 else 1
    | .chan => if i.rsLabel.isSome then 2 else
      match i with
      | .rstore _ _ _ | .rdec _ _ | .pbar _ _ | .pcomb _ _ _ _ | .pbcast _ _ _ | .pabort _ => 2
      | i => if i.busy = 4 then 4 else 1
    | .vec => i.busy
    | .sf => 4
    | .mat => 8
    | .mem => 2

end Sys2Proof
end

