-- ==== Sys2Proof/Machine/Issue.lean ====
section
/-! DEFINITION. Firing an operation: the conditions 3 to 6 of R15 that it puts on the state (`State.opReady`), and what a fire does with the
effect that the operation computes (`State.issue`, R28, R112, R113, R133). -/

namespace Sys2Proof.Machine
open Sys2Proof

/-! ## What an operation contributes -/

/-- The effect of an operation at its fire. `act` is what it still has to do; `wr` its results at writeback; `poison` the payload of a
poisoned result and `hard` whether that result goes to a predicate or a short system register (R113 item 5); `rc` the result
condition; `now` the writes at the end of the fire cycle; `room` egress places beyond the footprint's; `stop` a trap at the fire, which
leaves everything but the plain predicate writes undone (R159); `edit` the remaining effects at the end of the fire cycle. -/
structure Iss where
  act : Act
  wr : List Wr
  poison : Option Word
  hard : Bool
  rc : Option Bool
  srng : Option (BitVec 32)
  fl : Fl
  now : List Wr
  room : List (Chan × Nat)
  stop : Option StopInfo
  edit : State → State

def Iss.zero : Iss :=
  { act := .plain, wr := [], poison := none, hard := false, rc := none, srng := none, fl := 0, now := [], room := [], stop := none,
    edit := id }
/-- Results and a result condition. -/
def Iss.put (wr : List Wr) (rc : Bool) : Iss := { Iss.zero with wr := wr, rc := some rc }
/-- An effect at the end of the fire cycle and nothing else. -/
def Iss.ed (f : State → State) : Iss := { Iss.zero with edit := f }
/-- A trap at the fire. -/
def Iss.trap (i : StopInfo) : Iss := { Iss.zero with stop := some i }
def Act.isPlain : Act → Bool | .plain => true | _ => false
def Act.isMat : Act → Bool | .mat _ _ _ _ _ => true | _ => false
/-- A request: its agent answers it. -/
def Act.isReq : Act → Bool | .req _ _ => true | .group _ _ => true | _ => false
/-- What stands for an order token, a circuit token or a bulk decrement alone: the rule itself takes one cycle (R385, R512). -/
def Act.isTok : Act → Bool
  | .otpub _ => true | .circ _ _ => true | .req i _ => (match i with | .rdec _ _ => true | _ => false) | _ => false
/-- A matrix-unit operation that has not started. -/
def Op.unstarted (o : Op) : Bool := o.act.isMat && o.due.isNone

/-- The payload that this fire gives to poison of cause `cause` (R156). -/
def State.pay (s : State) (cause : BitVec 8) : Word := mkPayload cause s.fire.slot.toNat s.fire.ctx s.env s.clock
/-- The trap of a poisoned operand (R159). -/
def State.ptrap (s : State) (pl : Word) : StopInfo := StopInfo.poison s.fire.slot.toNat pl s.clock
/-- The trap of a poisoned operand beside an address that is not poisoned: the address refused goes into WHERE (R159). -/
def State.ptrapAt (s : State) (a : Val 64) (pl : Word) : StopInfo := { s.ptrap pl with loc := if a.pois then 0 else a.bits }
/-- A stop of this fire with a cause. -/
def State.cause (s : State) (c : BitVec 8) : StopInfo := StopInfo.mk0 c s.fire.slot.toNat s.clock

/-! ## Conditions 3 to 6 of R15 -/

def Act.isGlobal : Act → Bool
  | .mem m => m.sp == .glb
  | .req i _ => i.isGlobal
  | _ => false
def Act.isBuf : Act → Bool | .bput _ _ _ _ _ _ _ => true | .bget _ _ _ _ _ => true | _ => false
/-- A buffer request counts as outstanding until its writeback (R265, R281). -/
def Act.isBufOut : Act → Bool | .claim _ _ _ _ _ _ => true | a => a.isBuf
def Act.isJoin : Act → Bool | .join _ _ => true | _ => false
def Act.rsLabel : Act → Option (BitVec 7) | .rsend l _ _ _ => some l | _ => none

/-- The matrix unit can accept an operation: one that waits for its order token holds the unit (R213, R230). -/
def Tile.matFree (t : Tile) (clk : Nat) : Bool := decide (t.units.mat ≤ clk) && t.ops.all fun o => !o.unstarted
/-- The unit can accept the operation in this cycle (R30, R133, R290). -/
def Tile.unitFree (t : Tile) (i : Instr) (clk : Nat) : Bool :=
  (match i.unit with
   | .none => true | .scalar => true | .chan => decide (t.units.chan ≤ clk) | .vec => decide (t.units.vec ≤ clk)
   | .sf => decide (t.units.sf ≤ clk) | .mat => t.matFree clk | .mem => decide (t.units.mem ≤ clk))
  && (!i.divL.isSome || decide (t.units.div ≤ clk))
  && (match i with | .mmr _ _ => t.matFree clk | _ => true)

/-- The unit is held for the operation's busy cycles, the divider for its latency (R30, R133). -/
def Tile.occupy (t : Tile) (i : Instr) (clk : Nat) : Tile :=
  let u := t.units
  let u := match i.unit with
    | .none => u | .scalar => u | .chan => { u with chan := clk + i.busy } | .vec => { u with vec := clk + i.busy }
    | .sf => { u with sf := clk + i.busy } | .mat => { u with mat := clk + i.busy } | .mem => { u with mem := clk + i.busy }
  let u := match i.divL with | some l => { u with div := clk + l } | none => u
  let u := match i with | .mmr _ _ => { u with mat := clk + i.busy } | _ => u
  { t with units := u }

/-- Entries left in an inbound channel once the rule's own dequeue is applied (R33). -/
def State.afterDq (s : State) (i : Instr) (ch : Chan) : Nat :=
  let n := (s.fctx.inb[ch]).length
  let n := match s.fire.dq with | some (c, k) => if c = ch then n - k else n | none => n
  match i with
  | .recv d a => if a = ch then n - XDst.n d else n
  | .tryrecv d a _ => if a = ch ∧ XDst.n d ≤ n then n - XDst.n d else n
  | .chreset a => if a = ch then 0 else n
  | _ => n
/-- The context that SUCC names. -/
def Ctx.succ (c : Ctx) : Fin 8 := Fin.ofNat 8 c.cfg.succ.toNat
/-- Places of an egress channel that the operation itself takes: what every fire of it appends, and the entry of a `trysend` that finds its
places (R33, R136). -/
def State.ownRoom (s : State) (i : Instr) (ch : Chan) : Nat :=
  (i.footOf s.fctx.regs.amode).room.foldl (fun n r => if r.1 = ch then n + r.2 else n) 0
  + match i with
    | .trysend d a _ _ => if d = ch ∧ XSrc.n a ≤ s.tile.egFree s.fire.ctx ch then XSrc.n a else 0
    | _ => 0
/-- The handover conditions (R33). -/
def State.hoReady (s : State) (i : Instr) : Bool :=
  let x := s.fctx
  (s.tile.ctx x.succ).st == .shadow
  && (List.finRange 16).all (fun ch =>
    (!x.cfg.hmask.getLsbD ch.val || s.afterDq i ch == 0)
    && (!(x.eb[ch]).bv || decide (1 + s.ownRoom i ch ≤ s.tile.egFree s.fire.ctx ch)))

/-- The order token PT of a stream's descriptor (R231). -/
def Strm.pt (g : Strm) : Nat := nfld g.desc.toNat 89 4
/-- The task has room for one more incomplete publication of token `n` (R331). -/
def Tile.tokRoom (t : Tile) (c : Ctx) (n : Nat) : Bool :=
  n == 0 || match t.taskOf c with | some k => k.room n | none => true

/-- The limited resources that the instruction's description names (R15 condition 6). -/
def State.extraReady (s : State) (i : Instr) : Bool :=
  let t := s.tile
  let x := s.fctx
  (!i.isGlobal || decide ((t.ops.filter fun o => o.act.isGlobal).length < 64))
  && (!i.isBuf || decide ((t.ops.filter fun o => o.act.isBufOut).length < 4))
  && t.tokRoom x i.pub
  && (match i.rsLabel with | some l => t.ops.all fun o => o.act.rsLabel != some l | none => true)
  && (match i with
      | .watch _ d _ _ => x.watches.any (fun w => w.pred == d) || decide (x.watches.length < 4)
      | .cpy _ | .cpy2d _ => decide ((t.copies.filter fun k => !k.dead).length < 16)
      | .gstart g => t.tokRoom x (t.strm[x.strmOf g]).pt
      | .join _ _ => decide (((t.pendingOps s.fire.ctx).filter fun o => o.act.isJoin).length < 4)
      | .nsend dir a _ => decide (XSrc.n a ≤ t.ncred[dir])
      | .nrecv d dir => decide (XDst.n d ≤ (t.nq[dir]).length)
      | .handover => s.hoReady i
      | _ => true)

/-- Conditions 3 to 6 of R15 for an operation of the context that is firing. (DESIGN CHOICE, log 7.) -/
def State.opReady (s : State) (i : Instr) : Bool :=
  let t := s.tile
  let c := s.fire.ctx
  let x := s.fctx
  let f := i.footOf x.regs.amode
  (f.rd ++ f.wr).all (fun r => !t.locked c r)
  && (!f.rd.contains .flags || (t.pendingOps c).all fun o => o.act.isTok)
  && f.need.all (fun r => decide (r.2 ≤ (x.inb[r.1]).length))
  && f.room.all (fun r => decide (r.2 ≤ t.egFree c r.1))
  && t.unitFree i s.clock
  && i.accWait.all (fun a => t.accIdle (x.accOf a))
  && s.extraReady i

/-! ## The fire -/

/-- Publications of token `n` that the context's task has fired on the tile. -/
def Tile.tokFired (t : Tile) (c : Ctx) (n : Nat) : Nat :=
  if n = 0 then 0 else match t.taskOf c with | some k => k.fired n | none => 0
/-- Fire a publication of token `n`. -/
def Tile.tokPub (t : Tile) (c : Ctx) (n : Nat) : Tile :=
  if n = 0 then t else match c.task with | some r => t.modTask r (fun k => k.publish n) | none => t
/-- Publication `k` of token `n` completes. -/
def Tile.tokDone (t : Tile) (c : Ctx) (n k : Nat) : Tile :=
  if n = 0 then t else match c.task with | some r => t.modTask r (fun x => x.complete n k) | none => t

/-- The predicates that source-10 writes will write. -/
def pwRes (ws : List PWrite) : List Res := (ws.filter pwIsRc).map fun w => .p w.p

/-- Entries that stand in the bound egress channels of a context. -/
def Ctx.egCounts (c : Ctx) : List (Chan × Nat) :=
  ((List.finRange 16).map fun ch => (ch, if (c.eb[ch]).bv then (c.egr[ch]).length else 0)).filter fun x => x.2 != 0

/-- The operation as it stands outstanding. (DEDUCED, log 2.) -/
def State.mkOp (s : State) (i : Instr) (x : Iss) : Op :=
  let c := s.fctx
  let f := i.footOf c.regs.amode
  { id := s.tile.nextId, ctx := s.fire.ctx, slot := s.fire.slot, fired := s.clock,
    due := if i.lat = 0 || x.act.isMat || x.act.isReq then none else some (s.clock + i.lat - 1), act := x.act, wr := x.wr, poison := x.poison, hard := x.hard,
    rc := x.rc, srng := x.srng, pws := s.fire.pws.filter pwIsRc, fl := x.fl, am := c.regs.amode, dsts := f.wr ++ pwRes s.fire.pws,
    room := f.room ++ x.room, accs := i.accUse.map fun a => (c.accOf a).val,
    pt := (i.pub, s.tile.tokFired c i.pub + 1), ents := c.egCounts }

/-- The rule's operation acts: at once when it takes one cycle, otherwise it stands outstanding until its writeback. Predicate
writes of sources 00, 01 and 11 take effect now, after the operation's result where that is written now (R27). -/
def State.issue (s : State) (i : Instr) (x : Iss) : State :=
  let c := s.fire.ctx
  let o := s.mkOp i x
  let t := s.tile.occupy i s.clock
  let plain := s.fire.pws.filter fun w => !pwIsRc w
  match x.stop with
  | some inf => { s with tile := t.modCtx c fun y => (y.setRegs (applyPws plain false y.regs)).stop inf }
  | none =>
    let t := t.tokPub s.fctx i.pub
    let now := fun y : Ctx => x.now.foldl (fun y w => Wr.apply w s.fire.slot.toNat s.clock y) y
    if i.lat ≤ 1 && x.act.isPlain then
      x.edit { s with tile := t.modCtx c fun y => Op.write { o with pws := s.fire.pws } s.clock (now y) }
    else
      x.edit { s with tile := { (t.modCtx c fun y => (now y).setRegs (applyPws plain false (now y).regs)) with
                                ops := t.ops ++ [o], nextId := t.nextId + 1 } }

/-- The meaning of a rule operation with the effect `x`: it completes when conditions 3 to 6 of R15 hold. (DESIGN CHOICE, log 7.) -/
def State.fireOp (s : State) (i : Instr) (x : Iss) : Host.Outcome State Fault Refusal :=
  if s.opReady i then .next (s.issue i x) else .fault .notEligible

end Sys2Proof.Machine
end

