-- ==== Sys2Proof/Machine/Port.lean ====
section
/-! DEFINITION. Packets to other modules: headers (R301), paths over the pod (R482, R483, R491), circuits (R306, R489), the sending side of a link (R485
to R487), and UALink mode (R498 to R500). -/

namespace Sys2Proof.Machine
open Sys2Proof

/-- This module's number in the pod (R467). -/
def State.own (s : State) : Nat := s.saloc.cfg.module.toNat

/-! ## Tenants (R414, R415) -/

/-- A register of VFCFG block `n` (R415, R446). -/
def State.vf (s : State) (n off : Nat) : Nat := (reg s.coord.regs (0x2000 + 0x40 * n + off)).toNat
/-- The block of the tenant with tag `t`: the physical function's for tag 0, else the enabled VF that holds it. -/
def State.vfOf (s : State) (t : BitVec 4) : Option Nat :=
  if t = 0 then some 0
  else ((List.range 16).map (· + 1)).find? fun n => nfld (s.vf n 0) 0 1 == 1 && nfld (s.vf n 0) 1 4 == t.toNat
def State.vfDom (s : State) (n : Nat) : Nat := nfld (s.vf n 0) 5 3
/-- The virtual network of a tenant (R299, R421). -/
def State.vnOf (s : State) (t : BitVec 4) : Nat := if t = 0 then 0 else match s.vfOf t with | some n => s.vfDom n | none => 0

/-! ## Headers (R301) -/

/-- The header flit of a packet that `len` data flits follow. (DESIGN CHOICE, log 68.) -/
def pktHeader (p : Pkt) (len : Nat) : BitVec 256 :=
  BitVec.ofNat 256 (p.op % 16 + at_ 4 (p.vn % 8) + at_ 7 (p.cls % 4) + at_ 9 p.tenant.toNat + at_ 13 (p.dmod % 4096) + at_ 25 (p.ddie % 8) + at_ 28 (p.dtgt % 256)
    + at_ 36 (p.dctx % 8) + at_ 39 (p.dchan % 16) + at_ 43 (p.gen % 4) + at_ 45 (p.circ % 64) + at_ 51 (p.src.toNat % 2 ^ 30) + at_ 81 (len % 16)
    + at_ 85 p.tag.toNat + at_ 93 (b2n p.p) + at_ 94 p.w.toNat + at_ 96 (p.addr % 2 ^ 48) + at_ 144 (p.attr % 2 ^ 48) + at_ 192 p.idata.toNat)
/-- The packet of a header and its data. -/
def pktOf (h : BitVec 256) (data : List Word) : Pkt :=
  let f := fun lo len => nfld h.toNat lo len
  { op := f 0 4, vn := f 4 3, cls := f 7 2, tenant := BitVec.ofNat 4 (f 9 4), dmod := f 13 12, ddie := f 25 3, dtgt := f 28 8, dctx := f 36 3, dchan := f 39 4,
    gen := f 43 2, circ := f 45 6, src := BitVec.ofNat 32 (f 51 30), tag := BitVec.ofNat 8 (f 85 8), p := f 93 1 == 1, w := BitVec.ofNat 2 (f 94 2),
    addr := f 96 48, attr := f 144 48, idata := BitVec.ofNat 64 (f 192 64), data := data }
/-- A data flit carries four doublewords. -/
def dataFlit (l : List Word) : BitVec 256 := BitVec.ofNat 256 (l.foldr (fun w x => w.toNat + x * 2 ^ 64) 0)
def flitWords (x : BitVec 256) : List Word := (List.range 4).map fun i => BitVec.ofNat 64 (nfld x.toNat (64 * i) 64)
def chunk4 : Nat → List Word → List (BitVec 256)
  | 0, _ => []
  | n + 1, l => dataFlit (l.take 4) :: chunk4 n (l.drop 4)
def pktLen (p : Pkt) : Nat := (p.data.length + 3) / 4
def pktFlits (p : Pkt) : List (BitVec 256) := pktHeader p (pktLen p) :: chunk4 (pktLen p) p.data
/-- The class of a packet (R300); a marker's is the one that its sender writes. -/
def pktClass (p : Pkt) : Nat :=
  if p.op = 0xd then p.cls else if 2 ≤ p.op ∧ p.op ≤ 0xb ∧ pktLen p ≤ 1 then 2 else if p.op = 5 ∨ p.op = 6 then 1 else 0
/-- The virtual channel of a packet on a link: 3 × VN + class. -/
def pktVc (p : Pkt) : Nat := 3 * (p.vn % 8) + p.cls % 3

/-- SMOD, SDIE and STGT of an agent. (DESIGN CHOICE, log 68.) -/
def agentSrc (m die code : Nat) : BitVec 32 := BitVec.ofNat 32 (m + at_ 12 die + at_ 15 code)

/-! ## Trailers (R485) -/

def crcBit (c : BitVec 16) (b : Bool) : BitVec 16 := if c.getLsbD 15 != b then (c <<< 1) ^^^ 0x1021#16 else c <<< 1
/-- PRESUMED, log 69. -/
def crcByte (c : BitVec 16) (b : Nat) : BitVec 16 := (List.range 8).foldl (fun c i => crcBit c (b.testBit (7 - i))) c
/-- PRESUMED, log 69. -/
def crc16 (l : List Nat) : BitVec 16 := l.foldl crcByte 0xffff#16
/-- The CRC of a flit and the low half of its trailer. (PRESUMED, log 69.) -/
def flitCrc (x : BitVec 256) (lo : Nat) : BitVec 16 := crc16 (((List.range 32).map fun i => nfld x.toNat (8 * i) 8) ++ [lo % 256, lo / 256 % 256])
def trailer (x : BitVec 256) (lo : Nat) : BitVec 32 := BitVec.ofNat 32 (lo % 2 ^ 16 + at_ 16 (flitCrc x lo).toNat)

/-! ## Paths (R482, R483, R491) -/

def axisN (c : CfgRec) (a : Nat) : Nat := if a = 0 then c.nx else if a = 1 then c.ny else c.nz
def axisOf (m a : Nat) : Nat := m / 16 ^ a % 16
/-- The module with another coordinate on an axis. -/
def setAxis (m a x : Nat) : Nat := m - axisOf m a * 16 ^ a + x * 16 ^ a
def inDims (c : CfgRec) (m : Nat) : Bool := (List.range 3).all fun a => decide (axisOf m a < axisN c a)
/-- The neighbour over a torus port. -/
def nextMod (c : CfgRec) (m k : Nat) : Nat :=
  let n := axisN c (k / 2)
  let x := axisOf m (k / 2)
  setAxis m (k / 2) (if k % 2 = 0 then (x + 1) % n else (x + n - 1) % n)
/-- The hops along one axis in one direction, as (module, torus port). -/
def hops (c : CfgRec) : Nat → Nat → Nat → List (Nat × Nat)
  | 0, _, _ => []
  | n + 1, m, k => (m, k) :: hops c n (nextMod c m k) k
/-- A hop crosses a retired link of port die q, whichever end names it. -/
def hopRetired (c : CfgRec) (ret : List Nat) (q : Nat) (h : Nat × Nat) : Bool :=
  ret.contains (24 * h.1 + 6 * q + h.2) || ret.contains (24 * nextMod c h.1 h.2 + 6 * q + (if h.2 % 2 = 0 then h.2 + 1 else h.2 - 1))
/-- Along an axis: the shorter way round, + when equal; the other way round where that crosses a retired link. -/
def axisPath (c : CfgRec) (ret : List Nat) (q m tgt a : Nat) : Option (List (Nat × Nat)) :=
  let n := axisN c a
  let up := (axisOf tgt a + n - axisOf m a) % n
  let fwd := hops c up m (2 * a)
  let back := hops c (if up = 0 then 0 else n - up) m (2 * a + 1)
  let first := if up ≤ n - up then fwd else back
  let other := if up ≤ n - up then back else fwd
  if !first.any (hopRetired c ret q) then some first else if !other.any (hopRetired c ret q) then some other else none
/-- The path of a circuit, X then Y then Z; none where it is unreachable on the port die. -/
def podPath (c : CfgRec) (ret : List Nat) (q m tgt : Nat) : Option (List (Nat × Nat)) :=
  match axisPath c ret q m tgt 0 with
  | none => none
  | some xs =>
    let m1 := setAxis m 0 (axisOf tgt 0)
    match axisPath c ret q m1 tgt 1 with
    | none => none
    | some ys =>
      let m2 := setAxis m1 1 (axisOf tgt 1)
      (axisPath c ret q m2 tgt 2).map fun zs => xs ++ ys ++ zs

/-! ## Circuits (R306, R489, R490) -/

/-- The entry of the circuit table of a die. -/
def State.circE (s : State) (sdie ddie circ : Nat) : Nat := (reg (s.die sdie).circ (64 * ddie + circ)).toNat
def circPort (e : Nat) : Nat := nfld e 6 2
def circTport (e : Nat) : Nat := nfld e 8 3
def circKey (sdie dmod ddie circ : Nat) : Nat := ((sdie * 4096 + dmod) * 8 + ddie) * 64 + circ
/-- A circuit to another module cannot be used: its entry does not leave the module, its path is not there, it is failed, or its UALink port is. -/
def State.podFailed (s : State) (sdie dmod ddie circ : Nat) : Bool :=
  let e := s.circE sdie ddie circ
  nfld e 0 2 != 3 || (s.die sdie).failed.contains 0
  || (if s.saloc.cfg.ualink then s.fab.uaFailed.contains (circTport e)
      else s.fab.failed.contains (circKey sdie dmod ddie circ)
        || (inDims s.saloc.cfg dmod && (podPath s.saloc.cfg s.fab.retired (circPort e) s.own dmod).isNone))

/-! ## Links (R485 to R487, R492) -/

def linkBlk (l : Nat) : Nat := 0x5000 + 0x40 * l
def State.link (s : State) (l : Nat) : Link := mget Link.zero s.fab.links l
def State.setLink (s : State) (l : Nat) (x : Link) : State := { s with fab := { s.fab with links := mset Link.zero s.fab.links l x } }
def State.linkReg (s : State) (l off : Nat) : Word := reg s.coord.regs (linkBlk l + off)
def State.setLinkReg (s : State) (l off : Nat) (w : Word) : State := { s with coord := { s.coord with regs := setReg s.coord.regs (linkBlk l + off) w } }
/-- STATE of a link: 0 up, 1 retraining, 2 retired, 3 dead. -/
def State.linkSt (s : State) (l : Nat) : Nat := nfld (s.linkReg l 0).toNat 0 2
/-- Places that a sender may still use of a virtual channel: 64, and those freed since, less those consumed. (DESIGN CHOICE, log 70.) -/
def Link.places (x : Link) (vc : Nat) : Nat := 64 - (mget 0 x.used vc + 256 - mget 0 x.cred vc) % 256
def Link.oldest (x : Link) : Nat := (x.seq.toNat + 1024 - x.buf.length) % 1024
/-- The circuit that a packet's header names: its source die, its destination and CIRC (R301, R306). -/
def flitCirc (l : List (BitVec 256)) : Nat × Nat × Nat := let h := (l.headD 0).toNat; (nfld h 63 3, nfld h 13 15, nfld h 45 6)
/-- A link flush marker stands behind the last packet of its circuit, in whatever virtual network that travels (R489). (DESIGN CHOICE, log 71.) -/
def Link.flushWaits (x : Link) (p : List (BitVec 256) × Nat) : Bool :=
  let h := (p.1.headD 0).toNat
  nfld h 0 4 == 0xd && nfld h 144 4 == 6
    && (x.tx.takeWhile fun q => q != p).any fun q => flitCirc q.1 == flitCirc p.1 && !(nfld (q.1.headD 0).toNat 0 4 == 0xd && nfld (q.1.headD 0).toNat 144 4 == 6)
/-- The first waiting packet of each virtual channel, as far as it has places and the retry buffer has room. -/
def Link.fronts (x : Link) : List (List (BitVec 256) × Nat) :=
  ((x.tx.foldl (fun l p => if l.any (fun q => q.2 == p.2) then l else l ++ [p]) []).filter fun p => !x.flushWaits p &&
    decide (p.1.length ≤ x.places p.2 ∧ x.buf.length + p.1.length ≤ 512))
/-- How far a virtual channel stands behind the network last granted; of one network, responses before requests. -/
def vcRank (last vc : Nat) : Nat := 2 * ((vc / 3 + 15 - last) % 8) + (if vc % 3 = 0 then 1 else 0)
/-- The nearest of the packets. -/
def nearest (last : Nat) : List (List (BitVec 256) × Nat) → Option (List (BitVec 256) × Nat)
  | [] => none
  | p :: l => match nearest last l with
    | none => some p
    | some q => if vcRank last q.2 < vcRank last p.2 then some q else some p
/-- The packet that the output grants next. A waiting packet of the sync class goes before any other, but for packets that together have at most two flits and
go first (R300); within either kind the grants rotate among the virtual networks (R422). Flits carry no virtual channel (R485), so that a packet's stay together.
(DESIGN CHOICE, log 70.) -/
def Link.grant (x : Link) : Option (List (BitVec 256) × Nat) :=
  match nearest x.lastS (x.fronts.filter fun p => p.2 % 3 == 2), nearest x.lastO (x.fronts.filter fun p => p.2 % 3 != 2) with
  | some a, some b => if b.1.length ≤ x.turn then some b else some a
  | a, b => a.or b
/-- The packet leaves its queue, and the grants move on: `turn` is the flits of other classes that may still go before a waiting sync flit. -/
def Link.granted (x : Link) (p : List (BitVec 256) × Nat) : Link :=
  { x with tx := x.tx.erase p, turn := if p.2 % 3 = 2 then 2 else x.turn - p.1.length,
           lastS := if p.2 % 3 = 2 then p.2 / 3 else x.lastS, lastO := if p.2 % 3 = 2 then x.lastO else p.2 / 3 }
/-- One flit is sent. -/
def State.sendFlit (s : State) (l vc : Nat) (f : BitVec 256) : State :=
  let x := s.link l
  let y := { x with seq := x.seq + 1, buf := x.buf ++ [(f, s.clock)], used := mset 0 x.used vc ((mget 0 x.used vc + 1) % 256) }
  let s := (s.setLink l y).emit (.flit l f (trailer f x.seq.toNat))
  if x.buf.isEmpty then s.later Config.twoUs (.replayTimeout (Fin.ofNat 24 l)) else s
/-- Send up to `n` of the packets that wait, while the link is up or, retired, still carries what is routed over it (R489). (DESIGN CHOICE, log 70.) -/
def State.pumpN (s : State) (l : Nat) : Nat → State
  | 0 => s
  | n + 1 =>
    match (if s.linkSt l % 2 = 0 then (s.link l).grant else none) with
    | none => s
    | some p => (p.1.foldl (fun s f => s.sendFlit l p.2 f) (s.setLink l ((s.link l).granted p))).pumpN l n
def State.pump (s : State) (l : Nat) : State := s.pumpN l (s.link l).tx.length
/-- DESIGN CHOICE, log 70. -/
def State.sendFlits (s : State) (l : Nat) (p : Pkt) : State :=
  let x := s.link l
  (s.setLink l { x with tx := x.tx ++ [(pktFlits p, pktVc p)] }).pump l
/-- The link by which a packet goes on over port die q. One that came in over a torus port goes on in its direction until its coordinate matches, and
round the other way from a dead link. (DESIGN CHOICE, log 71.) -/
def State.outLink (s : State) (q : Nat) (came : Option Nat) (p : Pkt) : Option Nat :=
  let on := match came with
    | some k => if axisOf s.own (k / 2) ≠ axisOf p.dmod (k / 2) then some (if k % 2 = 0 then k + 1 else k - 1) else none
    | none => none
  match on.filter fun k => s.linkSt (6 * q + k) != 3 with
  | some k => some (6 * q + k)
  | none => match podPath s.saloc.cfg s.fab.retired q s.own p.dmod with | some ((_, k) :: _) => some (6 * q + k) | _ => none
/-- A packet goes on over port die q. -/
def State.routeOut (s : State) (q : Nat) (came : Option Nat) (p : Pkt) : State :=
  match s.outLink q came p with | some l => s.sendFlits l p | none => s
/-! ## The merge buffers of the torus ports (R336, R494) -/

/-- The operation by which atomic packets are combined, and the contribution (R368): an add, an FX add or a bounded increment with ORDER none. -/
def pktKey (p : Pkt) : Option (MemOp × Word) :=
  if p.op ≠ 4 ∨ nfld p.attr 10 2 ≠ 0 then none
  else match nfld p.attr 0 4 with
    | 0 => some (.atom (.reg 0) .add 0, p.idata) | 1 => some (.atom (.reg 0) .fxadd 0, p.idata) | 9 => some (.binc (.reg 0) p.idata, 1)
    | _ => none
/-- The contributions of an atomic packet (R368). -/
def reqCount (p : Pkt) : Nat := if nfld p.attr 12 1 = 1 then nfld p.attr 13 6 + 1 else 1
/-- The word of a packet: its module, its tenant and its address. -/
def pktWord (p : Pkt) : Nat := (p.dmod * 16 + p.tenant.toNat) * 2 ^ 48 + p.addr
/-- A number for a merged packet whose answer is awaited. -/
def State.freeNo (s : State) : Option Nat := (List.range 256).find? fun i => (mget [] s.fab.merged i).isEmpty
/-- The sum of the contributions, or the bound. -/
def mergedData (l : List Pkt) : Word :=
  match l with
  | [] => 0
  | p :: _ => if nfld p.attr 0 4 = 9 then p.idata else l.foldl (fun w p => w + p.idata) 0
/-- An entry is forwarded as one packet, on the circuit of its first request; its answer comes back to this module. (DESIGN CHOICE, log 30.) -/
def State.sendMerged (s : State) (e : PMerge) : State :=
  match e.parts with
  | [] => s
  | [p] => s.routeOut e.port e.came p
  | p :: _ =>
    match s.freeNo with
    | none => e.parts.foldl (fun s p => s.routeOut e.port e.came p) s
    | some i =>
      let n := sumL (e.parts.map reqCount)
      let q := { p with src := agentSrc s.own e.port 0xf8, tag := BitVec.ofNat 8 i, attr := p.attr % 2 ^ 12 + at_ 12 1 + at_ 13 ((n - 1) % 64), idata := mergedData e.parts }
      State.routeOut { s with fab := { s.fab with merged := mset [] s.fab.merged i e.parts } } e.port e.came q
def State.closePort (s : State) (l w : Nat) : State :=
  match s.fab.ports.find? fun e => e.link == l && pktWord (e.parts.headD .zero) == w with
  | none => s
  | some e => State.sendMerged { s with fab := { s.fab with ports := s.fab.ports.erase e } } e
/-- A packet of another module goes on over a torus port: combined, or behind the entries of its words. (DESIGN CHOICE, log 30.) -/
def State.passOn (s : State) (q : Nat) (came : Option Nat) (p : Pkt) : State :=
  match s.outLink q came p with
  | none => s
  | some l =>
    let mine := s.fab.ports.find? fun e => e.link == l && pktWord (e.parts.headD .zero) == pktWord p
    let add := fun s : State =>
      if 64 ≤ (s.fab.ports.filter fun e => e.link == l).length then s.routeOut q came p
      else State.later { s with fab := { s.fab with ports := s.fab.ports ++ [{ link := l, port := q, came := came, parts := [p], opened := s.clock }] } } 16
             (.mergeEntryClose (9 + l) (pktWord p))
    match pktKey p with
    | none =>
      let hit := fun e : PMerge => let h := e.parts.headD .zero
        e.link == l && h.dmod == p.dmod && h.tenant == p.tenant && decide (h.addr < p.addr + 256 ∧ p.addr < h.addr + 8) && decide (2 ≤ p.op ∧ p.op ≤ 4)
      ((s.fab.ports.filter hit).foldl (fun s e => s.closePort l (pktWord (e.parts.headD .zero))) s).routeOut q came p
    | some k =>
      match mine with
      | none => add s
      | some e =>
        let h := e.parts.headD .zero
        let n := sumL (e.parts.map reqCount) + reqCount p
        if ((pktKey h).map (·.1)) == some k.1 && decide (n ≤ 64) then
          let s : State := { s with fab := { s.fab with ports := s.fab.ports.map fun x => if x == e then { x with parts := x.parts ++ [p] } else x } }
          if n = 64 then s.closePort l (pktWord p) else s
        else add (s.closePort l (pktWord p))
/-- Packets that UALink carries as transactions of its own (R499). -/
def pktNative (p : Pkt) : Bool := p.op == 2 || p.op == 3 || (p.op == 4 && nfld p.attr 0 4 != 9)
/-- An FX add goes as the integer add that it is (R499). -/
def uaAtomic (p : Pkt) : Pkt := if p.op = 4 ∧ nfld p.attr 0 4 = 1 then { p with attr := p.attr - 1 } else p
/-- VNTAB admits the tag on the virtual network (R421). -/
def State.vnAdmits (s : State) (die : Nat) (vn : BitVec 3) (t : BitVec 4) : Bool :=
  vn == 0 || (reg (s.die die).regs (0x880 + 8 * vn.toNat)).getLsbD t.toNat
/-- A tag that is retiring (R439). -/
def State.retires (s : State) (t : BitVec 4) : Bool := s.coord.retiring.contains t.toNat
/-- RTDROP of the die counts a packet of a retiring tag, MESHERR any other that is dropped. -/
def State.meshDrop (s : State) (die : Nat) (t : BitVec 4) : State :=
  s.modDie die fun d => { d with regs := bumpReg d.regs (if s.retires t then 0x8c0 else 0x8c8) 1 }
/-- Sweep markers and their echoes pass although their tag is retiring (R441). -/
def sweepPkt (p : Pkt) : Bool := p.op == 0xd && (p.attr % 16 == 4 || p.attr % 16 == 5)
/-- The packet's virtual network does not carry its tag, or the tag is retiring (R302, R421, R439). -/
def State.tagDrop (s : State) (die : Nat) (p : Pkt) : Bool :=
  !s.vnAdmits die (BitVec.ofNat 3 p.vn) p.tenant || (s.retires p.tenant && !sweepPkt p)
def State.meshErr (s : State) (die : Nat) : State := s.modDie die fun d => { d with regs := bumpReg d.regs 0x8c8 1 }
/-- A packet leaves a die of the module, or its Hearth, on its circuit, or over a port die that its kind names, unless the routers of the die drop it (R302, R421).
(DESIGN CHOICE, log 10.) -/
def State.sendPkt (s : State) (sdie : Nat) (q : Option Nat) (p : Pkt) : State :=
  let p := { p with cls := pktClass p }
  let e := s.circE sdie p.ddie p.circ
  if s.tagDrop sdie p then s.meshDrop sdie p.tenant
  else if s.saloc.cfg.ualink then
    if 1024 ≤ p.dmod then s.meshErr sdie
    else if pktNative p then s.emit (.packet (circTport e) (uaAtomic p))
    else
      let k := 64 * p.dmod + p.circ
      let n := mget 0 s.fab.uaSent k
      let s : State := { s with fab := { s.fab with uaSent := mset 0 s.fab.uaSent k ((n + 1) % 65536) } }
      s.emit (.aperture (circTport e) n p)
  else if !inDims s.saloc.cfg p.dmod then s.meshErr sdie
  else if q.isNone && s.fab.gated.contains (circKey sdie p.dmod p.ddie p.circ) then { s with fab := { s.fab with held := s.fab.held ++ [p] } }
  else s.passOn (q.getD (circPort e)) none p
/-- A marker in the class or classes of its kind (R303). -/
def markPkt (kind marg vn cls : Nat) (t : BitVec 4) (dmod ddie circ : Nat) (src : BitVec 32) : Pkt :=
  { Pkt.zero with op := 0xd, vn := vn, cls := cls, tenant := t, dmod := dmod, ddie := ddie, circ := circ, src := src, attr := kind + at_ 4 marg }

end Sys2Proof.Machine
end

