-- ==== Sys2Proof/Machine/Net.lean ====
section
/-! DEFINITION. Dequeues and the credits they return (R25, R138, R140, R178), packets that leave the module (R301), and handing over a
context at the fire (R33, R34). -/

namespace Sys2Proof.Machine
open Sys2Proof

/-- Take an event in this cycle, after every tile has fired (R16). (DESIGN CHOICE, log 10.) -/
def State.atEnd (s : State) (i : Ev) : State := { s with queue := qinsert s.clock i s.queue }

/-- SRCID of R177: module, tile as 192 × die + tile, context, egress channel. -/
def srcMod (x : BitVec 32) : Nat := nfld x.toNat 0 12
/-- SDIE and STGT, a tile or an agent. -/
def srcDie (x : BitVec 32) : Nat := nfld x.toNat 12 3
def srcTgt (x : BitVec 32) : Nat := nfld x.toNat 15 8
def srcTile (x : BitVec 32) : Nat := 192 * srcDie x + srcTgt x
def srcCtx (x : BitVec 32) : Fin 8 := Fin.ofNat 8 (nfld x.toNat 23 3)
def srcChan (x : BitVec 32) : Chan := Fin.ofNat 16 (nfld x.toNat 26 4)
def mkSrc (m tile : Nat) (c : Fin 8) (ch : Chan) : BitVec 32 :=
  BitVec.ofNat 32 (m + at_ 12 (dieOf tile) + at_ 15 (tileIn tile) + at_ 23 c.val + at_ 26 ch.val)

/-- Context `c` of a tile, or what arrived there for a context of tenant `t`, returns `k` credits to a sender (R178). (DESIGN CHOICE, log 10.) -/
def State.credit (s : State) (n : Nat) (c : Fin 8) (t : BitVec 4) (src : BitVec 32) (k : Nat) : State :=
  if k = 0 then s
  else if srcMod src = s.own then s.atEnd (.creditArrival (srcTile src) (srcCtx src) (srcChan src) k)
  else s.sendPkt (dieOf n) none { Pkt.zero with
    op := 7, vn := s.vnOf t, tenant := t, dmod := srcMod src, ddie := srcDie src, dtgt := srcTgt src, dctx := (srcCtx src).val, dchan := (srcChan src).val,
    src := mkSrc s.own n c 0, idata := BitVec.ofNat 64 k }

def countT : List Bool → Nat
  | [] => 0
  | b :: l => b2n b + countT l

/-- Remove the first `n` entries of an inbound channel. -/
def Ctx.deq (c : Ctx) (ch : Chan) (n : Nat) : Ctx :=
  { c with inb := c.inb.set ch ((c.inb[ch]).drop n), owe := c.owe.set ch ((c.owe[ch]).drop n),
           badIn := c.badIn.filterMap fun x => if x.1 ≠ ch then some x else if x.2 < n then none else some (ch, x.2 - n) }
/-- Credits that removing the first `n` entries returns. -/
def Ctx.deqOwed (c : Ctx) (ch : Chan) (n : Nat) : Nat := if (c.ib[ch]).bv then countT ((c.owe[ch]).take n) else 0
/-- Append entries to an inbound channel. -/
def Ctx.enq (c : Ctx) (ch : Chan) (es : List Entry) (owed : Bool) : Ctx :=
  { c with inb := c.inb.set ch (c.inb[ch] ++ es), owe := c.owe.set ch (c.owe[ch] ++ es.map fun _ => owed) }
/-- What the fires of this cycle have left so far, for context `c` of the tile. (DEDUCED, log 18.) -/
def Tile.recent (t : Tile) (clk : Nat) (c : Fin 8) : Recent :=
  if t.last.cyc = clk ∧ t.last.ctx = c then t.last else { Recent.zero with cyc := clk, ctx := c }
/-- Entries that the fire of this cycle has taken from a channel: their places are free from the next cycle on (R24). -/
def Tile.takenNow (t : Tile) (clk : Nat) (c : Fin 8) (ch : Chan) : Nat :=
  sumL (((t.recent clk c).taken.filter fun x => x.1 == ch).map (·.2))
/-- Dequeue entries of a context of the focus tile, with their credits. (DEDUCED, log 18.) -/
def State.dequeue (s : State) (c : Fin 8) (ch : Chan) (n : Nat) : State :=
  let x := s.tile.ctx c
  let r := s.tile.recent s.clock c
  (s.onTile fun t => { t.setCtx c (x.deq ch n) with last := { r with taken := (ch, n) :: r.taken } }).credit s.cur c x.tenant (x.ib[ch]).src (x.deqOwed ch n)

/-! ## Handover at the fire -/

/-- The successor's channel of the same index is bound or holds entries while the context carries that channel (R34). (DESIGN CHOICE, log 82.) -/
def Ctx.carryClash (x y : Ctx) : Bool :=
  (List.finRange 16).any fun ch =>
    (!x.cfg.hmask.getLsbD ch.val && ((x.ib[ch]).bv || !(x.inb[ch]).isEmpty) && ((y.ib[ch]).bv || !(y.inb[ch]).isEmpty))
    || (((x.eb[ch]).bv || !(x.egr[ch]).isEmpty) && ((y.eb[ch]).bv || !(y.egr[ch]).isEmpty))

/-- The handover of a rule with HO = 1, or of `handover`, at its fire: a fault (R34), or no further fire (R35). Whether a carried channel clashes is tested here, after the
rule's own DQ and its one-cycle operation; the spec does not say when. (DESIGN CHOICE, log 82.) -/
def State.takeHand (s : State) : State :=
  let x := s.fctx
  if !x.cfg.hen || x.succ == s.fire.ctx || x.carryClash (s.tile.ctx x.succ) then
    s.onTile fun t => t.modCtx s.fire.ctx fun c => c.stop (s.cause 0x10#8)
  else
    match x.ctl.ending with
    | .none => s.onTile fun t => t.modCtx s.fire.ctx fun c => c.setCtl { c.ctl with ending := .hand, mark := true }
    | _ => s

end Sys2Proof.Machine
end

