-- ==== Sys2Proof/Machine/Picker.lean ====
section
/-! DEFINITION. Guards (R13, R14), eligibility (R15), the choice of the picker (R31, R32, R68), and what a fire does around its
operation: CLR before it, DQ, HO, draw weight and rotation after it (R25, R26, R28, R168). -/

namespace Sys2Proof.Machine
open Sys2Proof

def termMatch (t : Term) (c : Ctx) : Bool := c.p t.p != t.pol
def termHolds (t : Option Term) (c : Ctx) : Bool := match t with | none => true | some t => termMatch t c

/-- The resource condition in context `c` of a tile (R14). -/
def condHolds (k : Cond) (t : Tile) (c : Fin 8) : Bool :=
  let x := t.ctx c
  match k with
  | .always => true
  | .count ch n => decide (n.val + 1 ≤ (x.inb[ch]).length)
  | .tagEq ch g => match x.head ch 0 with | some e => e.tag == g | none => false
  | .tagNe ch g => match x.head ch 0 with | some e => e.tag != g | none => false
  | .full r => x.regs.full r
  | .empty r => !x.regs.full r
  | .space ch n => decide (n.val + 1 ≤ t.egFree c ch)
  | .idle a => t.accIdle (x.accOf a)

/-- The guard of a rule (R13). -/
def guardHolds (r : Rule) (t : Tile) (c : Fin 8) : Bool :=
  termHolds r.t0 (t.ctx c) && termHolds r.t1 (t.ctx c) && termHolds r.t2 (t.ctx c) && condHolds r.cond t c

/-- The resources that the interlock covers beside the operation's own operands (R15 condition 3). -/
def termRes (t : Option Term) : List Res := match t with | none => [] | some t => [.p t.p]
def pwResAll (w : Option PWrite) : List Res := match w with | none => [] | some w => [.p w.p]
def PresReg.res : PresReg → Res | .s r => .s r | .v r => .v r | .k r => .k r
def condRes : Cond → List Res
  | .full r => [PresReg.res r] | .empty r => [PresReg.res r] | _ => []
def guardRes (r : Rule) : List Res :=
  termRes r.t0 ++ termRes r.t1 ++ termRes r.t2 ++ pwResAll r.pw0 ++ pwResAll r.pw1 ++ condRes r.cond

/-- What DQ removes (R25). -/
def ruleDq (r : Rule) : Option (Chan × Nat) :=
  if r.dq then
    match r.cond with
    | .count c n => some (c, n.val + 1) | .tagEq c _ => some (c, 1) | .tagNe c _ => some (c, 1) | _ => none
  else none
/-- The register CLR clears, with the presence it has (R26). -/
def ruleClr (r : Rule) (c : Ctx) : Option (PresReg × Bool) :=
  if r.clr then
    match r.cond with
    | .full x => some (x, c.regs.full x) | .empty x => some (x, c.regs.full x) | _ => none
  else none

def pwList (w : Option PWrite) : List PWrite := match w with | none => [] | some w => [w]
/-- The fire of a rule from a slot of a context. -/
def mkFire (r : Rule) (t : Tile) (c : Fin 8) (slot : Nat) : Fire :=
  { ctx := c, slot := BitVec.ofNat 9 slot, pws := pwList r.pw0 ++ pwList r.pw1, clr := ruleClr r (t.ctx c), dq := ruleDq r,
    ho := r.ho }
def State.atRule (s : State) (r : Rule) (c : Fin 8) (slot : Nat) : State := { s with fire := mkFire r s.tile c slot }

/-- R15, condition 1 apart. (DESIGN CHOICE, log 7.) -/
def State.eligible (s : State) (r : Rule) (c : Fin 8) (slot : Nat) : Bool :=
  let u := s.atRule r c slot
  guardHolds r s.tile c && (guardRes r).all (fun x => !s.tile.locked c x) && u.opReady r.op && (!r.ho || u.hoReady r.op)

/-- The slots of a context in the picker's order: from SROT to RLAST, then from RBASE (R31 key 4). -/
def Ctx.slotOrder (c : Ctx) : List Nat :=
  let b := c.cfg.rbase.toNat; let l := c.cfg.rlast.toNat; let r := c.cfg.srot.toNat
  let all := (List.range (l + 1 - b)).map (· + b)
  all.filter (fun n => decide (r ≤ n)) ++ all.filter (fun n => decide (n < r))

/-- A context may be considered at all (R19, R35, R147). -/
def Ctx.picks (c : Ctx) : Bool := c.st == .running && c.ctl.ending == .none && c.ctl.asleep == none
/-- A candidate: rank under key 1, PRI, context, slot, rule. -/
structure Cand where
  top : Bool
  pri : Nat
  ctx : Fin 8
  slot : Nat
  rule : Rule
deriving DecidableEq, Repr
/-- Keys 1 and 2 of R31. -/
def Cand.key (c : Cand) : Nat := (if c.top then 8 else 0) + c.pri
/-- The first of the highest key. -/
def bestCand : List Cand → Option Cand
  | [] => none
  | c :: l => match bestCand l with
    | none => some c
    | some d => if d.key ≤ c.key then some c else some d

def State.cands (s : State) (c : Fin 8) : List Cand :=
  let x := s.tile.ctx c
  if x.picks then
    (match x.ctl.first with | some n => [n.toNat] | none => x.slotOrder).filterMap fun n =>
      match slotRule (mget 0 s.tile.store n) with
      | some r => if s.eligible r c n then some { top := x.left != 0 && !x.ctl.yielded, pri := r.pri.val, ctx := c, slot := n, rule := r } else none
      | none => none
  else []
/-- The contexts from CROT on (R31 key 3). -/
def Tile.ctxOrder (t : Tile) : List (Fin 8) := (List.range 8).map fun i => Fin.ofNat 8 (t.r.crot.toNat + i)
/-- The picker's choice (R31). -/
def State.pick (s : State) : Option Cand := bestCand ((s.tile.ctxOrder).filterMap fun c => bestCand (s.cands c))

/-! ## Around the operation -/

/-- CLR has its effect before the operation's writes (R26). -/
def State.doClr (s : State) : State :=
  match s.fire.clr with
  | some (r, _) => s.onTile fun t => t.modCtx s.fire.ctx fun c => c.setRegs (c.regs.setFull r false)
  | none => s
/-- DQ (R25). -/
def State.doDq (s : State) : State :=
  match s.fire.dq with
  | some (ch, n) => s.dequeue s.fire.ctx ch n
  | none => s
/-- The draw weight (R168) and the rotation points (R32). -/
def Tile.charge (t : Tile) (c : Fin 8) (slot : BitVec 9) (w : Nat) : Tile :=
  let x := t.ctx c
  let nxt := if slot = x.cfg.rlast then x.cfg.rbase else slot + 1
  { t.setCtx c { x with left := BitVec.ofNat 20 (x.left.toNat - w), cfg := { x.cfg with srot := nxt } } with
    r := { t.r with crot := BitVec.ofNat 3 (c.val + 1) } }
/-- A watch notification reaches the context: the predicate is set and C written (R149). -/
def Ctx.notify (c : Ctx) (p : PReg) (dst : Option SReg) (v : Word) : Ctx :=
  let r := c.regs.setP p true
  let r := match dst with | some d => r.setS d v false | none => r
  { c with regs := r, ctl := { c.ctl with asleep := none } }
/-- A notification arrives: for a task that is held for migration, or whose trapped rule has not fired yet, it is kept (R68, R394). -/
def Ctx.hear (c : Ctx) (w : Watch) (v : Word) : Ctx :=
  let kept := c.setCtl { c.ctl with held := c.ctl.held ++ [⟨w, v⟩] }
  match c.st, c.ctl.ending, c.ctl.first with
  | .free, _, _ => c
  | .migrating, _, _ => kept
  | _, .mig _, _ => kept
  | _, _, some _ => kept
  | _, _, none => c.notify w.pred w.f.dst v
/-- The notifications that are on their way arrive before the home confirms that a watch is disarmed (R394). -/
def Ctx.hearAll (c : Ctx) : Ctx :=
  c.watches.foldl (fun d w => match w.note with | some v => d.hear w v | none => d)
    { c with watches := c.watches.filter fun w => w.note.isNone }
/-- The notifications that were held reach the context. (DEDUCED, log 51.) -/
def Ctx.unhold (c : Ctx) : Ctx :=
  let d := c.setCtl { c.ctl with held := [] }
  c.ctl.held.foldl (fun d h => d.notify h.w.pred h.w.f.dst h.val) d
/-- A trapped rule has fired: the notifications that were held for its task, whichever of its contexts they name, are applied at the end of the cycle
(R68, R394). -/
def State.unhold (s : State) : State :=
  let x := s.fctx
  match x.ctl.first, x.task with
  | some _, some r => (s.onTile fun t => t.modCtx s.fire.ctx fun x => x.setCtl { x.ctl with first := none }).atEnd (.watchRelease r.die r.idx r.copy)
  | some _, none => s.onTile fun t => t.modCtx s.fire.ctx fun x => (x.setCtl { x.ctl with first := none }).unhold
  | none, _ => s

/-- What follows the operation of a fire (R28, R32, R168). (DEDUCED, log 2; DEDUCED, log 16.) -/
def State.afterFire (s : State) (i : Instr) : State :=
  let s := s.doDq
  let s := if s.fire.ho then s.takeHand else s
  (s.onTile fun t => t.charge s.fire.ctx s.fire.slot i.weight).unhold

end Sys2Proof.Machine
end

