-- ==== Sys2Proof/Machine/Scalar.lean ====
section
/-! DEFINITION. `nop` and the scalar integer, immediate, move and address instructions (R60, R116 to R124), and the shape that every result
with poison, flags and a result condition has (R105, R113, R114). -/

namespace Sys2Proof.Machine
open Sys2Proof

/-! ## Results -/

def State.amode (s : State) : AMode := s.fctx.regs.amode
/-- A result under R105 and R113: poison from the first poisoned source, poison of the operation's own, or the value. `bad` writes poison
with a payload, `good` writes the value. -/
def State.resIss (s : State) (ps : List (Option Word)) (hard : Bool) (bad : Word → List Wr) (div0 : Bool) (fl : Fl)
    (srng : Option (BitVec 32)) (good : List Wr) (rc : Bool) : Iss :=
  match firstPois ps with
  | some pl => { Iss.zero with poison := some pl, hard := hard, wr := bad pl }
  | none =>
    if div0 then
      { Iss.zero with poison := some (s.pay causeDiv0), hard := hard, wr := bad (s.pay causeDiv0), fl := fl, srng := srng }
    else
      match trapCause fl s.amode.ten with
      | some c => { Iss.zero with poison := some (s.pay c), hard := hard, wr := bad (s.pay c), fl := fl, srng := srng }
      | none => { Iss.zero with wr := good, rc := some rc, fl := fl, srng := srng }

def poisoned {w : Nat} (pl : Word) : Val w := { bits := pl.setWidth w, pois := true }
/-- A scalar result. -/
def State.sIss (s : State) (d : SDst) (ps : List (Option Word)) (div0 : Bool) (fl : Fl) (srng : Option (BitVec 32)) (w : Word)
    (rc : Bool) : Iss :=
  s.resIss ps (sdHard d) (fun pl => wrS d (poisoned pl)) div0 fl srng (wrS d (clean w)) rc
/-- A predicate result; its result condition is the value written (R120). -/
def State.pIss (s : State) (d : PReg) (ps : List (Option Word)) (fl : Fl) (b : Bool) : Iss :=
  s.resIss ps true (fun _ => []) false fl none [.p d b] b

/-- An integer result: the condition is that its 64 bits are not all zero (R114). -/
def State.iIss (s : State) (d : SDst) (ps : List (Option Word)) (r : ARes) : Iss := s.sIss d ps r.div0 r.fl none r.w (r.w != 0)

/-- Two sources, one source, a source and an immediate. -/
def State.i2 (s : State) (d : SDst) (a b : SSrc) (f : Word → Word → ARes) : Iss :=
  s.iIss d [(s.ss a).payload, (s.ss b).payload] (f (s.ss a).bits (s.ss b).bits)
def State.i1 (s : State) (d : SDst) (a : SSrc) (f : Word → ARes) : Iss := s.iIss d [(s.ss a).payload] (f (s.ss a).bits)

abbrev Out3 := Host.Outcome State Fault Refusal

/-! ## Meanings -/

def execNop (s : State) : Out3 := s.fireOp .nop .zero
def execAdd (t : IxTy) (sat : Bool) (d : SDst) (a b : SSrc) (s : State) : Out3 := s.fireOp (.add t sat d a b) (s.i2 d a b (iAdd t sat))
def execSub (t : IxTy) (sat : Bool) (d : SDst) (a b : SSrc) (s : State) : Out3 := s.fireOp (.sub t sat d a b) (s.i2 d a b (iSub t sat))
def execMul (t : IxTy) (sat : Bool) (d : SDst) (a b : SSrc) (s : State) : Out3 := s.fireOp (.mul t sat d a b) (s.i2 d a b (iMul t sat))
def execDiv (t : IxTy) (sat : Bool) (d : SDst) (a b : SSrc) (s : State) : Out3 := s.fireOp (.div t sat d a b) (s.i2 d a b (iDiv t sat))
def execMulh (t : ITy) (d : SDst) (a b : SSrc) (s : State) : Out3 := s.fireOp (.mulh t d a b) (s.i2 d a b (iMulh t))
def execRem (t : ITy) (d : SDst) (a b : SSrc) (s : State) : Out3 := s.fireOp (.rem t d a b) (s.i2 d a b (iRem t))
def execMin (t : IxTy) (d : SDst) (a b : SSrc) (s : State) : Out3 := s.fireOp (.min t d a b) (s.i2 d a b (iMin t))
def execMax (t : IxTy) (d : SDst) (a b : SSrc) (s : State) : Out3 := s.fireOp (.max t d a b) (s.i2 d a b (iMax t))
def execAnd (t : ITy) (d : SDst) (a b : SSrc) (s : State) : Out3 := s.fireOp (.and t d a b) (s.i2 d a b (iAnd t))
def execOr (t : ITy) (d : SDst) (a b : SSrc) (s : State) : Out3 := s.fireOp (.or t d a b) (s.i2 d a b (iOr t))
def execXor (t : ITy) (d : SDst) (a b : SSrc) (s : State) : Out3 := s.fireOp (.xor t d a b) (s.i2 d a b (iXor t))
def execAndn (t : ITy) (d : SDst) (a b : SSrc) (s : State) : Out3 := s.fireOp (.andn t d a b) (s.i2 d a b (iAndn t))
def execShl (t : ITy) (d : SDst) (a b : SSrc) (s : State) : Out3 := s.fireOp (.shl t d a b) (s.i2 d a b (iShl t))
def execShr (t : ITy) (d : SDst) (a b : SSrc) (s : State) : Out3 := s.fireOp (.shr t d a b) (s.i2 d a b (iShr t))
def execSra (t : ITy) (d : SDst) (a b : SSrc) (s : State) : Out3 := s.fireOp (.sra t d a b) (s.i2 d a b (iSra t))
def execRol (t : ITy) (d : SDst) (a b : SSrc) (s : State) : Out3 := s.fireOp (.rol t d a b) (s.i2 d a b (iRol t))
def execRor (t : ITy) (d : SDst) (a b : SSrc) (s : State) : Out3 := s.fireOp (.ror t d a b) (s.i2 d a b (iRor t))
def execClz (t : ITy) (d : SDst) (a : SSrc) (s : State) : Out3 := s.fireOp (.clz t d a) (s.i1 d a (iClz t))
def execCtz (t : ITy) (d : SDst) (a : SSrc) (s : State) : Out3 := s.fireOp (.ctz t d a) (s.i1 d a (iCtz t))
def execPopc (t : ITy) (d : SDst) (a : SSrc) (s : State) : Out3 := s.fireOp (.popc t d a) (s.i1 d a (iPop t))
/-- R118. -/
def execBext (signed : Bool) (d : SDst) (a b c : SSrc) (s : State) : Out3 :=
  s.fireOp (.bext signed d a b c)
    (s.iIss d [(s.ss a).payload, (s.ss b).payload, (s.ss c).payload] (iBext signed (s.ss a).bits (s.ss b).bits (s.ss c).bits))
/-- R118: D is the last source (R113 item 1). -/
def execBins (d : SReg) (a b c : SSrc) (s : State) : Out3 :=
  s.fireOp (.bins d a b c)
    (s.iIss (.reg d) [(s.ss a).payload, (s.ss b).payload, (s.ss c).payload, (s.fctx.s d).payload]
      (iBins (s.fctx.s d).bits (s.ss a).bits (s.ss b).bits (s.ss c).bits))
/-- R119: both sources are read. -/
def execSel (d : SDst) (a b : SSrc) (c : PReg) (s : State) : Out3 :=
  s.fireOp (.sel d a b c) (s.i2 d a b fun x y => aval (if s.fctx.p c then x else y))
/-- R120. -/
def execCmp (cc : Cc) (t : IxTy) (d : PReg) (a b : SSrc) (s : State) : Out3 :=
  s.fireOp (.cmp cc t d a b) (s.pIss d [(s.ss a).payload, (s.ss b).payload] fNone (iCmp cc t (s.ss a).bits (s.ss b).bits))

/-! ## Immediates, moves, addresses (R121 to R124) -/

def execAddi (d : SDst) (a : SSrc) (imm : BitVec 32) (s : State) : Out3 :=
  s.fireOp (.addi d a imm) (s.i1 d a fun x => aval (x + imm.signExtend 64))
def execAndi (d : SDst) (a : SSrc) (imm : BitVec 32) (s : State) : Out3 :=
  s.fireOp (.andi d a imm) (s.i1 d a fun x => aval (x &&& imm.signExtend 64))
def execOri (d : SDst) (a : SSrc) (imm : BitVec 32) (s : State) : Out3 :=
  s.fireOp (.ori d a imm) (s.i1 d a fun x => aval (x ||| imm.signExtend 64))
def execXori (d : SDst) (a : SSrc) (imm : BitVec 32) (s : State) : Out3 :=
  s.fireOp (.xori d a imm) (s.i1 d a fun x => aval (x ^^^ imm.signExtend 64))
def execShli (d : SDst) (a : SSrc) (n : Fin 64) (s : State) : Out3 :=
  s.fireOp (.shli d a n) (s.i1 d a fun x => iShl .i64 x (BitVec.ofNat 64 n.val))
def execShri (d : SDst) (a : SSrc) (n : Fin 64) (s : State) : Out3 :=
  s.fireOp (.shri d a n) (s.i1 d a fun x => iShr .i64 x (BitVec.ofNat 64 n.val))
def execSrai (d : SDst) (a : SSrc) (n : Fin 64) (s : State) : Out3 :=
  s.fireOp (.srai d a n) (s.i1 d a fun x => iSra .i64 x (BitVec.ofNat 64 n.val))
def execRoli (d : SDst) (a : SSrc) (n : Fin 64) (s : State) : Out3 :=
  s.fireOp (.roli d a n) (s.i1 d a fun x => iRol .i64 x (BitVec.ofNat 64 n.val))
def execCmpi (cc : Cc) (t : IxTy0) (d : PReg) (a : SSrc) (imm : BitVec 28) (s : State) : Out3 :=
  s.fireOp (.cmpi cc t d a imm)
    (s.pIss d [(s.ss a).payload] fNone (iCmp cc (IxTy0.ty t) (s.ss a).bits (cmpiImm t imm)))
def execLi (d : SDst) (imm : BitVec 40) (s : State) : Out3 := s.fireOp (.li d imm) (s.iIss d [] (aval (imm.signExtend 64)))
/-- bits(D, 23, 0) + bits(IMM40, 39, 0) × 2^24. -/
def execLih (d : SReg) (imm : BitVec 40) (s : State) : Out3 :=
  s.fireOp (.lih d imm) (s.iIss (.reg d) [(s.fctx.s d).payload] (aval (imm ++ (s.fctx.s d).bits.extractLsb' 0 24)))
def execLea (d : SDst) (a b : SSrc) (k : Fin 8) (s : State) : Out3 :=
  s.fireOp (.lea d a b k) (s.i2 d a b fun x y => aval (x + y <<< k.val))
def execSext (t : ExtTy) (d : SDst) (a : SSrc) (s : State) : Out3 := s.fireOp (.sext t d a) (s.i1 d a (iSext t))
def execZext (t : ExtTy) (d : SDst) (a : SSrc) (s : State) : Out3 := s.fireOp (.zext t d a) (s.i1 d a (iZext t))
def execMov (d : SDst) (a : SSrc) (s : State) : Out3 := s.fireOp (.mov d a) (s.i1 d a aval)

end Sys2Proof.Machine
end

