-- ==== Sys2Proof/Machine/Translate.lean ====
section
/-! DEFINITION. Translation of tenant virtual addresses: table walks (R309 to R313), translation caches (R314) and outstanding walks
(R315 to R318). -/

namespace Sys2Proof.Machine
open Sys2Proof

/-! ## Tables (R311) -/

/-- The table root (R311). -/
def State.vroot (s : State) (t : BitVec 4) : Option Nat := (s.vfOf t).map fun n => nfld (s.vf n 0x18) 12 36 * 4096

/-! ## Walks -/

/-- What a walk finds: a fault (whether at a malformed entry, and the level at which it ended), or a leaf: its address, its level, its value and the
page's base. -/
inductive Leaf where
  | fault (why : Bool × Nat)
  | leaf (at_ lvl : Nat) (e : Nat) (base : Nat)
deriving DecidableEq, Repr

/-- The shift of a level's index and its width (R311). -/
def lvlShift : Nat → Nat | 3 => 39 | 2 => 30 | 1 => 21 | _ => 16
def lvlBits : Nat → Nat | 0 => 5 | _ => 9
/-- A valid entry is well formed at its level (R312, R313). -/
def entryOk (lvl e : Nat) : Bool :=
  let leaf := nfld e 1 1 == 1
  let pfn := nfld e 8 40 * 256
  nfld e 7 1 == 0 && nfld e 48 16 == 0 && (memHome pfn).isSome
  && (if leaf then decide (lvl ≤ 1) && nfld e 8 8 == 0 && (lvl == 0 || nfld e 16 5 == 0)
      else decide (1 ≤ lvl) && nfld e 2 5 == 0 && (lvl == 1 || nfld e 8 4 == 0))
/-- The walk of R313 through the levels, from a table's address. (DESIGN CHOICE, log 29.) -/
def State.walkGo (s : State) (va : Nat) : List Nat → Nat → Leaf
  | [], _ => .fault (true, 0)
  | l :: ls, tab =>
    let a := tab + 8 * nfld va (lvlShift l) (lvlBits l)
    let e := (s.memWord a).toNat
    if nfld e 0 1 = 0 then .fault (false, l)
    else if !entryOk l e then .fault (true, l)
    else if nfld e 1 1 = 1 then .leaf a l e (nfld e 8 40 * 256)
    else s.walkGo va ls (nfld e 8 40 * 256)
/-- The leaf of an address under a tenant's root (R309, R313). -/
def State.leafOf (s : State) (t : BitVec 4) (va : Nat) : Leaf :=
  if va / 2 ^ 48 ≠ 0 then .fault (false, 4)
  else match s.vroot t with
    | none => .fault (false, 4)
    | some r => s.walkGo va [3, 2, 1, 0] r
def leafRd (e : Nat) : Bool := nfld e 2 1 == 1
def leafWr (e : Nat) : Bool := nfld e 3 1 == 1
def leafRes (e : Nat) : Bool := nfld e 4 1 == 1
def leafDirty (e : Nat) : Bool := nfld e 5 1 == 1
/-- The access of a kind is permitted (0 read, 1 write, 2 atomic; R313, R368). -/
def leafOk (e kind : Nat) : Bool :=
  match kind with
  | 0 => leafRd e | 1 => leafWr e | _ => leafRd e && leafWr e
/-- Set ACC, and DIRTY for a write or atomic. -/
def State.touchLeaf (s : State) (at_ kind : Nat) : State :=
  let e := s.memWord at_
  s.setMemWord at_ (e ||| (if kind = 0 then 0x40#64 else 0x60#64))
/-- The page number of an address, in 64 KiB pages. -/
def vpnOf (va : Nat) : Nat := va / 65536
/-- Cycles of an unloaded walk (R315): 4 and 40, or 24 in the Hearth, per table read. (DESIGN CHOICE, log 29.) -/
def walkCycles (per lvl : Nat) : Nat := 4 + per * (4 - lvl)

/-! ## Translation caches (R314) -/

def tlbSet64 (va : Nat) : Nat := nfld va 16 7
def tlbSet2M (va : Nat) : Nat := nfld va 21 7
def tlbMatch (t : BitVec 4) (va : Nat) (e : TlbE) : Bool :=
  e.tenant == t && (if e.big then va / 2097152 == e.vpn / 32 else va / 65536 == e.vpn)
def tlbLine (m : AMap (List TlbE)) (set : Nat) : List TlbE := mget [] m set
/-- The entry of an address. -/
def tlbFind (m : AMap (List TlbE)) (t : BitVec 4) (va : Nat) : Option TlbE :=
  match (tlbLine m (tlbSet64 va)).find? (fun e => !e.big && tlbMatch t va e) with
  | some e => some e
  | none => (tlbLine m (tlbSet2M va)).find? fun e => e.big && tlbMatch t va e
def tlbSetOf (e : TlbE) : Nat := if e.big then nfld (e.vpn * 65536) 21 7 else nfld (e.vpn * 65536) 16 7
/-- Make an entry the most recently used of its set; the least recently used of 16 falls out. -/
def tlbPut (m : AMap (List TlbE)) (e : TlbE) : AMap (List TlbE) :=
  let l := (tlbLine m (tlbSetOf e)).filter fun x => !(x.tenant == e.tenant && x.big == e.big && x.vpn == e.vpn)
  mset [] m (tlbSetOf e) ((e :: l).take 16)
/-- Remove the entries that a test picks (R316). -/
def tlbDrop (m : AMap (List TlbE)) (p : TlbE → Bool) : AMap (List TlbE) :=
  (m.map fun x => (x.1, x.2.filter fun e => !p e)).filter fun x => !x.2.isEmpty
/-- DEDUCED, log 28. -/
def tlbOk (e : TlbE) (kind : Nat) : Bool :=
  match kind with
  | 0 => e.rd | 1 => e.wr && e.dirty | _ => e.rd && e.wr && e.dirty
def tlbPa (e : TlbE) (va : Nat) : Nat := if e.big then e.page + va % 2097152 else e.page + va % 65536
/-- The entry that a walk installs. -/
def leafTlb (t : BitVec 4) (va lvl e base : Nat) (kind : Nat) : TlbE :=
  { tenant := t, vpn := if lvl = 1 then va / 2097152 * 32 else va / 65536, big := lvl == 1, rd := leafRd e, wr := leafWr e,
    dirty := leafDirty e || kind != 0, page := base }

/-- A translation by a cache, or by what walks have handed to the access: the physical address, or none for a miss. (DEDUCED, log 28.) -/
def tlbLook (m : AMap (List TlbE)) (hand : List TlbE) (t : BitVec 4) (va kind : Nat) : Option Nat :=
  match (match tlbFind m t va with | some e => if tlbOk e kind then some e else none | none => none).or (hand.find? fun e => tlbMatch t va e && tlbOk e kind) with
  | some e => some (tlbPa e va)
  | none => none
def State.tlbUse (s : State) (k : Nat) (t : BitVec 4) (va : Nat) : State :=
  match tlbFind (s.clus k).tlb t va with
  | some e => s.modClus k fun c => { c with tlb := tlbPut c.tlb e }
  | none => s

/-! ## Outstanding walks (R315, R317) -/

def walkIs (t : BitVec 4) (vpn : Nat) (w : Walk) : Bool := w.tenant == t && w.vpn == vpn
/-- The level at which the table now holds the leaf, for the walk's length. -/
def State.leafLvl (s : State) (t : BitVec 4) (va : Nat) : Nat := match s.leafOf t va with | .leaf _ l _ _ => l | .fault _ => 0
/-- The level at which a walk ends now, with a leaf or a fault. -/
def State.walkLvl (s : State) (t : BitVec 4) (va : Nat) : Nat := match s.leafOf t va with | .leaf _ l _ _ => l | .fault w => w.2
/-- The walk is of the page of an address: of its 64 KiB, or of the 2 MiB page that holds both. (DESIGN CHOICE, log 29.) -/
def State.walkFor (s : State) (t : BitVec 4) (va : Nat) (w : Walk) : Bool :=
  w.tenant == t && (w.vpn == vpnOf va || (w.vpn / 32 == vpnOf va / 32 && s.leafLvl t va == 1))
/-- The time of an unloaded walk of a die; 8 is the Hearth. -/
def State.walkTime (s : State) (die : Nat) (t : BitVec 4) (va : Nat) : Nat := walkCycles (if die = 8 then 24 else 40) (s.walkLvl t va)
/-- Start the walks that wait, in the order of their misses, while fewer than 256 run. -/
def State.startWalks (s : State) (die : Nat) : State :=
  let d := s.die die
  let room := 256 - (d.walks.filter fun w => !w.wait).length
  let go := (d.walks.filter (·.wait)).take room
  go.foldl (fun s w =>
    let n := s.walkTime die w.tenant (w.vpn * 65536)
    (s.modDie die fun d => { d with walks := d.walks.map fun v => if walkIs w.tenant w.vpn v then { v with wait := false, ends := s.clock + n } else v }).later n
      (.walkComplete die w.tenant w.vpn)) s
/-- A miss joins the page's walk, or asks for one. (DESIGN CHOICE, log 29.) -/
def State.missTo (s : State) (die : Nat) (t : BitVec 4) (va : Nat) (who : Waiter) : State :=
  let d := s.die die
  match d.walks.find? (s.walkFor t va) with
  | some w =>
    if w.who.contains who then s
    else s.setDie die { d with walks := d.walks.map fun v => if walkIs t w.vpn v then { v with who := v.who ++ [who] } else v }
  | none =>
    (s.setDie die { d with walks := d.walks ++ [{ tenant := t, vpn := vpnOf va, ends := 0, resid := false, who := [who], wait := true }] }).startWalks die

end Sys2Proof.Machine
end

