-- ==== Sys2Proof/Machine/Memory.lean ====
section
/-! DEFINITION. Accesses to TCM, CSP and physical memory: reading and writing with the watches that see a write (R149), what each access does
when it is performed (R237 to R240, R277, R362, R365 to R367), and the order in which accesses are performed (R324 to R329). -/

namespace Sys2Proof.Machine
open Sys2Proof

/-! ## Watches (R149) -/

def WTy.ity : WTy → ITy | .i64 => .i64 | .i32 => .i32 | .n64 => .n64 | .n32 => .n32
def WTy.bytes : WTy → Nat | .i64 => 8 | .n64 => 8 | .i32 => 4 | .n32 => 4
/-- The word that a watch observes, when its home can be reached. -/
def State.watchWord (s : State) (n : Nat) (c : Fin 8) (w : Watch) : Option Word :=
  let x := (s.tileN n).ctx c
  let k := WTy.bytes w.f.ty
  let f := fun bs => some (wrapTo (WTy.ity w.f.ty) (leNat bs))
  match w.f.space with
  | .tcm => f ((s.tileN n).tcmRd (x.tcmPa w.addr.toNat) k)
  | .csp => f (readBytes (s.clus (clusOf n)).csp (s.cspPa n c w.addr.toNat) k)
  | .glb => match s.leafOf x.tenant w.addr.toNat with
    | .leaf _ l e b => if leafRes e then f (s.memRd (b + w.addr.toNat % (if l = 1 then 2097152 else 65536)) k) else none
    | .fault _ => none
def Watch.sat (w : Watch) (v : Word) : Bool := ccHolds w.f.cc (srcVal (WTy.ity w.f.ty) v) (srcVal (WTy.ity w.f.ty) w.val)
/-- Cycles between a tile and the home of a watched word: half of the unloaded access (R385); none for TCM and CSP. (DEDUCED, log 20.) -/
def State.watchDelay (s : State) (n : Nat) (tenant : BitVec 4) (w : Watch) : Nat :=
  match w.f.space with
  | .glb => match s.leafOf tenant w.addr.toNat with | .leaf _ _ _ b => homeL (dieOf n) ((memHome b).getD 1) / 2 | .fault _ => 0
  | _ => 0
/-- A home that finds a condition to hold notifies once and disarms. -/
def State.fireWatch (s : State) (n : Nat) (c : Fin 8) (w : Watch) : State :=
  if !w.sent || w.note.isSome then s
  else match s.watchWord n c w with
    | none => s
    | some v =>
      if w.sat v then
        let k := s.watchDelay n ((s.tileN n).ctx c).tenant w
        let s := s.modTile n fun t => t.modCtx c fun x =>
          { x with watches := x.watches.map fun y => if y.pred = w.pred then { y with note := some v, due := s.clock + k } else y }
        if k = 0 then s.atEnd (.watchNotify n c w.pred w.f.dst v) else s.later k (.watchNotify n c w.pred w.f.dst v)
      else s
/-- Tiles that differ from a tile at reset. -/
def State.tileIds (s : State) : List Nat := sinsert (s.others.map (·.1)) s.cur
def State.allTiles (s : State) : List (Nat × Tile) := s.tileIds.map fun n => (n, s.tileN n)
/-- A watch that `unwatch` has disarmed in this cycle still hears of a write of the cycle at a home that notifies at once (R150). -/
def State.fireOff (s : State) (n : Nat) : State :=
  let r := (s.tileN n).last
  match r.off with
  | none => s
  | some w =>
    if r.cyc ≠ s.clock ∨ !w.sent ∨ w.note.isSome ∨ s.watchDelay n ((s.tileN n).ctx r.ctx).tenant w ≠ 0 then s
    else match s.watchWord n r.ctx w with
      | none => s
      | some v =>
        if w.sat v then (s.modTile n fun t => { t with last := { r with off := some { w with note := some v, due := s.clock } } }).atEnd (.watchNotify n r.ctx w.pred w.f.dst v)
        else s
/-- After a write, every home evaluates the watches that have arrived at it. (DEDUCED, log 20.) -/
def State.fireWatches (s : State) : State :=
  s.tileIds.foldl (fun s n => (allCtx.foldl (fun s c =>
    ((s.tileN n).ctx c).watches.foldl (fun s w => s.fireWatch n c w) s) s).fireOff n) s

/-! ## Bytes -/

/-- Bytes of a memory as tile `n` reaches it, and whether an uncorrectable word is among them. (DEDUCED, log 78.) -/
def State.spBytes (s : State) (n : Nat) (sp : Space) (pa len : Nat) : List Byte :=
  match sp with
  | .tcm => (s.tileN n).tcmRd pa len | .csp => readBytes (s.clus (clusOf n)).csp pa len | .glb => s.memRd pa len
def State.spBad (s : State) (n : Nat) (sp : Space) (pa len : Nat) : Bool :=
  match sp with
  | .tcm => hitsWord (s.tileN n).tcmBad pa len | .csp => hitsWord (s.clus (clusOf n)).cspBad pa len
  | .glb => hitsWord s.hearth.memBad pa len
/-- A read corrects the single-bit errors it meets (R175, R263). -/
def State.spFix (s : State) (n : Nat) (sp : Space) (pa len : Nat) : State :=
  match sp with
  | .tcm => s.modTile n fun t => t.tcmCorr pa len | .csp => s.modClus (clusOf n) fun k => k.corr pa len | .glb => s
/-- A write, and the watches that see it. -/
def State.spWrite (s : State) (n : Nat) (sp : Space) (pa : Nat) (bs : List Byte) : State :=
  State.fireWatches (match sp with
    | .tcm => s.modTile n fun t => t.tcmWr pa bs | .csp => s.modClus (clusOf n) fun k => k.wr pa bs | .glb => s.memWr pa bs)

/-! ## Values -/

def Sz.bytes : Sz → Nat | .n8 => 1 | .n16 => 2 | .n32 => 4 | .i64 => 8 | .i8 => 1 | .i16 => 2 | .i32 => 4
def Sz.ity : Sz → ITy | .n8 => .n8 | .n16 => .n16 | .n32 => .n32 | .i64 => .i64 | .i8 => .i8 | .i16 => .i16 | .i32 => .i32
def StSz.bytes : StSz → Nat | .n8 => 1 | .n16 => 2 | .n32 => 4 | .i64 => 8
def LdDst.bytes : LdDst → Nat | .w z _ => Sz.bytes z | .p _ => 16
def StSrc.bytes : StSrc → Nat | .w z _ => StSz.bytes z | .p _ => 16
def LdDst.hard : LdDst → Bool | .w _ d => sdHard d | .p _ => false
/-- A loaded value, extended as SZ states (R237). -/
def ldWr (d : LdDst) (bs : List Byte) : List Wr :=
  match d with
  | .w z d => wrS d (clean (wrapTo (Sz.ity z) (leNat bs)))
  | .p d => wrP2 d (clean (BitVec.ofNat 128 (leNat bs)))
def ldBad (d : LdDst) (pl : Word) : List Wr :=
  match d with
  | .w _ d => wrS d (poisoned pl) | .p d => wrP2 d (poisoned pl)
/-- A store's bytes and the payload of a poisoned source. -/
def State.stVal (s : State) (a : StSrc) : List Byte × Option Word :=
  match a with
  | .w z a => (leBytes (StSz.bytes z) (s.ss a).bits.toNat, (s.ss a).payload)
  | .p a => (leBytes 16 (s.ps a).bits.toNat, (s.ps a).payload)
/-- The new word of a read-modify-write (R238). -/
def RmwOp.new (o : RmwOp) (w a : Word) : Word :=
  match o with
  | .add => w + a | .fxadd => w + a
  | .min => if w.toInt ≤ a.toInt then w else a | .max => if w.toInt ≥ a.toInt then w else a
  | .and => w &&& a | .or => w ||| a | .xor => w ^^^ a | .swap => a
def MemOp.isStore : MemOp → Bool | .st _ => true | .scat _ _ => true | _ => false
def MemOp.isLoad : MemOp → Bool | .ld _ => true | .vld _ => true | .gath _ _ => true | _ => false
/-- 0 read, 1 write, 2 atomic (R313, R368). -/
def MemOp.kind (o : MemOp) : Nat := if o.isLoad then 0 else if o.isStore then 1 else 2

/-! ## Performing an access -/

/-- What an access gives its operation: results, the payload of a poisoned result, whether that goes to a predicate or system
register, the result condition. -/
structure MRes where
  wr : List Wr
  pl : Option Word
  hard : Bool
  rc : Option Bool
deriving DecidableEq, Repr
def MRes.nil : MRes := { wr := [], pl := none, hard := false, rc := none }

/-- The byte ranges of an access: one, or two where it crosses a page (R363). -/
def MemAcc.segs (m : MemAcc) : List (Nat × Nat) :=
  match m.pa with
  | [] => []
  | [p] => [(p, m.size)]
  | p :: q :: _ => let k := 65536 - p % 65536; [(p, k), (q, m.size - k)]
/-- Bytes of the access, with what each word held when it was performed alone. -/
def MemAcc.overlay (m : MemAcc) (bs : List Byte) : List Byte :=
  if m.part.isEmpty then bs
  else bs.zipIdx.map fun x =>
    let p := m.addr.toNat + x.2
    match m.part.find? (fun w => w.1 == p / 8) with | some w => w.2.getD (p % 8) x.1 | none => x.1
def State.accBytes (s : State) (n : Nat) (m : MemAcc) : List Byte := m.overlay (m.segs.flatMap fun x => s.spBytes n m.sp x.1 x.2)
def State.accBad (s : State) (n : Nat) (m : MemAcc) : Bool := m.segs.any fun x => s.spBad n m.sp x.1 x.2
def State.accFix (s : State) (n : Nat) (m : MemAcc) : State := m.segs.foldl (fun s x => s.spFix n m.sp x.1 x.2) s
def State.accWrite (s : State) (n : Nat) (m : MemAcc) (bs : List Byte) : State :=
  match m.segs with
  | [(p, k)] => s.spWrite n m.sp p (if m.part.isEmpty then bs else (bs.zip (s.spBytes n m.sp p k)).zipIdx.map fun x =>
      if m.part.any (fun w => w.1 == (m.addr.toNat + x.2) / 8) then x.1.2 else x.1.1)
  | [(p, k), (q, _)] => (s.spWrite n m.sp p (bs.take k)).spWrite n m.sp q (bs.drop k)
  | _ => s
/-- Offsets of a gather or scatter: 64 n32 elements (R239). -/
def idxOffs (x : VWord) : List Nat := (splitV 32 x).map (·.toNat)
/-- The address of element `o` beside the base. (DEDUCED, log 26.) -/
def MemAcc.elemPa (m : MemAcc) (o : Nat) : Nat := (m.addr + o).toNat

/-- Perform the access of an operation of tile `n` at its home. Writes of a trapped context are discarded (R159). (DEDUCED, log 78.) (DEDUCED, log 92.) -/
def State.perform (s : State) (n : Nat) (o : Op) (m : MemAcc) : State × MRes :=
  let e : Env := { die := dieOf n, tile := tileIn n, cyc := s.clock }
  let pl := mkPayload causeEcc o.slot.toNat o.ctx e o.fired
  let dead := ((s.tileN n).ctx o.ctx).dead s.clock
  match m.op with
  | .ld d =>
    if s.accBad n m then (s.accFix n m, { wr := ldBad d pl, pl := some pl, hard := LdDst.hard d, rc := none })
    else (s.accFix n m, { wr := ldWr d (s.accBytes n m), pl := none, hard := false, rc := some (leNat (s.accBytes n m) != 0) })
  | .vld d =>
    if s.accBad n m then (s.accFix n m, { wr := wrV d (poisoned pl), pl := some pl, hard := false, rc := none })
    else (s.accFix n m, { wr := wrV d (clean (BitVec.ofNat 2048 (leNat (s.accBytes n m)))), pl := none, hard := false,
                          rc := some (leNat (s.accBytes n m) != 0) })
  | .st bs => (if dead then s else s.accWrite n m bs, .nil)
  | .atom d op a =>
    if s.accBad n m then (s.accFix n m, { wr := wrS d (poisoned pl), pl := some pl, hard := sdHard d, rc := none })
    else
      let w : Word := BitVec.ofNat 64 (leNat (s.accBytes n m))
      (if dead then s else (s.accFix n m).accWrite n m (leBytes 8 (RmwOp.new op w a).toNat),
        { wr := wrS d (clean w), pl := none, hard := false, rc := some (w != 0) })
  | .cas d c x =>
    if s.accBad n m then (s.accFix n m, { wr := wrS d (poisoned pl), pl := some pl, hard := sdHard d, rc := none })
    else
      let w : Word := BitVec.ofNat 64 (leNat (s.accBytes n m))
      (if dead || w != c then s.accFix n m else (s.accFix n m).accWrite n m (leBytes 8 x.toNat),
        { wr := wrS d (clean w), pl := none, hard := false, rc := some (w == c && w != x) })
  | .binc d b =>
    if s.accBad n m then (s.accFix n m, { wr := wrS d (poisoned pl), pl := some pl, hard := sdHard d, rc := none })
    else
      let w : Word := BitVec.ofNat 64 (leNat (s.accBytes n m))
      let up := decide (w.toNat < b.toNat)
      (if dead || !up then s.accFix n m else (s.accFix n m).accWrite n m (leBytes 8 (w.toNat + 1)),
        { wr := wrS d (clean w), pl := none, hard := false, rc := some up })
  | .gath d ix =>
    if (idxOffs ix).any (fun i => s.spBad n m.sp (m.elemPa i) 4) then
      ((idxOffs ix).foldl (fun s i => s.spFix n m.sp (m.elemPa i) 4) s, { wr := wrV d (poisoned pl), pl := some pl, hard := false, rc := none })
    else
      let v := joinV 32 ((idxOffs ix).map fun i => BitVec.ofNat 64 (leNat (s.spBytes n m.sp (m.elemPa i) 4)))
      ((idxOffs ix).foldl (fun s i => s.spFix n m.sp (m.elemPa i) 4) s, { wr := wrV d (clean v), pl := none, hard := false, rc := some (v != 0) })
  | .scat ix a =>
    (if dead then s
     else ((idxOffs ix).zip (splitV 32 a)).foldl (fun s x => s.spWrite n m.sp (m.elemPa x.1) (leBytes 4 x.2.toNat)) s, .nil)

/-- The operation once its access has been performed. -/
def Op.performed (o : Op) (r : MRes) : Op := { o with act := .plain, wr := r.wr, poison := r.pl, hard := r.hard, rc := r.rc }

/-! ## Order (R324 to R329) -/

def scopeHolds (sc : Scope) : Bool := sc != .ctx
/-- A pending access is an acquire, or the operation is a fence: it holds later-fired covered accesses of its context. The completion of a pod
barrier and the answer to a `tstatus` are acquires too (R338, R380). (DEDUCED, log 27.) -/
def Op.acquires (o : Op) : Bool :=
  match o.act with
  | .mem m => (m.ord == .acq || m.ord == .ar) && scopeHolds m.scope
  | .fence sc => scopeHolds sc
  | .group i _ => (match i with | .pbar _ _ => true | _ => false)
  | .req i _ => (match i with | .tstatus _ _ => true | _ => false)
  | _ => false
/-- An acquire at cluster scope: a get that has no slot yet, a wait for a cluster barrier (R266, R273, R338). -/
def Op.acqClus (o : Op) : Bool :=
  match o.act with
  | .bget _ _ _ _ _ => true
  | .cbar _ _ _ _ => true
  | _ => false
/-- An acquire holds later engine commands too; a fence does not (R328, R369). (DEDUCED, log 27.) -/
def Op.acquiresEng (o : Op) : Bool := match o.act with | .fence _ => false | _ => o.acquires || o.acqClus
/-- Covered accesses that are not yet performed (R327). (DEDUCED, log 27.) -/
def Op.covered (o : Op) : Bool :=
  match o.act with
  | .mem _ => true
  | .bput _ _ _ _ _ _ _ => true
  | .bget _ _ _ _ _ => true
  | .claim _ _ _ _ _ _ => true
  | .rsend _ _ _ _ => true
  | .req i _ => match i with | .tdec _ => true | .rdec _ _ => true | _ => false
  | _ => !o.room.isEmpty
def MemAcc.overlaps (a b : MemAcc) : Bool :=
  match a.sp, b.sp with
  | .tcm, .tcm => true
  | .csp, .csp => decide (a.addr < b.addr + b.size ∧ b.addr < a.addr + a.size)
  | .glb, .glb => decide (a.addr / 64 ≤ (b.addr + b.size - 1) / 64 ∧ b.addr / 64 ≤ (a.addr + a.size - 1) / 64)
  | _, _ => false
/-- Earlier-fired operations that have not written back. -/
def Tile.before (t : Tile) (id : Nat) : List Op := t.ops.filter fun o => decide (o.id < id)
/-- Every earlier-fired covered access of the context is performed, and every entry sent before has arrived (R328, R329). (DEDUCED, log 27.) -/
def Tile.settled (t : Tile) (o : Op) : Bool :=
  ((t.before o.id).all fun p => !(p.ctx == o.ctx && p.covered)) && o.ents.all (fun x => x.2 == 0)
  && t.nlink.toList.all (fun l => l.all fun x => x.ctx != o.ctx || decide (o.id < x.op))
  && t.away.all (fun a => a.ctx != o.ctx || (decide (o.id < a.id) && !a.before.contains o.id))
/-- TCM bytes that a buffer request of FORM 0 has still to read or write. -/
def Act.bufTcm : Act → Bool
  | .claim _ _ bs wr _ _ => !wr && !bs.isEmpty | .bput _ _ _ none _ _ _ => true | .bget (.tcm _ _) _ _ _ _ => true | _ => false
/-- An access must wait for an acquire or a fence of its context, for a buffer request of the context to the same memory, or, as a release, for everything
fired before. (DEDUCED, log 27.) -/
def Tile.ordHeld (t : Tile) (o : Op) (m : MemAcc) : Bool :=
  ((t.before o.id).any fun p => p.ctx == o.ctx && (p.acquires || (m.sp != .glb && p.acqClus) || (m.sp == .tcm && p.act.bufTcm)))
  || ((m.ord == .rel || m.ord == .ar) && scopeHolds m.scope && !t.settled o)
/-- The class of its packet: the data of a vector store makes it longer than two flits (R300). -/
def MemAcc.cls (m : MemAcc) : Nat := match m.op with | .st bs => if 40 < bs.length then 0 else 2 | _ => 2
/-- `p` is an access to the same bytes or line (R240, R304, R324) that has not left in the same class. (DEDUCED, log 27.) -/
def Op.clashes (o p : Op) (m : MemAcc) : Bool :=
  match p.act with | .mem q => q.overlaps m && (m.sp != .csp || p.ctx == o.ctx) && !(m.sp == .glb && q.sent && !q.pa.isEmpty && q.cls == m.cls) | _ => false
/-- An access must wait: for an earlier access of the tile to the same bytes or line, or for the order of its context. (DEDUCED, log 27.) -/
def Tile.held (t : Tile) (o : Op) (m : MemAcc) : Bool := ((t.before o.id).any fun p => o.clashes p m) || t.ordHeld o m
/-- The pending acquires of a context, which an engine command fired now follows. -/
def Tile.acqIds (t : Tile) (c : Fin 8) : List Nat := (t.ops.filter fun o => o.ctx == c && o.acquiresEng).map (·.id)
def Tile.holdIds (t : Tile) (c : Fin 8) : List Nat := (t.ops.filter fun o => o.ctx == c && (o.acquires || o.acqClus)).map (·.id)
/-- An acquire at cluster scope of the context that was fired before operation `o` is pending: it holds what `o` sends into the cluster (R338). -/
def Tile.clusHeld (t : Tile) (o : Op) : Bool := (t.before o.id).any fun p => p.ctx == o.ctx && p.acqClus
def Tile.pendingIds (t : Tile) (ids : List Nat) : Bool := t.ops.any fun o => ids.contains o.id

end Sys2Proof.Machine
end

