-- ==== Sys2Proof/Machine/Control.lean ====
section
/-! DEFINITION. Ending, parking and waiting (R143 to R153). -/

namespace Sys2Proof.Machine
open Sys2Proof

/-- Set why the firing context ends; a stop already taken stands. -/
def State.endWith (s : State) (e : Ending) : State :=
  s.onTile fun t => t.modCtx s.fire.ctx fun c => match c.ctl.ending with | .none => c.setCtl { c.ctl with ending := e } | _ => c
def execDone (code : BitVec 8) (s : State) : Out3 := s.fireOp (.done code) (.ed fun t => t.endWith (.done code))
/-- R144. -/
def execYield (s : State) : Out3 :=
  s.fireOp .yield (.ed fun t => t.onTile fun x => x.modCtx s.fire.ctx fun c => c.setCtl { c.ctl with yielded := true })
/-- R145. -/
def execHandover (s : State) : Out3 := s.fireOp .handover (.ed State.takeHand)
/-- R146: poison of A does not change the cause. -/
def execTrap (a : SSrc) (code : BitVec 16) (s : State) : Out3 :=
  let v := s.ss a
  s.fireOp (.trap a code) (.ed fun t => t.onTile fun x => x.modCtx s.fire.ctx fun c =>
    c.stop { s.cause 0x11#8 with payload := v.bits, pmark := v.pois, code := code })
/-- R147. -/
def execSleep (n : BitVec 16) (s : State) : Out3 :=
  s.fireOp (.sleep n) (.ed fun t => t.onTile fun x => x.modCtx s.fire.ctx fun c =>
    c.setCtl { c.ctl with asleep := some ⟨if n = 0 then none else some (s.clock + n.toNat)⟩ })

/-- The address of a watch is legal: inside its space, aligned, and mapped (R149). -/
def State.watchOk (s : State) (w : WatchF) (a : Word) : Bool :=
  let k := WTy.bytes w.ty
  a.toNat % k == 0 &&
  match w.space with
  | .tcm => s.fctx.tcmOk a.toNat k
  | .csp => s.cspOk s.cur s.fire.ctx a.toNat k
  | .glb => match s.leafOf s.fctx.tenant a.toNat with | .leaf _ _ _ _ => true | .fault _ => false
/-- Arm a watch on a predicate, replacing the one that is armed. -/
def Ctx.arm (c : Ctx) (w : Watch) : Ctx := { c with watches := (c.watches.filter fun x => x.pred != w.pred) ++ [w] }
def Ctx.disarm (c : Ctx) (p : PReg) : Ctx := { c with watches := c.watches.filter fun x => x.pred != p }
def execWatch (w : WatchF) (d : PReg) (a b : SSrc) (s : State) : Out3 :=
  s.fireOp (.watch w d a b)
    (match firstPois [(s.ss a).payload, (s.ss b).payload] with
     | some pl => .trap (s.ptrapAt (s.ss a) pl)
     | none =>
       if s.watchOk w (s.ss a).bits then
         { Iss.zero with
           now := [.p d false]
           edit := fun t =>
             let x : Watch := { pred := d, f := w, addr := (s.ss a).bits, val := (s.ss b).bits, sent := false, due := 0, note := none }
             let k := s.watchDelay s.cur s.fctx.tenant x
             (t.onTile fun y => y.modCtx s.fire.ctx fun c => c.arm { x with due := s.clock + k }).later k (.watchArm s.cur s.fire.ctx d) }
       else .trap { s.cause 0x13#8 with loc := (s.ss a).bits })
/-- R150. -/
def execUnwatch (d : PReg) (s : State) : Out3 :=
  s.fireOp (.unwatch d) (.ed fun t => t.onTile fun x =>
    let r := x.recent s.clock s.fire.ctx
    { (x.modCtx s.fire.ctx fun c => c.disarm d) with last := { r with off := (x.ctx s.fire.ctx).watches.find? fun w => w.pred == d } })

/-- A fault of the task comes before any other end of a context; another end leaves one that is already taken (R19). (DEDUCED, log 16.) -/
def Ending.yields (old new : Ending) : Bool :=
  match new, old with | .stop _, .stop _ => false | .stop _, _ => true | _, .none => true | _, _ => false
def CSt.endable (c : CSt) (e : Ending) : Bool :=
  match c with
  | .running => true | .shadow => true | .stopped => true
  | .saved => (match e with | .stop _ => true | _ => false) | .migrating => (match e with | .stop _ => true | _ => false)
  | _ => false
/-- Every context of a task stops at a rule boundary, to be saved or because the task faults (R19, R152, R428, R438). (DEDUCED, log 16.) -/
def Tile.endTask (t : Tile) (r : TRef) (e : Ending) : Tile :=
  allCtx.foldl (fun t c =>
    if (t.ctx c).task == some r && (t.ctx c).ctl.ending.yields e && (t.ctx c).st.endable e then
      t.modCtx c fun x => x.setCtl { x.ctl with ending := e, asleep := none }
    else t) t
/-- The tiles on which a task is placed. -/
def State.seatTiles (s : State) (die idx : Nat) : List Nat := (s.trec die idx).seats.map (·.tile)
def sameRec (r q : TRef) : Bool := r.die == q.die && r.idx == q.idx
/-- Every context of the record, or of one copy of a twin, on every tile of it. -/
def State.endRec (s : State) (die idx : Nat) (copy : Option Nat) (e : Ending) : State :=
  (s.seatTiles die idx).foldl (fun s n => s.modTile n fun t =>
    allCtx.foldl (fun t c => match (t.ctx c).task with
      | some r => if r.die = die ∧ r.idx = idx ∧ copy.all (· == r.copy) then t.endTask r e else t
      | none => t) t) s
/-- R152: a `nop` unless the record sets the debug flag; then the context fires no further rule, and the task is saved and held. -/
def execBkpt (code : BitVec 16) (s : State) : Out3 :=
  s.fireOp (.bkpt code)
    (match s.tile.taskOf s.fctx with
     | some k =>
       if k.debug then .ed fun t =>
         (t.onTile fun x => x.modCtx s.fire.ctx fun c => c.stop { s.cause 0x12#8 with code := code }).atEnd (.holdTask k.ref.die k.ref.idx true)
       else .zero
     | none => .zero)

end Sys2Proof.Machine
end

