-- ==== Sys2Proof/Machine/Channel.lean ====
section
/-! DEFINITION. Channel and presence instructions (R134 to R142, R153). -/

namespace Sys2Proof.Machine
open Sys2Proof

/-! ## Widths -/

def XSrc.wid : XSrc → BitVec 2 | .s _ => 0 | .pair _ => 1 | .k _ => 2 | .v _ => 3
def XDst.wid : XDst → BitVec 2 | .s _ => 0 | .pair _ => 1 | .k _ => 2 | .v _ => 3
/-- Bits of one entry of a width code (R21). -/
def widBits (w : BitVec 2) : Nat := match w.toNat with | 0 => 64 | 1 => 128 | 2 => 256 | _ => 512
def cutTo (w : BitVec 2) (x : EWord) : EWord := BitVec.ofNat 512 (x.toNat % 2 ^ widBits w)

/-! ## recv and peek (R136) -/

/-- What entries that are moved into a destination write: results, payload of poison, whether it goes to a system register, the result
condition. -/
def moveTo (d : XDst) (es : List Entry) : MRes :=
  let pl := (es.find? (·.p)).map fun e => e.data.setWidth 64
  let nz := es.any fun e => cutTo (XDst.wid d) e.data != 0
  let fwd := fun c : Chan => [Wr.eg c (es.map fun e => { data := cutTo (XDst.wid d) e.data, tag := e.tag, w := XDst.wid d, p := e.p })]
  let one := fun w => match es with | e :: _ => entVal e w | [] => clean 0
  match d with
  | .s (.chan c) => { wr := fwd c, pl := pl, hard := false, rc := some nz }
  | .s d => { wr := wrS d (one 64), pl := pl, hard := sdHard d, rc := some nz }
  | .pair (.chan c) => { wr := fwd c, pl := pl, hard := false, rc := some nz }
  | .pair d => { wr := wrP2 d (one 128), pl := pl, hard := false, rc := some nz }
  | .k (.chan c) => { wr := fwd c, pl := pl, hard := false, rc := some nz }
  | .k d => { wr := wrK d (one 256), pl := pl, hard := false, rc := some nz }
  | .v (.chan c) => { wr := fwd c, pl := pl, hard := false, rc := some nz }
  | .v d => { wr := wrV d (vecOfEntries es), pl := pl, hard := false, rc := some nz }
/-- A blocking form: a poisoned value has no condition (R153). -/
def MRes.iss (r : MRes) : Iss :=
  { Iss.zero with wr := r.wr, poison := r.pl, hard := r.hard, rc := if r.pl.isSome then none else r.rc }
/-- A twin that takes place: the status is written whatever is moved (R113, R153). A poisoned value for a system register stops the context;
the status is then written beside the stop. -/
def MRes.twin (r : MRes) (pc : PReg) : Iss :=
  if r.hard && r.pl.isSome then { Iss.zero with wr := r.wr, poison := r.pl, hard := true, rc := some true, now := [.p pc true] }
  else { Iss.zero with wr := r.wr ++ [.p pc true], rc := some true }
/-- A twin that does not take place. -/
def twinNo (pc : PReg) : Iss := Iss.put [.p pc false] false

def State.heads (s : State) (a : Chan) (n : Nat) : List Entry := (s.fctx.inb[a]).take n
def execRecv (d : XDst) (a : Chan) (s : State) : Out3 :=
  s.fireOp (.recv d a) { (moveTo d (s.heads a (XDst.n d))).iss with edit := fun t => t.dequeue s.fire.ctx a (XDst.n d) }
def execTryrecv (d : XDst) (a : Chan) (pc : PReg) (s : State) : Out3 :=
  s.fireOp (.tryrecv d a pc)
    (if (s.fctx.inb[a]).length < XDst.n d then twinNo pc
     else { (moveTo d (s.heads a (XDst.n d))).twin pc with edit := fun t => t.dequeue s.fire.ctx a (XDst.n d) })
def execPeek (d : XDst) (a : Chan) (s : State) : Out3 := s.fireOp (.peek d a) (moveTo d (s.heads a (XDst.n d))).iss
def execTrypeek (d : XDst) (a : Chan) (pc : PReg) (s : State) : Out3 :=
  s.fireOp (.trypeek d a pc)
    (if (s.fctx.inb[a]).length < XDst.n d then twinNo pc else (moveTo d (s.heads a (XDst.n d))).twin pc)

/-! ## send (R137) -/

/-- The value of a source as entries without a tag, and the payload of poison. -/
def State.xval (s : State) (a : XSrc) : List Entry × Option Word :=
  match a with
  | .s a => ([mkEntry (s.ss a).num 0#2 0#8 (s.ss a).pois], (s.ss a).payload)
  | .pair a => ([mkEntry (s.ps a).num 1#2 0#8 (s.ps a).pois], (s.ps a).payload)
  | .k a => ([mkEntry (s.ks a).num 2#2 0#8 (s.ks a).pois], (s.ks a).payload)
  | .v a => (vecEntries (s.vs a) 0#8, (s.vs a).payload)
/-- DEDUCED, log 15. -/
def State.tagOf (s : State) (t : TagSrc) : BitVec 8 := match t with | .imm t => t | .reg b => (s.ss b).bits.setWidth 8
def State.tagPl (s : State) (t : TagSrc) : Option Word := match t with | .imm _ => none | .reg b => (s.ss b).payload
/-- The entries that a send appends: all poisoned when a source is (R113, R157). -/
def State.sendEntries (s : State) (a : XSrc) (t : TagSrc) : List Entry × Option Word :=
  let x := s.xval a
  let pl := firstPois [x.2, s.tagPl t]
  (x.1.map fun e =>
    match pl with
    | some p => { e with data := p.setWidth 512, p := true, tag := s.tagOf t }
    | none => { e with tag := s.tagOf t }, pl)
/-- `send` (R133, R153). A poisoned value with a predicate write from source 10 gives no condition: the predicate trap of R113 item 5 is taken and nothing is
written to the predicate. (DESIGN CHOICE, log 88.) -/
def execSend (d : Chan) (a : XSrc) (t : TagSrc) (s : State) : Out3 :=
  let x := s.sendEntries a t
  s.fireOp (.send d a t) { Iss.zero with wr := [.eg d x.1], poison := x.2, rc := if x.2.isSome then none else some true }
def execTrysend (d : Chan) (a : XSrc) (t : TagSrc) (pc : PReg) (s : State) : Out3 :=
  let x := s.sendEntries a t
  s.fireOp (.trysend d a t pc)
    (if s.tile.egFree s.fire.ctx d < XSrc.n a then twinNo pc
     else { Iss.zero with wr := [.eg d x.1, .p pc true], rc := some true, room := [(d, XSrc.n a)] })

/-! ## Tags, resets, presence, counts (R139 to R142) -/

def execTagh (d : SDst) (a : Chan) (s : State) : Out3 :=
  let e := (s.fctx.head a 0).getD Entry.zero
  let w : Word := BitVec.ofNat 64 (e.tag.toNat + at_ 8 (b2n e.p) + at_ 9 (s.fctx.ib[a]).gen.toNat)
  s.fireOp (.tagh d a) (Iss.put (wrS d (clean w)) (e.tag != 0))
/-- Issue no further element. (DEDUCED, log 23.) -/
def Strm.stopIssue (g : Strm) : Strm :=
  if g.st == .run then (if g.stall then { g with halt := true } else { g with st := .conf }) else g
/-- The read streams that feed a channel issue no further element; one that is issued is discarded on its arrival (R234). (DEDUCED, log 23.) -/
def Tile.stopFeed (t : Tile) (c : Fin 8) (ch : Chan) : Tile :=
  { t with strm := t.strm.map fun g =>
      if g.st == .run && g.ctx == c && nfld g.desc.toNat 66 1 == 0 && nfld g.desc.toNat 67 4 == ch.val then { g.stopIssue with lose := g.stall } else g }
/-- Discard every entry, return the credits, advance the generation (R140). (DEDUCED, log 18.) -/
def State.chReset (s : State) (c : Fin 8) (a : Chan) : State :=
  let s := s.dequeue c a ((s.tile.ctx c).inb[a]).length
  let r := s.tile.recent s.clock c
  let gen := ((s.tile.ctx c).ib[a]).gen
  s.onTile fun t => { ((t.modCtx c fun x => { x with ib := x.ib.set a { x.ib[a] with gen := gen + 1 } }).stopFeed c a) with
                      last := { r with reset := some (a, gen, (s.fire.pws.filter pwIsRc).map (·.p)) } }
def execChreset (a : Chan) (s : State) : Out3 :=
  s.fireOp (.chreset a) { Iss.put [] (!(s.fctx.inb[a]).isEmpty) with edit := fun t => t.chReset s.fire.ctx a }
/-- Presence before the fire: CLR on the same register has been applied by now. -/
def State.presence (s : State) (d : PresReg) : Bool :=
  match s.fire.clr with
  | some (r, b) => if r = d then b else s.fctx.regs.full d
  | none => s.fctx.regs.full d
def State.setPres (s : State) (d : PresReg) (b : Bool) : State :=
  s.onTile fun t => t.modCtx s.fire.ctx fun c => c.setRegs (c.regs.setFull d b)
def execPset (d : PresReg) (s : State) : Out3 := s.fireOp (.pset d) { Iss.put [] (s.presence d) with edit := fun t => t.setPres d true }
def execPclr (d : PresReg) (s : State) : Out3 := s.fireOp (.pclr d) { Iss.put [] (s.presence d) with edit := fun t => t.setPres d false }
def execChcount (d : SDst) (a : Chan) (s : State) : Out3 :=
  let n := (s.fctx.inb[a]).length
  s.fireOp (.chcount d a) (Iss.put (wrS d (clean (BitVec.ofNat 64 n))) (n != 0))
def execChfree (d : SDst) (a : Chan) (s : State) : Out3 :=
  let n := s.tile.egFree s.fire.ctx a
  s.fireOp (.chfree d a) (Iss.put (wrS d (clean (BitVec.ofNat 64 n))) (n != 0))

end Sys2Proof.Machine
end

