-- ==== Sys2Proof/Machine/Float.lean ====
section
/-! DEFINITION. Scalar floating point, conversions and the flag instructions (R126 to R132). -/

namespace Sys2Proof.Machine
open Sys2Proof

/-- The arithmetic environment under an RM, with the modes as they stand at the fire (R98, R102, R104). -/
def State.fenv (s : State) (r : Rm) : FEnv := { r := rndOf r s.amode, fz := s.amode.fz, srng := s.fctx.regs.srng }
/-- SRNG after an operation: written only by stochastic rounding (R100). -/
def FEnv.out (v : FEnv) (x : BitVec 32) : Option (BitVec 32) := if v.r == .rs then some x else none

/-- A floating-point result: zero when it is ±0 (R114). (DEDUCED, log 15.) -/
def State.fIss (s : State) (d : SDst) (ps : List (Option Word)) (v : FEnv) (f : FFmt) (r : FRes) : Iss :=
  s.sIss d ps false r.fl (v.out r.srng) (BitVec.ofNat 64 r.bits) (!zeroF f (BitVec.ofNat 64 r.bits))
def State.f1 (s : State) (d : SDst) (a : SSrc) (v : FEnv) (f : FFmt) (op : Word → FRes) : Iss :=
  s.fIss d [(s.ss a).payload] v f (op (s.ss a).bits)
def State.f2 (s : State) (d : SDst) (a b : SSrc) (v : FEnv) (f : FFmt) (op : Word → Word → FRes) : Iss :=
  s.fIss d [(s.ss a).payload, (s.ss b).payload] v f (op (s.ss a).bits (s.ss b).bits)

def execFadd (t : FTy) (rm : Rm) (d : SDst) (a b : SSrc) (s : State) : Out3 :=
  s.fireOp (.fadd t rm d a b) (s.f2 d a b (s.fenv rm) (fmtOf t) (fAdd t (s.fenv rm)))
def execFsub (t : FTy) (rm : Rm) (d : SDst) (a b : SSrc) (s : State) : Out3 :=
  s.fireOp (.fsub t rm d a b) (s.f2 d a b (s.fenv rm) (fmtOf t) (fSub t (s.fenv rm)))
def execFmul (t : FTy) (rm : Rm) (d : SDst) (a b : SSrc) (s : State) : Out3 :=
  s.fireOp (.fmul t rm d a b) (s.f2 d a b (s.fenv rm) (fmtOf t) (fMul t (s.fenv rm)))
def execFdiv (t : FTy) (rm : Rm) (d : SDst) (a b : SSrc) (s : State) : Out3 :=
  s.fireOp (.fdiv t rm d a b) (s.f2 d a b (s.fenv rm) (fmtOf t) (fDiv t (s.fenv rm)))
def execFsqrt (t : FTy) (rm : Rm) (d : SDst) (a : SSrc) (s : State) : Out3 :=
  s.fireOp (.fsqrt t rm d a) (s.f1 d a (s.fenv rm) (fmtOf t) (fSqrt t (s.fenv rm)))
def execFfma (op : FmaOp) (t : FTy) (rm : Rm) (d : SDst) (a b c : SSrc) (s : State) : Out3 :=
  s.fireOp (.ffma op t rm d a b c)
    (s.fIss d [(s.ss a).payload, (s.ss b).payload, (s.ss c).payload] (s.fenv rm) (fmtOf t)
      (fFma op t (s.fenv rm) (s.ss a).bits (s.ss b).bits (s.ss c).bits))
/-- R127: not rounded. -/
def execFmin (t : FTy) (d : SDst) (a b : SSrc) (s : State) : Out3 :=
  s.fireOp (.fmin t d a b) (s.f2 d a b (s.fenv .rn) (fmtOf t) (fMin t (s.fenv .rn)))
def execFmax (t : FTy) (d : SDst) (a b : SSrc) (s : State) : Out3 :=
  s.fireOp (.fmax t d a b) (s.f2 d a b (s.fenv .rn) (fmtOf t) (fMax t (s.fenv .rn)))
/-- R128. -/
def execFcmp (cc : Fcc) (t : FTy) (d : PReg) (a b : SSrc) (s : State) : Out3 :=
  let r := fCmp cc t s.amode.fz (s.ss a).bits (s.ss b).bits
  s.fireOp (.fcmp cc t d a b) (s.pIss d [(s.ss a).payload, (s.ss b).payload] r.2 r.1)
/-- R129: the condition is that a is a NaN, bits 8 and 9 of the class. -/
def execFclass (t : FcTy) (d : SDst) (a : SSrc) (s : State) : Out3 :=
  let c := fClass t (s.ss a).bits
  s.fireOp (.fclass t d a) (s.sIss d [(s.ss a).payload] false fNone none (BitVec.ofNat 64 c) (decide (256 ≤ c)))

/-! ## Conversions (R130) -/

def execFcvt (dt st : FcTy) (rm : Rm) (d : SDst) (a : SSrc) (s : State) : Out3 :=
  s.fireOp (.fcvt dt st rm d a) (s.f1 d a (s.fenv rm) (fmtOfC dt) (cvtFF dt st (s.fenv rm)))
def execIcvtf (dt : FcTy) (st : ITy) (rm : Rm) (d : SDst) (a : SSrc) (s : State) : Out3 :=
  s.fireOp (.icvtf dt st rm d a) (s.f1 d a (s.fenv rm) (fmtOfC dt) (cvtIF dt st (s.fenv rm)))
/-- An integer or FX64 result with flags and SRNG. -/
def State.wIss (s : State) (d : SDst) (a : SSrc) (v : FEnv) (r : WRes) : Iss :=
  s.sIss d [(s.ss a).payload] false r.fl (v.out r.srng) r.w (r.w != 0)
def execFcvti (dt : ITy) (st : FcTy) (d : SDst) (a : SSrc) (s : State) : Out3 :=
  s.fireOp (.fcvti dt st d a) (s.wIss d a (s.fenv .dyn) (cvtFI dt st (s.fenv .dyn) (s.ss a).bits))
def execFxcvt (c : FxCvt) (d : SDst) (a : SSrc) (s : State) : Out3 :=
  s.fireOp (.fxcvt c d a)
    (match c with
     | .ofFp f t => s.wIss d a (s.fenv .dyn) (cvtFX f.val (.f t) (s.fenv .dyn) (s.ss a).bits)
     | .ofInt f t sat => s.i1 d a (cvtIX f.val t sat)
     | .toFp t f rm => s.f1 d a (s.fenv rm) (fmtOf t) (cvtXF (.f t) f.val (s.fenv rm))
     | .toInt t f sat => s.i1 d a (cvtXIfloor t f.val sat))

/-! ## Sign operations and flags (R131, R132) -/

def execFneg (t : FTy) (d : SDst) (a : SSrc) (s : State) : Out3 :=
  s.fireOp (.fneg t d a) (s.f1 d a (s.fenv .rn) (fmtOf t) (fNeg t (s.fenv .rn)))
def execFabs (t : FTy) (d : SDst) (a : SSrc) (s : State) : Out3 :=
  s.fireOp (.fabs t d a) (s.f1 d a (s.fenv .rn) (fmtOf t) (fAbs t (s.fenv .rn)))
def execFcpsgn (t : FTy) (d : SDst) (a b : SSrc) (s : State) : Out3 :=
  s.fireOp (.fcpsgn t d a b) (s.f2 d a b (s.fenv .rn) (fmtOf t) (fCpsgn t (s.fenv .rn)))
def State.flagsW (s : State) : Word := s.fctx.regs.flags.setWidth 64
def execFflag (d : SDst) (a : SSrc) (s : State) : Out3 :=
  s.fireOp (.fflag d a) (s.sIss d [(s.ss a).payload] false fNone none s.flagsW ((s.flagsW &&& (s.ss a).bits) != 0))
/-- A poisoned mask clears nothing (R113 item 1). (DEDUCED, log 15.) -/
def execFflagClr (d : SDst) (a : SSrc) (s : State) : Out3 :=
  s.fireOp (.fflagClr d a)
    (s.resIss [(s.ss a).payload] (sdHard d) (fun pl => wrS d (poisoned pl)) false fNone none
      (wrS d (clean s.flagsW) ++ [.clr ((s.ss a).bits.setWidth 6)]) ((s.flagsW &&& (s.ss a).bits) != 0))

end Sys2Proof.Machine
end

