-- ==== Sys2Proof/Machine/Vector.lean ====
section
/-! DEFINITION. Vector, mask and special-function instructions (R184 to R209). -/

namespace Sys2Proof.Machine
open Sys2Proof

/-! ## Operands under a mask (R186, R189) -/

def mskK : Msk → Option KReg | .all => none | .keep k => some k | .zero k => some k
/-- The mask's value, and the payload of a poisoned mask. -/
def State.mskBits (s : State) (m : Msk) : Option KWord := (mskK m).map fun k => (s.fctx.k k).bits
def State.mskPl (s : State) (m : Msk) : Option Word := match mskK m with | some k => (s.fctx.k k).payload | none => none
/-- What masked-off elements keep: the destination's, or zeros. -/
def State.oldV (s : State) (m : Msk) (d : VDst) (w : Nat) : List Word :=
  match m, d with
  | .keep _, .reg r => splitV w (s.fctx.v r).bits
  | _, _ => List.replicate (2048 / w) 0#64
def State.oldVPl (s : State) (m : Msk) (d : VDst) : Option Word :=
  match m, d with
  | .keep _, .reg r => (s.fctx.v r).payload
  | _, _ => none
/-- The same of a scalar destination (R186). -/
def State.oldSPl (s : State) (m : Msk) (d : SDst) : Option Word :=
  match m, d with
  | .keep _, .reg r => (s.fctx.s r).payload
  | _, _ => none
def State.act (s : State) (m : Msk) (n : Nat) : List Bool := activeBits n (s.mskBits m)
/-- The payloads in the order of R189: sources, mask, destination. -/
def State.vpls (s : State) (m : Msk) (d : VDst) (ps : List (Option Word)) : List (Option Word) := ps ++ [s.mskPl m, s.oldVPl m d]

/-- A vector result. -/
def State.vIss (s : State) (d : VDst) (ps : List (Option Word)) (w : Nat) (srng : Option (BitVec 32)) (o : VOut) : Iss :=
  s.resIss ps false (fun pl => wrV d (poisoned pl)) o.div0 o.fl srng (wrV d (clean (joinV w o.xs))) o.nz
/-- The element-wise form: up to three element lists of width `w`, results of width `w`. -/
def State.vmapIss (s : State) (m : Msk) (d : VDst) (w : Nat) (v : FEnv) (isZ : Word → Bool) (f : ElemOp) (ps : List (Option Word))
    (xs ys zs : List Word) : Iss :=
  let o := emap f isZ v (s.act m (2048 / w)) (s.oldV m d w) xs ys zs
  s.vIss d (s.vpls m d ps) w (v.out o.srng) o
def zerosOf (w : Nat) : List Word := List.replicate (2048 / w) 0#64
def State.el (s : State) (w : Nat) (a : VSrc) : List Word := splitV w (s.vs a).bits
def State.v1 (s : State) (m : Msk) (d : VDst) (a : VSrc) (w : Nat) (v : FEnv) (isZ : Word → Bool) (f : ElemOp) : Iss :=
  s.vmapIss m d w v isZ f [(s.vs a).payload] (s.el w a) (zerosOf w) (zerosOf w)
def State.v2 (s : State) (m : Msk) (d : VDst) (a b : VSrc) (w : Nat) (v : FEnv) (isZ : Word → Bool) (f : ElemOp) : Iss :=
  s.vmapIss m d w v isZ f [(s.vs a).payload, (s.vs b).payload] (s.el w a) (s.el w b) (zerosOf w)
/-- A vector and a scalar that stands for every element. -/
def State.v2s (s : State) (m : Msk) (d : VDst) (a : VSrc) (b : SSrc) (w : Nat) (v : FEnv) (isZ : Word → Bool) (f : ElemOp) : Iss :=
  s.vmapIss m d w v isZ f [(s.vs a).payload, (s.ss b).payload] (s.el w a) (List.replicate (2048 / w) (s.ss b).bits) (zerosOf w)
/-- A move of elements (R190, R196 to R200). Whether an element is zero is told from its raw bits, so that a -0 is not zero. (DESIGN CHOICE, log 89.) -/
def State.vcopy (s : State) (m : Msk) (d : VDst) (w : Nat) (ps : List (Option Word)) (xs : List Word) : Iss :=
  s.vmapIss m d w (s.fenv .rn) (zeroW w) (fun v a _ _ => (aval a).toE v) ps xs (zerosOf w) (zerosOf w)

/-! ## Arithmetic (R191 to R193) -/

def execVadd (t : VArith) (m : Msk) (d : VDst) (a b : VSrc) (s : State) : Out3 :=
  s.fireOp (.vadd t m d a b) (s.v2 m d a b (VArith.width t) (s.fenv (VArith.rm t)) (VArith.isZ t) (VArith.addOp t))
def execVsub (t : VArith) (m : Msk) (d : VDst) (a b : VSrc) (s : State) : Out3 :=
  s.fireOp (.vsub t m d a b) (s.v2 m d a b (VArith.width t) (s.fenv (VArith.rm t)) (VArith.isZ t) (VArith.subOp t))
def execVmul (t : VArith) (m : Msk) (d : VDst) (a b : VSrc) (s : State) : Out3 :=
  s.fireOp (.vmul t m d a b) (s.v2 m d a b (VArith.width t) (s.fenv (VArith.rm t)) (VArith.isZ t) (VArith.mulOp t))
def execVdiv (t : VArith) (m : Msk) (d : VDst) (a b : VSrc) (s : State) : Out3 :=
  s.fireOp (.vdiv t m d a b) (s.v2 m d a b (VArith.width t) (s.fenv (VArith.rm t)) (VArith.isZ t) (VArith.divOp t))
def execVadds (t : VArith) (m : Msk) (d : VDst) (a : VSrc) (b : SSrc) (s : State) : Out3 :=
  s.fireOp (.vadds t m d a b) (s.v2s m d a b (VArith.width t) (s.fenv (VArith.rm t)) (VArith.isZ t) (VArith.addOp t))
def execVsubs (t : VArith) (m : Msk) (d : VDst) (a : VSrc) (b : SSrc) (s : State) : Out3 :=
  s.fireOp (.vsubs t m d a b) (s.v2s m d a b (VArith.width t) (s.fenv (VArith.rm t)) (VArith.isZ t) (VArith.subOp t))
def execVmin (t : VPlain) (m : Msk) (d : VDst) (a b : VSrc) (s : State) : Out3 :=
  s.fireOp (.vmin t m d a b) (s.v2 m d a b (VPlain.width t) (s.fenv .rn) (VPlain.isZ t) (VPlain.minOp t))
def execVmax (t : VPlain) (m : Msk) (d : VDst) (a b : VSrc) (s : State) : Out3 :=
  s.fireOp (.vmax t m d a b) (s.v2 m d a b (VPlain.width t) (s.fenv .rn) (VPlain.isZ t) (VPlain.maxOp t))
def execVabs (t : VSgn) (m : Msk) (d : VDst) (a : VSrc) (s : State) : Out3 :=
  s.fireOp (.vabs t m d a) (s.v1 m d a (VSgn.width t) (s.fenv .rn) (VSgn.isZ t) (VSgn.absOp t))
def execVneg (t : VSgn) (m : Msk) (d : VDst) (a : VSrc) (s : State) : Out3 :=
  s.fireOp (.vneg t m d a) (s.v1 m d a (VSgn.width t) (s.fenv .rn) (VSgn.isZ t) (VSgn.negOp t))
def execVfma (op : FmaOp) (t : FTy) (rm : Rm) (m : Msk) (d : VDst) (a b c : VSrc) (s : State) : Out3 :=
  s.fireOp (.vfma op t rm m d a b c)
    (s.vmapIss m d t.width (s.fenv rm) (zeroF (fmtOf t)) (fun v x y z => (fFma op t v x y z).toE)
      [(s.vs a).payload, (s.vs b).payload, (s.vs c).payload] (s.el t.width a) (s.el t.width b) (s.el t.width c))
/-- An integer operation on elements. -/
def State.vint (s : State) (t : ITy) (m : Msk) (d : VDst) (a b : VSrc) (f : Word → Word → ARes) : Iss :=
  s.v2 m d a b t.width (s.fenv .rn) (zeroW t.width) fun v x y _ => (f x y).toE v
def execVand (t : ITy) (m : Msk) (d : VDst) (a b : VSrc) (s : State) : Out3 := s.fireOp (.vand t m d a b) (s.vint t m d a b (iAnd t))
def execVor (t : ITy) (m : Msk) (d : VDst) (a b : VSrc) (s : State) : Out3 := s.fireOp (.vor t m d a b) (s.vint t m d a b (iOr t))
def execVxor (t : ITy) (m : Msk) (d : VDst) (a b : VSrc) (s : State) : Out3 := s.fireOp (.vxor t m d a b) (s.vint t m d a b (iXor t))
def execVshl (t : ITy) (m : Msk) (d : VDst) (a b : VSrc) (s : State) : Out3 := s.fireOp (.vshl t m d a b) (s.vint t m d a b (iShl t))
def execVshr (t : ITy) (m : Msk) (d : VDst) (a b : VSrc) (s : State) : Out3 := s.fireOp (.vshr t m d a b) (s.vint t m d a b (iShr t))
def execVsra (t : ITy) (m : Msk) (d : VDst) (a b : VSrc) (s : State) : Out3 := s.fireOp (.vsra t m d a b) (s.vint t m d a b (iSra t))

/-! ## Comparisons and classes (R194, R195) -/

def State.oldK (s : State) (m : Msk) (d : KDst) (n : Nat) : List Bool :=
  match m, d with
  | .keep _, .reg r => bitsN n (s.fctx.k r).bits.toNat
  | _, _ => List.replicate n false
def State.oldKPl (s : State) (m : Msk) (d : KDst) : Option Word :=
  match m, d with
  | .keep _, .reg r => (s.fctx.k r).payload
  | _, _ => none
/-- A mask result of an element-wise test; the condition looks at the active bits. -/
def State.kIss (s : State) (m : Msk) (d : KDst) (n : Nat) (f : Word → Word → Bool × Fl) (ps : List (Option Word)) (xs ys : List Word) : Iss :=
  let r := kmap f (s.act m n) (s.oldK m d n) xs ys
  s.resIss (ps ++ [s.mskPl m, s.oldKPl m d]) false (fun pl => wrK d (poisoned pl)) false r.2 none
    (wrK d (clean (BitVec.ofNat 256 (boolsN r.1)))) (((s.act m n).zip r.1).any fun x => x.1 && x.2)
/-- DEDUCED, log 15. -/
def execVcmp (c : VCmp) (m : Msk) (d : KDst) (a b : VSrc) (s : State) : Out3 :=
  let w := VCmp.width c
  s.fireOp (.vcmp c m d a b)
    (s.kIss m d (2048 / w) (VCmp.test c s.amode.fz) [(s.vs a).payload, (s.vs b).payload] (s.el w a) (s.el w b))
def execVclass (t : FcTy) (m : Msk) (d : KDst) (a : VSrc) (b : SSrc) (s : State) : Out3 :=
  s.fireOp (.vclass t m d a b)
    (s.kIss m d (2048 / t.width) (fun x _ => (nfld (fClass t x) 0 10 &&& nfld (s.ss b).bits.toNat 0 10 != 0, fNone))
      [(s.vs a).payload, (s.ss b).payload] (s.el t.width a) (zerosOf t.width))

/-! ## Moves and rearrangements (R196 to R200) -/

/-- DESIGN CHOICE, log 89. -/
def execVmov (t : ETy) (m : Msk) (d : VDst) (a : VSrc) (s : State) : Out3 :=
  s.fireOp (.vmov t m d a) (s.vcopy m d t.width [(s.vs a).payload] (s.el t.width a))
def execVbcast (t : ETy) (m : Msk) (d : VDst) (a : SSrc) (s : State) : Out3 :=
  s.fireOp (.vbcast t m d a) (s.vcopy m d t.width [(s.ss a).payload] (List.replicate (2048 / t.width) (s.ss a).bits))
def execViota (t : ITy) (m : Msk) (d : VDst) (a : SSrc) (s : State) : Out3 :=
  s.fireOp (.viota t m d a)
    (s.vcopy m d t.width [(s.ss a).payload] ((List.range (2048 / t.width)).map fun i => (s.ss a).bits + BitVec.ofNat 64 i))
/-- DESIGN CHOICE, log 89. -/
def execVsel (t : ETy) (d : VDst) (a b : VSrc) (c : KSrc) (s : State) : Out3 :=
  let n := 2048 / t.width
  s.fireOp (.vsel t d a b c)
    (s.vcopy .all d t.width [(s.vs a).payload, (s.vs b).payload, (s.ks c).payload]
      (((bitsN n (s.ks c).bits.toNat).zip ((s.el t.width a).zip (s.el t.width b))).map fun x => if x.1 then x.2.1 else x.2.2))
def execVperm (t : ETy) (m : Msk) (d : VDst) (a b : VSrc) (s : State) : Out3 :=
  s.fireOp (.vperm t m d a b)
    (s.vcopy m d t.width [(s.vs a).payload, (s.vs b).payload] (vpermL (2048 / t.width) (s.el t.width a) (s.el t.width b)))
def execVrot (t : ETy) (m : Msk) (d : VDst) (a : VSrc) (b : SSrc) (s : State) : Out3 :=
  let n := 2048 / t.width
  s.fireOp (.vrot t m d a b)
    (s.vcopy m d t.width [(s.vs a).payload, (s.ss b).payload] (vrotL n ((s.ss b).bits.toNat % n) (s.el t.width a)))
/-- An element extended as R111 states for its type. -/
def ETy.ext (t : ETy) (x : Word) : Word :=
  match t with
  | .i t => Sys2Proof.Machine.ext t x
  | .f t => BitVec.ofNat 64 (low t.width x)
def ETy.isZ (t : ETy) : Word → Bool := match t with | .i _ => zeroW 64 | .f t => zeroF (fmtOfC t)
/-- DESIGN CHOICE, log 89. -/
def execVext (t : ETy) (d : SDst) (a : VSrc) (b : SSrc) (s : State) : Out3 :=
  let n := 2048 / t.width
  let x := ETy.ext t (nthW (s.el t.width a) ((s.ss b).bits.toNat % n))
  s.fireOp (.vext t d a b) (s.sIss d [(s.vs a).payload, (s.ss b).payload] false fNone none x (!ETy.isZ t x))
/-- D is the last source (R189). (DESIGN CHOICE, log 89.) -/
def execVins (t : ETy) (d : VReg) (a : SSrc) (b : SSrc) (s : State) : Out3 :=
  let n := 2048 / t.width
  let xs := (splitV t.width (s.fctx.v d).bits).set ((s.ss b).bits.toNat % n) (s.ss a).bits
  s.fireOp (.vins t d a b)
    (s.resIss [(s.ss a).payload, (s.ss b).payload, (s.fctx.v d).payload] false (fun pl => wrV (.reg d) (poisoned pl)) false fNone none
      (wrV (.reg d) (clean (joinV t.width xs))) (!zeroW t.width (s.ss a).bits))
def execVcompress (t : ETy) (d : VDst) (a : VSrc) (c : KSrc) (s : State) : Out3 :=
  let n := 2048 / t.width
  s.fireOp (.vcompress t d a c)
    (s.vcopy .all d t.width [(s.vs a).payload, (s.ks c).payload]
      (padTo n (compressL (bitsN n (s.ks c).bits.toNat) (s.el t.width a))))
def execVexpand (t : ETy) (d : VDst) (a : VSrc) (c : KSrc) (s : State) : Out3 :=
  let n := 2048 / t.width
  s.fireOp (.vexpand t d a c)
    (s.vcopy .all d t.width [(s.vs a).payload, (s.ks c).payload] (expandL (bitsN n (s.ks c).bits.toNat) (s.el t.width a)))
def execVpack (t : HTy) (sat : Bool) (m : Msk) (d : VDst) (a b : VSrc) (s : State) : Out3 :=
  let n := HTy.narrow t
  let w := HTy.wide t
  s.fireOp (.vpack t sat m d a b)
    (s.vmapIss m d n.width (s.fenv .rn) (zeroW n.width) (fun v x _ _ => (fit n sat (srcVal w x)).toE v)
      [(s.vs a).payload, (s.vs b).payload] (s.el w.width a ++ s.el w.width b) (zerosOf n.width) (zerosOf n.width))
def execVunpk (t : HTy) (m : Msk) (d : VDst) (a : VSrc) (b : SSrc) (s : State) : Out3 :=
  let n := HTy.narrow t
  let w := HTy.wide t
  let xs := (s.el n.width a).drop (2048 / w.width * ((s.ss b).bits.toNat % 2))
  s.fireOp (.vunpk t m d a b)
    (s.vmapIss m d w.width (s.fenv .rn) (zeroW w.width) (fun v x _ _ => (aval (wrapTo w (srcVal n x))).toE v)
      [(s.vs a).payload, (s.ss b).payload] (xs.take (2048 / w.width)) (zerosOf w.width) (zerosOf w.width))

/-! ## Masks (R201) -/

def State.klog (s : State) (d : KDst) (ps : List (Option Word)) (x : KWord) : Iss :=
  s.resIss ps false (fun pl => wrK d (poisoned pl)) false fNone none (wrK d (clean x)) (x != 0)
def State.k2 (s : State) (d : KDst) (a b : KSrc) (f : KWord → KWord → KWord) : Iss :=
  s.klog d [(s.ks a).payload, (s.ks b).payload] (f (s.ks a).bits (s.ks b).bits)
def execKand (d : KDst) (a b : KSrc) (s : State) : Out3 := s.fireOp (.kand d a b) (s.k2 d a b fun x y => x &&& y)
def execKor (d : KDst) (a b : KSrc) (s : State) : Out3 := s.fireOp (.kor d a b) (s.k2 d a b fun x y => x ||| y)
def execKxor (d : KDst) (a b : KSrc) (s : State) : Out3 := s.fireOp (.kxor d a b) (s.k2 d a b fun x y => x ^^^ y)
def execKandn (d : KDst) (a b : KSrc) (s : State) : Out3 := s.fireOp (.kandn d a b) (s.k2 d a b fun x y => x &&& ~~~y)
def execKnot (d : KDst) (a : KSrc) (s : State) : Out3 := s.fireOp (.knot d a) (s.klog d [(s.ks a).payload] (~~~(s.ks a).bits))
def execKmov (d : KDst) (a : KSrc) (s : State) : Out3 := s.fireOp (.kmov d a) (s.klog d [(s.ks a).payload] (s.ks a).bits)
def execKpop (d : SDst) (a : KSrc) (s : State) : Out3 :=
  s.fireOp (.kpop d a) (s.iIss d [(s.ks a).payload] (aval (BitVec.ofNat 64 (popN 256 (s.ks a).bits.toNat))))
def execKfind (d : SDst) (a : KSrc) (s : State) : Out3 :=
  s.fireOp (.kfind d a)
    (s.sIss d [(s.ks a).payload] false fNone none (BitVec.ofNat 64 (ctzN 256 (s.ks a).bits.toNat)) ((s.ks a).bits != 0))

/-! ## Reductions, dot products, scans (R202 to R205) -/

/-- The payloads of a reduction. -/
def State.rpls (s : State) (m : Msk) (d : SDst) (a : VSrc) (b : SSrc) : List (Option Word) :=
  [(s.vs a).payload, (s.ss b).payload, s.mskPl m, s.oldSPl m d]
/-- A floating-point sum, written in the accumulating format. -/
def State.sumIss (s : State) (d : SDst) (ps : List (Option Word)) (v : FEnv) (t : FTy) (r : SumOut) : Iss :=
  s.sIss d ps false r.fl (v.out r.srng) (BitVec.ofNat 64 r.bits) (!zeroF (fmtOf (accFmt t)) (BitVec.ofNat 64 r.bits))
/-- R186: with ME = 1 and MZ = 0 the destination is a source. -/
def execVredsum (t : VArith) (m : Msk) (d : SDst) (a : VSrc) (b : SSrc) (s : State) : Out3 :=
  s.fireOp (.vredsum t m d a b)
    (match t with
     | .int t sat =>
       s.iIss d (s.rpls m d a b) (fit (wide64 t) sat (srcVal t (s.ss b).bits + sumI t (s.act m (2048 / t.width)) (s.el t.width a)))
     | .fx _ sat => s.iIss d (s.rpls m d a b) (fit .i64 sat (srcVal .i64 (s.ss b).bits + sumI .i64 (s.act m 32) (s.el 64 a)))
     | .fp t rm =>
       s.sumIss d (s.rpls m d a b) (s.fenv rm) t (redsumF t (s.fenv rm) (s.act m (2048 / t.width)) (s.el t.width a) (s.ss b).bits))
/-- The initial value of a reduction in the element type. -/
def VPlain.init (t : VPlain) (b : Word) : Word :=
  match t with
  | .int t => wrapTo t (srcVal t b) | .fx _ => b | .fp t => BitVec.ofNat 64 (low t.width b)
def State.redMM (s : State) (t : VPlain) (f : ElemOp) (m : Msk) (d : SDst) (a : VSrc) (b : SSrc) : Iss :=
  let w := VPlain.width t
  let r := redGo (fun v x y => f v x y 0#64) (s.fenv .rn) (s.act m (2048 / w)) (s.el w a) (VPlain.init t (s.ss b).bits)
  s.sIss d (s.rpls m d a b) r.div0 r.fl none r.w (match t with | .fp t => !zeroF (fmtOf t) r.w | _ => r.w != 0)
def execVredmin (t : VPlain) (m : Msk) (d : SDst) (a : VSrc) (b : SSrc) (s : State) : Out3 :=
  s.fireOp (.vredmin t m d a b) (s.redMM t (VPlain.minOp t) m d a b)
def execVredmax (t : VPlain) (m : Msk) (d : SDst) (a : VSrc) (b : SSrc) (s : State) : Out3 :=
  s.fireOp (.vredmax t m d a b) (s.redMM t (VPlain.maxOp t) m d a b)
def State.redBit (s : State) (t : ITy) (f : Word → Word → ARes) (m : Msk) (d : SDst) (a : VSrc) (b : SSrc) : Iss :=
  let r := redGo (fun v x y => (f x y).toE v) (s.fenv .rn) (s.act m (2048 / t.width)) (s.el t.width a) (wrapTo t (srcVal t (s.ss b).bits))
  s.iIss d (s.rpls m d a b) (aval r.w)
def execVredand (t : ITy) (m : Msk) (d : SDst) (a : VSrc) (b : SSrc) (s : State) : Out3 :=
  s.fireOp (.vredand t m d a b) (s.redBit t (iAnd t) m d a b)
def execVredor (t : ITy) (m : Msk) (d : SDst) (a : VSrc) (b : SSrc) (s : State) : Out3 :=
  s.fireOp (.vredor t m d a b) (s.redBit t (iOr t) m d a b)
def execVredxor (t : ITy) (m : Msk) (d : SDst) (a : VSrc) (b : SSrc) (s : State) : Out3 :=
  s.fireOp (.vredxor t m d a b) (s.redBit t (iXor t) m d a b)
/-- fx64 is refused at load (R204). -/
def execVdot (t : VArith) (m : Msk) (d : SDst) (a b : VSrc) (c : SSrc) (s : State) : Out3 :=
  let ps := [(s.vs a).payload, (s.vs b).payload, (s.ss c).payload, s.mskPl m, s.oldSPl m d]
  s.fireOp (.vdot t m d a b c)
    (match t with
     | .int t sat =>
       s.iIss d ps (fit (wide64 t) sat (srcVal t (s.ss c).bits + dotI t (s.act m (2048 / t.width)) (s.el t.width a) (s.el t.width b)))
     | .fx _ sat => s.iIss d ps (fit .i64 sat (srcVal .i64 (s.ss c).bits + dotI .i64 (s.act m 32) (s.el 64 a) (s.el 64 b)))
     | .fp t rm =>
       s.sumIss d ps (s.fenv rm) t
         (dotF t (s.fenv rm) (s.act m (2048 / t.width)) (s.el t.width a) (s.el t.width b) (s.ss c).bits))
def execVscan (t : VArith) (m : Msk) (d : VDst) (a : VSrc) (b : SSrc) (s : State) : Out3 :=
  let w := VArith.width t
  let v := s.fenv (VArith.rm t)
  let o := scanGo (VArith.addOp t) (VArith.isZ t) v (s.act m (2048 / w)) (s.oldV m d w) (s.el w a) (s.ss b).bits
  s.fireOp (.vscan t m d a b) (s.vIss d (s.vpls m d [(s.vs a).payload, (s.ss b).payload]) w (v.out o.srng) o)

/-! ## Conversions (R206 to R208) -/

/-- Elements above the results of a narrowing conversion are zero. -/
def execVcvt (c : VCvt) (m : Msk) (d : VDst) (a : VSrc) (b : SSrc) (s : State) : Out3 :=
  let ws := c.sw
  let wd := c.dw
  let n := 2048 / max ws wd
  let h := if ws < wd then (s.ss b).bits.toNat % (wd / ws) else 0
  let v := s.fenv (VCvt.rm c)
  let o := emap (VCvt.elem c) (VCvt.isZ c) v (s.act m n) ((s.oldV m d wd).take n) ((s.el ws a).drop (h * n)) (List.replicate n 0#64)
    (List.replicate n 0#64)
  s.fireOp (.vcvt c m d a b)
    (s.vIss d (s.vpls m d ((s.vs a).payload :: if ws < wd then [(s.ss b).payload] else [])) wd
      (if VCvt.rounds c then v.out o.srng else none) o)
/-- Both destinations are poisoned together (R105). -/
def execVmxq (m : MxF) (t : MxT) (rm : Rm) (d : VDst) (a : VSrc) (b : SReg) (s : State) : Out3 :=
  let v := s.fenv rm
  let r := mxqGo m t v (MxT.blocks t) (s.el (MxT.fty t).width a)
  s.fireOp (.vmxq m t rm d a b)
    (s.resIss [(s.vs a).payload] false (fun pl => wrV d (poisoned pl) ++ [.s b pl true]) false r.2.2.1 (v.out r.2.2.2.1)
      (wrV d (clean (BitVec.ofNat 2048 r.1)) ++ [.s b (BitVec.ofNat 64 r.2.1) false]) r.2.2.2.2)
def execVmxd (m : MxF) (t : MxT) (rm : Rm) (d : VDst) (a : VSrc) (b : SSrc) (s : State) : Out3 :=
  let v := s.fenv rm
  let o := roundAll (fmtOf (MxT.fty t)) v (mxdVals m (MxT.blocks t) (s.vs a).bits.toNat (s.ss b).bits.toNat)
  s.fireOp (.vmxd m t rm d a b)
    (s.vIss d [(s.vs a).payload, (s.ss b).payload] (MxT.fty t).width (v.out o.srng) o)

/-! ## Special functions (R209) -/

def sfOp (f : Sf) : ElemOp := fun v a _ _ => let r := sfEval f v.fz a.toNat; ⟨BitVec.ofNat 64 r.bits, r.fl, v.srng, false⟩
def State.sfIss (s : State) (f : Sf) (m : Msk) (d : VDst) (a : VSrc) : Iss := s.v1 m d a 32 (s.fenv .rn) (zeroF fmt32) (sfOp f)
def execSfrcp (m : Msk) (d : VDst) (a : VSrc) (s : State) : Out3 := s.fireOp (.sfrcp m d a) (s.sfIss .rcp m d a)
def execSfrsqrt (m : Msk) (d : VDst) (a : VSrc) (s : State) : Out3 := s.fireOp (.sfrsqrt m d a) (s.sfIss .rsqrt m d a)
def execSfsqrt (m : Msk) (d : VDst) (a : VSrc) (s : State) : Out3 := s.fireOp (.sfsqrt m d a) (s.sfIss .sqrt m d a)
def execSfexp2 (m : Msk) (d : VDst) (a : VSrc) (s : State) : Out3 := s.fireOp (.sfexp2 m d a) (s.sfIss .exp2 m d a)
def execSflog2 (m : Msk) (d : VDst) (a : VSrc) (s : State) : Out3 := s.fireOp (.sflog2 m d a) (s.sfIss .log2 m d a)
def execSfsinpi (m : Msk) (d : VDst) (a : VSrc) (s : State) : Out3 := s.fireOp (.sfsinpi m d a) (s.sfIss .sinpi m d a)
def execSfcospi (m : Msk) (d : VDst) (a : VSrc) (s : State) : Out3 := s.fireOp (.sfcospi m d a) (s.sfIss .cospi m d a)
/-- The sine goes to the even register and the cosine to the next; they are poisoned together. -/
def execSfsincospi (m : Msk) (d : Fin 8) (a : VSrc) (s : State) : Out3 :=
  let lo : VReg := ⟨2 * d.val, by omega⟩
  let hi : VReg := ⟨2 * d.val + 1, by omega⟩
  let v := s.fenv .rn
  let one := fun (f : Sf) (r : VReg) =>
    emap (sfOp f) (zeroF fmt32) v (s.act m 64) (s.oldV m (.reg r) 32) (s.el 32 a) (zerosOf 32) (zerosOf 32)
  let x := one .sinpi lo
  let y := one .cospi hi
  s.fireOp (.sfsincospi m d a)
    (s.resIss [(s.vs a).payload, s.mskPl m, s.oldVPl m (.reg lo), s.oldVPl m (.reg hi)] false
      (fun pl => wrV (.reg lo) (poisoned pl) ++ wrV (.reg hi) (poisoned pl)) false (x.fl ||| y.fl) none
      (wrV (.reg lo) (clean (joinV 32 x.xs)) ++ wrV (.reg hi) (clean (joinV 32 y.xs))) (x.nz || y.nz))

end Sys2Proof.Machine
end

