-- ==== Sys2Proof/Machine/Matrix.lean ====
section
/-! DEFINITION. The matrix unit and the accumulators (R211 to R230). Products, loads and stores of blocks stand outstanding until they start
(`State.matStart`, in fire order, R213); the format-A instructions act on an accumulator that has nothing outstanding (R214). -/

namespace Sys2Proof.Machine
open Sys2Proof

/-! ## Accumulators (R211, R212) -/

def Acc.row (a : Acc) (j : Nat) : VWord := mget 0 a.rows j
def Acc.setRow (a : Acc) (j : Nat) (x : VWord) : Acc := { a with rows := mset 0 a.rows j x }
def Acc.payloadOf (a : Acc) : Option Word := if a.pois then some a.payload else none
/-- Poison an accumulator; one that is poisoned keeps its payload. (DEDUCED, log 15.) -/
def Acc.poison (a : Acc) (pl : Word) : Acc := if a.pois then a else { a with pois := true, payload := pl }
def Acc.cleared (a : Acc) : Acc := { a with pois := false, payload := 0 }
def Tile.accN (t : Tile) (a : Fin 4) : Acc := t.acc[a]
/-- Element bits and row indices of a block. -/
def blkRows (b : Blk) : List Nat := (List.range b.m).map fun i => 16 * b.ro.val + i
/-- The cells of a block, row by row. -/
def Acc.cells (a : Acc) (b : Blk) (w : Nat) : List (List Nat) :=
  (blkRows b).map fun j => (((splitV w (a.row j)).drop (16 * b.co.val)).take b.n).map (·.toNat)
def putCells (w co : Nat) (x : VWord) (ns : List Nat) : VWord :=
  let xs := splitV w x
  joinV w (xs.take co ++ ns.map (BitVec.ofNat 64 ·) ++ xs.drop (co + ns.length))
def Acc.setCells (a : Acc) (b : Blk) (w : Nat) (cs : List (List Nat)) : Acc :=
  ((blkRows b).zip cs).foldl (fun a x => a.setRow x.1 (putCells w (16 * b.co.val) (a.row x.1) x.2)) a

/-! ## Products (R107, R108, R219 to R223) -/

/-- Element `i` of packed elements of `w` bits (R86). -/
def packed (raw w i : Nat) : Nat := nfld raw (w * i) w
/-- Elements per group step (R108). -/
def MmFmt.grp : MmFmt → Nat
  | .f64 => 1 | .f32 => 2 | .f16 | .bf16 => 4 | .e4m3 | .e5m2 | .i8 | .n8 => 8 | .mx m => if MxF.width m = 8 then 8 else 16
def MmFmt.isInt : MmFmt → Bool | .i8 => true | .n8 => true | _ => false
/-- Bits of an accumulated element (R215). -/
def MmFmt.accW (f : MmFmt) : Nat := match f with | .f64 => 64 | _ => 32
def MmFmt.accF (f : MmFmt) : FFmt := match f with | .f64 => fmt64 | _ => fmt32
/-- Element (r, k) of a panel of `rows` rows of `kk` elements, as a floating-point value (R219). -/
def MmFmt.elemF (f : MmFmt) (raw rows kk r k : Nat) : FVal :=
  let c := packed raw f.bits (r * kk + k)
  match f with
  | .f64 => fmt64.read c | .f32 => fmt32.read c | .f16 => fmt16.read c | .bf16 => fmtB16.read c | .e4m3 => fmtE4M3.read c
  | .e5m2 => fmtE5M2.read c
  | .mx m => mxVal m (packed raw 8 (rows * kk * f.bits / 8 + r * (kk / 32) + k / 32)) c
  | .i8 => .num false 0 0 | .n8 => .num false 0 0
def MmFmt.elemI (f : MmFmt) (raw kk r k : Nat) : Int :=
  let c := packed raw 8 (r * kk + k)
  match f with | .i8 => signedOf 8 c | _ => c

/-- The pairs (position in A's row, k of B) of the terms of group `g` in row `m`; for a sparse A the two values of each group of four (R221). -/
def denseTerms (gs g : Nat) : List (Nat × Nat) := (List.range gs).map fun i => (g * gs + i, g * gs + i)
def sparseTerms (md kk gs m g : Nat) : List (Nat × Nat) :=
  (List.range (gs / 4)).flatMap fun i =>
    let h := g * gs / 4 + i
    let x := packed md 4 (m * (kk / 4) + h)
    [(2 * h, 4 * h + x % 4), (2 * h + 1, 4 * h + x / 4)]

/-- The panels of a product: K, the elements in a row of A, A's rows, the bytes of A, B and the metadata of a sparse A as numbers. -/
structure Panels where
  kk : Nat
  ka : Nat
  rowsA : Nat
  colsB : Nat
  a : Nat
  b : Nat
  md : Option Nat
def Panels.terms (p : Panels) (gs m g : Nat) : List (Nat × Nat) :=
  match p.md with | none => denseTerms gs g | some md => sparseTerms md p.kk gs m g
/-- One group step of cell (m, n). -/
def mmaStep (f : MmFmt) (p : Panels) (g m n acc : Nat) (v : FEnv) : FRes :=
  let ts := p.terms (MmFmt.grp f) m g
  if MmFmt.isInt f then
    let z := ts.foldl (fun z t => z + MmFmt.elemI f p.a p.ka m t.1 * MmFmt.elemI f p.b p.kk n t.2) (acc : Int)
    ⟨(z.emod (2 ^ 32)).toNat, fNone, v.srng⟩
  else
    (MmFmt.accF f).group v ((MmFmt.accF f).read acc)
      (ts.foldl (fun s t => s.prod (MmFmt.elemF f p.a p.rowsA p.ka m t.1) (MmFmt.elemF f p.b p.colsB p.kk n t.2)) GSum.empty)
/-- Cells with the flags raised and the generator so far. -/
structure MOut where
  cells : List (List Nat)
  fl : Fl
  srng : BitVec 32
def rowStep (f : Nat → Nat → FEnv → FRes) (v : FEnv) : Nat → List Nat → List Nat × Fl × BitVec 32
  | _, [] => ([], fNone, v.srng)
  | n, c :: cs =>
    let r := f n c v
    let t := rowStep f { v with srng := r.srng } (n + 1) cs
    (r.bits :: t.1, r.fl ||| t.2.1, t.2.2)
def cellStep (f : Nat → Nat → Nat → FEnv → FRes) (v : FEnv) : Nat → List (List Nat) → MOut
  | _, [] => ⟨[], fNone, v.srng⟩
  | m, r :: rs =>
    let x := rowStep (f m) v 0 r
    let t := cellStep f { v with srng := x.2.2 } (m + 1) rs
    ⟨x.1 :: t.cells, x.2.1 ||| t.fl, t.srng⟩
/-- Every group step of every cell, in the order of R223. -/
def mmaCells (f : MmFmt) (p : Panels) (v : FEnv) (cs : List (List Nat)) : MOut :=
  (List.range (p.kk / MmFmt.grp f)).foldl (fun o g =>
    let x := cellStep (mmaStep f p g) { v with srng := o.srng } 0 o.cells
    { x with fl := o.fl ||| x.fl }) ⟨cs, fNone, v.srng⟩
/-- The rounding of a product: RM for f64 and f32, else to nearest; FZ does not act (R102, R108). -/
def MmaF.env (f : MmaF) (am : AMode) (srng : BitVec 32) : FEnv :=
  { r := match f.fmt with | .f64 => rndOf f.rm am | .f32 => rndOf f.rm am | _ => .rn, fz := false, srng := srng }

/-- What a product leaves in its accumulator (R222 to R224): `qp` the payload of a poisoned quad, `bad` that an operand byte is uncorrectable; with both the
quad's payload stands. (DESIGN CHOICE, log 90.) -/
def MmaF.result (f : MmaF) (p : Panels) (am : AMode) (srng : BitVec 32) (qp : Option Word) (bad : Bool) (pay : BitVec 8 → Word)
    (a : Acc) : Acc × Fl × Option (BitVec 32) :=
  let w := MmFmt.accW f.fmt
  let old := a.cells f.blk w
  let v := MmaF.env f am srng
  let o := mmaCells f.fmt p v (if f.za then old.map (fun r => r.map fun _ => 0) else old)
  let a' := a.setCells f.blk w o.cells
  let fl := if a.pois || qp.isSome then fNone else o.fl
  let a' := match qp with
    | some pl => a'.poison pl
    | none => if bad then a'.poison (pay causeEcc) else match trapCause fl am.ten with | some c => a'.poison (pay c) | none => a'
  (a', fl, v.out o.srng)

/-! ## Firing a product, a load or a store (R215, R224, R226) -/

def spOf (csp : Bool) : Space := if csp then .csp else .tcm
/-- A range outside its space stops the context (R224, R226). -/
def State.rangeStop (s : State) (csp : Bool) (a : Word) (n : Nat) : Option StopInfo :=
  if csp then (if s.cspOk s.cur s.fire.ctx a.toNat n then none else some { s.cause 0x18#8 with loc := a })
  else if s.fctx.tcmOk a.toNat n then none else some { s.cause 0x15#8 with loc := a }
def firstStop : List (Option StopInfo) → Option StopInfo
  | [] => none
  | some x :: _ => some x
  | none :: l => firstStop l
/-- An operation that reads or writes memory for the matrix unit: a poisoned address or a range fault traps it. (DEDUCED, log 21.) -/
def State.matIss (s : State) (i : Instr) (vals : List (Val 64)) (quad : List (Reg 2048)) (ps : List (Option Word))
    (chk : List (Option StopInfo)) : Iss :=
  match firstPois (ps ++ vals.map (·.payload)) with
  | some pl => .trap (s.ptrapAt (vals.headD (clean 0)) pl)
  | none =>
    match firstStop chk with
    | some i => .trap i
    | none => { Iss.zero with act := .mat i (vals.map (·.bits)) quad i.waitTok (s.tile.tokFired s.fctx i.waitTok) }

def execMma (f : MmaF) (s : State) : Out3 :=
  let a := s.fctx.s f.sa; let b := s.fctx.s f.sb
  s.fireOp (.mma f) (s.matIss (.mma f) [a, b] [] []
    [s.rangeStop f.asp a.bits f.bytesA, s.rangeStop f.bsp b.bits (f.bytesB f.k)])
def execMmas (f : MmaF) (sm : SReg) (msp : Bool) (s : State) : Out3 :=
  let a := s.fctx.s f.sa; let b := s.fctx.s f.sb; let m := s.fctx.s sm
  s.fireOp (.mmas f sm msp) (s.matIss (.mmas f sm msp) [a, b, m] [] []
    [s.rangeStop f.asp a.bits f.bytesSp, s.rangeStop f.bsp b.bits (f.bytesB f.k), s.rangeStop msp m.bits f.bytesMeta])
/-- The quad of vector registers that holds A (R220). -/
def quadRegs (c : Ctx) (v : SReg) : List (Reg 2048) := (List.range 4).map fun i => c.regs.v[Fin.ofNat 16 (v.val + i)]
def execMmv (f : MmaF) (s : State) : Out3 :=
  let b := s.fctx.s f.sb
  s.fireOp (.mmv f) (s.matIss (.mmv f) [b] (quadRegs s.fctx f.sa) [] [s.rangeStop f.bsp b.bits (f.bytesB f.fmt.kv)])
def execAload (f : AccMemF) (s : State) : Out3 :=
  let a := s.fctx.s f.sa
  s.fireOp (.aload f) (s.matIss (.aload f) [a] [] [] [s.rangeStop f.asp a.bits f.bytes])
def execAstore (f : AccMemF) (s : State) : Out3 :=
  let a := s.fctx.s f.sa
  s.fireOp (.astore f) (s.matIss (.astore f) [a] [] [(s.tile.accN (s.fctx.accOf f.blk.acc)).payloadOf] [s.rangeStop f.asp a.bits f.bytes])

/-! ## The start of an operation (R213, R215, R222, R226) -/

/-- The tile's number, physical address of an operand in its space. -/
def State.panelPa (s : State) (c : Fin 8) (csp : Bool) (a : Word) : Nat :=
  if csp then s.cspPa s.cur c a.toNat else (s.tile.ctx c).tcmPa a.toNat
/-- Fetch a panel: the state with single-bit errors corrected, the bytes as a number, whether one is uncorrectable. -/
def State.panel (s : State) (c : Fin 8) (csp : Bool) (a : Word) (n : Nat) : State × Nat × Bool :=
  let pa := s.panelPa c csp a
  (s.spFix s.cur (spOf csp) pa n, leNat (s.spBytes s.cur (spOf csp) pa n), s.spBad s.cur (spOf csp) pa n)
/-- Write bytes that stand in an operation (R226, R281); a trapped context's are discarded (R159). -/
def State.putBytes (s : State) (c : Fin 8) (csp : Bool) (pa : Nat) (bs : List Byte) : State :=
  if (s.tile.ctx c).dead s.clock then s else s.spWrite s.cur (spOf csp) pa bs
/-- An operation that starts sees the bytes of every earlier `astore` (R213). (DEDUCED, log 21.) -/
def State.flushPuts (s : State) : State :=
  let s' := s.tile.ops.foldl (fun s o => match o.act with | .put csp pa bs => s.putBytes o.ctx csp pa bs | _ => s) s
  s'.onTile fun t => { t with ops := t.ops.map fun o => match o.act with | .put _ _ _ => { o with act := .plain } | _ => o }
def State.opPay (s : State) (o : Op) (cause : BitVec 8) : Word :=
  mkPayload cause o.slot.toNat o.ctx s.env o.fired
/-- The product of an operation from its panels, with the flags and the generator that its writeback gives. -/
def State.matProduct (s : State) (o : Op) (f : MmaF) (p : Panels) (qp : Option Word) (bad : Bool) : State × Op :=
  let x := s.tile.ctx o.ctx
  let a := x.accOf f.blk.acc
  let r := MmaF.result f p o.am x.regs.srng qp bad (s.opPay o) (s.tile.accN a)
  (s.onTile fun t => t.setAcc a r.1, { o with fl := r.2.1, srng := r.2.2 })
def quadNat (q : List (Reg 2048)) : Nat := q.foldr (fun r n => r.bits.toNat + n * 2 ^ 2048) 0
def quadPl (q : List (Reg 2048)) : Option Word := firstPois (q.map fun r => r.val.payload)
/-- An `aload`'s bytes as cells; a full block clears poison (R212, R226). -/
def AccMemF.w (f : AccMemF) : Nat := if f.ew then 64 else 32
def AccMemF.cellsOf (f : AccMemF) (raw : Nat) : List (List Nat) :=
  (List.range f.blk.m).map fun m => (List.range f.blk.n).map fun n => packed raw (AccMemF.w f) (m * f.blk.n + n)
def AccMemF.full (f : AccMemF) : Bool := f.blk.m == 64 && f.blk.n * (AccMemF.w f) == 2048
/-- What an operation does when it starts: its operands are fetched and its accumulator changes. -/
def State.matDo (s : State) (o : Op) : State × Op :=
  match o.act with
  | .mat (.mma f) [va, vb] _ _ _ =>
    let a := s.panel o.ctx f.asp va f.bytesA
    let b := a.1.panel o.ctx f.bsp vb (f.bytesB f.k)
    b.1.matProduct o f ⟨f.k, f.k, f.blk.m, f.blk.n, a.2.1, b.2.1, none⟩ none (a.2.2 || b.2.2)
  | .mat (.mmas f _ msp) [va, vb, vm] _ _ _ =>
    let a := s.panel o.ctx f.asp va f.bytesSp
    let b := a.1.panel o.ctx f.bsp vb (f.bytesB f.k)
    let m := b.1.panel o.ctx msp vm f.bytesMeta
    m.1.matProduct o f ⟨f.k, f.k / 2, f.blk.m, f.blk.n, a.2.1, b.2.1, some m.2.1⟩ none (a.2.2 || b.2.2 || m.2.2)
  | .mat (.mmv f) [vb] q _ _ =>
    let b := s.panel o.ctx f.bsp vb (f.bytesB f.fmt.kv)
    b.1.matProduct o f ⟨f.fmt.kv, f.fmt.kv, 16, f.blk.n, quadNat q, b.2.1, none⟩ (quadPl q) b.2.2
  | .mat (.aload f) [va] _ _ _ =>
    let a := s.panel o.ctx f.asp va f.bytes
    let i := (s.tile.ctx o.ctx).accOf f.blk.acc
    let x := (s.tile.accN i).setCells f.blk (AccMemF.w f) (AccMemF.cellsOf f a.2.1)
    let x := if AccMemF.full f then x.cleared else x
    let x := if a.2.2 then x.poison (s.opPay o causeEcc) else x
    (a.1.onTile fun t => t.setAcc i x, o)
  | .mat (.astore f) [va] _ _ _ =>
    let x := (s.tile.accN ((s.tile.ctx o.ctx).accOf f.blk.acc)).cells f.blk (AccMemF.w f)
    (s, { o with act := .put f.asp (s.panelPa o.ctx f.asp va) (x.flatMap fun r => r.flatMap fun c => leBytes f.ebytes c) })
  | .mat (.mmr f ns) [a0, a1, b0, b1, j] q _ k =>
    let a := s.panel o.ctx false a0 f.bytesA
    let b := a.1.panel o.ctx false b0 (f.bytesB f.k)
    let r := b.1.matProduct o f ⟨f.k, f.k, f.blk.m, f.blk.n, a.2.1, b.2.1, none⟩ none (a.2.2 || b.2.2)
    let t := if !ns && (a.2.2 || b.2.2) then
        r.1.onTile fun t => t.modCtx o.ctx fun c => c.stop { StopInfo.mk0 0x1a#8 o.slot.toNat s.clock with loc := a0 }
      else r.1
    let act : Act :=
      if ns then .mat (.mmr f ns) [a0, a1, b0, b1, j] q 0 k
      else .rot f [a1, b1, a0, b0] (leBytes f.bytesA a.2.1) (leBytes (f.bytesB f.k) b.2.1) j.toNat false false false false
        (s.clock + (Instr.mmr f ns).lat - 1)
    (t, { r.2 with act := act })
  | _ => (s, o)
/-- Busy cycles and latency of the instruction of an operation. -/
def Op.matTime (o : Op) : Nat × Nat := match o.act with | .mat i _ _ _ _ => i.time | _ => (1, 1)
/-- The start of an operation of the tile in focus. (DEDUCED, log 21.) -/
def State.matStart (s : State) (o : Op) : State :=
  let r := s.flushPuts.matDo o
  let due := match r.2.act with | .rot _ _ _ _ _ _ _ _ _ _ => none | _ => some (s.clock + o.matTime.2 - 1)
  let o' := { r.2 with due := due }
  r.1.onTile fun t => { t with ops := t.ops.map (fun q => if q.id = o.id then o' else q),
                               units := { t.units with mat := max t.units.mat (s.clock + o.matTime.1) } }

/-! ## Format-A instructions (R227 to R229) -/

/-- An accumulator result: poisoned by a poisoned source, whose contents it then keeps, or by a trapping flag. (DEDUCED, log 21.) -/
def State.accIss (s : State) (a : AReg) (ps : List (Option Word)) (fl : Fl) (srng : Option (BitVec 32)) (f : Acc → Acc) : Iss :=
  let i := s.fctx.accOf a
  let put := fun x : Acc => fun t : State => t.onTile fun t => t.setAcc i x
  let old := s.tile.accN i
  match firstPois (old.payloadOf :: ps) with
  | some pl => .ed (put (old.poison pl))
  | none =>
    match trapCause fl s.amode.ten with
    | some c => { Iss.ed (put ((f old).poison (s.pay c))) with fl := fl, srng := srng }
    | none => { Iss.ed (put (f old)) with fl := fl, srng := srng }
def State.accA (s : State) (a : AReg) : Acc := s.tile.accN (s.fctx.accOf a)
/-- The environment of the matrix unit, which ignores FZ (R102). -/
def State.menv (s : State) (r : Rm) : FEnv := { s.fenv r with fz := false }
def rowIx (b : Word) : Nat := b.toNat % 64

def execAzero (d : AReg) (s : State) : Out3 :=
  s.fireOp (.azero d) (.ed fun t => t.onTile fun x => x.setAcc (s.fctx.accOf d) Acc.zero)
def AView.w : AView → Nat | .i32 => 32 | .n32 => 32 | .f32 => 32 | _ => 64
def AView.isZ : AView → Word → Bool
  | .f32 => zeroF fmt32 | .f64 => zeroF fmt64 | .i32 => zeroW 32 | .n32 => zeroW 32 | _ => zeroW 64
def execAget (t : AView) (d : VDst) (a : AReg) (b : SSrc) (s : State) : Out3 :=
  let x := (s.accA a).row (rowIx (s.ss b).bits)
  s.fireOp (.aget t d a b)
    (s.resIss [(s.accA a).payloadOf, (s.ss b).payload] false (fun pl => wrV d (poisoned pl)) false fNone none (wrV d (clean x))
      ((splitV (AView.w t) x).any fun e => !AView.isZ t e))
/-- Under a mask, masked-off elements keep their value. -/
def execAput (t : AView) (m : Option KReg) (d : AReg) (a : VSrc) (b : SSrc) (s : State) : Out3 :=
  let w := AView.w t
  let j := rowIx (s.ss b).bits
  let on := activeBits (2048 / w) (m.map fun k => (s.fctx.k k).bits)
  let mp := match m with | some k => (s.fctx.k k).payload | none => none
  s.fireOp (.aput t m d a b)
    (s.accIss d [(s.vs a).payload, (s.ss b).payload, mp] fNone none fun x =>
      x.setRow j (joinV w ((on.zip ((splitV w (x.row j)).zip (s.el w a))).map fun e => if e.1 then e.2.2 else e.2.1)))

def AArith.w : AArith → Nat | .f64 _ => 64 | _ => 32
def AArith.rm : AArith → Rm | .f32 r => r | .f64 r => r | .i32 _ => .rn
def AArith.mulOp (t : AArith) : ElemOp := fun v a b _ =>
  match t with | .f32 _ => (fMul .f32 v a b).toE | .f64 _ => (fMul .f64 v a b).toE | .i32 sat => (iMul (.i .i32) sat a b).toE v
def AArith.addOp (t : AArith) : ElemOp := fun v a b _ =>
  match t with | .f32 _ => (fAdd .f32 v a b).toE | .f64 _ => (fAdd .f64 v a b).toE | .i32 sat => (iAdd (.i .i32) sat a b).toE v
/-- One row through an element operation. -/
def accRow (t : AArith) (f : ElemOp) (v : FEnv) (x : VWord) (ys : List Word) : VOut :=
  let w := AArith.w t
  emap f (zeroW w) v (List.replicate (2048 / w) true) (zerosOf w) (splitV w x) ys (zerosOf w)
/-- Every row in turn, with the flags and the generator. -/
def scaleRows (t : AArith) (y : Word) (a : Acc) (v : FEnv) : List Nat → Acc × Fl × BitVec 32
  | [] => (a, fNone, v.srng)
  | j :: js =>
    let o := accRow t (AArith.mulOp t) v (a.row j) (List.replicate (2048 / AArith.w t) y)
    let r := scaleRows t y (a.setRow j (joinV (AArith.w t) o.xs)) { v with srng := o.srng } js
    (r.1, o.fl ||| r.2.1, r.2.2)
def execAscale (t : AArith) (d : AReg) (a : SSrc) (s : State) : Out3 :=
  let v := s.menv (AArith.rm t)
  let r := scaleRows t (s.ss a).bits (s.accA d) v (List.range 64)
  s.fireOp (.ascale t d a) (s.accIss d [(s.ss a).payload] r.2.1 (v.out r.2.2) fun x => { x with rows := r.1.rows })
def execAadd (t : AArith) (d : AReg) (a : VSrc) (b : SSrc) (s : State) : Out3 :=
  let v := s.menv (AArith.rm t)
  let j := rowIx (s.ss b).bits
  let o := accRow t (AArith.addOp t) v ((s.accA d).row j) (s.el (AArith.w t) a)
  s.fireOp (.aadd t d a b)
    (s.accIss d [(s.vs a).payload, (s.ss b).payload] o.fl (v.out o.srng) fun x => x.setRow j (joinV (AArith.w t) o.xs))
/-- Element (x, y) of D becomes element (y, x) of A as it stood (R227). -/
def transposed (a : Acc) : AMap VWord :=
  (List.range 64).foldl (fun m x =>
    mset 0 m x (joinV 32 ((List.range 64).map fun y => BitVec.ofNat 64 (packed (a.row y).toNat 32 x)))) []
def execAtrans (d a : AReg) (s : State) : Out3 :=
  s.fireOp (.atrans d a) (s.accIss d [(s.accA a).payloadOf] fNone none fun x => { x with rows := transposed (s.accA a) })

/-- An `acvt` element (R228): the conversion of R206, or the narrowing of i32 with SAT. -/
def fSrc (s64 : Bool) : FcTy := if s64 then .f .f64 else .f .f32
def HTy.ity (t : HTy) : ITy :=
  match t.signed, t.lv with
  | true, 0 => .i8 | true, 1 => .i16 | true, _ => .i32 | false, 0 => .n8 | false, 1 => .n16 | false, _ => .n32
def ACvt.rm : ACvt → Rm | .ff _ _ r => r | .fi _ _ r => r | .itof _ r => r | .ii _ _ => .rn
def ACvt.elem (c : ACvt) : ElemOp := fun v a _ _ =>
  match c with
  | .ff d s _ => (cvtFF d (fSrc s) v a).toE
  | .fi d s _ => (cvtFI (HTy.ity d) (fSrc s) v a).toE
  | .itof d _ => (cvtIF d .i32 v a).toE
  | .ii d sat => (fit (HTy.ity d) sat (srcVal .i32 a)).toE v
def ACvt.ws : ACvt → Nat | .ff _ s _ => if s then 64 else 32 | .fi _ s _ => if s then 64 else 32 | _ => 32
def ACvt.wd : ACvt → Nat | .ff d _ _ => d.width | .fi d _ _ => (HTy.ity d).width | .itof d _ => d.width | .ii d _ => (HTy.ity d).width
def ACvt.isZ : ACvt → Word → Bool
  | .ff d _ _ => zeroF (fmtOfC d) | .itof d _ => zeroF (fmtOfC d) | .fi d _ _ => zeroW (HTy.ity d).width | .ii d _ => zeroW (HTy.ity d).width
def ACvt.rounds : ACvt → Bool | .ii _ _ => false | _ => true
def execAcvt (c : ACvt) (d : VDst) (a : AReg) (b : SSrc) (s : State) : Out3 :=
  let n := 2048 / ACvt.ws c
  let nd := 2048 / ACvt.wd c
  let bits := (s.ss b).bits
  let h := if nd < n then nfld bits.toNat 6 1 else 0
  let k := min n nd
  let v := s.menv (ACvt.rm c)
  let o := emap (ACvt.elem c) (ACvt.isZ c) v (List.replicate k true) (List.replicate k 0#64)
    ((splitV (ACvt.ws c) ((s.accA a).row (rowIx bits))).drop (h * nd)) (List.replicate k 0#64) (List.replicate k 0#64)
  s.fireOp (.acvt c d a b)
    (s.vIss d [(s.accA a).payloadOf, (s.ss b).payload] (ACvt.wd c) (if ACvt.rounds c then v.out o.srng else none) o)

end Sys2Proof.Machine
end

