-- ==== Sys2Proof/Machine/Local.lean ====
section
/-! DEFINITION. Streams, TCM accesses, copies and drains (R231 to R247): what their rules do when they fire. The elements of a stream and the
chunks of a copy are steps of their engines. -/

namespace Sys2Proof.Machine
open Sys2Proof

/-! ## Streams (R231 to R235) -/

def Strm.fld (g : Strm) (lo len : Nat) : Nat := nfld g.desc.toNat lo len
def Strm.base (g : Strm) : Nat := g.fld 0 64
def Strm.space (g : Strm) : Nat := g.fld 64 2
def Strm.isWr (g : Strm) : Bool := g.fld 66 1 == 1
def Strm.chan (g : Strm) : Chan := Fin.ofNat 16 (g.fld 67 4)
def Strm.ew (g : Strm) : Nat := g.fld 71 2
/-- Bytes of an element. -/
def Strm.eb (g : Strm) : Nat := 8 * 2 ^ g.ew
def Strm.cnt0 (g : Strm) : Nat := g.fld 128 16
def Strm.cnt1 (g : Strm) : Nat := g.fld 144 16
def Strm.cnt2 (g : Strm) : Nat := g.fld 160 16
def Strm.total (g : Strm) : Nat := g.cnt0 * g.cnt1 * g.cnt2
/-- The address of element `e`, unbounded (R231). -/
def Strm.addr (g : Strm) (e : Nat) : Int :=
  (g.base : Int) + (e / (g.cnt0 * g.cnt1) : Nat) * signedOf 32 (g.fld 224 32)
    + (e / g.cnt0 % g.cnt1 : Nat) * signedOf 32 (g.fld 192 32) + (e % g.cnt0 * g.eb : Nat)
/-- The descriptor can run (R232). -/
def Strm.legal (g : Strm) : Bool := g.total != 0 && g.space != 3 && g.fld 93 35 == 0 && g.fld 176 16 == 0
/-- The channel can serve a stream of context `c` (R233). -/
def Tile.chanFor (t : Tile) (c : Fin 8) (g : Strm) : Bool :=
  let x := t.ctx c
  (if g.isWr then !(x.eb[g.chan]).bv else !(x.ib[g.chan]).bv)
  && t.strm.toList.all fun h => !(h.st == .run && h.ctx == c && h.isWr == g.isWr && h.chan == g.chan)

def pairDesc (a b : Val 128) : BitVec 256 := b.bits ++ a.bits
def State.fstrm (s : State) (g : Fin 8) : Strm := s.tile.strm[s.fctx.strmOf g]
def State.putStrm (s : State) (g : Fin 8) (x : Strm) : State := s.onTile fun t => t.setStrm g x
def execGcfg (g : Fin 8) (a b : Fin 16) (s : State) : Out3 :=
  let x := s.ps (.pair a); let y := s.ps (.pair b)
  s.fireOp (.gcfg g a b)
    (match firstPois [x.payload, y.payload] with
     | some pl => .trap (s.ptrap pl)
     | none =>
       if (s.fstrm g).st == .run then .trap (s.cause 0x19#8)
       else .ed fun t => t.putStrm (s.fctx.strmOf g) { Strm.zero with st := .conf, desc := pairDesc x y })
def execGstart (g : Fin 8) (s : State) : Out3 :=
  let x := s.fstrm g
  s.fireOp (.gstart g)
    (if x.st == .conf && x.legal && s.tile.chanFor s.fire.ctx x then
       .ed fun t =>
         (t.onTile fun u => u.tokPub s.fctx x.pt).putStrm (s.fctx.strmOf g)
           { x with st := .run, next := 0, start := s.clock + 1, stall := false, halt := false, lose := false,
                    ptk := s.tile.tokFired s.fctx x.pt + 1, hold := s.tile.acqIds s.fire.ctx, ctx := s.fire.ctx, slot := s.fire.slot }
     else .trap (s.cause 0x19#8))
/-- Elements not yet issued; one that stalls has been issued (R236). -/
def Strm.left (g : Strm) : Nat := if g.st == .run then g.total - g.next - b2n g.stall else 0
/-- DEDUCED, log 23. -/
def execGstop (d : SDst) (g : Fin 8) (s : State) : Out3 :=
  let x := s.fstrm g
  let w : Word := BitVec.ofNat 64 x.left
  s.fireOp (.gstop d g)
    { Iss.put (wrS d (clean w)) (w != 0) with edit := fun t => t.putStrm (s.fctx.strmOf g) x.stopIssue }
/-- The physical streams of a mask. -/
def Ctx.maskStrms (c : Ctx) (mask : BitVec 8) : List (Fin 8) :=
  ((List.finRange 8).filter fun g => mask.getLsbD g.val).map c.strmOf
def execGbar (d : PReg) (mask : BitVec 8) (fin : Bool) (s : State) : Out3 :=
  s.fireOp (.gbar d mask fin)
    (if (s.fctx.maskStrms mask).any (fun g => (s.tile.strm[g]).st == .run) then
       { Iss.zero with act := .gbar d mask fin, wr := [.p d true], rc := some true, now := [.p d false] }
     else Iss.put [.p d true] true)

/-! ## TCM accesses (R237 to R240) -/

/-- BASE + OFFSET, unbounded. -/
def State.maddr (s : State) (m : MAddr) : Int := ((s.fctx.s m.base).bits.toNat : Int) + m.off.toInt
def State.basePl (s : State) (m : MAddr) : Option Word := (s.fctx.s m.base).payload
/-- The trap of a poisoned operand of a memory access, with the address refused where BASE is not poisoned (R159). -/
def State.ptrapM (s : State) (m : MAddr) (pl : Word) : StopInfo := { s.ptrap pl with loc := if (s.basePl m).isSome then 0 else BitVec.ofInt 64 (s.maddr m) }
/-- The stop of an access: misaligned (0x18), then outside its allocation. -/
def State.accStop (s : State) (sp : Space) (a : Int) (n align : Nat) : Option StopInfo :=
  if a % (align : Int) != 0 then some { s.cause 0x18#8 with loc := BitVec.ofInt 64 a }
  else match sp with
    | .tcm => if s.fctx.tcmOk a n then none else some { s.cause 0x15#8 with loc := BitVec.ofInt 64 a }
    | .csp => if s.cspOk s.cur s.fire.ctx a n then none else some { s.cause 0x18#8 with loc := BitVec.ofInt 64 a }
    | .glb => none
/-- The physical base of an address in TCM or CSP. -/
def State.physBase (s : State) (sp : Space) (a : Int) : Int :=
  match sp with
  | .tcm => (s.fctx.tbase.toNat : Int) + a
  | .csp => (s.cspPa s.cur s.fire.ctx 0 : Int) + a
  | .glb => a
/-- An access to TCM or CSP by its rule. -/
def State.memIss (s : State) (sp : Space) (m : MAddr) (op : MemOp) (n align : Nat) (ps : List (Option Word)) : Iss :=
  let a := s.maddr m
  match firstPois (s.basePl m :: ps) with
  | some pl => .trap (s.ptrapM m pl)
  | none =>
    match s.accStop sp a n align with
    | some i => .trap i
    | none =>
      let p := s.physBase sp a
      { Iss.zero with act := .mem { sp := sp, op := op, addr := p, size := n, ord := m.ord, scope := m.scope, label := none, pa := [p.toNat], sent := false, home := 0 } }
def State.ldIss (s : State) (sp : Space) (m : MAddr) (d : LdDst) : Iss :=
  s.memIss sp m (.ld d) (LdDst.bytes d) (LdDst.bytes d) []
def State.stIss (s : State) (sp : Space) (m : MAddr) (a : StSrc) : Iss :=
  s.memIss sp m (.st (s.stVal a).1) (StSrc.bytes a) (StSrc.bytes a) [(s.stVal a).2]
def State.vldIss (s : State) (sp : Space) (m : MAddr) (d : VDst) : Iss := s.memIss sp m (.vld d) 256 16 []
def State.vstIss (s : State) (sp : Space) (m : MAddr) (a : VSrc) : Iss :=
  s.memIss sp m (.st (leBytes 256 (s.vs a).bits.toNat)) 256 16 [(s.vs a).payload]
/-- The operation of an atomic on one word, and the payload of its operand (R238). -/
def State.latOp (s : State) (d : SDst) (o : LAtomic) : MemOp × Option Word :=
  match o with
  | .rmw o a => (.atom d o (s.ss a).bits, (s.ss a).payload)
  | .cas a => (.cas d ((s.ps a).bits.setWidth 64) ((s.ps a).bits.extractLsb' 64 64), (s.ps a).payload)
  | .binc a => (.binc d (s.ss a).bits, (s.ss a).payload)
def State.atIss (s : State) (sp : Space) (m : MAddr) (d : SDst) (o : LAtomic) : Iss :=
  s.memIss sp m (s.latOp d o).1 8 8 [(s.latOp d o).2]

def execLd (m : MAddr) (d : LdDst) (s : State) : Out3 := s.fireOp (.ld m d) (s.ldIss .tcm m d)
def execSt (m : MAddr) (a : StSrc) (s : State) : Out3 := s.fireOp (.st m a) (s.stIss .tcm m a)
def execVld (m : MAddr) (d : VDst) (s : State) : Out3 := s.fireOp (.vld m d) (s.vldIss .tcm m d)
def execVst (m : MAddr) (a : VSrc) (s : State) : Out3 := s.fireOp (.vst m a) (s.vstIss .tcm m a)
def execTamo (m : MAddr) (d : SDst) (o : LAtomic) (s : State) : Out3 := s.fireOp (.tamo m d o) (s.atIss .tcm m d o)
/-- Every element is checked before any access (R239). (DEDUCED, log 26.) -/
def State.elemIss (s : State) (m : MAddr) (op : MemOp) (ix : VWord) (ps : List (Option Word)) : Iss :=
  let a := s.maddr m
  match firstPois (s.basePl m :: ps) with
  | some pl => .trap (s.ptrapM m pl)
  | none =>
    match firstStop ((idxOffs ix).map fun (o : Nat) => s.accStop .tcm (a + (o : Int)) 4 4) with
    | some i => .trap i
    | none => { Iss.zero with act := .mem { sp := .tcm, op := op, addr := s.physBase .tcm a, size := 4, ord := m.ord, scope := m.scope, label := none, pa := [], sent := false, home := 0 } }
def execVgath (m : MAddr) (d : VDst) (i : VSrc) (s : State) : Out3 :=
  s.fireOp (.vgath m d i) (s.elemIss m (.gath d (s.vs i).bits) (s.vs i).bits [(s.vs i).payload])
def execVscat (m : MAddr) (i a : VSrc) (s : State) : Out3 :=
  s.fireOp (.vscat m i a) (s.elemIss m (.scat (s.vs i).bits (s.vs a).bits) (s.vs i).bits [(s.vs i).payload, (s.vs a).payload])

/-! ## Copies and drains (R241 to R244) -/

/-- The constant S of a copy's end (R247, R319). -/
def State.glbS (s : State) (a : Word) : Nat :=
  match s.leafOf s.fctx.tenant a.toNat with
  | .leaf _ _ _ b => homeS (dieOf s.cur) ((memHome b).getD 1)
  | .fault _ => 40
/-- The start-up S of a copy (R247): the larger of its two ends'; a window counts 4, since the spec gives none. (DESIGN CHOICE, log 91.) -/
def State.copyS (s : State) (f : CpyF) (d a : Word) : Nat :=
  max (match f.dsp with | .tcm => 4 | .csp => 10 | .glb => s.glbS d | .win => 4)
      (match f.ssp with | .tcm => 4 | .csp => 10 | .glb => s.glbS a)
/-- A command enters the queue, or its size stops the context (R242) with the source's address in WHERE. (DESIGN CHOICE, log 67.) -/
def State.copyIss (s : State) (i : Instr) (f : CpyF) (ps : List (Option Word)) (rows len : Nat) (ss ds : Int) : Iss :=
  let d := s.fctx.s f.sd; let a := s.fctx.s f.ss
  match firstPois ([d.payload, a.payload] ++ ps) with
  | some pl => .trap (s.ptrapAt (if a.pois then d else a) pl)
  | none =>
    if 2 ^ 32 ≤ len ∨ 2 ^ 16 ≤ rows then .trap { s.cause 0x18#8 with loc := a.bits }
    else .ed fun t => t.onTile fun u =>
      { u with
        nextId := u.nextId + 1
        copies := u.copies ++ [{ id := u.nextId, ctx := s.fire.ctx, slot := s.fire.slot, start := s.clock + s.copyS f d.bits a.bits + 1,
                                 f := f, da := d.bits, sa := a.bits, rows := rows, len := len, sstr := ss, dstr := ds,
                                 wtk := s.tile.tokFired s.fctx i.waitTok, ptk := s.tile.tokFired s.fctx i.pub + 1,
                                 hold := s.tile.acqIds s.fire.ctx, row := 0, off := 0, outs := [], dead := false }] }
def execCpy (f : CpyF) (s : State) : Out3 :=
  let l := s.fctx.s f.sl
  s.fireOp (.cpy f) (s.copyIss (.cpy f) f [l.payload] 1 l.bits.toNat 0 0)
def execCpy2d (f : CpyF) (s : State) : Out3 :=
  let l := s.fctx.s f.sl; let h := s.fctx.s (Fin.ofNat 32 (f.sl.val + 1))
  s.fireOp (.cpy2d f) (s.copyIss (.cpy2d f) f [l.payload, h.payload] (nfld l.bits.toNat 32 32) (nfld l.bits.toNat 0 32)
    (signedOf 32 (nfld h.bits.toNat 0 32)) (signedOf 32 (nfld h.bits.toNat 32 32)))

/-- Window destinations count as TCM (R244). -/
def drainKind (d : DSpace) : DSpace := match d with | .win => .tcm | d => d
def State.drainIss (s : State) (d : PReg) (k : DSpace) : Iss :=
  let ids := (s.tile.copies.filter fun c => drainKind c.f.dsp == k).map (·.id)
  if ids.isEmpty then Iss.put [.p d true] true
  else { Iss.zero with act := .drain d ids, wr := [.p d true], rc := some true, now := [.p d false] }
def execDrainTcm (d : PReg) (s : State) : Out3 := s.fireOp (.drainTcm d) (s.drainIss d .tcm)
def execDrainCsp (d : PReg) (s : State) : Out3 := s.fireOp (.drainCsp d) (s.drainIss d .csp)
def execDrainGlb (d : PReg) (s : State) : Out3 := s.fireOp (.drainGlb d) (s.drainIss d .glb)

end Sys2Proof.Machine
end

