-- ==== Sys2Proof/Machine/Cluster.lean ====
section
/-! DEFINITION. Cluster instructions (R276 to R290): CSP accesses, buffers, neighbour links, `mmr` and the cluster barrier. What the buffer
controllers, links and barriers do afterwards are steps of their own. -/

namespace Sys2Proof.Machine
open Sys2Proof

/-! ## CSP accesses (R277 to R279) -/

def execCld (m : MAddr) (d : LdDst) (s : State) : Out3 := s.fireOp (.cld m d) (s.ldIss .csp m d)
def execCst (m : MAddr) (a : StSrc) (s : State) : Out3 := s.fireOp (.cst m a) (s.stIss .csp m a)
def execCvld (m : MAddr) (d : VDst) (s : State) : Out3 := s.fireOp (.cvld m d) (s.vldIss .csp m d)
def execCvst (m : MAddr) (a : VSrc) (s : State) : Out3 := s.fireOp (.cvst m a) (s.vstIss .csp m a)
def execCamo (m : MAddr) (d : SDst) (o : LAtomic) (s : State) : Out3 := s.fireOp (.camo m d o) (s.atIss .csp m d o)

/-! ## Buffers (R264, R280 to R283) -/

/-- The descriptor that a task buffer index names. -/
def State.bufOf (s : State) (n : Fin 8) : Nat := nfld (s.bmap s.cur s.fire.ctx).toNat (7 * n.val) 6
def Cluster.bufd (k : Cluster) (b : Nat) : Nat := (reg k.regs (0x800 + 8 * b)).toNat
def State.fclus (s : State) : Cluster := s.clus (clusOf s.cur)
def bufBase (d : Nat) : Nat := nfld d 0 20 * 64
def bufLen (d : Nat) : Nat := nfld d 20 14 * 64
def bufDepth (d : Nat) : Nat := nfld d 34 3 + 1
/-- FULL, PUT and GET of a descriptor. -/
def bufFull (d i : Nat) : Bool := nfld d (42 + i) 1 == 1
def bufPut (d : Nat) : Nat := nfld d 50 3
def bufGet (d : Nat) : Nat := nfld d 53 3
/-- The slot a put would fill is empty; the slot a get would empty is full. -/
def bufAvail (d : Nat) (put : Bool) : Bool := if put then !bufFull d (bufPut d) else bufFull d (bufGet d)
/-- An operation of the cluster has claimed a slot of a buffer whose full bit it has not changed yet. -/
def State.bufClaimed (s : State) (k b : Nat) (put : Bool) (slot : Nat) : Bool :=
  (List.range 16).any fun p => (s.tileN (tileAtPos k p)).ops.any fun o => match o.act with
    | .claim b' _ _ wr sl _ => b' == b && wr == put && sl == slot
    | _ => false
def slotPa (d i : Nat) : Nat := bufBase d + i * bufLen d
/-- The slot at PUT, or at GET, can be claimed: its full bit says so, and no claim of it is outstanding (R265). -/
def State.slotFree (s : State) (k b : Nat) (put : Bool) : Bool :=
  let d := (s.clus k).bufd b
  bufAvail d put && !s.bufClaimed k b put (slotPa d (if put then bufPut d else bufGet d))
/-- The descriptor serves this context, with slots long enough for the vector form (R281). -/
def State.bufOk (s : State) (d : Nat) (vec : Bool) : Bool :=
  nfld d 37 1 == 1 && nfld d 38 4 == s.fctx.tenant.toNat && (!vec || decide (4 ≤ nfld d 20 14))
/-- The checks of R281 at the fire, in its order: poison, the TCM range, an unreadable word of a put, the descriptor. A twin that finds no slot at its fire
holds the unit for one cycle (R290). (DEDUCED, log 32.) -/
def State.bufIss (s : State) (b : Nat) (twin : Bool) (d : Nat) (vec put : Bool) (a : Val 64) (ps : List (Option Word)) (x : Iss) : Iss :=
  match firstPois ps with
  | some pl => .trap (s.ptrap pl)
  | none =>
    if !vec && !s.fctx.tcmOk a.bits.toNat (bufLen d) then .trap { s.cause 0x15#8 with loc := a.bits }
    else if !vec && put && s.spBad s.cur .tcm (s.fctx.tcmPa a.bits.toNat) (bufLen d) then .trap { s.cause 0x1a#8 with loc := a.bits }
    else if !s.bufOk d vec then .trap (s.cause 0x18#8)
    else { x with edit := fun t => (if twin && !s.slotFree (clusOf s.cur) b put then
        t.onTile fun u => { u with units := { u.units with mem := s.clock + 1 } } else t).later 3 (.bufferRequest s.cur s.tile.nextId) }
def twinWr (pc : Option PReg) (b : Bool) : List Wr := match pc with | some p => [.p p b] | none => []
def State.bputIss (s : State) (p : PReg) (n : Fin 8) (a : BSrc) (pc : Option PReg) : Iss :=
  let b := s.bufOf n
  let d := s.fclus.bufd b
  match a with
  | .tcm a =>
    let v := s.ss a
    s.bufIss b pc.isSome d false true v [v.payload]
      { Iss.zero with act := .bput p b false none (s.fctx.tcmPa v.bits.toNat) (bufLen d) pc, now := [.p p false] }
  | .vec a =>
    let v := s.vs a
    s.bufIss b pc.isSome d true true (clean 0) [v.payload] { Iss.zero with act := .bput p b true (some (leBytes 256 v.bits.toNat)) 0 256 pc, now := [.p p false] }
def State.bgetIss (s : State) (x : BDst) (n : Fin 8) (pc : Option PReg) : Iss :=
  let b := s.bufOf n
  let d := s.fclus.bufd b
  match x with
  | .tcm p a =>
    let v := s.ss a
    s.bufIss b pc.isSome d false false v [v.payload]
      { Iss.zero with act := .bget x b (s.fctx.tcmPa v.bits.toNat) (bufLen d) pc, now := [.p p false] }
  | .vec _ => s.bufIss b pc.isSome d true false (clean 0) [] { Iss.zero with act := .bget x b 0 256 pc }
def execBput (d : PReg) (n : Fin 8) (a : BSrc) (s : State) : Out3 := s.fireOp (.bput d n a) (s.bputIss d n a none)
def execTrybput (d : PReg) (n : Fin 8) (a : BSrc) (pc : PReg) (s : State) : Out3 := s.fireOp (.trybput d n a pc) (s.bputIss d n a (some pc))
def execBget (d : BDst) (n : Fin 8) (s : State) : Out3 := s.fireOp (.bget d n) (s.bgetIss d n none)
def execTrybget (d : BDst) (n : Fin 8) (pc : PReg) (s : State) : Out3 := s.fireOp (.trybget d n pc) (s.bgetIss d n (some pc))
/-- R283. -/
def execBwait (d : PReg) (n : Fin 8) (empty : Bool) (s : State) : Out3 :=
  s.fireOp (.bwait d n empty)
    { Iss.zero with act := .bwait d (s.bufOf n) empty, wr := [.p d true], rc := some true, now := [.p d false],
                    edit := fun t => t.atEnd (.bufferRequest s.cur s.tile.nextId) }

/-! ## Neighbour links (R284, R285, R268) -/

def opp (d : Fin 4) : Fin 4 := d + 2
/-- The cycle after the last entry of a link is placed. -/
def lastDue (l : List NEnt) : Nat := match l.getLast? with | some x => x.due + 1 | none => 0
/-- Take entries for the link: a credit each, and an arrival two cycles after each leaves, the first `k` cycles from now; one entry leaves in a cycle. A
retired link loses them. -/
def State.linkSend (s : State) (c : Fin 8) (dir : Fin 4) (hold : List Nat) : Nat → List Entry → State
  | _, [] => s
  | k, e :: es =>
    let due := max (s.clock + k + 2) (lastDue s.tile.nlink[dir])
    let s := s.onTile fun t => { t with
      ncred := t.ncred.set dir (t.ncred[dir] - 1)
      nlink := if t.nout.contains dir then t.nlink
               else t.nlink.set dir (t.nlink[dir] ++ [{ e := e, ctx := c, op := s.tile.nextId, hold := hold, due := due, fails := 0 }]) }
    (s.later (due - s.clock) (.neighbourEntryArrival s.cur dir)).linkSend c dir hold (k + 1) es
def State.nsendIss (s : State) (dir : Fin 4) (a : XSrc) (tag : TagSrc) : Iss :=
  let x := s.sendEntries a tag
  match x.2 with
  | some pl => .trap (s.ptrap pl)
  | none => { Iss.put [] true with edit := fun t => t.linkSend s.fire.ctx dir (s.tile.holdIds s.fire.ctx) ((XSrc.time a).2 - 1) x.1 }
def execNsend (dir : Fin 4) (a : XSrc) (tag : TagSrc) (s : State) : Out3 := s.fireOp (.nsend dir a tag) (s.nsendIss dir a tag)
def execTrynsend (dir : Fin 4) (a : XSrc) (tag : TagSrc) (pc : PReg) (s : State) : Out3 :=
  s.fireOp (.trynsend dir a tag pc)
    (if s.tile.ncred[dir] < XSrc.n a then twinNo pc
     else { s.nsendIss dir a tag with wr := [.p pc true] })
/-- Remove entries from a neighbour queue; their credits go back to the neighbour. -/
def State.linkTake (s : State) (dir : Fin 4) (n : Nat) : State :=
  (s.onTile fun t => { t with nq := t.nq.set dir ((t.nq[dir]).drop n),
                              nqBad := t.nqBad.filterMap fun x => if x.1 ≠ dir then some x else if x.2 < n then none else some (dir, x.2 - n) }).atEnd (.linkCredit (neighbour s.cur dir) (opp dir) n)
/-- The first entries of a queue as a rule reads them: one with an uncorrectable error is poison of cause 0x09 (R158, R285). (DEDUCED, log 38.) -/
def State.linkHead (s : State) (dir : Fin 4) (n : Nat) : List Entry :=
  ((s.tile.nq[dir]).take n).zipIdx.map fun x =>
    if s.tile.nqBad.contains (dir, x.2) then Entry.lost (mkPayload causeChan dir.val s.fire.ctx s.env s.clock) x.1 else x.1
def execNrecv (d : XDst) (dir : Fin 4) (s : State) : Out3 :=
  s.fireOp (.nrecv d dir)
    { (moveTo d (s.linkHead dir (XDst.n d))).iss with edit := fun t => t.linkTake dir (XDst.n d) }
def execTrynrecv (d : XDst) (dir : Fin 4) (pc : PReg) (s : State) : Out3 :=
  s.fireOp (.trynrecv d dir pc)
    (if (s.tile.nq[dir]).length < XDst.n d then twinNo pc
     else { (moveTo d (s.linkHead dir (XDst.n d))).twin pc with edit := fun t => t.linkTake dir (XDst.n d) })

/-! ## mmr and cbar (R286 to R288) -/

def execMmr (f : MmaF) (ns : Bool) (s : State) : Out3 :=
  let a0 := s.fctx.s f.sa; let a1 := s.fctx.s (Fin.ofNat 32 (f.sa.val + 1))
  let b0 := s.fctx.s f.sb; let b1 := s.fctx.s (Fin.ofNat 32 (f.sb.val + 1))
  let j := match s.tile.taskOf s.fctx with | some k => k.mmr | none => 0
  let na := f.bytesA; let nb := f.bytesB f.k
  let x := s.matIss (.mmr f ns) [a0, a1, b0, b1, clean (BitVec.ofNat 64 j)] [] []
    [s.rangeStop false a0.bits na, s.rangeStop false a1.bits na, s.rangeStop false b0.bits nb, s.rangeStop false b1.bits nb]
  s.fireOp (.mmr f ns)
    (if ns || x.stop.isSome then x
     else { x with edit := fun t => match s.fctx.task with
                     | some r => t.onTile fun u => u.modTask r fun k => { k with mmr := k.mmr + 1 }
                     | none => t })
def execCbar (d : PReg) (s : State) : Out3 :=
  let n := nfld (s.bmap s.cur s.fire.ctx).toNat 57 3
  s.fireOp (.cbar d) { Iss.zero with act := .cbar d n false false, wr := [.p d true], rc := some true, now := [.p d false] }

end Sys2Proof.Machine
end

