-- ==== Sys2Proof/Machine/Cfg.lean ====
section
/-! DEFINITION. The configuration spaces (R445): which register an address names, what it reads as, which bits a write changes, and when a
write is refused (R162, R163, R176, R177, R179, R257, R306, R355, R409, R415, R416, R419, R421, R423, R439, R446, R492, R507). -/

namespace Sys2Proof.Machine
open Sys2Proof

/-! ## Addresses (R445) -/

/-- A register of a configuration space. Tiles are numbered within the module, clusters as 12 × die + cluster. -/
inductive CfgReg where
  | ctx (tile : Nat) (c : Fin 8) (off : Nat)
  | ibind (tile : Nat) (c : Fin 8) (n : Chan)
  | ebind (tile : Nat) (c : Fin 8) (n : Chan)
  | route (tile n : Nat)
  | win (tile n : Nat)
  | ctr (tile off : Nat)
  | clus (k off : Nat)
  | kiln (die off : Nat)
  | coord (off : Nat)
  | winder (off : Nat)
  | circ (die dst n : Nat)
  | hcirc (die n : Nat)
deriving DecidableEq, Repr

def within (x lo n : Nat) : Bool := decide (lo ≤ x ∧ x < lo + n)
/-- The register that an offset of the tile space names (R162). -/
def tileReg (tile off : Nat) : Option CfgReg :=
  if off < 0x200 then (if off % 0x40 ≤ 0x20 then some (.ctx tile (Fin.ofNat 8 (off / 0x40)) (off % 0x40)) else none)
  else if within off 0x400 0x800 then
    let c := Fin.ofNat 8 ((off - 0x400) / 0x100)
    let r := (off - 0x400) % 0x100
    if r < 0x80 then some (.ibind tile c (Fin.ofNat 16 (r / 8))) else some (.ebind tile c (Fin.ofNat 16 ((r - 0x80) / 8)))
  else if within off 0xc00 0x400 then some (.route tile ((off - 0xc00) / 8))
  else if within off 0x1000 0x20 then some (.win tile ((off - 0x1000) / 8))
  else if within off 0x1020 0x20 then some (.ctr tile off)
  else none
def clusRegOk (off : Nat) : Bool := decide (off < 0xad8)
def kilnRegOk (off : Nat) : Bool := (decide (off < 0x400) && off % 0x40 == 0) || within off 0x800 0x60 || within off 0x880 0x58
def coordRegOk (off : Nat) : Bool :=
  within off 0x1000 0x400 || (within off 0x2000 0x440 && decide (off % 0x40 ≤ 0x28)) || within off 0x3000 0x400
  || (within off 0x4000 0x400 && decide (off % 0x40 ≤ 0x20)) || (within off 0x5000 0x600 && decide (off % 0x40 ≤ 0x18))
  || within off 0x7000 0x800
def winderRegOk (off : Nat) : Bool := (decide (off < 0x400) && decide (off % 0x40 ≤ 0x30)) || within off 0x400 0x18
/-- The register that a configuration address names; none for an address fault. (DEDUCED, log 34.) -/
def cfgReg (a : Nat) : Option CfgReg :=
  let off := nfld a 0 16; let sp := nfld a 16 4; let unit := nfld a 20 8; let die := nfld a 28 3
  if a / 2 ^ 31 ≠ 0 ∨ off % 8 ≠ 0 then none
  else match sp with
    | 0 => if unit < 192 then tileReg (192 * die + unit) off else none
    | 1 => if unit < 12 ∧ clusRegOk off then some (.clus (12 * die + unit) off) else none
    | 2 => if unit = 0 ∧ kilnRegOk off then some (.kiln die off) else none
    | 3 => if unit = 0 ∧ die = 0 ∧ coordRegOk off then some (.coord off) else none
    | 4 => if unit = 0 ∧ die = 0 ∧ winderRegOk off then some (.winder off) else none
    | 5 => if unit < 8 ∧ off < 0x200 then some (.circ die unit (off / 8)) else none
    | 6 => if unit < 8 ∧ die = 0 ∧ off < 0x200 then some (.hcirc unit (off / 8)) else none
    | _ => none

/-! ## Masks of writable bits -/

/-- The bits [lo + len - 1 : lo]. -/
def fm (lo len : Nat) : Word := BitVec.ofNat 64 ((2 ^ len - 1) * 2 ^ lo)
def allBits : Word := BitVec.allOnes 64
/-- DEDUCED, log 37. -/
def cfgMask (r : CfgReg) : Word :=
  match r with
  | .ctx _ _ off =>
    if off = 0 then fm 0 22 ||| fm 24 16 ||| fm 43 9 else if off = 8 then fm 0 18 ||| fm 24 19 else if off = 0x10 then fm 0 20
    else if off = 0x20 then fm 0 11 ||| fm 12 28 else 0
  | .ibind _ _ _ => fm 0 4 ||| fm 16 32
  | .ebind _ _ _ => fm 0 8
  | .route _ _ => fm 0 43
  | .win _ _ => fm 0 32
  | .ctr _ off => if off = 0x1038 then 0 else allBits
  | .clus _ off =>
    if off < 0x800 then (if off % 16 = 0 then fm 0 25 else fm 0 60)
    else if off < 0xa00 then fm 0 56 else if off < 0xa40 then fm 0 22 else if off < 0xac0 then fm 0 16
    else if off < 0xad0 then allBits else 0
  | .kiln _ off =>
    if off < 0x400 then fm 0 52 else if off < 0x880 then 0x7777777777777777#64 else if off < 0x8c0 then fm 0 16 else allBits
  | .coord off =>
    if off < 0x1400 then
      (match off % 0x40 with | 0 => fm 0 25 ||| fm 32 20 | 8 => fm 0 40 | 0x10 => fm 0 27 | _ => 0)
    else if off < 0x2440 then
      (match off % 0x40 with | 0 => fm 0 8 | 8 => fm 12 36 | 0x10 => fm 0 36 | 0x18 => fm 12 36 | 0x20 => allBits | _ => 0)
    else if off < 0x3400 then fm 0 13
    else if off < 0x4400 then (match off % 0x40 with | 0 => fm 6 42 | 8 => fm 0 16 | 0x20 => allBits | _ => 0)
    else if off < 0x5600 then (match off % 0x40 with | 8 => fm 0 4 | 0x10 => allBits | 0x18 => allBits | _ => 0)
    else fm 0 17
  | .winder off =>
    if off < 0x400 then
      (match off % 0x40 with | 0 => fm 0 48 | 8 => fm 0 17 | 0x28 => allBits | 0x30 => allBits | _ => 0)
    else if off < 0x410 then allBits else 0
  | .circ _ _ _ => fm 0 11
  | .hcirc _ _ => fm 0 11
/-- WSTAT.OVF is cleared by writing one. -/
def cfgW1c (r : CfgReg) : Word :=
  match r with
  | .winder off => if off < 0x400 ∧ off % 0x40 = 0x18 then 1 else 0
  | _ => 0

/-! ## Use of quotas (R416) -/

def State.allRecs (s : State) : List TRec := s.dies.flatMap fun d => d.2.recs.map (·.2)
/-- Contexts of a tile that hold a task of a tenant. -/
def Tile.tenantCtxs (t : Tile) (g : BitVec 4) : Nat :=
  ((List.finRange 8).filter fun c => (t.ctx c).task.isSome && (t.ctx c).tenant == g).length
def State.useTiles (s : State) (g : BitVec 4) : Nat := (s.allTiles.filter fun x => x.2.tenantCtxs g != 0).length
def State.useCtxs (s : State) (g : BitVec 4) : Nat := sumL (s.allTiles.map fun x => x.2.tenantCtxs g)
def State.tenantRecs (s : State) (g : BitVec 4) : List TRec := s.allRecs.filter fun r => r.st != .free && r.tenant == g
def State.useRecs (s : State) (g : BitVec 4) : Nat := (s.tenantRecs g).length
def State.useDcnt (s : State) (g : BitVec 4) : Nat := sumL ((s.tenantRecs g).map (·.cnt))
/-- Task requests of a tenant that are not yet answered: those of its tiles that stand outstanding, and the waiting ones among them. -/
def Act.isTaskReq : Act → Bool
  | .req i _ => match i with
    | .tspawn _ _ _ _ => true | .trytspawn _ _ _ _ _ => true | .tenq _ _ => true | .trytenq _ _ _ => true | .tdec _ => true
    | .tinc _ _ _ => true | .tstatus _ _ => true | .tcancel _ _ _ => true | .tparam _ _ => true | .tbound _ => true | _ => false
  | _ => false
def State.useQslot (s : State) (g : BitVec 4) : Nat :=
  ((s.tenantRecs g).filter fun r => r.st == .staging || r.st == .ready).length
  + sumL (s.allTiles.map fun x => (x.2.ops.filter fun o => o.act.isTaskReq && (x.2.ctx o.ctx).tenant == g).length)
def State.useNear (s : State) (g : BitVec 4) : Nat := (s.winder.pages.filter fun p => p.tenant == g && p.frame.isSome).length
/-- Words 0 to 2 of QUSE. -/
def State.quse (s : State) (g : BitVec 4) (w : Nat) : Word :=
  match w with
  | 0 => BitVec.ofNat 64 (s.useTiles g + at_ 11 (s.useCtxs g) + at_ 32 (s.useRecs g))
  | 1 => BitVec.ofNat 64 (s.useDcnt g % 2 ^ 24 + at_ 24 (s.useQslot g % 2 ^ 16))
  | 2 => BitVec.ofNat 64 (s.useNear g)
  | _ => 0

/-! ## Reads -/

/-- DESIGN CHOICE, log 36. -/
def State.cfgGet (s : State) (r : CfgReg) : Word :=
  match r with
  | .ctx n c off =>
    let x := (s.tileN n).ctx c
    if off = 0 then x.ctxcfg else if off = 8 then BitVec.ofNat 64 (x.tbase.toNat + at_ 24 x.tlen.toNat)
    else if off = 0x10 then x.quota.setWidth 64 else if off = 0x18 then x.left.setWidth 64 else x.ag.word
  | .ibind n c ch => (((s.tileN n).ctx c).ib[ch]).word
  | .ebind n c ch => (((s.tileN n).ctx c).eb[ch]).word
  | .route n l => reg (s.tileN n).r.routes l
  | .win n w => reg (s.tileN n).r.win w
  | .ctr n off =>
    let t := (s.tileN n).r
    if off = 0x1020 then t.dropcnt else if off = 0x1028 then t.nackcnt else if off = 0x1030 then t.ecccnt
    else
      let b := b2n (isBisque (dieOf n))
      BitVec.ofNat 64 (b + at_ 1 b + at_ 3 (tileIn n) + at_ 11 (dieOf n))
  | .clus k off => if off = 0xad0 then BitVec.ofNat 64 (k % 12 + at_ 4 (k / 12)) else reg (s.clus k).regs off
  | .kiln d off => reg (s.die d).regs off
  | .coord off =>
    if within off 0x1000 0x400 ∧ 0x20 ≤ off % 0x40 then s.quse (BitVec.ofNat 4 ((off - 0x1000) / 0x40)) ((off % 0x40 - 0x20) / 8)
    else if off = 0x2000 then 1
    else if off = 0x2028 then putFld (reg s.coord.regs off) 0 4 1
    else reg s.coord.regs off
  | .winder off =>
    let g := BitVec.ofNat 4 (off / 0x40)
    if off < 0x400 ∧ off % 0x40 = 0x20 then BitVec.ofNat 64 (s.useNear g)
    else if off < 0x400 ∧ off % 0x40 = 0x18 then
      BitVec.ofNat 64 (nfld (reg s.winder.regs off).toNat 0 1 + at_ 1 ((s.winder.moves.filter fun m => m.tenant == g && m.ends.isSome).map (·.vpn)).eraseDups.length)
    else reg s.winder.regs off
  | .circ d t n => reg (s.die d).circ (64 * t + n)
  | .hcirc d n => reg s.hearth.circ (64 * d + n)
def State.cfgRead (s : State) (a : Nat) : Option Word := (cfgReg a).map s.cfgGet

/-! ## Writes -/

/-- DEDUCED, log 37. -/
def Ctx.setCfg (x : Ctx) (off : Nat) (w : Word) : Ctx :=
  if off = 0 then { x with cfg := CtxCfg.ofWord w }
  else if off = 8 then { x with tbase := w.extractLsb' 0 18, tlen := w.extractLsb' 24 19 }
  else if off = 0x10 then { x with quota := w.extractLsb' 0 20 }
  else if off = 0x20 then { x with ag := AgMap.ofWord w }
  else x
/-- Store a register's new value. (DESIGN CHOICE, log 36; DEDUCED, log 37.) -/
def State.cfgPut (s : State) (r : CfgReg) (w : Word) : State :=
  match r with
  | .ctx n c off => s.modTile n fun t => t.modCtx c fun x => x.setCfg off w
  | .ibind n c ch => s.modTile n fun t => t.modCtx c fun x => { x with ib := x.ib.set ch (IBind.ofWord w) }
  | .ebind n c ch => s.modTile n fun t => t.modCtx c fun x => { x with eb := x.eb.set ch (EBind.ofWord w) }
  | .route n l => s.modTile n fun t => { t with r := { t.r with routes := setReg t.r.routes l w } }
  | .win n i => s.modTile n fun t => { t with r := { t.r with win := setReg t.r.win i w } }
  | .ctr n off => s.modTile n fun t =>
    { t with r := if off = 0x1020 then { t.r with dropcnt := w } else if off = 0x1028 then { t.r with nackcnt := w }
                  else if off = 0x1030 then { t.r with ecccnt := w } else t.r }
  | .clus k off =>
    let s := s.modClus k fun x => { x with regs := setReg x.regs off w }
    if 0x800 ≤ off ∧ off < 0xa00 then { s with queue := qinsert s.clock (.fullBitChange k (Fin.ofNat 64 ((off - 0x800) / 8))) s.queue } else s
  | .kiln d off => s.modDie d fun x => { x with regs := setReg x.regs off w }
  | .coord off => { s with coord := { s.coord with regs := setReg s.coord.regs off w } }
  | .winder off => { s with winder := { s.winder with regs := setReg s.winder.regs off w } }
  | .circ d t n => s.modDie d fun x => { x with circ := setReg x.circ (64 * t + n) w }
  | .hcirc d n => { s with hearth := { s.hearth with circ := setReg s.hearth.circ (64 * d + n) w } }

def State.ctxFree (s : State) (n : Nat) (c : Fin 8) : Bool := ((s.tileN n).ctx c).st == .free
def Tile.placed (t : Tile) : Bool := (List.finRange 8).any fun c => (t.ctx c).task.isSome
/-- The tiles of register TDOM j whose field a write would change hold no placed task (R419). -/
def State.tdomOk (s : State) (d j : Nat) (w : Word) : Bool :=
  (List.range 16).all fun i =>
    nfld w.toNat (4 * i) 3 == nfld (reg (s.die d).regs (0x800 + 8 * j)).toNat (4 * i) 3 || !(s.tileN (192 * d + 16 * j + i)).placed
/-- A tag other than 0 has a placed task (R306, R445). -/
def State.tenantPlaced (s : State) : Bool :=
  s.allTiles.any fun x => (List.finRange 8).any fun c => (x.2.ctx c).task.isSome && (x.2.ctx c).tenant != 0
/-- `cfgw` is not refused (R445). -/
def State.cfgAllowed (s : State) (r : CfgReg) (w : Word) : Bool :=
  match r with
  | .ctx n c _ => s.ctxFree n c
  | .ibind n c _ => s.ctxFree n c
  | .ebind n c _ => s.ctxFree n c
  | .clus k off =>
    if off < 0x800 then s.ctxFree (tileAtPos k (off / 0x80)) (Fin.ofNat 8 (off / 0x10)) else true
  | .kiln d off =>
    if off < 0x400 then !s.coord.retiring.contains (off / 0x40)
    else if within off 0x800 0x60 then s.tdomOk d ((off - 0x800) / 8) w else true
  | .coord off => if within off 0x1000 0x400 && decide (off % 0x40 < 0x20) then !s.coord.retiring.contains ((off - 0x1000) / 0x40) else true
  | .winder off => if off < 0x400 then !s.coord.retiring.contains (off / 0x40) else true
  | .circ _ _ _ => !s.tenantPlaced
  | .hcirc _ _ => !s.tenantPlaced
  | _ => true

/-! ## VFs (R415, R423) -/

def State.coReg (s : State) (off : Nat) : Nat := (reg s.coord.regs off).toNat
def State.setCo (s : State) (off : Nat) (w : Word) : State := { s with coord := { s.coord with regs := setReg s.coord.regs off w } }
def State.putCo (s : State) (off lo len x : Nat) : State := s.setCo off (putFld (reg s.coord.regs off) lo len x)
/-- The valid entries of a domain's plan, as SPLAN holds it: (tag, ms). -/
def State.splan (s : State) (d : Nat) : List (Nat × Nat) :=
  ((List.range 16).map fun i => s.coReg (0x3000 + 0x80 * d + 8 * i)).filterMap fun e =>
    if nfld e 12 1 = 1 then some (nfld e 0 4, nfld e 4 8) else none
def ktenOff (t : BitVec 4) : Nat := 0x40 * t.toNat
def State.kten (s : State) (die : Nat) (t : BitVec 4) : Nat := (reg (s.die die).regs (ktenOff t)).toNat
/-- PHI of a tenant: die 0's copy stands for the eight that the coordinator writes alike (R423). (DESIGN CHOICE, log 103.) -/
def State.phi (s : State) (t : BitVec 4) : Nat := nfld (s.kten 0 t) 36 8
/-- The tenant is time-sliced (R430). Tag 0 is while domain 0 has a plan: alone in the module it never gives its tiles up. (DEDUCED, log 94.) -/
def State.sliced (s : State) (t : BitVec 4) : Bool := s.phi t != 255 && (t != 0 || !(s.splan 0).isEmpty)
def vfBlk (n : Nat) : Nat := 0x2000 + 0x40 * n
def State.vfEn (s : State) (n : Nat) : Bool := nfld (s.vf n 0) 0 1 == 1
def State.vfTag (s : State) (n : Nat) : Nat := nfld (s.vf n 0) 1 4
def State.vfState (s : State) (n : Nat) : Nat := nfld (s.vf n 0x28) 0 3
/-- Setting EN is refused (R415). -/
def State.vfRefused (s : State) (n tag dom : Nat) : Bool :=
  tag == 0 || decide (s.saloc.cfg.vfs < n) || s.coord.retiring.contains tag
  || (List.range 16).any (fun m => m + 1 != n && s.vfEn (m + 1) && s.vfTag (m + 1) == tag)
  || nfld (s.vf n 0x10) 0 36 == 0
  || (match s.splan dom with | [(t, _)] => t != tag | _ => false)
/-- Enable VF `n` with a tag and a domain. -/
def State.vfEnable (s : State) (n tag dom : Nat) : State :=
  let s := (s.putCo (vfBlk n) 1 4 tag).putCo (vfBlk n) 5 3 dom
  if s.vfRefused n tag dom then s.putCo (vfBlk n + 0x28) 3 1 1
  else ((s.putCo (vfBlk n) 0 1 1).putCo (vfBlk n + 0x28) 3 1 0).putCo (vfBlk n + 0x28) 0 3 2
/-- A write of VFCTL: TAG and DOM only while EN is 0; a change of EN is taken as a step of its own. -/
def State.vfctlWrite (s : State) (n : Nat) (w : Word) : State :=
  if n = 0 then s
  else if s.vfEn n then
    if nfld w.toNat 0 1 = 0 then s.atEnd (.vfctlTeardown n) else s.putCo (vfBlk n + 0x28) 3 1 0
  else if nfld w.toNat 0 1 = 1 then s.push [.vfctlEnable n (nfld w.toNat 1 4) (nfld w.toNat 5 3)]
  else ((s.putCo (vfBlk n) 1 4 (nfld w.toNat 1 4)).putCo (vfBlk n) 5 3 (nfld w.toNat 5 3)).putCo (vfBlk n + 0x28) 3 1 0

/-- The value that a write leaves (R7). -/
def cfgNew (r : CfgReg) (old w : Word) : Word := ((old &&& ~~~(cfgMask r)) ||| (w &&& cfgMask r)) &&& ~~~(w &&& cfgW1c r)
/-- A configuration write: none when it is refused. -/
def State.cfgWrite (s : State) (r : CfgReg) (w : Word) : Option State :=
  if !s.cfgAllowed r w then none
  else match r with
    | .coord off =>
      if within off 0x2000 0x440 ∧ off % 0x40 = 0 then some (s.vfctlWrite ((off - 0x2000) / 0x40) w)
      else if off < 0x2440 ∧ 0x2000 ≤ off ∧ off < 0x2040 ∧ off % 0x40 = 0x28 then some s
      else some (s.cfgPut r (cfgNew r (s.cfgGet r) w))
    | r => some (s.cfgPut r (cfgNew r (s.cfgGet r) w))

end Sys2Proof.Machine
end

