-- ==== Sys2Proof/Machine/Global.lean ====
section
/-! DEFINITION. Global accesses, fences, order tokens, joins, prefetch, and the task, fabric and system forms (R362 to R384, R443 to R453,
R503 to R512): what their rules do when they fire. Each sends a request; what it does at its home is a step of that home. -/

namespace Sys2Proof.Machine
open Sys2Proof

/-! ## Global accesses (R362 to R368) -/

/-- A global access by its rule: poison, then the address, are checked at the fire (R363). -/
def State.glbIss (s : State) (m : MAddr) (op : MemOp) (n align : Nat) (ps : List (Option Word)) : Iss :=
  let a := s.maddr m
  match firstPois (s.basePl m :: ps) with
  | some pl => .trap (s.ptrapM m pl)
  | none =>
    if a < 0 ∨ (2 : Int) ^ 48 ≤ a ∨ a % (align : Int) ≠ 0 then .trap { s.cause 0x18#8 with loc := BitVec.ofInt 64 a }
    else { Iss.zero with act := .mem { sp := .glb, op := op, addr := a, size := n, ord := m.ord, scope := m.scope, label := none, pa := [], sent := false, home := 0 } }
def execLdg (m : MAddr) (d : LdDst) (s : State) : Out3 := s.fireOp (.ldg m d) (s.glbIss m (.ld d) (LdDst.bytes d) (LdDst.bytes d) [])
def execStg (m : MAddr) (a : StSrc) (s : State) : Out3 :=
  s.fireOp (.stg m a) (s.glbIss m (.st (s.stVal a).1) (StSrc.bytes a) (StSrc.bytes a) [(s.stVal a).2])
def execVldg (m : MAddr) (d : VDst) (s : State) : Out3 := s.fireOp (.vldg m d) (s.glbIss m (.vld d) 256 16 [])
def execVstg (m : MAddr) (a : VSrc) (s : State) : Out3 :=
  s.fireOp (.vstg m a) (s.glbIss m (.st (leBytes 256 (s.vs a).bits.toNat)) 256 16 [(s.vs a).payload])
def execAmo (m : MAddr) (o : RmwOp) (d : SDst) (a : SSrc) (s : State) : Out3 :=
  s.fireOp (.amo m o d a) (s.glbIss m (s.latOp d (.rmw o a)).1 8 8 [(s.latOp d (.rmw o a)).2])
def execCas (m : MAddr) (d : SDst) (a : PSrc) (s : State) : Out3 :=
  s.fireOp (.cas m d a) (s.glbIss m (s.latOp d (.cas a)).1 8 8 [(s.latOp d (.cas a)).2])
def execAincBound (m : MAddr) (d : SDst) (a : SSrc) (s : State) : Out3 :=
  s.fireOp (.aincBound m d a) (s.glbIss m (s.latOp d (.binc a)).1 8 8 [(s.latOp d (.binc a)).2])

/-! ## Fences, tokens, joins, prefetch (R369 to R373) -/

/-- A fence at ctx scope holds nothing. -/
def execFence (scope : Scope) (s : State) : Out3 :=
  s.fireOp (.fence scope) (if scope = .ctx then .zero else { Iss.zero with act := .fence scope })
def execOtpub (n : Fin 16) (s : State) : Out3 := s.fireOp (.otpub n) { Iss.zero with act := .otpub n.val }
/-- A route-table entry (R176). -/
def Tile.route (t : Tile) (l : BitVec 7) : Nat := (reg t.r.routes l.toNat).toNat
def rKind (e : Nat) : Nat := nfld e 0 2
def rVn (e : Nat) : Nat := nfld e 2 3
def rMod (e : Nat) : Nat := nfld e 5 12
def rDie (e : Nat) : Nat := nfld e 17 3
def rTile (e : Nat) : Nat := 192 * nfld e 17 3 + nfld e 20 8
def rCtx (e : Nat) : Fin 8 := Fin.ofNat 8 (nfld e 28 3)
def rChan (e : Nat) : Chan := Fin.ofNat 16 (nfld e 31 4)
def rWin (e : Nat) : Fin 4 := Fin.ofNat 4 (nfld e 31 2)
def rGen (e : Nat) : BitVec 2 := BitVec.ofNat 2 (nfld e 35 2)
def rCirc (e : Nat) : BitVec 6 := BitVec.ofNat 6 (nfld e 37 6)
/-- The stop of an invalid route. -/
def State.badRoute (s : State) (l : BitVec 7) : StopInfo := { s.cause 0x17#8 with chlab := l.setWidth 8 }
def execOtpubCirc (label : BitVec 7) (idx : Fin 8) (s : State) : Out3 :=
  let k := rKind (s.tile.route label)
  s.fireOp (.otpubCirc label idx)
    (if k = 1 ∨ k = 2 then { Iss.zero with act := .circ label idx } else .trap (s.badRoute label))
def execOtwait (d : PReg) (n : Fin 16) (s : State) : Out3 :=
  let k := s.tile.tokFired s.fctx n.val
  let met := match s.tile.taskOf s.fctx with | some t => t.met n.val k | none => true
  s.fireOp (.otwait d n)
    (if met then Iss.put [.p d true] true
     else { Iss.zero with act := .otwait d n.val k, wr := [.p d true], rc := some true, now := [.p d false] })
def execJoin (d : PReg) (mask : BitVec 8) (s : State) : Out3 :=
  s.fireOp (.join d mask) { Iss.zero with act := .join d mask, wr := [.p d true], rc := some true, now := [.p d false] }

/-! ## Requests (R374, R443, R503) -/

/-- The operand of a request that is an address, an offset or a configuration address; 0 for the others. -/
def reqWhere (i : Instr) (vals : List (Val 64)) : Val 64 :=
  match i with
  | .cfgw _ _ _ => vals.headD (clean 0)
  | .swr _ _ _ => vals.headD (clean 0)
  | .ctxw _ _ _ _ => vals.getD 1 (clean 0)
  | .wtouch _ _ _ => vals.getD 1 (clean 0)
  | .xinv _ _ _ _ _ => vals.getD 1 (clean 0)
  | .pfg _ o _ => let b := vals.headD (clean 0); { b with bits := if b.pois then b.bits else BitVec.ofInt 64 (b.bits.toNat + o.toInt) }
  | _ => clean 0
/-- A request with its operands: a poisoned one is trapped, an illegal one stops, and nothing leaves (R374, R443, R503). -/
def State.reqIss (s : State) (i : Instr) (vals : List (Val 64)) (stop : Option StopInfo) (now : List Wr) : Iss :=
  match firstPois (vals.map (·.payload)) with
  | some pl => .trap (s.ptrapAt (reqWhere i vals) pl)
  | none =>
    match stop with
    | some x => .trap x
    | none => { Iss.zero with act := .req i (vals.map (·.bits)), now := now }
def State.baseVal (s : State) (m : SReg) : Val 64 := s.fctx.s m
def execPfg (base : SReg) (off : BitVec 22) (a : SSrc) (s : State) : Out3 :=
  s.fireOp (.pfg base off a) (s.reqIss (.pfg base off a) [s.baseVal base, s.ss a] none [])
def execTspawn (d : SReg) (a b c : SSrc) (s : State) : Out3 :=
  s.fireOp (.tspawn d a b c) (s.reqIss (.tspawn d a b c) [s.ss a, s.ss b, s.ss c] none [])
def execTrytspawn (d : SReg) (a b c : SSrc) (pc : PReg) (s : State) : Out3 :=
  s.fireOp (.trytspawn d a b c pc) (s.reqIss (.trytspawn d a b c pc) [s.ss a, s.ss b, s.ss c] none [])
/-- The launch record at a TCM offset (R376). -/
def State.tenqIss (s : State) (i : Instr) (a : Val 64) : Iss :=
  let o := a.bits.toNat
  match a.payload with
  | some pl => .trap (s.ptrap pl)
  | none =>
    if o % 64 ≠ 0 then .trap { s.cause 0x18#8 with loc := a.bits }
    else if !s.fctx.tcmOk o 64 then .trap { s.cause 0x15#8 with loc := a.bits }
    else if s.spBad s.cur .tcm (s.fctx.tcmPa o) 64 then .trap (s.ptrapAt a (s.pay causeEcc))
    else
      { Iss.zero with
        act := .req i ((List.range 8).map fun k => BitVec.ofNat 64 (leNat (s.spBytes s.cur .tcm (s.fctx.tcmPa o + 8 * k) 8)))
        edit := fun t => t.spFix s.cur .tcm (s.fctx.tcmPa o) 64 }
/-- DEDUCED, log 35. -/
def execTenq (d : SDst) (a : SSrc) (s : State) : Out3 := s.fireOp (.tenq d a) (s.tenqIss (.tenq d a) (s.ss a))
def execTrytenq (d : SDst) (a : SSrc) (pc : PReg) (s : State) : Out3 := s.fireOp (.trytenq d a pc) (s.tenqIss (.trytenq d a pc) (s.ss a))
def execTdec (a : SSrc) (s : State) : Out3 := s.fireOp (.tdec a) (s.reqIss (.tdec a) [s.ss a] none [])
def execTinc (d : PReg) (a b : SSrc) (s : State) : Out3 :=
  s.fireOp (.tinc d a b) (s.reqIss (.tinc d a b) [s.ss a, s.ss b] none [.p d false])
def execTstatus (d : SDst) (a : SSrc) (s : State) : Out3 := s.fireOp (.tstatus d a) (s.reqIss (.tstatus d a) [s.ss a] none [])
def execTcancel (d : PReg) (a b : SSrc) (s : State) : Out3 :=
  s.fireOp (.tcancel d a b) (s.reqIss (.tcancel d a b) [s.ss a, s.ss b] none [.p d false])
def execTparam (d : SDst) (a : SSrc) (s : State) : Out3 := s.fireOp (.tparam d a) (s.reqIss (.tparam d a) [s.ss a] none [])
/-- DEDUCED, log 64. -/
def execTbound (d : SDst) (s : State) : Out3 := s.fireOp (.tbound d) (s.reqIss (.tbound d) [] none [])

/-! ## Fabric (R504 to R510) -/

def State.rsendIss (s : State) (label : BitVec 7) (a : XSrc) (tag : TagSrc) (pc : Option PReg) : Iss :=
  let x := s.sendEntries a tag
  match x.2 with
  | some pl => .trap { s.ptrap pl with chlab := label.setWidth 8 }
  | none =>
    if rKind (s.tile.route label) ≠ 1 then .trap (s.badRoute label)
    else { Iss.zero with act := .rsend label x.1 pc false, rc := some true }
def execRsend (label : BitVec 7) (a : XSrc) (tag : TagSrc) (s : State) : Out3 := s.fireOp (.rsend label a tag) (s.rsendIss label a tag none)
def execTryrsend (label : BitVec 7) (a : XSrc) (tag : TagSrc) (pc : PReg) (s : State) : Out3 :=
  s.fireOp (.tryrsend label a tag pc) (s.rsendIss label a tag (some pc))
def execRstore (label : BitVec 7) (m : MAddr) (a : SSrc) (s : State) : Out3 :=
  let d := s.maddr m
  let k := rKind (s.tile.route label)
  s.fireOp (.rstore label m a)
    (match firstPois [s.basePl m, (s.ss a).payload] with
     | some pl => .trap { s.ptrapM m pl with chlab := label.setWidth 8 }
     | none =>
       if k ≠ 2 ∧ k ≠ 3 then .trap (s.badRoute label)
       else if d % 8 ≠ 0 then .trap { s.cause 0x18#8 with loc := BitVec.ofInt 64 d }
       else { Iss.zero with act := .mem { sp := .glb, op := .st (leBytes 8 (s.ss a).bits.toNat), addr := d, size := 8, ord := m.ord, scope := m.scope, label := some label, pa := [], sent := false, home := 0 } })
/-- A count wider than its field stops the context; a count of 0 sends nothing (R506). -/
def execRdec (a b : SSrc) (s : State) : Out3 :=
  let n := (s.ss b).bits
  let x := s.reqIss (.rdec a b) [s.ss a, s.ss b] (if n.toNat < 65536 then none else some { s.cause 0x18#8 with loc := n }) []
  s.fireOp (.rdec a b) (if x.stop.isNone && n == 0 then .zero else x)
/-- B of a group form (R508): ROOT only for a broadcast, nothing above it. (DESIGN CHOICE, log 67.) -/
def State.groupStop (s : State) (b : Word) (root : Bool) : Option StopInfo :=
  if b.toNat < (if root then 512 else 256) then none else some (s.cause 0x23#8)
def State.groupIss (s : State) (i : Instr) (b : Val 64) (more : List (Val 64)) (root : Bool) (now : List Wr) : Iss :=
  { s.reqIss i (b :: more) (s.groupStop b.bits root) now with
    act := match (s.reqIss i (b :: more) (s.groupStop b.bits root) now).act with | .req i v => .group i v | x => x }
def execPbar (d : PReg) (b : SSrc) (s : State) : Out3 := s.fireOp (.pbar d b) (s.groupIss (.pbar d b) (s.ss b) [] false [.p d false])
def execPcomb (op : CombOp) (d : SDst) (a b : SSrc) (s : State) : Out3 :=
  s.fireOp (.pcomb op d a b) (s.groupIss (.pcomb op d a b) (s.ss b) [s.ss a] false [])
def execPbcast (d : SDst) (a b : SSrc) (s : State) : Out3 :=
  s.fireOp (.pbcast d a b) (s.groupIss (.pbcast d a b) (s.ss b) [s.ss a] true [])
def ctxidOf (n : Nat) (c : Fin 8) : Nat := c.val + at_ 3 (tileIn n) + at_ 11 (dieOf n)
def execPabort (b : SSrc) (s : State) : Out3 :=
  s.fireOp (.pabort b)
    (match (s.ss b).payload with
     | some pl => .trap (s.ptrap pl)
     | none =>
       match s.groupStop (s.ss b).bits false with
       | some x => .trap x
       | none => .ed fun t => t.atEnd (.abortMarker ((s.ss b).bits.setWidth 8) s.cur (ctxidOf s.cur s.fire.ctx)))

/-! ## System (R443 to R453) -/

/-- Bits of an operand from `n` on must be zero (R444). -/
def State.hiStop (s : State) (x : Word) (n : Nat) : Option StopInfo :=
  if x.toNat < 2 ^ n then none else some { s.cause 0x22#8 with loc := x }
def State.cfgStop (s : State) (a : Word) : Option StopInfo :=
  if (cfgReg a.toNat).isSome then none else some { s.cause 0x22#8 with loc := a }
def execCfgr (d : SDst) (a : SSrc) (s : State) : Out3 := s.fireOp (.cfgr d a) (s.reqIss (.cfgr d a) [s.ss a] (s.cfgStop (s.ss a).bits) [])
def execCfgw (d : PReg) (a b : SSrc) (s : State) : Out3 :=
  s.fireOp (.cfgw d a b) (s.reqIss (.cfgw d a b) [s.ss a, s.ss b] (s.cfgStop (s.ss a).bits) [.p d false])
/-- DEDUCED, log 13. -/
def execVfsetEnable (d : SDst) (a b : SSrc) (s : State) : Out3 :=
  s.fireOp (.vfsetEnable d a b)
    (s.reqIss (.vfsetEnable d a b) [s.ss a, s.ss b] (firstStop [s.hiStop (s.ss a).bits 5, s.hiStop (s.ss b).bits 1]) [])
/-- DEDUCED, log 13. -/
def execVfsetTeardown (d : SDst) (a b : SSrc) (s : State) : Out3 :=
  s.fireOp (.vfsetTeardown d a b)
    (s.reqIss (.vfsetTeardown d a b) [s.ss a, s.ss b] (firstStop [s.hiStop (s.ss a).bits 5, s.hiStop (s.ss b).bits 1]) [])
/-- DEDUCED, log 65. -/
def execQuota (d : SDst) (a b : SSrc) (s : State) : Out3 :=
  s.fireOp (.quota d a b) (s.reqIss (.quota d a b) [s.ss a, s.ss b] (s.hiStop (s.ss a).bits 6) [])
def execWtouch (d : SDst) (a b : SSrc) (s : State) : Out3 :=
  s.fireOp (.wtouch d a b) (s.reqIss (.wtouch d a b) [s.ss a, s.ss b] (s.hiStop (s.ss a).bits 4) [])
def State.wresIss (s : State) (i : Instr) (a b : SSrc) : Iss := s.reqIss i [s.ss a, s.ss b] (s.hiStop (s.ss a).bits 4) []
def execWresMobile (d : SDst) (a b : SSrc) (s : State) : Out3 := s.fireOp (.wresMobile d a b) (s.wresIss (.wresMobile d a b) a b)
def execWresFixed (d : SDst) (a b : SSrc) (s : State) : Out3 := s.fireOp (.wresFixed d a b) (s.wresIss (.wresFixed d a b) a b)
def execWresUp (d : SDst) (a b : SSrc) (s : State) : Out3 := s.fireOp (.wresUp d a b) (s.wresIss (.wresUp d a b) a b)
def execWresDown (d : SDst) (a b : SSrc) (s : State) : Out3 := s.fireOp (.wresDown d a b) (s.wresIss (.wresDown d a b) a b)
/-- DEDUCED, log 13. -/
def execWresQuery (code : Fin 4) (d : SDst) (a b : SSrc) (s : State) : Out3 :=
  s.fireOp (.wresQuery code d a b) (s.wresIss (.wresQuery code d a b) a b)
def execCsave (d : SDst) (a b : SSrc) (s : State) : Out3 :=
  s.fireOp (.csave d a b) (s.reqIss (.csave d a b) [s.ss a, s.ss b] (s.hiStop (s.ss b).bits 1) [])
def execCrest (d : SDst) (a : SSrc) (s : State) : Out3 := s.fireOp (.crest d a) (s.reqIss (.crest d a) [s.ss a] none [])
def execCtxw (d : SDst) (a b c : SSrc) (s : State) : Out3 :=
  s.fireOp (.ctxw d a b c) (s.reqIss (.ctxw d a b c) [s.ss a, s.ss b, s.ss c] none [])
def execXinv (range : Fin 3) (d : PReg) (a b c : SSrc) (s : State) : Out3 :=
  s.fireOp (.xinv range d a b c)
    (s.reqIss (.xinv range d a b c) [s.ss a, s.ss b, s.ss c] (firstStop [s.hiStop (s.ss a).bits 4, s.hiStop (s.ss c).bits 9]) [.p d false])
def execFqpop (d : VReg) (a : SSrc) (s : State) : Out3 :=
  s.fireOp (.fqpop d a) (s.reqIss (.fqpop d a) [s.ss a] (s.hiStop (s.ss a).bits 4) [])
def execMtret (d : SDst) (a b : SSrc) (s : State) : Out3 :=
  s.fireOp (.mtret d a b) (s.reqIss (.mtret d a b) [s.ss a, s.ss b] none [])
/-- A physical word address (R453). -/
def State.physStop (s : State) (a : Word) : Option StopInfo :=
  if a.toNat < 2 ^ 48 ∧ a.toNat % 8 = 0 ∧ (memHome a.toNat).isSome then none else some { s.cause 0x22#8 with loc := a }
def execSrd (d : SDst) (a : SSrc) (s : State) : Out3 := s.fireOp (.srd d a) (s.reqIss (.srd d a) [s.ss a] (s.physStop (s.ss a).bits) [])
def execSwr (d : PReg) (a b : SSrc) (s : State) : Out3 :=
  s.fireOp (.swr d a b) (s.reqIss (.swr d a b) [s.ss a, s.ss b] (s.physStop (s.ss a).bits) [.p d false])

end Sys2Proof.Machine
end

