-- ==== Sys2Proof/Machine/Finish.lean ====
section
/-! DEFINITION. How an operation that takes more than one cycle ends (R28, R133, R244, R331, R334, R369 to R372): its writeback, and the
waits that other operations make on it. -/

namespace Sys2Proof.Machine
open Sys2Proof

/-! ## The writeback of an outstanding operation -/

def addEnts : List (Chan × Nat) → Chan → Nat → List (Chan × Nat)
  | [], ch, n => [(ch, n)]
  | (c, k) :: l, ch, n => if c = ch then (c, k + n) :: l else (c, k) :: addEnts l ch n
/-- Entries that `d` holds more than `c` in bound egress channels. -/
def Ctx.added (c d : Ctx) : List (Chan × Nat) :=
  ((List.finRange 16).map fun ch => (ch, if (d.eb[ch]).bv then (d.egr[ch]).length - (c.egr[ch]).length else 0)).filter fun x => x.2 != 0
def Tile.opN (t : Tile) (id : Nat) : Option Op := t.ops.find? fun o => o.id == id
def Tile.dropOp (t : Tile) (id : Nat) : Tile := { t with ops := t.ops.filter fun q => q.id != id }
def Tile.setOp (t : Tile) (o : Op) : Tile := { t with ops := t.ops.map fun q => if q.id = o.id then o else q }
/-- The operation writes back and is outstanding no longer; its publication completes. Entries it appends stand ahead of the releases and fences fired after it. -/
def Tile.finish (t : Tile) (o : Op) (clk : Nat) : Tile :=
  let c := t.ctx o.ctx
  let d := Op.write o clk c
  let more := c.added d
  let ops := (t.ops.filter fun q => q.id != o.id).map fun q =>
    if q.ctx == o.ctx && decide (o.id < q.id) then { q with ents := more.foldl (fun l x => addEnts l x.1 x.2) q.ents } else q
  Tile.tokDone { t.setCtx o.ctx d with ops := ops } c o.pt.1 o.pt.2
def wrRs : Wr → Bool | .sys .amode x => x.extractLsb' 0 3 == 5#3 | _ => false
/-- The writeback sets AMODE.RND to 101; a trapped poison writes nothing (R69, R159). -/
def Op.setsRs (o : Op) : Bool := o.wr.any wrRs && !(o.hard && o.poison.isSome)
/-- A result that is found only after the fire, and that sets AMODE.RND to 101 on a Bisque tile, is held: its rule's migrate trap is raised then, and it
is written on the Glaze tile (R69). (DEDUCED, log 81.) -/
def State.rsHeld (s : State) (o : Op) : Bool :=
  isBisque (dieOf s.cur) && o.setsRs && (match o.act with | .plain => true | _ => false)
  && (match (s.tile.ctx o.ctx).ctl.ending with | .done _ => false | .hand => false | _ => true)
/-- The task of a held result migrates. -/
def State.rsTrap (s : State) (o : Op) : State :=
  if (s.tile.ctx o.ctx).ctl.ending = .none then s.atEnd (.lateMigrateTrap s.cur o.ctx o.slot) else s
def State.retire (s : State) (o : Op) : State :=
  if s.rsHeld { o with act := .plain } then (s.onTile fun t => t.setOp { o with act := .plain, due := some s.clock }).rsTrap o
  else s.onTile fun t => t.finish o s.clock
/-- The operation ends with a stop of its context and writes nothing. -/
def State.failOp (s : State) (o : Op) (i : StopInfo) : State :=
  s.onTile fun t => (t.dropOp o.id).modCtx o.ctx fun c => c.stop i
/-- A stop that an operation meets after its fire. -/
def State.opCause (s : State) (o : Op) (cause : BitVec 8) : StopInfo := StopInfo.mk0 cause o.slot.toNat s.clock

/-! ## Waits -/

/-- The publications that an engine command or a matrix operation waits for are complete (R331). -/
def Tile.tokMet (t : Tile) (c : Fin 8) (n k : Nat) : Bool :=
  n == 0 || match t.taskOf (t.ctx c) with | some x => x.met n k | none => true
def maskHas (m : BitVec 8) (i : Fin 8) : Bool := m.getLsbD i.val
/-- Every arrival token of the mask has been delivered, and no earlier join of the context waits for one of them (R334, R372). -/
def Tile.joinReady (t : Tile) (o : Op) (m : BitVec 8) : Bool :=
  (List.finRange 8).all (fun i => !maskHas m i || ((t.ctx o.ctx).arr[i]) != 0)
  && (t.before o.id).all fun p => match p.act with | .join _ k => p.ctx != o.ctx || k &&& m == 0 | _ => true
/-- The copies of a drain are complete (R244). -/
def Tile.drained (t : Tile) (ids : List Nat) : Bool := t.copies.all fun c => c.dead || !ids.contains c.id
def Op.isDue (o : Op) (clk : Nat) : Bool := match o.due with | some d => decide (d ≤ clk) | none => false
/-- The bytes of the CSP that a put may fill lie under the access: they stand in fire order (R324). -/
def State.bufClash (s : State) (n : Nat) (o : Op) (m : MemAcc) : Bool :=
  m.sp == .csp && ((s.tileN n).before o.id).any fun p => p.ctx == o.ctx && match p.act with
    | .bput _ b _ _ _ _ _ =>
      let d := (s.clus (clusOf n)).bufd b
      decide (m.addr < ((bufBase d + bufDepth d * bufLen d : Nat) : Int) ∧ (bufBase d : Int) < m.addr + m.size)
    | _ => false
/-- TCM bytes that the context's own stores through a window reach: they stand in fire order with its accesses to them (R324). -/
def State.winRange (s : State) (c : Fin 8) (l : BitVec 7) (off : Nat) : Option Nat :=
  let e := s.tile.route l
  if rKind e = 2 ∧ rMod e = s.own ∧ rTile e = s.cur ∧ ((s.tile.ctx c).task).isSome then
    let w := (reg s.tile.r.win (rWin e).val).toNat
    some ((s.tile.ctx (Fin.ofNat 8 (nfld w 1 3))).tbase.toNat + nfld w 8 12 * 64 + off)
  else none
/-- Two accesses of a context to the TCM, one of them through a window, share a byte. (DEDUCED, log 27.) -/
def State.winMeets (s : State) (c : Fin 8) (q m : MemAcc) : Bool :=
  match q.label with
  | none => false
  | some l => m.sp == .tcm && match s.winRange c l (q.addr % 2 ^ 64).toNat with
    | none => false
    | some p => (match m.op with | .gath _ _ => true | .scat _ _ => true | _ => decide ((p : Int) < m.addr + m.size ∧ m.addr < (p + q.size : Nat)))
/-- An earlier access of the context that the window of one of them leads to the other's bytes is not performed (R324). (DEDUCED, log 27.) -/
def State.winHeld (s : State) (o : Op) (m : MemAcc) : Bool :=
  (s.tile.before o.id).any fun p => p.ctx == o.ctx && match p.act with | .mem q => s.winMeets o.ctx q m || s.winMeets o.ctx m q | _ => false
/-- Operations of the matrix unit write back in fire order (R213). -/
def Tile.matTurn (t : Tile) (o : Op) : Bool := o.accs.isEmpty || (t.before o.id).all fun p => p.accs.isEmpty
/-- The operation can write back now. -/
def State.ready (s : State) (o : Op) : Bool :=
  s.tile.matTurn o && match o.act with
  | .plain => o.isDue s.clock && (!s.rsHeld o || (s.tile.ctx o.ctx).ctl.ending == .none)
  | .put _ _ _ => o.isDue s.clock
  | .claim _ _ _ _ _ _ => o.isDue s.clock
  | .rot _ _ _ _ _ _ _ _ _ _ => o.isDue s.clock
  | .mat _ _ _ _ _ => o.isDue s.clock
  | .mem m => m.sp != .glb && o.isDue s.clock && !s.tile.held o m && !s.bufClash s.cur o m && !s.winHeld o m
  | .fence _ => s.tile.settled o
  | .otwait _ n k => s.tile.tokMet o.ctx n k
  | .join _ m => s.tile.joinReady o m
  | .drain _ ids => s.tile.drained ids
  | _ => false
/-- An access to TCM or CSP, which waits for its banks. -/
def Op.banked (o : Op) : Bool := match o.act with | .mem m => m.sp != .glb | _ => false
/-- A writeback by an operation whose time may have come. -/
def Op.mayEnd (o : Op) (clk : Nat) : Bool :=
  match o.act with
  | .plain => o.isDue clk
  | .put _ _ _ => o.isDue clk
  | .claim _ _ _ _ _ _ => o.isDue clk
  | .rot _ _ _ _ _ _ _ _ _ _ => o.isDue clk
  | .mat _ _ _ _ _ => o.isDue clk
  | .mem m => m.sp != .glb && o.isDue clk
  | .fence _ => true | .otwait _ _ _ => true | .join _ _ => true | .drain _ _ => true
  | _ => false
/-- Writebacks that have become possible are taken in this cycle. -/
def State.wake (s : State) : State :=
  s.push ((s.tile.ops.filter fun o => s.ready o && !o.banked && !s.agenda.contains (.operationWriteback s.cur o.id)).map fun o => .operationWriteback s.cur o.id)

/-- One arrival of each token is consumed (R334). -/
def Ctx.takeJoin (c : Ctx) (m : BitVec 8) : Ctx :=
  { c with arr := (List.finRange 8).foldl (fun a i => if maskHas m i then a.set i (a[i] - 1) else a) c.arr }
def Cluster.setBuf (k : Cluster) (b : Nat) (f : Word → Word) : Cluster :=
  { k with regs := setReg k.regs (0x800 + 8 * b) (f (reg k.regs (0x800 + 8 * b))) }
/-- A claimed slot has been written, or read, whole: its full bit changes, and the requests that wait are tried again (R265). -/
def State.claimDone (s : State) (n b : Nat) (wr : Bool) (slot : Nat) : State :=
  let k := clusOf n
  let d := (s.clus k).bufd b
  (s.modClus k fun c => c.setBuf b fun w => putFld w (42 + (slot - bufBase d) / bufLen d) 1 (b2n wr)).atEnd (.fullBitChange k (Fin.ofNat 64 b))
/-- An operation that is ready performs what it still has to do and writes back. (DEDUCED, log 2.) -/
def State.writeback (s : State) (o : Op) : State :=
  match o.act with
  | .mem m => let r := s.perform s.cur o m; r.1.retire (o.performed r.2)
  | .put csp pa bs => (s.putBytes o.ctx csp pa bs).retire { o with act := .plain }
  | .claim b pa bs wr slot _ => ((if wr || bs.isEmpty then s else s.putBytes o.ctx false pa bs).claimDone s.cur b wr slot).retire { o with act := .plain }
  | .join _ m => (s.onTile fun t => t.modCtx o.ctx fun c => c.takeJoin m).retire o
  | _ => s.retire o

/-! ## Operations and contexts that end -/

/-- A wait that the context's image records (R437), or a request that is withdrawn (R282). -/
def Op.waits (o : Op) : Bool :=
  match o.act with
  | .bput _ _ _ _ _ _ _ => o.due.isNone | .bget _ _ _ _ _ => o.due.isNone | .bwait _ _ _ => true | .cbar _ _ _ _ => o.due.isNone
  | .join _ _ => true | .otwait _ _ _ => true | .drain _ _ => true | .gbar _ _ _ => true | .group _ _ => true
  | _ => false
/-- A wait that only what others do, or the end of a stream, can end: a request without a slot (R282), a full bit, a barrier, an arrival token, a
group, the end of a stream. (DEDUCED, log 19.) -/
def Op.waitsOn (o : Op) : Bool :=
  match o.act with
  | .drain _ _ => false | .otwait _ _ _ => false | .gbar _ _ fin => fin | _ => o.waits
/-- A global access that waits for a walk or for residency (R318). -/
def State.stalled (s : State) (o : Op) : Bool :=
  (match o.act with | .mem m => m.sp == .glb && !m.sent | _ => false)
  && (s.die (dieOf s.cur)).walks.any fun w => w.who.any fun x => x.tile == s.cur && x.agent == 0 && x.id == o.id
/-- The context of the stream can take part: room for a read element, a head entry for a write element (R24, R233). -/
def State.strmFed (s : State) (x : Strm) : Bool :=
  let c := s.tile.ctx x.ctx
  if x.isWr then (match c.egr[x.chan] with | e :: _ => !e.p | [] => false)
  else decide ((c.inb[x.chan]).length + s.tile.takenNow s.clock x.ctx x.chan < 8)
/-- The context fires no further rule. -/
def Ctx.quits (c : Ctx) : Bool := c.st != .running || c.ctl.ending != .none
/-- A running stream of a context that fires no further rule, which will perform no further element: it was stopped, or trapped; it has no room, or
no entry and none to come; it waits for an acquire that others must end; and, where the context is saved, it stalls on a page (R318, R428). -/
def State.strmStuck (s : State) (save : Bool) (g : Fin 8) : Bool :=
  let x := s.tile.strm[g]
  let c := s.tile.ctx x.ctx
  x.st == .run && c.quits
  && (x.halt || (c.ctl.trapped && !x.stall) || (save && x.stall) || (s.tile.ops.any fun o => x.hold.contains o.id && o.waitsOn)
      || (!s.strmFed x && !(x.isWr && s.tile.ops.any fun o => o.ctx == x.ctx && o.room.any fun r => r.1 == x.chan)))
/-- Some publication of token `n` up to number `k`, of the task of context `c`, that nothing completes: its stream is stuck or has ended, its copy or
matrix operation waits for such a publication itself, its `otpub` stands behind a wait that others must end. The fuel bounds the chain of waits. -/
def State.tokStuck (s : State) (save : Bool) (c : Fin 8) : Nat → Nat → Nat → Bool
  | 0, _, _ => false
  | f + 1, n, k =>
    let t := s.tile
    let mine := fun d : Fin 8 => (t.ctx d).task == (t.ctx c).task
    match t.taskOf (t.ctx c) with
    | none => false
    | some x => n != 0 && x.pend.any fun p => p.1 == n && decide (p.2 ≤ k)
      && !(((List.finRange 8).any fun g =>
          let y := t.strm[g]
          y.st == .run && y.pt == n && y.ptk == p.2 && mine y.ctx && !s.strmStuck save g)
        || (t.copies.any fun y => !y.dead && y.f.pt.val == n && y.ptk == p.2 && mine y.ctx && !s.tokStuck save c f y.f.wt.val y.wtk)
        || t.ops.any fun o => o.pt == p && mine o.ctx && match o.act with
          | .mat _ _ _ w j => !(o.due.isNone && s.tokStuck save c f w j)
          | .otpub _ => !((t.before o.id).any fun q => q.ctx == o.ctx && q.covered && q.waitsOn)
          | _ => true)
/-- An operation waits for a publication that does not come, or for a copy that waits for one. (DEDUCED, log 57.) -/
def State.waitsTok (s : State) (save : Bool) (o : Op) : Bool :=
  let f := s.tile.copies.length + s.tile.ops.length + 1
  match o.act with
  | .mat _ _ _ w k => o.due.isNone && s.tokStuck save o.ctx f w k
  | .otwait _ n k => s.tokStuck save o.ctx f n k
  | .drain _ ids => s.tile.copies.any fun c => ids.contains c.id && !c.dead && s.tokStuck save o.ctx f c.f.wt.val c.wtk
  | _ => false
/-- The task of an operation has fired its fire `j` of `mmr` on tile `n` (R287). -/
def State.mmrFired (s : State) (n : Nat) (r : Option TRef) (j : Nat) : Bool :=
  match r with
  | some r => (s.tileN n).tasks.any fun k => k.ref.die == r.die && k.ref.idx == r.idx && decide (j < k.mmr)
  | none => false
/-- The fire `j` of tile `n` still sends its panel, now or once it starts. -/
def State.panelComes (s : State) (n j : Nat) (isA : Bool) : Bool :=
  let s := s.focus n
  s.tile.ops.any fun o => match o.act with
    | .rot _ _ _ _ k _ _ sA sB _ => k == j && !(if isA then sA else sB)
    | .mat (.mmr _ false) v _ _ _ => o.due.isNone && ((v.drop 4).headD 0).toNat == j && !s.waitsTok true o
    | _ => false
/-- A rotation that waits for a neighbour which has not fired its part, or will not send it. -/
def State.rotStuck (s : State) (o : Op) : Bool :=
  let r := (s.tile.ctx o.ctx).task
  match o.act with
  | .rot _ _ _ _ j gA gB sA sB _ =>
    o.due.isNone
    && ((!sA && !s.mmrFired (neighbour s.cur 3) r j) || (!sB && !s.mmrFired (neighbour s.cur 0) r j)
      || (!gA && !(s.tile.panels.any fun p => p.1 == j && p.2.1) && !s.panelComes (neighbour s.cur 1) j true)
      || (!gB && !(s.tile.panels.any fun p => p.1 == j && !p.2.1) && !s.panelComes (neighbour s.cur 2) j false))
  | _ => false
/-- The operation settles what its context fired before it: a fence, a release, or a request that leaves after it. -/
def Op.settles (o : Op) : Bool :=
  match o.act with
  | .fence _ => true
  | .mem m => (m.ord == .rel || m.ord == .ar) && scopeHolds m.scope
  | .req _ _ => true
  | .otpub _ => true
  | .cbar _ _ false _ => true
  | _ => false
/-- A token or a release waits for entries of an egress channel that only others can take: its label is gated, or it has no credit. -/
def Tile.entsStuck (t : Tile) (o : Op) : Bool :=
  (o.settles && o.ents.any fun x => x.2 != 0 && (let b := (t.ctx o.ctx).eb[x.1]; t.gates.contains b.label.toNat || b.cred == 0))
  || (match o.act with | .circ l _ => t.gates.contains l.toNat | _ => false)
/-- `o` cannot go on before the earlier operation `p` has. -/
def Op.behind (o p : Op) : Bool :=
  (p.unstarted && o.unstarted)
  || (!o.accs.isEmpty && !p.accs.isEmpty)
  || (p.ctx == o.ctx && (((p.acquires || p.acqClus) && (match o.act with | .mem _ => true | .rsend _ _ _ _ => true | .mat _ _ _ _ _ => o.unstarted | a => a.isBuf))
    || (p.covered && o.settles) || (p.act.bufTcm && (match o.act with | .mem m => m.sp == .tcm | _ => false))
    || (match p.act, o.act with | .mem q, .mem m => q.overlaps m | .mem q, .circ _ _ => q.label.isSome | _, _ => false)))
/-- A `csave` of the task itself: its answer comes when the save is complete (R449). -/
def State.savesSelf (s : State) (o : Op) : Bool :=
  match o.act with
  | .req (.csave _ _ _) v => o.due.isSome && (s.tile.ctx o.ctx).task.any fun r => (v.headD 0).toNat == r.idx + at_ 16 r.die + at_ 19 s.own
  | _ => false
/-- The operations that an end of a context does not wait for: those that only others can end, with all that stand behind one of them; for a save or a
migration also the waits that the image records, stalled accesses, and what waits for entries that others do not take (R318, R437). (DEDUCED, log 57.) -/
def State.parkedIds (s : State) (save : Bool) : List Nat :=
  s.tile.ops.foldl (fun l o =>
    if o.waitsOn || s.rsHeld o || (save && (o.waits || s.stalled o || s.tile.entsStuck o || s.savesSelf o)) || s.waitsTok save o || s.rotStuck o || (s.tile.ops.any fun p => l.contains p.id && o.behind p)
    then o.id :: l else l) []
/-- A matrix operation that has fired and not started waits for publication `k` of token `n`, or may wait for it behind a copy, and its context's
end waits for it: what publishes that token goes on (R165, R230). (DEDUCED, log 57.) (DEDUCED, log 19.) -/
def State.owed (s : State) (c : Fin 8) (n k : Nat) : Bool :=
  let t := s.tile
  let mine := fun d : Fin 8 => (t.ctx d).task == (t.ctx c).task
  n != 0 && (t.ops.any fun o => o.unstarted && mine o.ctx) &&
    ((t.ops.any fun o => mine o.ctx && o.due.isNone && !(s.parkedIds true).contains o.id && match o.act with | .mat _ _ _ w j => w == n && decide (k ≤ j) | _ => false)
    || t.copies.any fun x => mine x.ctx && !x.dead && x.f.wt.val == n && decide (k ≤ x.wtk))
/-- Operations of the context that keep its state from changing: every operation fired is carried to its writeback, those that park apart
(R35, R143, R165). (DEDUCED, log 19.) -/
def State.blocking (s : State) (c : Fin 8) (e : Ending) : List Op :=
  let l := (s.tile.pendingOps c).filter fun o => !o.act.isTok
  match e with
  | .stop _ => let k := s.parkedIds false; l.filter fun o => !k.contains o.id
  | .save => let k := s.parkedIds true; l.filter fun o => !k.contains o.id
  | .mig _ => let k := s.parkedIds true; l.filter fun o => !k.contains o.id
  | _ => l

/-- Packets that are dropped at a tile, in DROPCNT (R162). -/
def Tile.countDrop (t : Tile) (n : Nat) : Tile := { t with r := { t.r with dropcnt := satInc t.r.dropcnt n } }

/-! ## Where traffic to a channel goes after handovers (R292) -/

def Tile.follow (t : Tile) (key : Nat) : Nat → Fin 8 → Fin 8
  | 0, c => c
  | k + 1, c => let f := mget 0 t.fwd (32 * c.val + key); if f = 0 then c else t.follow key k (Fin.ofNat 8 (f - 1))
/-- The context that holds inbound channel `ch` addressed as one of `c`. (DEDUCED, log 17.) -/
def Tile.inbOwner (t : Tile) (c : Fin 8) (ch : Chan) : Fin 8 := t.follow ch.val 8 c
/-- DEDUCED, log 17. -/
def Tile.egrOwner (t : Tile) (c : Fin 8) (ch : Chan) : Fin 8 := t.follow (16 + ch.val) 8 c

end Sys2Proof.Machine
end

