-- ==== Sys2Proof/Machine/Reach.lean ====
section
/-! DEFINITION. How an engine or an access reaches memory (R173, R259, R309 to R318), and how a packet goes through a route entry (R305,
R308, R490). -/

namespace Sys2Proof.Machine
open Sys2Proof

/-! ## Translation of a range -/

inductive Trans where
  | ok (pas : List Nat) | miss (va : Nat) | fault (cause : BitVec 8)
deriving DecidableEq, Repr
/-- The addresses at which a range enters its pages: one, or two. -/
def pagesOf (va n : Nat) : List Nat := if va / 65536 = (va + n - 1) / 65536 then [va] else [va, ((va + n - 1) / 65536) * 65536]
/-- Translate a range through a cache and what an access has been handed: every page before any word (R363). -/
def translBy (m : AMap (List TlbE)) (hand : List TlbE) (t : BitVec 4) (va n kind : Nat) : Trans :=
  if va / 2 ^ 48 ≠ 0 ∨ (va + n - 1) / 2 ^ 48 ≠ 0 then .fault 0x18#8
  else
    match (pagesOf va n).find? (fun a => (tlbLook m hand t a kind).isNone) with
    | some a => .miss a
    | none => .ok ((pagesOf va n).filterMap fun a => tlbLook m hand t a kind)
/-- An agent of the focus tile, as a walk's waiters name it: 0 an operation, 1 a stream, 2 a copy, with its number. -/
abbrev Agent := Nat × Nat
/-- Translate a range for an agent of the focus tile. -/
def State.transl (s : State) (who : Agent) (t : BitVec 4) (va n kind : Nat) : Trans :=
  translBy (s.clus (clusOf s.cur)).tlb ((s.tile.handed.filter fun x => x.1 == who.1 && x.2.1 == who.2).map (·.2.2)) t va n kind
/-- The entries that an agent used are the most recently used, and what it was handed is spent (R314, R315). -/
def State.tlbUsed (s : State) (who : Agent) (t : BitVec 4) (va n : Nat) : State :=
  let s := (pagesOf va n).foldl (fun s a => s.tlbUse (clusOf s.cur) t a) s
  if s.tile.handed.isEmpty then s else s.onTile fun u => { u with handed := u.handed.filter fun x => !(x.1 == who.1 && x.2.1 == who.2) }
/-- The die-to-die link that a circuit leaves a die by, as EXIT codes it (R306), is failed, or the one it enters the other die by. -/
def State.circFailed (s : State) (src dst : Nat) (circ : BitVec 6) : Bool :=
  if src = dst then false
  else
    let e := nfld (reg (s.die src).circ (64 * dst + circ.toNat)).toNat 0 2
    (s.die src).failed.contains e
    || (s.die dst).failed.contains (match e with | 1 => 2 | 2 => 1 | x => x)
/-- The way from a die to the home of an address leads over a failed link, on circuit 0 (R305, R308). (DESIGN CHOICE, log 71.) -/
def State.homeFailed (s : State) (die pa : Nat) : Bool :=
  match memHome pa with | some (h + 2) => s.circFailed die h 0 | some _ => (s.die die).failed.contains 0 | none => false
/-- The physical ranges of a translated range. -/
def segsOf (n : Nat) : List Nat → List (Nat × Nat)
  | [] => []
  | [p] => [(p, n)]
  | p :: q :: _ => let k := 65536 - p % 65536; [(p, k), (q, n - k)]

/-- Ranges of bytes that meet in a 64-byte line. -/
def segsMeet (a b : List (Nat × Nat)) : Bool :=
  a.any fun x => b.any fun y => decide (x.1 / 64 ≤ (y.1 + y.2 - 1) / 64 ∧ y.1 / 64 ≤ (x.1 + x.2 - 1) / 64)
/-- An access of the tile to one of the lines has left and is not answered: an engine's access goes after it (R304). -/
def State.lineWaits (s : State) (l : List (Nat × Nat)) : Bool :=
  s.tile.ops.any fun p => match p.act with
    | .mem q => q.sp == .glb && q.sent && segsMeet (segsOf q.size q.pa) l
    | _ => false

/-- The die whose routers drop an access of the focus tile to the ranges: its own, or the home's (R302, R421). -/
def State.glbDrop (s : State) (vn : Nat) (t : BitVec 4) (l : List (Nat × Nat)) : Option Nat :=
  (dieOf s.cur :: l.filterMap fun x => match memHome x.1 with | some (h + 2) => some h | _ => none).find? fun d => !s.vnAdmits d (BitVec.ofNat 3 vn) t
/-- The same for an engine of a context. -/
def State.engDrop (s : State) (c : Fin 8) (l : List (Nat × Nat)) : Option Nat :=
  let t := (s.tile.ctx c).tenant
  s.glbDrop (s.vnOf t) t l

inductive Reach where
  | ok (segs : List (Nat × Nat)) | stall (va : Nat) | stop (cause : BitVec 8)
deriving DecidableEq, Repr
/-- A range that an engine of context `c` of the focus tile reads (kind 0) or writes (kind 1). -/
def State.reach (s : State) (who : Agent) (c : Fin 8) (sp : Space) (a : Int) (n kind : Nat) : Reach :=
  match sp with
  | .tcm => if (s.tile.ctx c).tcmOk a n then .ok [((s.tile.ctx c).tcmPa a.toNat, n)] else .stop 0x15#8
  | .csp => if s.cspOk s.cur c a n then .ok [(s.cspPa s.cur c a.toNat, n)] else .stop 0x18#8
  | .glb =>
    if a < 0 then .stop 0x18#8
    else match s.transl who (s.tile.ctx c).tenant a.toNat n kind with
      | .ok ps => if ps.any (s.homeFailed (dieOf s.cur)) then .stop 0x17#8 else .ok (segsOf n ps)
      | .miss va => .stall va
      | .fault k => .stop k
/-- A range that an engine reached has been used. -/
def State.reached (s : State) (who : Agent) (c : Fin 8) (sp : Space) (a : Int) (n : Nat) : State :=
  if sp = .glb then s.tlbUsed who (s.tile.ctx c).tenant a.toNat n else s
def State.segBytes (s : State) (sp : Space) (l : List (Nat × Nat)) : List Byte := l.flatMap fun x => s.spBytes s.cur sp x.1 x.2
def State.segBad (s : State) (sp : Space) (l : List (Nat × Nat)) : Bool := l.any fun x => s.spBad s.cur sp x.1 x.2
def State.segFix (s : State) (sp : Space) (l : List (Nat × Nat)) : State := l.foldl (fun s x => s.spFix s.cur sp x.1 x.2) s
/-- Write bytes over ranges. -/
def State.segWrite (s : State) (sp : Space) : List (Nat × Nat) → List Byte → State
  | [], _ => s
  | x :: l, bs => (s.spWrite s.cur sp x.1 (bs.take x.2)).segWrite sp l (bs.drop x.2)

/-! ## Routes -/

/-- The circuit of a route entry is failed (R308, R490). (DESIGN CHOICE, log 71.) -/
def State.routeDown (s : State) (e : Nat) : Bool :=
  if rMod e = s.own then s.circFailed (dieOf s.cur) (rDie e) (rCirc e) else s.podFailed (dieOf s.cur) (rMod e) (rDie e) (rCirc e).toNat
/-- Nothing goes through the route entry: its circuit is failed, or it leads to another module and the tenant is time-sliced (R430, R493). (DESIGN CHOICE, log 71.) -/
def State.routeFailed (s : State) (c : Fin 8) (e : Nat) : Bool :=
  s.routeDown e || (rMod e != s.own && s.sliced (s.tile.ctx c).tenant)
/-- The route leads to a tile of the cluster in focus. -/
def State.nearRoute (s : State) (e : Nat) : Bool := (rKind e == 1 || rKind e == 2) && rMod e == s.own && clusOf (rTile e) == clusOf s.cur
/-- The header of a packet of a context of the focus tile. -/
def State.hdr (s : State) (c : Fin 8) (ch : Chan) (op cls : Nat) (e : Nat) : Hdr :=
  { op := BitVec.ofNat 4 op, vn := BitVec.ofNat 3 (rVn e), cls := BitVec.ofNat 2 cls, tenant := (s.tile.ctx c).tenant, circ := rCirc e,
    src := mkSrc s.own s.cur c ch }
/-- DATA of entries as eight doublewords each. -/
def entWords (es : List Entry) : List Word :=
  es.flatMap fun e => (List.range 8).map fun i => e.data.extractLsb' (64 * i) 64
/-- SCOPE and ORDER as packets carry them (R54). -/
def scopeCode : Scope → Nat | .ctx => 0 | .tile => 1 | .clus => 2 | .die => 3 | .pkg => 4 | .pod => 5
def ordCode : Ordr → Nat | .none => 0 | .acq => 1 | .rel => 2 | .ar => 3
/-- The number by which an answer finds its request: an operation's, or a copy's from 128 on. It stands in TAG of the packet and of its answer; where TAG is an
entry's, in ADDR [7:0]; ADDR [8] marks an `rsend`, and ADDR [9] an entry that is to be acknowledged when it is placed (R320). (DESIGN CHOICE, log 68.) -/
def reqNo : AckTo → BitVec 8
  | .op _ id => BitVec.ofNat 8 (id % 128) | .copy _ id => BitVec.ofNat 8 (128 + id % 128) | .remote _ id => BitVec.ofNat 8 id
/-- DESIGN CHOICE, log 68. -/
def entNo (who : Option AckTo) (id : Nat) : Nat := match who with | some w => 256 + (reqNo w).toNat | none => 512 + id % 128
/-- DESIGN CHOICE, log 68. -/
def pktNo (p : Pkt) : BitVec 8 := if p.op = 0 then BitVec.ofNat 8 p.addr else p.tag
/-- Send entries through a route entry of KIND 01: to a tile of this module in this cycle, or out of it. (DESIGN CHOICE, log 10.) -/
def State.sendEnts (s : State) (c : Fin 8) (ch : Chan) (e : Nat) (es : List Entry) (ans : Option AckTo) : State :=
  let h := s.hdr c ch 0 0 e
  if rMod e = s.own then s.atEnd (.channelEntryArrival (rTile e) (rCtx e) (rChan e) (rGen e) h es ans)
  else s.sendPkt (dieOf s.cur) none { Pkt.zero with
    op := 0, vn := rVn e, tenant := h.tenant, dmod := rMod e, ddie := rDie e, dtgt := tileIn (rTile e), dctx := (rCtx e).val, dchan := (rChan e).val,
    gen := (rGen e).toNat, circ := h.circ.toNat, src := h.src, tag := (es.headD Entry.zero).tag, p := (es.headD Entry.zero).p, w := (es.headD Entry.zero).w,
    addr := entNo ans s.tile.nextId, data := entWords es }
/-- Bytes as doublewords. -/
def dwords (bs : List Byte) : List Word := (List.range ((bs.length + 7) / 8)).map fun i => BitVec.ofNat 64 (leNat ((bs.drop (8 * i)).take 8))
/-- A window write through an entry whose target was cancelled before it was placed is dropped and counted, and refused (R79, R180). (DESIGN CHOICE, log 86.) -/
def State.sendNowhere (s : State) (label : BitVec 7) (off n : Nat) (who : AckTo) : State :=
  (s.onTile fun t => t.countDrop 1).atEnd (.windowRefusal who label off n)
/-- Send a window write through a route entry of KIND 10. -/
def State.sendWin (s : State) (c : Fin 8) (e off : Nat) (bs : List Byte) (who : AckTo) : State :=
  let h := s.hdr c 0 1 0 e
  if rMod e = s.own then s.atEnd (.windowWriteArrival (rTile e) (rWin e) h off bs who)
  else s.sendPkt (dieOf s.cur) none { Pkt.zero with
    op := 1, vn := rVn e, tenant := h.tenant, dmod := rMod e, ddie := rDie e, dtgt := tileIn (rTile e), dchan := (rWin e).val, circ := h.circ.toNat,
    src := h.src, addr := off, attr := bs.length, tag := reqNo who,
    idata := if bs.length ≤ 8 then BitVec.ofNat 64 (leNat bs) else 0, data := if bs.length ≤ 8 then [] else dwords bs }

/-! ## Arrivals in channels -/

/-- Entries arrive in an inbound channel: a sleeping context wakes (R147). -/
def Ctx.arrive (c : Ctx) (ch : Chan) (es : List Entry) (owed : Bool) : Ctx :=
  let d := c.enq ch es owed
  d.setCtl { d.ctl with asleep := none }

end Sys2Proof.Machine
end

