-- ==== Sys2Proof/Machine/Merge.lean ====
section
/-! DEFINITION. Merge buffers (R336, R337, R494): at the die-to-die links of the eight compute dies, at the Hearth's links to them, and at the torus
ports, where packets of other modules pass through. -/

namespace Sys2Proof.Machine
open Sys2Proof

/-! ## Which requests meet (R336) -/

/-- The operation by which requests are combined, and the contribution. -/
def MemOp.mergeKey : MemOp → Option (MemOp × Word)
  | .atom _ .add a => some (.atom (.reg 0) .add 0, a)
  | .atom _ .fxadd a => some (.atom (.reg 0) .fxadd 0, a)
  | .binc _ b => some (.binc (.reg 0) b, 1)
  | _ => none
/-- The word after one request of an entry, which adds `a` or stands for `n` increments (R337). -/
def MemOp.mergeStep (k : MemOp) (w a : Word) (n : Nat) : Word :=
  match k with
  | .binc _ b => if w.toNat < b.toNat then BitVec.ofNat 64 (w.toNat + min n (b.toNat - w.toNat)) else w
  | _ => w + a
/-- What each request of an entry is answered where the word holds `w`, and the word that they leave. -/
def MemOp.mergeAll (k : MemOp) : Word → List MPart → List (MPart × Word) × Word
  | w, [] => ([], w)
  | w, p :: l => let r := k.mergeAll (k.mergeStep w p.a p.n) l; ((p, w) :: r.1, r.2)
/-- The request crosses a die-to-die link and may be combined there. (DESIGN CHOICE, log 30.) -/
def mergeable (die pa : Nat) (m : MemAcc) : Bool :=
  m.op.mergeKey.isSome && m.ord == .none && (match memHome pa with | some h => h != 2 + die | none => false)

/-! ## The buffers of the die-to-die links -/

/-- The entries of a die's links, or of the Hearth's for 8: those that are open, and those that are on their way. -/
def State.merges (s : State) (k : Nat) : List MergeE := if k < 8 then (s.die k).merge else s.hearth.merge
def State.setMerges (s : State) (k : Nat) (l : List MergeE) : State :=
  if k < 8 then s.modDie k fun d => { d with merge := l } else { s with hearth := { s.hearth with merge := l } }
/-- The way of an access on circuit 0 leads from the die through the Hearth to another die: two links. -/
def State.viaHearth (s : State) (k pa : Nat) : Bool :=
  decide (k < 8) && (match memHome pa with | some (h + 2) => h != k && nfld (s.circE k h 0) 0 2 == 0 | _ => false)
/-- The link by which an access to an address leaves the die, or the Hearth. -/
def State.exitTo (s : State) (k pa : Nat) : Nat :=
  match memHome pa with | some (h + 2) => if k < 8 then nfld (s.circE k h 0) 0 2 else h | _ => 0
/-- Cycles to the second of the two links. (DESIGN CHOICE, log 30.) -/
def leg1 (die pa : Nat) : Nat := homeL die ((memHome pa).getD 1) / 2
/-- Cycles for an entry that the boundary forwards: to the next one, or to the home. (DESIGN CHOICE, log 30.) -/
def State.hop (s : State) (k pa : Nat) : Nat :=
  if s.viaHearth k pa then leg1 k pa else if k < 8 then homeL k ((memHome pa).getD 1) + 1 else 51
def MergeE.opened? (e : MergeE) : Bool := e.due.isNone
/-- The open entry of a word closes and is forwarded. (DESIGN CHOICE, log 30.) -/
def State.closeMerge (s : State) (k pa : Nat) : State :=
  let due := s.clock + s.hop k pa
  if (s.merges k).any fun e => e.pa == pa && e.opened? then
    (s.setMerges k ((s.merges k).map fun e => if e.pa == pa && e.opened? then { e with due := some due } else e)).later (s.hop k pa)
      (if s.viaHearth k pa then .mergeEntryClose k pa else .mergedAtomic k pa)
  else s
/-- A new entry; behind 64 open ones of its link it is forwarded alone (R494). -/
def State.openMerge (s : State) (k : Nat) (e : MergeE) : State :=
  let full := decide (64 ≤ ((s.merges k).filter fun x => x.opened? && s.exitTo k x.pa == s.exitTo k e.pa).length)
  let s := s.setMerges k (s.merges k ++ [e])
  if full then s.closeMerge k e.pa else s.later 16 (.mergeEntryClose k e.pa)
/-- Requests to one word of the contributions that an entry holds. -/
def MergeE.count (e : MergeE) : Nat := sumL (e.parts.map (·.n))
/-- Requests join the open entry of their word, or close it and open one; 64 contributions close it, as many as NCM1 can say. (DESIGN CHOICE, log 30.) -/
def State.mergeIn (s : State) (k : Nat) (e : MergeE) : State :=
  match (s.merges k).find? fun x => x.pa == e.pa && x.opened? with
  | none => s.openMerge k e
  | some x =>
    if x.tenant == e.tenant && x.op == e.op && decide (x.count + e.count ≤ 64) then
      let s := s.setMerges k ((s.merges k).map fun y => if y.pa == e.pa && y.opened? then { y with parts := y.parts ++ e.parts } else y)
      if x.count + e.count = 64 then s.closeMerge k e.pa else s
    else (s.closeMerge k e.pa).openMerge k e
/-- The entry lies in one of the ranges. -/
def MergeE.hit (segs : List (Nat × Nat)) (e : MergeE) : Bool := segs.any fun x => decide (e.pa < x.1 + x.2 ∧ x.1 < e.pa + 8)
/-- Another request to words of open entries closes them (R336). -/
def State.closeHits (s : State) (k : Nat) (segs : List (Nat × Nat)) : State :=
  (s.merges k).foldl (fun s e => if e.hit segs && e.opened? then s.closeMerge k e.pa else s) s
/-- Cycles after which a request to words of forwarded entries is behind them. -/
def State.behind (s : State) (k : Nat) (segs : List (Nat × Nat)) : Nat :=
  maxL ((s.merges k).map fun e => if e.hit segs then e.due.getD 0 - s.clock else 0)
/-- An access of an engine to words of entries ahead of it closes them and waits behind them. -/
def State.mergeAhead (s : State) (segs : List (Nat × Nat)) : Option State :=
  let d := dieOf s.cur
  let l := if segs.any fun x => s.viaHearth d x.1 then [d, 8] else [d]
  if l.any fun k => (s.merges k).any (·.hit segs) then some (l.foldl (fun s k => s.closeHits k segs) s) else none

/-! ## The buffers of the torus ports (R494) -/

/-- What each request of a merged packet is answered where the word held `w`. -/
def splitAnswers : Word → List Pkt → List (Pkt × Word)
  | _, [] => []
  | w, p :: l => (p, w) :: splitAnswers (match pktKey p with | some k => k.1.mergeStep w k.2 (reqCount p) | none => w) l
/-- The answer of a merged packet is split, and each part goes on to its requester (R337, R494). (DESIGN CHOICE, log 30.) -/
def State.splitMerged (s : State) (p : Pkt) : State :=
  let i := p.tag.toNat
  let l := mget [] s.fab.merged i
  (splitAnswers p.idata l).foldl (fun s x => s.routeOut p.ddie none { p with
      dmod := srcMod x.1.src, ddie := srcDie x.1.src, dtgt := srcTgt x.1.src, dctx := (srcCtx x.1.src).val, dchan := (srcChan x.1.src).val, circ := x.1.circ, tag := x.1.tag
      idata := if nfld p.attr 0 1 = 1 then p.idata else x.2 })
    { s with fab := { s.fab with merged := mset [] s.fab.merged i [] } }

end Sys2Proof.Machine
end

