-- ==== Sys2Proof/Machine/Engines.lean ====
section
/-! DEFINITION. The steps of a tile's engines: operation writebacks, stream elements (R233 to R236), `gbar` (R235), copies (R242, R243), the starts
of matrix operations (R213, R215), order tokens (R331) and panel exchange (R287). -/

namespace Sys2Proof.Machine
open Sys2Proof

/-- R28, R133: an operation of the tile writes back. -/
def execOperationWriteback (s : State) : Out3 :=
  match s.ev with
  | .operationWriteback n id =>
    let s := s.focus n
    match s.tile.opN id with
    | some o => .next (if s.ready o then (s.writeback o).wake else s)
    | none => .next s
  | _ => .next s

/-! ## Streams -/

def Strm.sp (g : Strm) : Space := match g.space with | 0 => .tcm | 1 => .csp | _ => .glb
def Strm.done (g : Strm) : Strm := { g with st := .conf, stall := false, halt := false, lose := false }
/-- A pending `gbar` without END names the stream. (DEDUCED, log 24.) -/
def Tile.gbarHolds (t : Tile) (g : Fin 8) : Bool :=
  t.ops.any fun o => match o.act with | .gbar _ m false => ((t.ctx o.ctx).maskStrms m).contains g | _ => false
/-- A context that is being saved or moved, or stands saved: its engines stand still (R236, R394, R428). -/
def Ctx.away (c : Ctx) : Bool :=
  c.st == .saved || c.st == .migrating || match c.ctl.ending with | .save => true | .mig _ => true | _ => false
/-- The copies of a context that is being saved stop at a chunk (R428), except while a matrix operation of the task that has fired still waits to start, perhaps
for one of them (R230); a migration carries them to their ends (R394). (DEDUCED, log 57.) -/
def State.copyAway (s : State) (c : Fin 8) : Bool :=
  let x := s.tile.ctx c
  (x.st == .saved || (match x.ctl.ending with | .save => x.st != .migrating | _ => false))
  && !(s.tile.ops.any fun o => o.unstarted && (s.tile.ctx o.ctx).task == x.task && !(s.parkedIds true).contains o.id)
/-- DEDUCED, log 34. -/
def State.strmMay (s : State) (g : Fin 8) : Bool :=
  let x := s.tile.strm[g]
  x.st == .run && decide (x.start ≤ s.clock) && !s.tile.pendingIds x.hold && (x.stall || !s.tile.gbarHolds g)
  && (x.stall || !(s.tile.ctx x.ctx).ctl.trapped) && (!(s.tile.ctx x.ctx).away || s.owed x.ctx x.pt x.ptk) && s.strmFed x
/-- The stream stops its context: PT is not published. -/
def State.strmFail (s : State) (g : Fin 8) (cause : BitVec 8) (a : Int) (bad : Bool := false) : State :=
  let x := s.tile.strm[g]
  s.onTile fun t => (t.setStrm g x.done).modCtx x.ctx fun c =>
    c.stop { StopInfo.mk0 cause x.slot.toNat s.clock with loc := BitVec.ofInt 64 a, code := BitVec.ofNat 16 (b2n bad) }
/-- An element is complete: the next, or the end with its publication. -/
def State.strmNext (s : State) (g : Fin 8) : State :=
  let x := s.tile.strm[g]
  let y := { x with next := x.next + 1, stall := false }
  if y.next = x.total then
    (s.onTile fun t => Tile.tokDone (t.setStrm g x.done) (t.ctx x.ctx) x.pt x.ptk).wake
  else
    let c := s.tile.ctx x.ctx
    s.onTile fun t => t.setStrm g (if x.halt || (x.isWr && c.st == .stopped && (c.egr[x.chan]).isEmpty) then x.done else y)
def State.strmRead (s : State) (g : Fin 8) (segs : List (Nat × Nat)) : State :=
  let x := s.tile.strm[g]
  let tag : BitVec 8 := BitVec.ofNat 8 (if x.next + 1 = x.total then x.fld 81 8 else x.fld 73 8)
  let e : Entry :=
    if s.segBad x.sp segs then
      mkEntry (mkPayload causeEcc x.slot.toNat x.ctx s.env (x.start - 1)).toNat (BitVec.ofNat 2 x.ew) tag true
    else mkEntry (leNat (s.segBytes x.sp segs)) (BitVec.ofNat 2 x.ew) tag false
  ((s.segFix x.sp segs).onTile fun t => if x.lose then t else t.modCtx x.ctx fun c => c.arrive x.chan [e] false).strmNext g
def State.strmWrite (s : State) (g : Fin 8) (segs : List (Nat × Nat)) (a : Int) : State :=
  let x := s.tile.strm[g]
  match (s.tile.ctx x.ctx).egr[x.chan] with
  | [] => s
  | e :: es =>
    if e.w.toNat ≠ x.ew then s.strmFail g 0x19#8 a
    else ((s.segWrite x.sp segs (leBytes x.eb e.data.toNat)).onTile fun t => t.modCtx x.ctx fun c => c.setEgr x.chan es).strmNext g
/-- DEDUCED, log 23. -/
def State.strmStep (s : State) (g : Fin 8) : State :=
  let x := s.tile.strm[g]
  let a := x.addr x.next
  if a % ((min x.eb 16 : Nat) : Int) ≠ 0 then s.strmFail g 0x18#8 a
  else match s.reach (1, g.val) x.ctx x.sp a x.eb (b2n x.isWr) with
    | .stop k => s.strmFail g k a
    | .stall va =>
      (s.onTile fun t => t.setStrm g { x with stall := true }).missTo (dieOf s.cur) (s.tile.ctx x.ctx).tenant va ⟨s.cur, 1, g.val, b2n x.isWr⟩
    | .ok segs =>
      match (if x.sp ≠ .glb then none else if s.lineWaits segs then some s else match s.engDrop x.ctx segs with
          | some d => some ((s.meshDrop d (s.tile.ctx x.ctx).tenant).onTile fun t => t.setStrm g { x with halt := true })
          | none => s.mergeAhead segs) with
      | some s => s
      | none =>
        let s := s.reached (1, g.val) x.ctx x.sp a x.eb
        if x.isWr then s.strmWrite g segs a else s.strmRead g segs
/-- R233, R236: a running stream performs one element. (DEDUCED, log 23.) -/
def execStreamElement (s : State) : Out3 :=
  match s.ev with
  | .streamElement g => .next (if s.strmMay g then s.strmStep g else s)
  | _ => .next s
/-- R235. (DEDUCED, log 24.) -/
def State.gbarMet (s : State) (o : Op) : Bool :=
  match o.act with
  | .gbar _ m fin =>
    let l := ((s.tile.ctx o.ctx).maskStrms m).map fun g => s.tile.strm[g]
    if fin then l.all fun x => x.st != .run else decide (o.fired < s.clock) && l.all fun x => !x.stall
  | _ => false
def execGbarRelease (s : State) : Out3 :=
  match s.ev with
  | .gbarRelease id =>
    match s.tile.opN id with
    | some o => .next (if s.gbarMet o then s.retire { o with act := .plain } else s)
    | none => .next s
  | _ => .next s

/-! ## Copies -/

def dspOf : DSpace → Space | .tcm => .tcm | .csp => .csp | .glb => .glb | .win => .tcm
def sspOf : SSpace → Space | .tcm => .tcm | .csp => .csp | .glb => .glb
def Copy.total (c : Copy) : Nat := if c.len = 0 then 0 else c.rows
def Copy.src (c : Copy) (row off : Nat) : Int := (c.sa.toNat : Int) + row * c.sstr + off
def Copy.dst (c : Copy) (row off : Nat) : Int := (c.da.toNat : Int) + row * c.dstr + off
def Copy.moved (c : Copy) : Bool := decide (c.total ≤ c.row)
/-- The commands that run: the first four of the queue (R242). -/
def Tile.copyRun (t : Tile) : List Copy := (t.copies.filter fun c => !c.dead).take 4
/-- The command runs: one of the first four of the queue, its token met (R242). (DESIGN CHOICE, log 25; DEDUCED, log 34.) -/
def State.copyMay (s : State) (c : Copy) : Bool :=
  (s.tile.copyRun.any fun x => x.id == c.id) && decide (c.start ≤ s.clock + b2n (c.total == 0)) && !s.tile.pendingIds c.hold
  && s.tile.tokMet c.ctx (c.f.wt.val) c.wtk && !s.copyAway c.ctx && !(c.f.dsp == .win && s.tile.gates.contains c.f.label.toNat)
def Tile.copyN (t : Tile) (id : Nat) : Option Copy := t.copies.find? fun c => c.id == id
def Tile.setCopy (t : Tile) (c : Copy) : Tile := { t with copies := t.copies.map fun x => if x.id = c.id then c else x }
def Tile.dropCopy (t : Tile) (id : Nat) : Tile := { t with copies := t.copies.filter fun x => x.id != id }
/-- The command ends and its context stops (R243); what it has written through a window is still awaited (R180). -/
def State.copyFail (s : State) (c : Copy) (i : StopInfo) : State :=
  (s.onTile fun t => (if c.outs.isEmpty then t.dropCopy c.id else t.setCopy { c with dead := true }).modCtx c.ctx fun x => x.stop i).wake
def State.copyCause (s : State) (c : Copy) (k : BitVec 8) (a : Int) : StopInfo :=
  { StopInfo.mk0 k c.slot.toNat s.clock with loc := BitVec.ofInt 64 a }
/-- Every row of a TCM or CSP range is legal: the rows lie between the first and the last (R242). -/
def State.rowsOk (s : State) (c : Copy) (sp : Space) (f : Nat → Nat → Int) : Bool :=
  let ok := fun r => match sp with
    | .tcm => (s.tile.ctx c.ctx).tcmOk (f r 0) c.len | .csp => s.cspOk s.cur c.ctx (f r 0) c.len | .glb => true
  ok 0 && ok (c.rows - 1)
/-- A copy through a window whose label is no window's, or whose circuit is failed (R176, R308). -/
def State.copyNoRoute (s : State) (c : Copy) : Bool :=
  c.f.dsp == .win && (rKind (s.tile.route c.f.label) != 2 || s.routeFailed c.ctx (s.tile.route c.f.label))
/-- The checks before the first chunk. (DESIGN CHOICE, log 25.) -/
def State.copyBad (s : State) (c : Copy) : Option StopInfo :=
  let k := fun sp => if sp = Space.tcm then 0x15#8 else 0x18#8
  if s.copyNoRoute c then some { s.copyCause c 0x17#8 0 with chlab := c.f.label.setWidth 8 }
  else if !s.rowsOk c (sspOf c.f.ssp) c.src then some (s.copyCause c (k (sspOf c.f.ssp)) (c.src 0 0))
  else if c.f.dsp != .win && !s.rowsOk c (dspOf c.f.dsp) c.dst then some (s.copyCause c (k (dspOf c.f.dsp)) (c.dst 0 0))
  else none
/-- Which bytes of a chunk have an uncorrectable source word. -/
def State.badBytes (s : State) (sp : Space) (segs : List (Nat × Nat)) : List Bool :=
  segs.flatMap fun x => (List.range x.2).map fun i => s.spBad s.cur sp (x.1 + i) 1
/-- The destination words that hold such a byte. -/
def badWords (dst : Int) : Nat → List Bool → List Int
  | _, [] => []
  | i, b :: l => if b then (dst + i) / 8 :: badWords dst (i + 1) l else badWords dst (i + 1) l
/-- The runs of bytes of a chunk whose destination words are good: (offset, bytes). (DESIGN CHOICE, log 25.) -/
def goodRuns (dst : Int) (bad : List Int) : Nat → List Byte → List (Nat × List Byte)
  | _, [] => []
  | i, b :: l =>
    let r := goodRuns dst bad (i + 1) l
    if bad.contains ((dst + i) / 8) then r
    else match r with
      | (j, bs) :: r' => if j = i + 1 then (i, b :: bs) :: r' else (i, [b]) :: r
      | [] => [(i, [b])]
def Copy.advance (c : Copy) (n : Nat) : Copy :=
  if c.len ≤ c.off + n then { c with row := c.row + 1, off := 0 } else { c with off := c.off + n }
/-- After a chunk: the next one, or the end of the command. -/
def State.copyNext (s : State) (c : Copy) (n : Nat) (broken : Bool) : State :=
  if broken then s.copyFail c (s.copyCause c 0x1a#8 (c.src c.row c.off))
  else
    let d := c.advance n
    let s := s.onTile fun t => t.setCopy d
    if d.moved && d.outs.isEmpty then s.push [.copyComplete d.id] else s
/-- The largest part of up to `n` bytes that a window admits as one write at an offset (R180). (DESIGN CHOICE, log 25.) -/
def winPart (off n : Nat) : Nat :=
  if off % min n 16 = 0 then n else if 8 ≤ n ∧ off % 8 = 0 then 8 else if 4 ≤ n ∧ off % 4 = 0 then 4 else if 2 ≤ n ∧ off % 2 = 0 then 2 else 1
/-- A run of bytes as writes that a window admits, from the lowest offset on: whole where that is admitted. (DESIGN CHOICE, log 25.) -/
def winCuts : Nat → Nat → List Byte → List (Nat × List Byte)
  | 0, _, _ => []
  | _, _, [] => []
  | f + 1, off, bs => let n := winPart off bs.length; (off, bs.take n) :: winCuts f (off + n) (bs.drop n)
/-- A chunk whose packet a router drops is never answered (R302). -/
def State.copyLost (s : State) (c : Copy) (n die : Nat) : State :=
  (s.meshDrop die (s.tile.ctx c.ctx).tenant).onTile fun t => t.setCopy { (c.advance n) with outs := c.outs ++ [(0, 0)] }
/-- One chunk of at most 64 bytes. Through a window a chunk at a multiple of 16, or one that the window admits whole, goes in writes that R180 admits, each good
run of a chunk that is not whole by itself. (DESIGN CHOICE, log 25.) -/
def State.copyStep (s : State) (c : Copy) : State :=
  let n := min 64 (c.len - c.off)
  let sp := sspOf c.f.ssp
  let a := c.src c.row c.off
  let d := c.dst c.row c.off
  let miss := fun (s : State) (va kind : Nat) => s.missTo (dieOf s.cur) (s.tile.ctx c.ctx).tenant va ⟨s.cur, 2, c.id, kind⟩
  match s.reach (2, c.id) c.ctx sp a n 0 with
  | .stop k => s.copyFail c (s.copyCause c k a)
  | .stall va => miss s va 0
  | .ok ss =>
    match (if sp ≠ .glb then none else if s.lineWaits ss then some s else match s.engDrop c.ctx ss with | some x => some (s.copyLost c n x) | none => s.mergeAhead ss) with
    | some s => s
    | none =>
    let bad := badWords d 0 (s.badBytes sp ss)
    let runs := goodRuns d bad 0 (s.segBytes sp ss)
    if c.f.dsp = .win then
      let e := s.tile.route c.f.label
      let runs := runs.map fun r => (((d + r.1) % 2 ^ 64).toNat, r.2)
      let runs := if d % 16 = 0 ∨ d % ((min n 16 : Nat) : Int) = 0 then runs.flatMap fun r => winCuts r.2.length r.1 r.2 else runs
      let c' := { c with outs := c.outs ++ runs.map fun r => (r.1, r.2.length) }
      let dead := s.tile.dead.contains c.f.label.toNat
      let s := runs.foldl (fun s r => if dead then s.sendNowhere c.f.label r.1 r.2.length (.copy s.cur c.id) else s.sendWin c.ctx e r.1 r.2 (.copy s.cur c.id))
        ((s.segFix sp ss).reached (2, c.id) c.ctx sp a n)
      s.copyNext c' n (!bad.isEmpty)
    else
      let dp := dspOf c.f.dsp
      match s.reach (2, c.id) c.ctx dp d n 1 with
      | .stop k => s.copyFail c (s.copyCause c k d)
      | .stall va => miss s va 1
      | .ok ds =>
        match (if dp ≠ .glb then none else if s.lineWaits ds then some s else match s.engDrop c.ctx ds with | some x => some (s.copyLost c n x) | none => s.mergeAhead ds) with
        | some s => s
        | none =>
        let s := runs.foldl (fun s r => match s.reach (2, c.id) c.ctx dp (d + r.1) r.2.length 1 with
          | .ok q => s.segWrite dp q r.2 | _ => s) (s.segFix sp ss)
        ((s.reached (2, c.id) c.ctx sp a n).reached (2, c.id) c.ctx dp d n).copyNext c n (!bad.isEmpty)
/-- R242: a running copy moves its next chunk. -/
def execCopyChunk (s : State) : Out3 :=
  match s.ev with
  | .copyChunk id =>
    match s.tile.copyN id with
    | some c =>
      .next (if !s.copyMay c then s
             else if c.moved then (if c.outs.isEmpty then s.push [.copyComplete id] else s)
             else match (if c.row = 0 ∧ c.off = 0 then s.copyBad c else none) with
               | some i => s.copyFail c i
               | none => if s.copyNoRoute c then s.copyFail c { s.copyCause c 0x17#8 0 with chlab := c.f.label.setWidth 8 } else s.copyStep c)
    | none => .next s
  | _ => .next s
/-- R242, R244: the last byte is written at its home. -/
def execCopyComplete (s : State) : Out3 :=
  match s.ev with
  | .copyComplete id =>
    match s.tile.copyN id with
    | some c =>
      .next (if c.moved && c.outs.isEmpty then
               (s.onTile fun t => Tile.tokDone (t.dropCopy id) (t.ctx c.ctx) c.f.pt.val c.ptk).wake
             else s)
    | none => .next s
  | _ => .next s

/-! ## The matrix unit -/

/-- A panel of the operation lies in the CSP. -/
def Instr.cspPanel : Instr → Bool
  | .mma f => f.asp || f.bsp | .mmas f _ msp => f.asp || f.bsp || msp | .mmv f => f.bsp | .aload f => f.asp
  | _ => false
/-- A store to the CSP has left the tile's port before, and waits for its bank: it is performed before the panels are fetched (R262). (DEDUCED, log 31.) -/
def State.matBehind (s : State) (o : Op) : Bool :=
  match o.act with
  | .mat (.mmr _ _) _ _ _ _ => false
  | .mat i _ _ _ _ => Instr.cspPanel i && (s.tile.before o.id).any fun p => match p.act with | .mem q => q.sp == .csp && q.op.isStore && p.isDue s.clock | _ => false
  | _ => false
/-- A matrix operation that may start: its token met, no acquire of its context pending, and for `mmr` no earlier one outstanding. (DEDUCED, log 21.) (DEDUCED, log 22.) -/
def State.matMay (s : State) (o : Op) : Bool :=
  match o.act with
  | .mat i _ _ wt k =>
    o.due.isNone && s.tile.tokMet o.ctx wt k && ((s.tile.before o.id).all fun p => !(p.ctx == o.ctx && p.acquiresEng)) && !s.matBehind o
    && (match i with
        | .mmr _ _ => (s.tile.before o.id).all fun p => match p.act with
          | .rot _ _ _ _ _ _ _ _ _ _ => false | .mat (.mmr _ _) _ _ _ _ => false | _ => true
        | _ => true)
  | _ => false
/-- R213, R215. -/
def execMatrixOperationStart (s : State) : Out3 :=
  match s.ev with
  | .matrixOperationStart id =>
    match s.tile.opN id with
    | some o => .next (if s.matMay o then s.matStart o else s)
    | none => .next s
  | _ => .next s

/-- A publication that completes before its operation writes back, or of `otpub` (R226, R331, R370). -/
def State.pubMet (s : State) (o : Op) : Bool :=
  match o.act with
  | .otpub _ => s.tile.settled o
  | .mat (.aload _) _ _ _ _ => o.pt.1 != 0 && (match o.due with | some d => decide (d ≤ s.clock + 4) | none => false)
  | _ => false
/-! ## Panels (R287) -/

/-- The rotation of a tile with fire number `j`. -/
def Tile.rotOp (t : Tile) (j : Nat) : Option Op :=
  t.ops.find? fun o => match o.act with | .rot _ _ _ _ k _ _ _ _ _ => k == j | _ => false
def Op.rotJ (o : Op) : Option Nat := match o.act with | .rot _ _ _ _ j _ _ _ _ _ => if o.due.isSome then none else some j | _ => none
/-- All four transfers are complete: the operation writes back when its product is complete too. -/
def Op.rotDone (o : Op) (clk : Nat) : Op :=
  match o.act with
  | .rot _ _ _ _ _ true true true true ends => if o.due.isSome then o else { o with due := some (max ends clk) }
  | _ => o
/-- Tile `n` sends its panel A (`isA`) to the west, or B to the north, once that neighbour has fired the same fire. (DEDUCED, log 22.) -/
def State.givePanel (s : State) (n : Nat) (isA : Bool) : State :=
  let nb := neighbour n (if isA then 3 else 0)
  match (s.tileN n).ops.find? (fun o => o.rotJ.isSome) with
  | none => s
  | some o =>
    match o.act with
    | .rot f v a b j gA gB sA sB e =>
      if (if isA then sA else sB) || !s.mmrFired nb ((s.tileN n).ctx o.ctx).task j then s
      else
        (s.modTile n fun t => t.setOp (Op.rotDone { o with act := .rot f v a b j gA gB (sA || isA) (sB || !isA) e } s.clock)).modTile nb
          fun t => { t with panels := t.panels ++ [(j, isA, if isA then a else b)] }
    | _ => s
/-- Tile `n` writes the panel A of its east neighbour, or B of its south neighbour, at a1 or b1; one of another length is written nowhere (R287). (DEDUCED, log 22.) -/
def State.takePanel (s : State) (n : Nat) (isA : Bool) : State :=
  let t := s.tileN n
  match t.ops.find? (fun o => o.rotJ.isSome) with
  | none => s
  | some o =>
    match o.act, t.panels.find? (fun p => some p.1 == o.rotJ && p.2.1 == isA) with
    | .rot f v a b j gA gB sA sB e, some p =>
      let own := if isA then f.bytesA else f.bytesB f.k
      let at1 := if isA then v.head?.getD 0 else (v.drop 1).head?.getD 0
      let s := s.setTile n { (t.setOp (Op.rotDone { o with act := .rot f v a b j (gA || isA) (gB || !isA) sA sB e } s.clock)) with panels := t.panels.erase p }
      if p.2.2.length ≠ own then s.modTile n fun t => t.modCtx o.ctx fun c => c.stop (StopInfo.mk0 0x1e#8 o.slot.toNat s.clock)
      else s.spWrite n .tcm ((t.ctx o.ctx).tcmPa at1.toNat) p.2.2
    | _, _ => s
/-- Panels leave the tile and arrive at it. (DEDUCED, log 22.) -/
def execMmrPanelArrival (s : State) : Out3 :=
  match s.ev with
  | .mmrPanelArrival n _ => .next ((((s.givePanel n true).givePanel n false).takePanel n true).takePanel n false)
  | _ => .next s

end Sys2Proof.Machine
end

