-- ==== Sys2Proof/Machine/Units.lean ====
section
/-! DEFINITION. The steps of a cluster's agents: neighbour links (R268), buffer controllers (R265, R281 to R283), barriers (R273, R288), and the
scrubs of rule store, TCM and CSP (R71, R175, R263). -/

namespace Sys2Proof.Machine
open Sys2Proof

/-! ## Neighbour links -/

/-- R268: the first entry of a link of tile `n` is placed when its time has come, and those behind it stay in order; one sent behind an acquire waits
for that acquire (R328). -/
def execNeighbourEntryArrival (s : State) : Out3 :=
  match s.ev with
  | .neighbourEntryArrival n dir =>
    let t := s.tileN n
    match t.nlink[dir] with
    | [] => .next s
    | x :: l =>
      .next (if s.clock < x.due || t.pendingIds x.hold then s.later 1 s.ev
        else
          let l := match l with | y :: k => { y with due := max y.due (s.clock + 1) } :: k | [] => []
          (s.setTile n { t with nlink := t.nlink.set dir l }).modTile (neighbour n dir) fun u =>
            { u with nq := u.nq.set (opp dir) (u.nq[opp dir] ++ [x.e]) })
  | _ => .next s
/-- The context that queue `dir` of tile `n` is granted to (R267). (DEDUCED, log 38.) -/
def State.queueOwner (s : State) (n : Nat) (dir : Fin 4) : Option (Fin 8) :=
  let g := nfld (reg (s.clus (clusOf n)).regs (0xa40 + 8 * posOf n)).toNat (4 * dir.val) 4
  if g / 8 = 1 then some (Fin.ofNat 8 (g % 8)) else none
/-- The task that a queue feeds stops with cause 0x1d. (DEDUCED, log 38.) -/
def State.linkStop (s : State) (n : Nat) (dir : Fin 4) : State :=
  match s.queueOwner n dir with
  | some c => s.modTile n fun t => match (t.ctx c).task with
    | some r => t.endTask r (.stop (StopInfo.mk0 0x1d#8 0 s.clock))
    | none => t.modCtx c fun x => x.stop (StopInfo.mk0 0x1d#8 0 s.clock)
  | none => s
/-- The entry that has reached the end of a link fails its check: it is counted and comes again 4 cycles later; the eighth failure of an entry
retires the link (R268). (DEDUCED, log 38.) -/
def execNeighbourRetry (s : State) : Out3 :=
  match s.ev with
  | .neighbourRetry n dir =>
    let t := s.tileN n
    match t.nlink[dir] with
    | [] => .next s
    | x :: l =>
      let s := s.modClus (clusOf n) fun k => { k with regs := bumpReg k.regs 0xac8 1 }
      .next (if 8 ≤ x.fails + 1 then
          (s.setTile n { t with nlink := t.nlink.set dir [], nout := dir :: t.nout }).linkStop (neighbour n dir) (opp dir)
        else s.setTile n { t with nlink := t.nlink.set dir ({ x with due := s.clock + 4, fails := x.fails + 1 } :: l) })
  | _ => .next s

/-! ## Buffers -/

def Act.bufReq : Act → Option (Bool × Bool)
  | .bput _ _ _ _ _ _ t => some (true, t.isSome) | .bget _ _ _ _ t => some (false, t.isSome) | _ => none
/-- Distance in the rotation from where it starts. -/
def rotDist (start pos : Nat) : Nat := (pos + 16 - start) % 16
/-- A request takes its place behind those that came earlier; among those of its cycle the rotation decides, as it stands when they arrive (R265). (DEDUCED, log 32.) -/
def insertReq (start : Nat) (r : BufReq) : List BufReq → List BufReq
  | [] => [r]
  | q :: l =>
    if q.buf == r.buf && q.cyc == r.cyc && decide (rotDist start (posOf r.tile) < rotDist start (posOf q.tile)) then r :: q :: l
    else q :: insertReq start r l
/-- The first of a list under an order. -/
def firstBy {α : Type} (le : α → α → Bool) : List α → Option α
  | [] => none
  | a :: l => match firstBy le l with | none => some a | some b => if le a b then some a else some b
/-- The operation of a request, when it still stands. -/
def State.reqOp (s : State) (r : BufReq) : Option Op := (s.tileN r.tile).opN r.op
/-- A request that the controller takes up now: one that it has not applied yet, or one that waits and finds its slot. -/
def State.reqCan (s : State) (k : Nat) (r : BufReq) : Bool :=
  match s.reqOp r with
  | some o => match o.act.bufReq with
    | some (put, _) => !r.tried || s.slotFree k r.buf put
    | none => true
  | none => true
/-- Every `bwait` of the cluster on the buffer whose condition holds is answered. -/
def State.wakeBwaits (s : State) (k b : Nat) : State :=
  (List.range 16).foldl (fun s p =>
    let n := tileAtPos k p
    (s.tileN n).ops.foldl (fun s o => match o.act with
      | .bwait _ b' e =>
        if b' = b ∧ s.slotFree k b e = true then s.modTile n fun t => t.finish { o with act := .plain } s.clock else s
      | _ => s) s) s
/-- The answer to a twin that fails: the status is cleared and a completion predicate set; nothing else is written (R281). -/
def Op.twinFail (o : Op) : Op :=
  match o.act with
  | .bput d _ _ _ _ _ (some p) => { o with act := .plain, wr := [.p d true, .p p false], rc := some false }
  | .bget (.tcm d _) _ _ _ (some p) => { o with act := .plain, wr := [.p d true, .p p false], rc := some false }
  | .bget (.vec _) _ _ _ (some p) => { o with act := .plain, wr := [.p p false], rc := some false }
  | _ => o
/-- Cycles from application to writeback: L - 4 (R290). (DEDUCED, log 32.) -/
def bufLat (vec : Bool) (len : Nat) : Nat := if vec then 3 else 2 + cdiv len 128
/-- The claim of a put, and its data; the full bit is set at the writeback. (DEDUCED, log 32.) -/
def State.bufPutDo (s : State) (k : Nat) (r : BufReq) (o : Op) (d : Nat) (vec : Bool) (data : List Byte) (pa : Nat) (p : PReg) (twin : Option PReg) : State :=
  let i := bufPut d
  let s := s.spWrite r.tile .csp (slotPa d i) data
  let s := s.modClus k fun c => c.setBuf r.buf fun w => putFld w 50 3 ((i + 1) % bufDepth d)
  s.modTile r.tile fun t => t.setOp { o with act := .claim r.buf pa (if vec then [] else data) true (slotPa d i) data.length, wr := .p p true :: twinWr twin true, rc := some true,
                                             due := some (s.clock + bufLat vec data.length) }
/-- The claim of a get: the slot is read; its full bit is cleared at the writeback, or with the stop that an uncorrectable word brings a `bget` of FORM 0
(R281). (DEDUCED, log 32.) -/
def State.bufGetDo (s : State) (k : Nat) (r : BufReq) (o : Op) (d : Nat) (x : BDst) (pa len : Nat) (twin : Option PReg) : State :=
  let i := bufGet d
  let a := slotPa d i
  let bad := s.spBad r.tile .csp a len
  let bs := s.spBytes r.tile .csp a len
  let s := s.spFix r.tile .csp a len
  let s := s.modClus k fun c => c.setBuf r.buf fun w => putFld w 53 3 ((i + 1) % bufDepth d)
  let e : Env := { die := dieOf r.tile, tile := tileIn r.tile, cyc := s.clock }
  match x with
  | .tcm p _ =>
    if bad then (s.claimDone r.tile r.buf false a).modTile r.tile fun t => (t.dropOp o.id).modCtx o.ctx fun c => c.stop (StopInfo.mk0 0x1a#8 o.slot.toNat s.clock)
    else s.modTile r.tile fun t => t.setOp { o with act := .claim r.buf pa bs false a len, wr := .p p true :: twinWr twin true, rc := some true,
                                                    due := some (s.clock + bufLat false len) }
  | .vec v =>
    let pl := mkPayload causeEcc o.slot.toNat o.ctx e o.fired
    let val := if bad then poisoned pl else clean (BitVec.ofNat 2048 (leNat bs))
    s.modTile r.tile fun t => t.setOp { o with act := .claim r.buf 0 [] false a len, wr := wrV v val ++ twinWr twin true,
                                               poison := if bad && twin.isNone then some pl else none, hard := false,
                                               rc := some true, due := some (s.clock + bufLat true len) }
/-- The controller applies a request: it claims a slot, fails, or waits from now on (R265, R281). (DEDUCED, log 32.) -/
def State.bufServe (s : State) (k : Nat) (r : BufReq) : State :=
  let drop := fun s : State => s.modClus k fun c => { c with wait := c.wait.filter fun x => x != r }
  match s.reqOp r with
  | none => drop s
  | some o =>
    if ((s.tileN r.tile).ctx o.ctx).dead s.clock then drop s
    else
      let d := (s.clus k).bufd r.buf
      match o.act.bufReq with
      | none => drop s
      | some (put, twin) =>
        if s.slotFree k r.buf put then
          let s := (drop s).modClus k fun c => { c with last := mset 0 c.last r.buf ((posOf r.tile + 1) % 16) }
          match o.act with
          | .bput p _ vec data pa _ twin => s.bufPutDo k r o d vec (data.getD []) pa p twin
          | .bget x _ pa len twin => s.bufGetDo k r o d x pa len twin
          | _ => s
        else if twin then
          ((drop s).modClus k fun c => { c with last := mset 0 c.last r.buf ((posOf r.tile + 1) % 16) }).modTile r.tile fun t => t.finish o.twinFail s.clock
        else s.modClus k fun c => { c with wait := c.wait.map fun x => if x == r then { x with tried := true } else x }
/-- Look at a buffer again in the next cycle. -/
def State.lookAgain (s : State) (k : Nat) (b : Fin 64) : State :=
  if s.queue.contains (s.clock + 1, .fullBitChange k b) then s else s.later 1 (.fullBitChange k b)
/-- R265: in a cycle the controller applies at most one request of a buffer, the first in order that it has not applied yet or that finds its slot; then the
waits for a full bit are examined. -/
def execFullBitChange (s : State) : Out3 :=
  match s.ev with
  | .fullBitChange k b =>
    let next := fun s : State => (s.clus k).wait.find? fun r => r.buf == b.val && s.reqCan k r
    match next s with
    | none => .next (s.wakeBwaits k b.val)
    | some r =>
      .next (if mget 0 (s.clus k).served b.val = s.clock + 1 then s.lookAgain k b
        else
          let s := (s.bufServe k r).wakeBwaits k b.val
          let s := s.modClus k fun c => { c with served := mset 0 c.served b.val (s.clock + 1) }
          if (next s).isNone then s else s.lookAgain k b)
  | _ => .next s
/-- The buffer that a request names. -/
def Act.bufN : Act → Option Nat | .bput _ b _ _ _ _ _ => some b | .bget _ b _ _ _ => some b | _ => none
/-- The TCM range of a request of FORM 0. -/
def Act.bufRange : Act → Option (Nat × Nat)
  | .claim _ pa bs wr _ _ => if wr || bs.isEmpty then none else some (pa, bs.length)
  | .bput _ _ false _ pa len _ => some (pa, len) | .bget (.tcm _ _) _ pa len _ => some (pa, len) | _ => none
def rangesMeet (x y : Option (Nat × Nat)) : Bool :=
  match x, y with | some a, some b => decide (a.1 < b.1 + b.2 ∧ b.1 < a.1 + a.2) | _, _ => false
/-- A request reaches its controller behind the acquires of its context (R266, R328), and behind earlier accesses of the context to the same bytes
(R324): of the TCM range, of the buffer's area, or through the same buffer. (DEDUCED, log 27.) -/
def State.bufMay (s : State) (n : Nat) (o : Op) (b : Nat) : Bool :=
  let k := clusOf n
  let d := (s.clus k).bufd b
  ((s.tileN n).before o.id).all fun p => p.ctx != o.ctx
    || !(p.acquires || p.acqClus || rangesMeet o.act.bufRange p.act.bufRange
      || (p.act.bufN == some b && !(s.clus k).wait.any fun r => r.tile == n && r.op == p.id)
      || (match p.act with
          | .mem m => (m.sp == .tcm && o.act.bufRange.isSome)
            || (m.sp == .csp && rangesMeet (some (bufBase d, bufDepth d * bufLen d)) (some (m.addr.toNat, m.size)))
          | _ => false))
/-- The bytes of a put of FORM 0 are read at the tile; an uncorrectable word stops the context (R281). -/
def State.bputRead (s : State) (n : Nat) (o : Op) : Option State :=
  match o.act with
  | .bput p b vec none pa len tw =>
    if s.spBad n .tcm pa len then none
    else some ((s.spFix n .tcm pa len).modTile n fun t => t.setOp { o with act := .bput p b vec (some (s.spBytes n .tcm pa len)) pa len tw })
  | _ => some s
/-- A request reaches its controller; a `bwait` that is met already is answered. One of a context that stands saved has been withdrawn (R282). -/
def execBufferRequest (s : State) : Out3 :=
  match s.ev with
  | .bufferRequest n id =>
    match (s.tileN n).opN id with
    | none => .next s
    | some o =>
      let k := clusOf n
      let x := (s.tileN n).ctx o.ctx
      match o.act, o.act.bufN with
      | .bwait _ b _, _ => .next (s.wakeBwaits k b)
      | _, some b =>
        .next (if x.st == .saved || x.st == .migrating then s
          else if !s.bufMay n o b then s.later 1 s.ev
          else match s.bputRead n o with
            | none => s.modTile n fun t => (t.dropOp id).modCtx o.ctx fun c => c.stop (StopInfo.mk0 0x1a#8 o.slot.toNat s.clock)
            | some s => (s.modClus k fun c => { c with wait := insertReq (mget 0 c.last b) ⟨b, n, id, s.clock, false⟩ c.wait }).atEnd (.fullBitChange k (Fin.ofNat 64 b)))
      | _, none => .next s
  | _ => .next s

/-! ## Cluster barriers -/

def Cluster.bar (k : Cluster) (n : Nat) : Nat := (reg k.regs (0xa00 + 8 * n)).toNat
/-- Accesses fired before the arrival are complete, and no earlier arrival of the context waits for its release (R273, R338). -/
def Tile.mayArrive (t : Tile) (o : Op) : Bool :=
  t.settled o && (t.before o.id).all fun p => p.ctx != o.ctx || (match p.act with
    | .cbar _ _ _ _ => false | .put _ _ _ => false | .mat _ _ _ _ _ => false | .rot _ _ _ _ _ _ _ _ _ _ => false | _ => true)
/-- Every arrival that stands at a barrier of the cluster is due at a cycle. -/
def State.releaseAt (s : State) (k n due : Nat) : State :=
  (List.range 16).foldl (fun s p => s.modTile (tileAtPos k p) fun t =>
    { t with ops := t.ops.map fun o => match o.act with
        | .cbar _ m true _ => if m = n ∧ o.due = none then { o with due := some due } else o
        | _ => o }) s
def execBarrierArrival (s : State) : Out3 :=
  match s.ev with
  | .barrierArrival n id =>
    let t := s.tileN n
    match t.opN id with
    | none => .next s
    | some o =>
      match o.act with
      | .cbar d b false _ =>
        if !t.mayArrive o then .next s
        else
          let k := clusOf n
          let w := (s.clus k).bar b
          let s := s.setTile n (t.setOp { o with act := .cbar d b true (nfld w 21 1 == 1) })
          let put := fun (s : State) (a ph : Nat) => s.modClus k fun c =>
            { c with regs := setReg c.regs (0xa00 + 8 * b) (putFld (putFld (reg c.regs (0xa00 + 8 * b)) 13 8 a) 21 1 ph) }
          let a := nfld w 13 8 + 1
          .next (if nfld w 5 8 ≤ a then
              ((put s 0 (1 - nfld w 21 1)).releaseAt k b (s.clock + 4)).later 4 (.barrierRelease k (Fin.ofNat 8 b))
            else put s a (nfld w 21 1))
      | _ => .next s
  | _ => .next s
/-- The release of a phase, four cycles after its last arrival. -/
def execBarrierRelease (s : State) : Out3 :=
  match s.ev with
  | .barrierRelease k b =>
    .next ((List.range 16).foldl (fun s p =>
      let n := tileAtPos k p
      (s.tileN n).ops.foldl (fun s o => match o.act with
        | .cbar _ m true _ => if m = b.val ∧ o.isDue s.clock then s.modTile n fun t => t.finish { o with act := .plain } s.clock else s
        | _ => s) s) s)
  | _ => .next s

/-! ## Scrubs -/

/-- R71: a single-bit error is corrected; an uncorrectable one in a valid slot stops the context that holds it. (DESIGN CHOICE, log 85.) -/
def execRuleStoreScrub (s : State) : Out3 :=
  match s.ev with
  | .ruleStoreScrub slot bad =>
    .next (if bad && (mget 0 s.tile.store slot.val).getLsbD 127 then
        s.onTile fun t => allCtx.foldl (fun t c =>
          let x := t.ctx c
          if x.st != .free && decide (x.cfg.rbase.toNat ≤ slot.val ∧ slot.val ≤ x.cfg.rlast.toNat) then
            t.modCtx c fun x => x.stop (StopInfo.mk0 0x14#8 slot.val s.clock)
          else t) { t with badslots := sinsert t.badslots slot.val }
      else s)
  | _ => .next s
/-- R175: the scrub of a TCM word meets an uncorrectable error, or corrects a single-bit error and counts it. (DESIGN CHOICE, log 85.) -/
def execTcmScrub (s : State) : Out3 :=
  match s.ev with
  | .tcmScrub w bad =>
    .next (s.onTile fun t =>
      if bad then { t with tcmBad := sinsert t.tcmBad w }
      else { t with tcmSoft := sremove t.tcmSoft w, r := { t.r with ecccnt := satInc t.r.ecccnt 1 } })
  | _ => .next s
/-- R263. (DESIGN CHOICE, log 85.) -/
def execCspScrub (s : State) : Out3 :=
  match s.ev with
  | .cspScrub k w bad =>
    .next (s.modClus k fun c =>
      if bad then { c with cspBad := sinsert c.cspBad w }
      else { c with cspSoft := sremove c.cspSoft w, regs := bumpReg c.regs 0xac0 1 })
  | _ => .next s

end Sys2Proof.Machine
end

