-- ==== Sys2Proof/Machine/Arrive.lean ====
section
/-! DEFINITION. Arrivals at tiles: channel entries and credits (R24, R178, R302, R307, R504), window writes (R180), acknowledgements, circuit tokens
(R333), watches (R149 to R151), the end of sleep (R147), and the refill of draw budgets (R169). -/

namespace Sys2Proof.Machine
open Sys2Proof

/-! ## Headers (R302, R421) -/

/-- A header that is dropped: a reserved OP or CLASS, a tag that its virtual network does not carry, or a retiring tag. -/
def State.badHdr (s : State) (die : Nat) (h : Hdr) : Bool :=
  decide (14 ≤ h.op.toNat) || h.cls == 3#2 || !s.vnAdmits die h.vn h.tenant || s.retires h.tenant
/-- Who answers a packet of another module (R301): the tile that it reached, the Kiln, or the home of its first byte, and the Hearth before that is known. -/
def Rq.source (q : Rq) (own : Nat) : BitVec 32 :=
  let p := q.pkt
  if p.op ≤ 1 then mkSrc own (192 * p.ddie + p.dtgt) (Fin.ofNat 8 p.dctx) (Fin.ofNat 16 p.dchan)
  else if p.op = 0xc ∨ p.op = 8 then agentSrc own p.ddie 0xfe
  else match q.pas with
    | [] => agentSrc own p.ddie 0xf8
    | a :: _ => agentSrc own (match memHome a with | some (h + 2) => h | _ => p.ddie) (homeCode a)
/-- Answer a request of another module (R301): an acknowledgement with its negative and busy bits, or a read response with data, poisoned where a word of
it is uncorrectable. The request is forgotten. -/
def State.answerOut (s : State) (id : Nat) (cause : Option (BitVec 8)) (busy pois : Bool) (data : List Word) : State :=
  let q := mget Rq.zero s.fab.reqs id
  let p := q.pkt
  let s : State := { s with fab := { s.fab with reqs := mset Rq.zero s.fab.reqs id Rq.zero } }
  s.sendPkt p.ddie none { Pkt.zero with
    op := if data.isEmpty then 6 else 5, vn := p.vn, tenant := p.tenant, dmod := srcMod p.src, ddie := srcDie p.src, dtgt := srcTgt p.src,
    dctx := (srcCtx p.src).val, dchan := (srcChan p.src).val, circ := p.circ, src := q.source s.own, tag := pktNo p, p := pois, attr := b2n cause.isSome + at_ 1 (b2n busy)
    idata := match cause with | some k => k.setWidth 64 | none => data.headD 0, data := if data.length ≤ 1 then [] else data }
/-- Answer a requester: positive, negative with a cause, or busy. -/
def State.answer (s : State) (who : AckTo) (cause : Option (BitVec 8)) (busy : Bool) : State :=
  s.push [.acknowledgementArrival who cause busy]
def State.answerOpt (s : State) (who : Option AckTo) (busy : Bool) : State :=
  match who with | some w => s.answer w none busy | none => s

/-! ## Stubs (R400) -/

/-- While a stub stands for a context, what arrives for it goes on to its place on the destination. -/
def State.stubAt (s : State) (n : Nat) (c : Fin 8) : Nat × Fin 8 :=
  match s.winder.migs.find? (fun m => m.stage == 3 && m.src.any fun q => q.tile == n && q.ctxs.contains c) with
  | none => (n, c)
  | some m =>
    match (m.src.zip m.dst).find? (fun q => q.1.tile == n && q.1.ctxs.contains c) with
    | some q => (q.2.tile, q.2.ctxs.getD ((q.1.ctxs.findIdx? fun x => x == c).getD 0) 0)
    | none => (n, c)

/-! ## Channels -/

/-- Entries reach a tile: discarded with those of a `chreset` of the same cycle, whose result condition they make 1 (R140, R153), dropped as
unbound or stale, answered busy while the channel has no place that was free at the start of the cycle (R24), or placed. (DEDUCED, log 33.) (DEDUCED, log 18.) -/
def State.arriveEnts (s : State) (n : Nat) (c : Fin 8) (ch : Chan) (gen : BitVec 2) (h : Hdr) (es : List Entry) (ans : Option AckTo) : State :=
  let r := s.stubAt n ((s.tileN n).inbOwner c ch)
  let n := r.1
  let o := r.2
  let t := s.tileN n
  let x := t.ctx o
  let b := x.ib[ch]
  let reset := (t.recent s.clock o).reset.filter fun q => q.1 == ch
  if b.bv && reset.any (fun q => q.2.1 == gen) then
    let preds := match reset with | some q => q.2.2 | none => []
    let s := s.setTile n (t.modCtx o fun x => x.setRegs (preds.foldl (fun r p => r.setP p true) x.regs))
    match ans with | some w => s.answer w none false | none => s.credit n o h.tenant h.src es.length
  else if !b.bv || reset.isSome || b.gen != gen || (ans.isSome && !b.mh) then
    let s := s.setTile n (t.countDrop es.length)
    match ans with | some w => s.answer w none false | none => s.credit n o h.tenant h.src es.length
  else if 8 < (x.inb[ch]).length + t.takenNow s.clock o ch + es.length then
    match ans with | some w => s.answer w none true | none => s.later 1 (.channelEntryArrival n c ch gen h es ans)
  else (s.setTile n (t.setCtx o (x.arrive ch es ans.isNone))).answerOpt ans false
/-- R178, R302, R504. (DEDUCED, log 33.) -/
def execChannelEntryArrival (s : State) : Out3 :=
  match s.ev with
  | .channelEntryArrival n c ch gen h es ans =>
    .next (if s.badHdr (dieOf n) h then s.meshDrop (dieOf n) h.tenant else s.arriveEnts n c ch gen h es ans)
  | _ => .next s
/-- R178, R268, R292: credits are counted back. -/
def execCreditArrival (s : State) : Out3 :=
  match s.ev with
  | .creditArrival n c ch k =>
    let r := s.stubAt n ((s.tileN n).egrOwner c ch)
    .next (s.modTile r.1 fun t => t.modCtx r.2 fun x =>
      let b := x.eb[ch]
      if b.bv then { x with eb := x.eb.set ch { b with cred := BitVec.ofNat 4 (min 8 (b.cred.toNat + k)) } } else x)
  | .linkCredit n dir k => .next (s.modTile n fun t => { t with ncred := t.ncred.set dir (t.ncred[dir] + k) })
  | _ => .next s

/-- Entries that a pending operation of the context still has ahead of it in a channel. (DEDUCED, log 27.) -/
def Op.aheadOf (o : Op) (ch : Chan) : Nat := match o.ents.find? (fun x => x.1 == ch) with | some x => x.2 | none => 0
/-- The head entry was sent behind a fence or an acquire that is not complete (R328, R329). -/
def Tile.egHeld (t : Tile) (c : Fin 8) (ch : Chan) (near : Bool) : Bool :=
  (t.pendingOps c).any fun o => (o.acquires || (near && o.acqClus)) && o.aheadOf ch == 0
/-- A stop can still be taken. -/
def Ctx.canStop (c : Ctx) : Bool :=
  (c.st == .running || c.st == .shadow || c.st == .stopped) && (match c.ctl.ending with | .stop _ => false | _ => true)
/-- The binding's label cannot carry the entry (R176, R308, R490). -/
def State.badLabel (s : State) (c : Fin 8) (l : BitVec 7) : Bool := rKind (s.tile.route l) != 1 || s.routeFailed c (s.tile.route l)
/-- The channel can transmit its head, or its context stops for its label (R159, R178, R399). -/
def State.egressMay (s : State) (c : Fin 8) (ch : Chan) : Bool :=
  let x := s.tile.ctx c
  let b := x.eb[ch]
  b.bv && b.cred != 0 && (match x.egr[ch] with | e :: _ => !e.p | [] => false)
  && (x.st == .running || x.st == .stopped || x.st == .shadow || x.st == .faulted)
  && !s.tile.gates.contains b.label.toNat && !s.tile.egHeld c ch (s.nearRoute (s.tile.route b.label)) && (!s.badLabel c b.label || x.canStop)
def Op.passed (o : Op) (ch : Chan) : Op :=
  { o with ents := o.ents.map fun x => if x.1 = ch then (x.1, x.2 - 1) else x }
/-- An operation or an entry under way has the number by which an answer would find another. -/
def Tile.numberUsed (t : Tile) (id : Nat) : Bool := (t.ops.any fun o => o.id % 128 == id % 128) || t.away.any fun a => a.id % 128 == id % 128
/-- An entry has left for another module: what was fired after it, or stood behind it, waits until it is placed (R320, R328). -/
def Tile.sentAway (t : Tile) (c : Fin 8) (behind : List Nat) : Tile :=
  { t with away := t.away ++ [{ id := t.nextId, ctx := c, before := behind }], nextId := t.nextId + 1 }
/-- The head entry leaves. Through an entry whose target was cancelled before it was placed it is dropped and counted, and keeps its credit (R79, R178).
(DESIGN CHOICE, log 86.) -/
def State.transmit (s : State) (c : Fin 8) (ch : Chan) : State :=
  let x := s.tile.ctx c
  let b := x.eb[ch]
  match x.egr[ch] with
  | [] => s
  | e :: es =>
    if s.badLabel c b.label then
      s.onTile fun t => t.modCtx c fun x => x.stop { StopInfo.mk0 0x17#8 0 s.clock with chlab := b.label.setWidth 8 }
    else
      let dead := s.tile.dead.contains b.label.toNat
      let far := !dead && rMod (s.tile.route b.label) != s.own
      if far && s.tile.numberUsed s.tile.nextId then s.onTile fun t => { t with nextId := t.nextId + 1 } else
      let y := { x with egr := x.egr.set ch es, eb := x.eb.set ch { b with cred := if dead then b.cred else b.cred - 1 } }
      let behind := ((s.tile.pendingOps c).filter fun o => o.aheadOf ch != 0).map (·.id)
      let s := s.onTile fun t => { t.setCtx c y with ops := t.ops.map fun o => if o.ctx = c then o.passed ch else o }
      let sent := fun s : State => if far then s.onTile fun t => t.sentAway c behind else s
      (sent (if dead then s.onTile fun t => t.countDrop 1 else s.sendEnts c ch (s.tile.route b.label) [e] none)).wake
/-- R178, R305, R307. -/
def execEgressTransmit (s : State) : Out3 :=
  match s.ev with
  | .egressTransmit c ch => .next (if s.egressMay c ch then s.transmit c ch else s)
  | _ => .next s

/-! ## Window writes (R180) -/

/-- The write is admitted by the window as it stands. -/
def winOk (w : Nat) (tenant : BitVec 4) (off n : Nat) : Bool :=
  nfld w 0 1 == 1 && nfld w 4 4 == tenant.toNat && off % min n 16 == 0 && decide (off + n ≤ nfld w 20 12 * 64)
/-- The route label that an operation or a copy named. -/
def State.labelOf (s : State) (who : AckTo) : BitVec 7 :=
  match who with
  | .op n id => match (s.tileN n).opN id with
    | some o => match o.act with | .mem m => m.label.getD 0 | _ => 0
    | none => 0
  | .copy n id => match (s.tileN n).copyN id with | some c => c.f.label | none => 0
  | .remote _ _ => 0
def execWindowWriteArrival (s : State) : Out3 :=
  match s.ev with
  | .windowWriteArrival n w h off bs who =>
    .next (
      if s.badHdr (dieOf n) h then s.meshDrop (dieOf n) h.tenant
      else
        let t := s.tileN n
        let e := (reg t.r.win w.val).toNat
        let r := s.stubAt n (Fin.ofNat 8 (nfld e 1 3))
        if winOk e h.tenant off bs.length then
          (s.spWrite r.1 .tcm (((s.tileN r.1).ctx r.2).tbase.toNat + nfld e 8 12 * 64 + off) bs).answer who none false
        else
          (s.modTile n fun t => { t with r := { t.r with nackcnt := satInc t.r.nackcnt 1 } }).push [.windowRefusal who (s.labelOf who) off bs.length])
  | _ => .next s
/-- The negative acknowledgement reaches the sender: its context stops with cause 0x16. -/
def execWindowRefusal (s : State) : Out3 :=
  match s.ev with
  | .windowRefusal who label off n =>
    let info := fun slot => { StopInfo.mk0 0x16#8 slot s.clock with chlab := label.setWidth 8, loc := BitVec.ofNat 64 off, bytes := BitVec.ofNat 32 n }
    match who with
    | .op t id =>
      let s := s.focus t
      match s.tile.opN id with
      | some o => .next (s.failOp o (info o.slot.toNat)).wake
      | none => .next s
    | .copy t id =>
      let s := s.focus t
      match s.tile.copyN id with
      | some c => .next (s.copyFail { c with outs := c.outs.erase (off, n) } (info c.slot.toNat))
      | none => .next s
    | .remote _ id => .next (s.answerOut id (some 0x16#8) false false [])
  | _ => .next s

/-! ## Acknowledgements -/

/-- R504: what a busy answer does. -/
def State.rsendBusy (s : State) (o : Op) (twin : Option PReg) : State :=
  match twin with
  | some p => s.retire { o with act := .plain, wr := [.p p false], rc := some false }
  | none => s.later 64 (.rsendRetry s.cur o.id)
/-- An access stops its context with the address refused; CODE marks a malformed table entry. (DESIGN CHOICE, log 29.) -/
def State.opFault (s : State) (o : Op) (k : BitVec 8) (bad : Bool) : State :=
  s.failOp o { s.opCause o k with loc := (match o.act with | .mem m => BitVec.ofInt 64 m.addr | _ => 0), code := BitVec.ofNat 16 (b2n bad) }
/-- The answer of an operation of the focus tile. -/
def State.opAnswer (s : State) (o : Op) (cause : Option (BitVec 8)) (busy : Bool) : State :=
  match cause with
  | some k => s.opFault o k false
  | none =>
    match o.act with
    | .rsend _ _ twin _ => if busy then s.rsendBusy o twin else s.retire { o with act := .plain, wr := twinWr twin true }
    | .mem _ => s.retire { o with act := .plain }
    | _ => s.retire o
def execAcknowledgementArrival (s : State) : Out3 :=
  match s.ev with
  | .acknowledgementArrival who cause busy =>
    match who with
    | .op n id =>
      let s := s.focus n
      match s.tile.opN id with
      | some o => .next (s.opAnswer o cause busy).wake
      | none => .next s
    | .copy n id =>
      let s := s.focus n
      match s.tile.copyN id with
      | some c =>
        let c := { c with outs := c.outs.drop 1 }
        let s := s.onTile fun t => if c.dead && c.outs.isEmpty then t.dropCopy id else t.setCopy c
        .next (if !c.dead && c.moved && c.outs.isEmpty then s.push [.copyComplete id] else s)
      | none => .next s
    | .remote _ id =>
      .next (s.answerOut id cause busy false [])
  | _ => .next s
/-- R504: an `rsend` leaves, or leaves again. -/
def State.rsendMay (s : State) (o : Op) : Bool :=
  (match o.act with | .rsend l _ _ _ => !s.tile.gates.contains l.toNat && !(s.nearRoute (s.tile.route l) && s.tile.clusHeld o) | _ => true)
  && (s.tile.before o.id).all fun p => !(p.ctx == o.ctx && p.acquires)
def execRsendRetry (s : State) : Out3 :=
  match s.ev with
  | .rsendRetry n id =>
    let s := s.focus n
    match s.tile.opN id with
    | some o =>
      match o.act with
      | .rsend l es tw _ =>
        .next (if s.rsendMay o then
            let e := s.tile.route l
            if rKind e ≠ 1 ∨ s.routeFailed o.ctx e then s.failOp o { s.opCause o 0x17#8 with chlab := l.setWidth 8 }
            else if s.tile.dead.contains l.toNat then ((s.onTile fun t => t.countDrop es.length).retire { o with act := .plain, wr := twinWr tw true }).wake
            else (s.onTile fun t => t.setOp { o with act := .rsend l es tw true }).sendEnts o.ctx 0 e es (some (.op n id))
          else s)
      | _ => .next s
    | none => .next s
  | _ => .next s

/-! ## Circuit tokens (R333, R370) -/

/-- Every window write that the tile sent before has been performed. -/
def Tile.circMay (t : Tile) (o : Op) : Bool :=
  (match o.act with | .circ l _ => !t.gates.contains l.toNat | _ => true) && (t.before o.id).all fun p => match p.act with | .mem m => m.label.isNone | _ => true
/-- The token leaves: a marker in every class. One through an entry that leads nowhere is dropped and counted (R79). (DESIGN CHOICE, log 86.) -/
def State.sendToken (s : State) (o : Op) (label : BitVec 7) (idx : Fin 8) : State :=
  let e := s.tile.route label
  let h := s.hdr o.ctx 0 0xd 0 e
  let c : Fin 8 :=
    if rKind e = 2 then Fin.ofNat 8 (nfld (reg (s.tileN (rTile e)).r.win (rWin e).val).toNat 1 3) else rCtx e
  let s := s.onTile fun t => t.dropOp o.id
  if s.tile.dead.contains label.toNat then s.onTile fun t => t.countDrop 1
  else if rMod e = s.own then s.atEnd (.circuitToken (rTile e) c idx h)
  else
    (List.range 3).foldl (fun s cls => s.sendPkt (dieOf s.cur) none
      { markPkt 0 idx.val (rVn e) cls h.tenant (rMod e) (rDie e) h.circ.toNat h.src with
        idata := if rKind e = 2 then 1 else 0, dtgt := tileIn (rTile e), dctx := if rKind e = 1 then (rCtx e).val else 0, dchan := if rKind e = 2 then (rWin e).val else 0 }) s
/-- R331, R333, R370: a publication completes; a circuit token leaves. -/
def execOrderTokenComplete (s : State) : Out3 :=
  match s.ev with
  | .orderTokenComplete id =>
    match s.tile.opN id with
    | some o =>
      match o.act with
      | .circ label idx => .next (if s.tile.circMay o then s.sendToken o label idx else s)
      | _ =>
      .next (if s.pubMet o then
          (match o.act with
           | .otpub _ => s.retire { o with act := .plain }
           | _ => s.onTile fun t => Tile.tokDone (t.setOp { o with pt := (0, 0) }) (t.ctx o.ctx) o.pt.1 o.pt.2).wake
        else s)
    | none => .next s
  | _ => .next s
/-- Delivery. -/
def execCircuitToken (s : State) : Out3 :=
  match s.ev with
  | .circuitToken n c idx h =>
    .next (if s.badHdr (dieOf n) h then s.meshDrop (dieOf n) h.tenant
      else
        let r := s.stubAt n c
        let s := s.focus r.1
        let c := r.2
        let x := s.tile.ctx c
        if x.st == .free || decide (65535 ≤ x.arr[idx]) then s.onTile fun t => t.countDrop 1
        else (s.onTile fun t => t.modCtx c fun x => { x with arr := x.arr.set idx (x.arr[idx] + 1) }).wake)
  | _ => .next s

/-! ## Watches (R149 to R151) -/

/-- The word's home can be reached: a page that is not resident delays an arming. (DEDUCED, log 20.) -/
def execWatchArm (s : State) : Out3 :=
  match s.ev with
  | .watchArm n c p =>
    let x := (s.tileN n).ctx c
    match x.watches.find? (fun w => w.pred == p && !w.sent && decide (w.due ≤ s.clock)) with
    | none => .next s
    | some w =>
      match s.watchWord n c w with
      | none => .next (s.later 1 s.ev)
      | some _ =>
        let w' := { w with sent := true }
        let s := s.modTile n fun t => t.modCtx c fun y => { y with watches := y.watches.map fun v => if v.pred = p then w' else v }
        .next (s.fireWatch n c w')
  | _ => .next s
/-- A notification reaches the tile; one whose watch has been disarmed or replaced in the meantime is dropped (R150). (DEDUCED, log 20.) -/
def execWatchNotify (s : State) : Out3 :=
  match s.ev with
  | .watchNotify n c p _ v =>
    .next (s.modTile n fun t =>
      t.modCtx c fun x =>
      match ((t.recent s.clock c).off.toList ++ x.watches).find? (fun w => w.pred == p && w.note.isSome && decide (w.due ≤ s.clock)) with
      | some w => Ctx.hear { x with watches := x.watches.filter fun w => w.pred != p } w v
      | none => x)
  | .watchRelease d i k =>
    .next ((s.seatTiles d i).foldl (fun s n => s.modTile n fun t => allCtx.foldl (fun t c => match (t.ctx c).task with
      | some r => if r.die = d ∧ r.idx = i ∧ r.copy = k then t.modCtx c Ctx.unhold else t
      | none => t) t) s)
  | _ => .next s
def execWatchDisarm (s : State) : Out3 :=
  match s.ev with
  | .watchDisarm n c p => .next (s.modTile n fun t => t.modCtx c fun x => x.disarm p)
  | _ => .next s

/-! ## Sleep and draw -/

/-- R147. -/
def Ctx.sleepOver (c : Ctx) (clk : Nat) : Bool :=
  match c.ctl.asleep with | some ⟨some n⟩ => decide (n ≤ clk) | _ => false
def execSleepTimerExpiry (s : State) : Out3 :=
  match s.ev with
  | .sleepTimerExpiry c =>
    .next (if (s.tile.ctx c).sleepOver s.clock then s.onTile fun t => t.modCtx c fun x => x.setCtl { x.ctl with asleep := none } else s)
  | _ => .next s
/-- The cap factor of a die, 16 where nothing is capped (R468, R469). -/
def State.capOf (s : State) (die : Nat) : Nat := if (s.die die).throttle then 4 else s.saloc.capF
/-- R169, R144, R468. -/
def Ctx.refill (f : Nat) (c : Ctx) : Ctx :=
  if c.st = .free then c else { c with left := BitVec.ofNat 20 (c.quota.toNat * f / 16), ctl := { c.ctl with yielded := false } }
def execDrawRefill (s : State) : Out3 :=
  match s.ev with
  | .drawRefill => .next (s.onTile fun t => { t with ctxs := t.ctxs.map (Ctx.refill (s.capOf (dieOf s.cur))) })
  | _ => .next s
/-- BLEFT runs down in every cycle in which a context of the task runs on the tile (R357), while capped in as many of 16 as the factor (R468). -/
def Tile.tickBound (t : Tile) (run : Bool) (stays : TRef → Bool) : Tile :=
  if !run then t else
  { t with tasks := t.tasks.map fun k => if !stays k.ref && (t.ctxsOf k.ref).any (fun c => (t.ctx c).st == .running) then { k with bleft := k.bleft - 1 } else k }
/-- Tasks of the tile whose bound has run out. -/
def Tile.overruns (t : Tile) : List TRef :=
  (t.tasks.filter fun k => k.bleft == 0 && (t.ctxsOf k.ref).any fun c => (t.ctx c).st == .running && (t.ctx c).canStop).map (·.ref)
def execOverrun (s : State) : Out3 :=
  match s.ev with
  | .overrun die idx =>
    .next (s.onTile fun t => (t.overruns.filter fun r => r.die == die && r.idx == idx).foldl (fun t r =>
      t.endTask r (.stop (StopInfo.mk0 0x20#8 0 s.clock))) t)
  | _ => .next s

end Sys2Proof.Machine
end

