-- ==== Sys2Proof/Machine/Pages.lean ====
section
/-! DEFINITION. Global accesses on their way (R304, R313 to R318, R362 to R368), merge buffers (R336, R337), the Winder's moves (R405 to R412) and
touch maps (R408). -/

namespace Sys2Proof.Machine
open Sys2Proof

/-! ## Invalidation (R316) -/

/-- Bit `d` of a mask of dies; bit 8 is the Hearth. -/
def dieIn (mask d : Nat) : Bool := nfld mask d 1 == 1
/-- A walk is of a page that a test picks: of its 64 KiB, or of the 2 MiB page round them. -/
def State.pickWalk (s : State) (tenant : BitVec 4) (p : Nat → Bool) (w : Walk) : Bool :=
  p w.vpn || (s.leafLvl tenant (w.vpn * 65536) == 1 && (List.range 32).any fun i => p (w.vpn / 32 * 32 + i))
/-- Remove the entries that a test picks from the translation caches of the dies of a mask, and restart the walks of their pages. -/
def State.inval (s : State) (mask : Nat) (tenant : BitVec 4) (p : Nat → Bool) : State :=
  let e := fun x : TlbE => x.tenant == tenant && (if x.big then (List.range 32).any (fun i => p (x.vpn + i)) else p x.vpn)
  let s : State := { s with clusters := (s.clusters.map fun x => (x.1, if dieIn mask (x.1 / 12) then { x.2 with tlb := tlbDrop x.2.tlb e } else x.2)).filter
                                  fun x => x.2 != Cluster.zero }
  let s := (s.allTiles.filter fun x => !x.2.handed.isEmpty && dieIn mask (dieOf x.1)).foldl (fun s x =>
    s.modTile x.1 fun u => { u with handed := u.handed.filter fun y => !e y.2.2 }) s
  let s : State := if dieIn mask 8 then
      { s with hearth := { s.hearth with tlb := tlbDrop s.hearth.tlb e }, fab := { s.fab with reqs := s.fab.reqs.map fun x => (x.1, { x.2 with hand := x.2.hand.filter fun y => !e y }) } }
    else s
  (List.range 9).foldl (fun s d =>
    if !dieIn mask d then s
    else
      (s.die d).walks.foldl (fun s w =>
        if !w.wait && w.tenant == tenant && s.pickWalk tenant p w then
          let n := s.walkTime d tenant (w.vpn * 65536)
          (s.modDie d fun x => { x with walks := x.walks.map fun v => if walkIs w.tenant w.vpn v then { v with ends := s.clock + n, resid := false } else v }).later n
            (.walkComplete d w.tenant w.vpn)
        else s) s) s
def State.invalPage (s : State) (tenant : BitVec 4) (vpn : Nat) : State := s.inval 511 tenant fun v => v == vpn
/-- The bytes that a request reads or writes, by its SIZE (R237, R368). -/
def reqSize (p : Pkt) : Nat :=
  if p.op = 4 then 8 else match nfld p.attr 4 3 with | 0 | 4 => 1 | 1 | 5 => 2 | 2 | 6 => 4 | 7 => 16 | _ => 8
/-- An address lies in a 2 MiB page, as the table or a cache of the masked dies has it. -/
def State.wideAt (s : State) (mask : Nat) (t : BitVec 4) (a : Nat) : Bool :=
  let big := fun m : AMap (List TlbE) => (tlbLine m (tlbSet2M a)).any fun e => e.big && tlbMatch t a e
  s.leafLvl t a == 1 || s.clusters.any (fun x => dieIn mask (x.1 / 12) && big x.2.tlb) || (dieIn mask 8 && big s.hearth.tlb)
/-- An access to an address is by an entry that a test picks. -/
def State.pickAddr (s : State) (mask : Nat) (t : BitVec 4) (p : Nat → Bool) (a : Nat) : Bool :=
  p (a / 65536) || ((List.range 32).any (fun i => p (a / 2097152 * 32 + i)) && s.wideAt mask t a)
/-- Accesses on their way to their homes by entries that a test picks (R316): four times the tile and the agent, as in `Waiter`, and the number. -/
def State.usersOf (s : State) (mask : Nat) (t : BitVec 4) (p : Nat → Bool) : List (Nat × Nat) :=
  (s.allTiles.flatMap fun x =>
    if !dieIn mask (dieOf x.1) then []
    else (x.2.ops.filter fun o => (x.2.ctx o.ctx).tenant == t && (match o.act with
      | .mem m => m.sp == .glb && m.sent && !m.pa.isEmpty && (pagesOf m.addr.toNat m.size).any (s.pickAddr mask t p)
      | _ => false)).map fun o => (4 * x.1, o.id))
  ++ if dieIn mask 8 then
       (s.fab.reqs.filter fun x => decide (2 ≤ x.2.pkt.op ∧ x.2.pkt.op ≤ 4) && !x.2.pas.isEmpty && x.2.pkt.tenant == t
         && (pagesOf x.2.pkt.addr (reqSize x.2.pkt)).any (s.pickAddr mask t p)).map fun x => (4 * 4096 + 3, x.1)
     else []
/-- Accesses that wait for the walks that an invalidation discards, named in the same way. -/
def State.walkUsers (s : State) (mask : Nat) (t : BitVec 4) (p : Nat → Bool) : List (Nat × Nat) :=
  (List.range 9).flatMap fun d => if !dieIn mask d then []
    else ((s.die d).walks.filter fun w => !w.wait && w.tenant == t && s.pickWalk t p w).flatMap fun w => w.who.map fun x =>
      (if x.agent = 3 then 4 * 4096 + 3 else 4 * x.tile + x.agent, x.id)
/-- Such an access is not performed yet. -/
def State.inFlight (s : State) (k id : Nat) : Bool :=
  let waits := fun a => s.dies.any fun d => d.2.walks.any fun w => w.who.any fun x => x.tile == k / 4 && x.agent == a && x.id == id
  match k % 4 with
  | 0 => (match (s.tileN (k / 4)).opN id with | some o => (match o.act with | .mem _ => true | _ => false) | none => false)
  | 3 => mget Rq.zero s.fab.reqs id != Rq.zero
  | a => waits a || (s.tileN (k / 4)).handed.any fun x => x.1 == a && x.2.1 == id

/-! ## Mobile pages (R405) -/

def State.mpage (s : State) (t : BitVec 4) (vpn : Nat) : Option MPage := s.winder.pages.find? fun p => p.tenant == t && p.vpn == vpn
def State.modPage (s : State) (t : BitVec 4) (vpn : Nat) (f : MPage → MPage) : State :=
  { s with winder := { s.winder with pages := s.winder.pages.map fun p => if p.tenant == t && p.vpn == vpn then f p else p } }
def State.setMoves (s : State) (l : List Move) : State := { s with winder := { s.winder with moves := l } }
def wten (t : BitVec 4) (off : Nat) : Nat := 0x40 * t.toNat + off
def State.wreg (s : State) (off : Nat) : Nat := (reg s.winder.regs off).toNat
def State.setWreg (s : State) (off : Nat) (w : Word) : State := { s with winder := { s.winder with regs := setReg s.winder.regs off w } }
def State.bumpWreg (s : State) (off n : Nat) : State := { s with winder := { s.winder with regs := bumpReg s.winder.regs off n } }
/-- A first touch of a mobile page is appended to the tenant's touch map, or sets OVF; the frame table lists its pages in the order of their latest first
touches (R408, R410). (DEDUCED, log 53.) -/
def State.touch (s : State) (t : BitVec 4) (die vpn : Nat) : State :=
  match s.mpage t vpn with
  | none => s
  | some p =>
    let s := { s with winder := { s.winder with pages := (s.winder.pages.filter fun (q : MPage) => !(q.tenant == t && q.vpn == vpn)) ++ [p] } }
    let n := s.wreg (wten t 0x10)
    if nfld (s.wreg (wten t 8)) 0 17 ≤ n then s.setWreg (wten t 0x18) (putFld (reg s.winder.regs (wten t 0x18)) 0 1 1)
    else
      (s.setMemWord (s.wreg (wten t 0) + 8 * n) (BitVec.ofNat 64 (1 + at_ 1 (die % 8) + at_ 16 vpn))).setWreg (wten t 0x10) (BitVec.ofNat 64 (n + 1))
def isMove (t : BitVec 4) (vpn : Nat) (m : Move) : Bool := m.tenant == t && m.vpn == vpn
/-- The move of a page: of the requests for it, the one of the highest class. -/
def State.moveOf (s : State) (t : BitVec 4) (vpn : Nat) : Option Move :=
  firstBy (fun a b => decide (a.cls ≤ b.cls)) (s.winder.moves.filter (isMove t vpn))
/-- How many pages are being moved. -/
def State.moveCount (s : State) : Nat := (((s.winder.moves.filter fun m => m.ends.isSome).map fun m => (m.tenant, m.vpn)).eraseDups).length
/-- Ask the Winder for residency (R317, R350, R373, R406, R411): a far mobile page is queued in its class, also where a request of another class waits. -/
def State.askUp (s : State) (t : BitVec 4) (vpn die cls : Nat) (reply : Option (Nat × Nat)) : State :=
  match s.mpage t vpn with
  | none => s
  | some p =>
    if p.frame.isSome || s.winder.moves.any (fun m => isMove t vpn m && (m.ends.isSome || m.cls == cls)) then s
    else s.setMoves (s.winder.moves ++ [{ tenant := t, vpn := vpn, up := true, die := die, cls := cls, ends := none, reply := reply }])
/-- The base and the bytes of the near memory of a chosen die; 8 is the Hearth. -/
def nearOf (die : Nat) : Nat × Nat :=
  if die < 8 then (Config.nearBase + die * Config.nearStep, Config.nearSize) else (Config.hearthBase, Config.hearthSize)
/-- A free frame, the highest first. (DEDUCED, log 53.) -/
def State.freeFrame (s : State) (die : Nat) : Option Nat :=
  let used := s.winder.pages.filterMap (·.frame)
  let n := (nearOf die).2 / 65536
  ((List.range (min n (used.length + 1))).map fun i => (nearOf die).1 + (nearOf die).2 - 65536 * (i + 1)).find? fun f => !used.contains f
/-- The tenant is out of slice and does not own its partition (R410); the physical function runs while domain 0 has no plan, or in its slice.
(DEDUCED, log 55.) -/
def State.outOfSlice (s : State) (t : BitVec 4) : Bool :=
  if t = 0 then (let d := mget Dom.zero s.coord.doms 0; !d.plan.isEmpty && d.cur != some 0)
  else match s.vfOf t with | some n => s.vfState n != 1 | none => false
/-- Bytes of a range copied to another, with the words that read as uncorrectable. -/
def copyMem (m : Memory) (src dst n : Nat) : Memory :=
  (m.filter fun x => decide (src ≤ x.1 ∧ x.1 < src + n)).foldl (fun m x => setByte m (x.1 - src + dst) x.2)
    (m.filter fun x => !decide (dst ≤ x.1 ∧ x.1 < dst + n))
def badIn (l : List Nat) (a n : Nat) : List Nat := l.filter fun w => decide (a ≤ 8 * w ∧ 8 * w < a + n)
def State.copyPage (s : State) (t : BitVec 4) (src dst : Nat) : State :=
  let bad := badIn s.hearth.memBad src 65536
  let keep := s.hearth.memBad.filter fun w => !(badIn s.hearth.memBad dst 65536).contains w
  let s := { s with mem := copyMem s.mem src dst 65536,
                    hearth := { s.hearth with memBad := bad.foldl (fun l w => sinsert l (w - src / 8 + dst / 8)) keep } }
  if bad.isEmpty then s else s.bumpWreg (wten t 0x30) bad.length
/-- The leaf of a page: its address and its entry. -/
def State.leafAt (s : State) (t : BitVec 4) (vpn : Nat) : Option (Nat × Nat) :=
  match s.leafOf t (vpn * 65536) with | .leaf a _ e _ => some (a, e) | .fault _ => none
/-- Change a page's leaf: location, RES, DIRTY. -/
def State.setLeaf (s : State) (t : BitVec 4) (vpn : Nat) (pa : Option Nat) (res : Bool) (clean : Bool) : State :=
  match s.leafAt t vpn with
  | none => s
  | some (a, e) =>
    let w : Word := BitVec.ofNat 64 e
    let w := match pa with | some p => putFld w 8 40 (p / 256) | none => w
    let w := putFld w 4 1 (b2n res)
    s.setMemWord a (if clean then putFld w 5 1 0 else w)
/-- The page is being moved. -/
def State.moving (s : State) (p : MPage) : Bool := s.winder.moves.any fun m => m.tenant == p.tenant && m.vpn == p.vpn && m.ends.isSome
/-- A dirty near page is to be written down, as a move down after which it stays near, clean: a request of class 4 (R406, R410, R413); one that is being
moved, or waits for a move down, is written by that. (DEDUCED, log 53.) -/
def State.writeDown (s : State) (p : MPage) : State :=
  match p.frame, s.leafAt p.tenant p.vpn with
  | some _, some (_, e) =>
    if leafDirty e && !s.winder.moves.any (fun m => isMove p.tenant p.vpn m && (m.ends.isSome || !m.up)) then
      s.setMoves (s.winder.moves ++ [{ tenant := p.tenant, vpn := p.vpn, up := false, die := 8, cls := 4, ends := none, reply := none }])
    else s
  | _, _ => s
/-- A near page goes back to its far slot with no copy (R410, R413). (DEDUCED, log 53.) -/
def State.giveBack (s : State) (p : MPage) : State :=
  ((s.setLeaf p.tenant p.vpn (some p.far) true true).invalPage p.tenant p.vpn).modPage p.tenant p.vpn fun p => { p with frame := none }
/-- Take back a clean frame of a tenant that is not running, the page of the latest first touch first (R410). (DEDUCED, log 53.) -/
def State.reclaim (s : State) (die : Nat) : State :=
  let r := nearOf die
  match (s.winder.pages.reverse.find? fun p => match p.frame, s.leafAt p.tenant p.vpn with
      | some f, some (_, e) => decide (r.1 ≤ f ∧ f < r.1 + r.2) && s.outOfSlice p.tenant && !leafDirty e && !s.moving p
      | _, _ => false) with
  | some p => s.giveBack p
  | none => s
/-- The frame for a move up: a free one of the chosen die, else of the Hearth (R406), else one that is taken back (R410). (DEDUCED, log 53.) -/
def State.pickFrame (s : State) (die : Nat) : State × Option Nat :=
  match s.freeFrame die with
  | some f => (s, some f)
  | none => match s.freeFrame 8 with
    | some f => (s, some f)
    | none =>
      let s := s.reclaim die
      match s.freeFrame die with
      | some f => (s, some f)
      | none => let s := s.reclaim 8; (s, s.freeFrame 8)
def State.nearRoom (s : State) (t : BitVec 4) : Bool :=
  decide (s.useNear t < nfld (s.coReg (0x1010 + 0x40 * t.toNat)) 0 19)
def State.endMove (s : State) (t : BitVec 4) (vpn : Nat) : State := s.setMoves (s.winder.moves.filter fun m => !isMove t vpn m)
/-- The page lies near: a mobile one by its frame, a fixed one by its leaf. -/
def State.liesNear (s : State) (t : BitVec 4) (vpn : Nat) : Bool :=
  match s.mpage t vpn with
  | some p => p.frame.isSome
  | none => match s.leafOf t (vpn * 65536) with | .leaf _ _ _ base => memHome base != some 0 | .fault _ => false
/-- Bits of a `wres` status word: mobile, RES, near, DIRTY (R448). -/
def State.pageBits (s : State) (t : BitVec 4) (vpn : Nat) : Nat :=
  let e := match s.leafAt t vpn with | some x => x.2 | none => 0
  at_ 8 (b2n (s.mpage t vpn).isSome) + at_ 9 (b2n (leafRes e)) + at_ 10 (b2n (s.liesNear t vpn)) + at_ 11 (b2n (leafDirty e))
/-- The request of an operation is answered: D receives a word, and the result condition is that of R114. -/
def Op.answer (o : Op) (d : SDst) (w : Word) : Op := { o with act := .plain, wr := wrS d (clean w), rc := some (w != 0) }
/-- Answer a `wres` request that a move served (R448). (DEDUCED, log 55.) -/
def State.moveReply (s : State) (m : Move) (status : Nat) : State :=
  match m.reply with
  | none => s
  | some (n, id) =>
    let w := BitVec.ofNat 64 (status + s.pageBits m.tenant m.vpn)
    let s := s.focus n
    match s.tile.opN id with
    | some o => match o.act with
      | .req i _ => (match i with
        | .wresUp d _ _ => (s.retire (o.answer d w)).wake
        | .wresDown d _ _ => (s.retire (o.answer d w)).wake
        | _ => s)
      | _ => s
    | none => s
/-- A move that cannot take place: the page stays where it is, and a walk that waits for it goes on. -/
def State.moveOff (s : State) (m : Move) : State :=
  ((((s.endMove m.tenant m.vpn).setLeaf m.tenant m.vpn none true false).invalPage m.tenant m.vpn)).moveReply m 1
/-- R406, R411: a queued move starts; its page is in transit until it completes. (DEDUCED, log 53.) -/
def execPageMove (s : State) : Out3 :=
  match s.ev with
  | .pageMove t vpn =>
    match s.moveOf t vpn, s.mpage t vpn with
    | some m, some p =>
      if m.ends.isSome || decide (16 ≤ s.moveCount) then .next s
      else
        let go := fun (s : State) (fr : Option Nat) =>
          let s := (s.setLeaf t vpn none false false).invalPage t vpn
          let s := s.modPage t vpn fun q => { q with frame := fr }
          (s.setMoves (s.winder.moves.map fun x => if isMove t vpn x then { x with ends := some (s.clock + 364) } else x))
        if m.up then
          if p.frame.isSome then .next ((s.endMove t vpn).moveReply m 0)
          else if !s.nearRoom t then .next (s.moveOff m)
          else
            let r := s.pickFrame m.die
            .next (match r.2 with | some f => go r.1 (some f) | none => r.1.moveOff m)
        else .next (match p.frame with | some f => go s (some f) | none => (s.endMove t vpn).moveReply m 0)
    | some m, none => .next (s.moveOff m)
    | none, _ => .next s
  | _ => .next s
/-- A move completes at the end of its last cycle (R411); after a write-down the page stays near (R410). (DEDUCED, log 53.) -/
def execPageMoveComplete (s : State) : Out3 :=
  match s.ev with
  | .pageMoveComplete t vpn =>
    match s.moveOf t vpn, s.mpage t vpn with
    | some m, some p =>
      match m.ends, p.frame, s.leafAt t vpn with
      | some e, some f, some (_, l) =>
        if s.clock + 1 < e then .next s
        else
          let s := if m.up then (s.copyPage t p.far f).setLeaf t vpn (some f) true true
            else
              let pa := if m.cls = 4 then none else some p.far
              if leafDirty l then ((s.copyPage t f p.far).setLeaf t vpn pa true true).bumpWreg (wten t 0x28) 1 else s.setLeaf t vpn pa true false
          let s := if m.up || m.cls == 4 then s else s.modPage t vpn fun q => { q with frame := none }
          .next (((s.endMove t vpn).invalPage t vpn).fireWatches.moveReply m 0)
      | _, _, _ => .next ((s.endMove t vpn).moveReply m 1)
    | _, _ => .next (s.endMove t vpn)
  | _ => .next s

/-! ## Walks (R313, R315, R317) -/

def leafAcc (e : Nat) : Bool := nfld e 6 1 == 1
/-- A waiter is told of a fault; its record marks a malformed entry. (DESIGN CHOICE, log 29.) -/
def State.waiterFault (s : State) (w : Waiter) (cause : BitVec 8) (bad : Bool) : State :=
  let s := s.focus w.tile
  match w.agent with
  | 0 => match s.tile.opN w.id with | some o => (s.opFault o cause bad).wake | none => s
  | 1 => let g := Fin.ofNat 8 w.id; s.strmFail g cause ((s.tile.strm[g]).addr (s.tile.strm[g]).next) bad
  | 2 => match s.tile.copyN w.id with
    | some c => s.copyFail c { s.copyCause c cause (if w.kind = 1 then c.dst c.row c.off else c.src c.row c.off) with code := BitVec.ofNat 16 (b2n bad) }
    | none => s
  | _ => s.answerOut w.id (some cause) false false []
def State.dropWalk (s : State) (d : Nat) (t : BitVec 4) (vpn : Nat) : State :=
  (s.modDie d fun x => { x with walks := x.walks.filter fun w => !walkIs t vpn w }).startWalks d
/-- A walk's result goes to an access that joined it, and into its cache. (DEDUCED, log 28.) -/
def State.handTo (s : State) (d : Nat) (w : Waiter) (e : TlbE) : State :=
  if d = 8 then
    let q := mget Rq.zero s.fab.reqs w.id
    { s with hearth := { s.hearth with tlb := tlbPut s.hearth.tlb e }, fab := { s.fab with reqs := mset Rq.zero s.fab.reqs w.id { q with hand := e :: q.hand } } }
  else
    (s.modTile w.tile fun u => { u with handed := (w.agent, w.id, e) :: u.handed.filter fun x =>
      match x.1 with | 0 => (u.opN x.2.1).isSome | 1 => true | _ => (u.copyN x.2.1).isSome }).modClus (clusOf w.tile) fun c => { c with tlb := tlbPut c.tlb e }
/-- A walk ends: its accesses fault, or wait for residency, or resume in the next cycle with the entry installed. (DESIGN CHOICE, log 29.) -/
def State.walkEnd (s : State) (d : Nat) (t : BitVec 4) (vpn : Nat) (w : Walk) : State :=
  match s.leafOf t (vpn * 65536) with
  | .fault k => w.who.foldl (fun s x => s.waiterFault x 0x18#8 k.1) (s.dropWalk d t vpn)
  | .leaf a lvl e base =>
    let good := w.who.filter fun x => leafOk e x.kind
    let stall := !good.isEmpty && !leafRes e
    let s := if stall then s.modDie d fun x => { x with walks := x.walks.map fun v => if walkIs t vpn v then { v with resid := true, who := good } else v }
      else s.dropWalk d t vpn
    let s := (w.who.filter fun x => !leafOk e x.kind).foldl (fun s x => s.waiterFault x 0x1b#8 false) s
    if good.isEmpty then s
    else if stall then s.askUp t vpn d 1 none
    else
      let k := if good.any (fun x => x.kind != 0) then 1 else 0
      let s := if leafAcc e then s else s.touch t d vpn
      let s := s.touchLeaf a k
      let ent := leafTlb t (vpn * 65536) lvl e base k
      good.foldl (fun s x => s.handTo d x ent) s
/-- DEDUCED, log 28; DESIGN CHOICE, log 29. -/
def execWalkComplete (s : State) : Out3 :=
  match s.ev with
  | .walkComplete d t vpn =>
    match (s.die d).walks.find? (walkIs t vpn) with
    | some w => .next (if w.wait || decide (s.clock < w.ends) || w.resid then s else s.walkEnd d t vpn w)
    | none => .next s
  | _ => .next s

/-! ## Global accesses -/

def Op.setMem (o : Op) (m : MemAcc) : Op := { o with act := .mem m }
def MemOp.event (o : MemOp) (n id : Nat) : Ev := if o.isLoad then .globalRead n id else if o.isStore then .globalWrite n id else .globalAtomic n id
/-- The cycle in which the last access of the tile to the same lines reaches its home: accesses of one class arrive in the order they leave (R304). -/
def Tile.lastHome (t : Tile) (id : Nat) (segs : List (Nat × Nat)) : Nat :=
  maxL (t.ops.map fun p => if p.id = id then 0 else match p.act with
    | .mem q => if q.sp == .glb && q.sent && segsMeet (segsOf q.size q.pa) segs then q.home else 0
    | _ => 0)
/-- An access of a tile reaches its home after so many cycles, and not before those that left before it. -/
def State.toHome (s : State) (n : Nat) (o : Op) (m : MemAcc) (lat : Nat) : State :=
  let lat := max lat ((s.tileN n).lastHome o.id (segsOf m.size m.pa) - s.clock)
  (s.modTile n fun t => t.setOp (o.setMem { m with home := s.clock + lat })).later lat (m.op.event n o.id)
/-- A request of another module reaches its home. -/
def State.reqHome (s : State) (id : Nat) (lat : Nat) : State :=
  s.later lat (match (mget Rq.zero s.fab.reqs id).pkt.op with | 2 => .globalRead 4096 id | 3 => .globalWrite 4096 id | _ => .globalAtomic 4096 id)
/-- Cycles of an access from a tile's die to its home, after the cycle in which it leaves (R385). -/
def accLat (die pa : Nat) (m : MemAcc) : Nat :=
  homeL die ((memHome pa).getD 1) + (if m.op.kind = 2 then 2 else if m.size = 256 then 4 else 0) - 1
/-- A request crosses the Hearth's link to another die, behind the entries of its words there. -/
def State.crossLink (s : State) (n id : Nat) : State :=
  if n = 4096 then
    let q := mget Rq.zero s.fab.reqs id
    let l := segsOf (reqSize q.pkt) q.pas
    let s := s.closeHits 8 l
    s.reqHome id (max 25 (s.behind 8 l))
  else match (s.tileN n).opN id with
    | some o => (match o.act with
      | .mem m =>
        let l := segsOf m.size m.pa
        let s := s.closeHits 8 l
        s.toHome n o m (max (accLat (dieOf n) (m.pa.headD 0) m - leg1 (dieOf n) (m.pa.headD 0)) (s.behind 8 l))
      | _ => s)
    | none => s
/-- A translated access leaves for its home, behind the merge entries of its words (R304, R336), unless a router drops it: it is then never answered (R302). One that had to wait for a walk resumes in the
cycle after it, and the walk adds no more than its own time (R315, R385). -/
def State.sendHome (s : State) (o : Op) (m : MemAcc) (ps : List Nat) : State :=
  let n := s.cur
  let d := dieOf n
  let pa := ps.headD 0
  let m := { m with pa := ps, sent := true }
  let s := s.onTile fun t => t.setOp (o.setMem m)
  let t := (s.tile.ctx o.ctx).tenant
  match s.glbDrop (match m.label with | some l => rVn (s.tile.route l) | none => s.vnOf t) t (segsOf m.size ps) with
  | some x => s.meshDrop x t
  | none =>
  match (if mergeable d pa m then m.op.mergeKey else none) with
  | some (k, a) =>
    s.mergeIn d { pa := pa, tenant := (s.tile.ctx o.ctx).tenant, op := k, parts := [{ tile := n, id := o.id, a := a, n := 1 }], opened := s.clock, due := none }
  | none =>
    let l := segsOf m.size ps
    let s := s.closeHits d l
    let late := b2n (s.clock != o.fired)
    if s.viaHearth d pa then s.later (max (leg1 d pa - late) (s.behind d l)) (.linkCross n o.id)
    else s.toHome n o m (max (accLat d pa m - late) (s.behind d l))
/-! ## Accesses to other modules (R305) -/

/-- An access through a label of KIND 11 to another module, which reaches the port after the near half of its 100 cycles (R385). (DESIGN CHOICE, log 10.) -/
def State.sendPod (s : State) (o : Op) (m : MemAcc) : State :=
  (s.onTile fun t => t.setOp (o.setMem { m with sent := true })).later (49 - b2n (s.clock != o.fired)) (.podLeave s.cur o.id)
/-- It leaves the module as a packet. -/
def State.podLeave (s : State) (o : Op) (m : MemAcc) (e : Nat) : State :=
  let h := s.hdr o.ctx 0 3 0 e
  s.sendPkt (dieOf s.cur) none { Pkt.zero with
    op := 3, vn := rVn e, tenant := h.tenant, dmod := rMod e, ddie := rDie e, dtgt := 0xf8, circ := h.circ.toNat, src := h.src
    addr := m.addr.toNat, attr := at_ 4 3 + at_ 7 (scopeCode m.scope) + at_ 10 (ordCode m.ord), tag := reqNo (.op s.cur o.id)
    idata := match m.op with | .st bs => BitVec.ofNat 64 (leNat bs) | _ => 0 }
def State.podStep (s : State) (id : Nat) : State :=
  match s.tile.opN id with
  | some o => (match o.act with
    | .mem m => (match m.label with | some l => s.podLeave o m (s.tile.route l) | none => s)
    | _ => s)
  | none => s

/-! ## Merge entries (R336, R337) -/

/-- An entry whose time has come: it reaches the next boundary. -/
def MergeE.ripe (pa clk : Nat) (e : MergeE) : Bool := e.pa == pa && (match e.due with | some d => decide (d ≤ clk) | none => false)
/-- An entry that was forwarded to the Hearth's link may be combined there again. (DESIGN CHOICE, log 30.) -/
def State.mergeOn (s : State) (k pa : Nat) : State :=
  if !s.viaHearth k pa then s
  else match (s.merges k).find? (MergeE.ripe pa s.clock) with
    | some e => (s.setMerges k ((s.merges k).erase e)).mergeIn 8 { e with opened := s.clock, due := none }
    | none => s
def execMergeEntryClose (s : State) : Out3 :=
  match s.ev with
  | .mergeEntryClose k pa =>
    if 9 ≤ k then
      .next (match s.fab.ports.find? fun e => e.link == k - 9 && pktWord (e.parts.headD .zero) == pa with
        | some e => if e.opened + 16 ≤ s.clock then s.closePort (k - 9) pa else s
        | none => s)
    else
      let s := s.mergeOn k pa
      .next (match (s.merges k).find? fun e => e.pa == pa && e.opened? with
        | some e => if e.opened + 16 ≤ s.clock then s.closeMerge k pa else s
        | none => s)
  | .linkCross n id => .next (s.crossLink n id)
  | .podLeave n id => .next ((s.focus n).podStep id)
  | _ => .next s

/-- An access of the tile in another class to a 64-byte line of the same memory has left and is not answered (R304). -/
def Tile.lineBusy (t : Tile) (o : Op) (m : MemAcc) (ps : List Nat) : Bool :=
  t.ops.any fun p => p.id != o.id && match p.act with
    | .mem q => q.sp == .glb && q.sent && q.cls != m.cls && segsMeet (segsOf q.size q.pa) (segsOf m.size ps)
    | _ => false
/-- An earlier access of the context that is not translated yet will reach one of the lines: it keeps its place ahead (R324). (DEDUCED, log 27.) -/
def State.aliasAhead (s : State) (o : Op) (m : MemAcc) (ps : List Nat) : Bool :=
  (s.tile.before o.id).any fun p => p.ctx == o.ctx && match p.act with
    | .mem q => q.sp == .glb && !q.sent && q.label.isNone && decide (0 ≤ q.addr) && segsMeet (segsOf m.size ps)
        ((if q.addr.toNat / 65536 = (q.addr.toNat + q.size - 1) / 65536 then [q.addr.toNat] else [q.addr.toNat, (q.addr.toNat + q.size - 1) / 65536 * 65536]).filterMap fun va =>
          match s.leafOf (s.tile.ctx o.ctx).tenant va with
          | .leaf _ lvl _ base => some (base + (if lvl = 1 then va % 2097152 else va % 65536), q.size)
          | .fault _ => none)
    | _ => false
/-- The same for an access to another module, by its addresses there. -/
def Tile.podBusy (t : Tile) (o : Op) (m : MemAcc) (mod : Nat) : Bool :=
  t.ops.any fun p => p.id != o.id && match p.act with
    | .mem q => q.sp == .glb && q.sent && q.pa.isEmpty && q.overlaps m && (match q.label with | some l => rKind (t.route l) == 3 && rMod (t.route l) == mod | none => false)
    | _ => false
/-- The walk or the cache answers an access, or it waits (R313, R363). -/
def State.glbStep (s : State) (o : Op) (m : MemAcc) : State :=
  let tenant := (s.tile.ctx o.ctx).tenant
  let k := m.op.kind
  match s.transl (0, o.id) tenant m.addr.toNat m.size k with
  | .fault c => (s.opAnswer o (some c) false).wake
  | .miss va => s.missTo (dieOf s.cur) tenant va ⟨s.cur, 0, o.id, k⟩
  | .ok ps =>
    if s.tile.lineBusy o m ps || s.aliasAhead o m ps then s
    else
      let s := s.tlbUsed (0, o.id) tenant m.addr.toNat m.size
      if ps.any (s.homeFailed (dieOf s.cur)) then s.failOp o (s.opCause o 0x17#8) else s.sendHome o m ps
/-- An access with a route label (R305, R505); at a gate it waits (R399). -/
def State.labelStep (s : State) (o : Op) (m : MemAcc) (l : BitVec 7) : State :=
  let e := s.tile.route l
  let bad := { s.opCause o 0x17#8 with chlab := l.setWidth 8 }
  if s.tile.gates.contains l.toNat then s else
  match m.op with
  | .st bs =>
    if s.routeFailed o.ctx e then s.failOp o bad
    else if rKind e = 2 ∧ s.winHeld o m then s
    else if rKind e = 2 ∧ s.tile.dead.contains l.toNat then
      (s.onTile fun t => t.setOp (o.setMem { m with sent := true })).sendNowhere l (m.addr % 2 ^ 64).toNat bs.length (.op s.cur o.id)
    else if rKind e = 2 then
      (s.onTile fun t => t.setOp (o.setMem { m with sent := true })).sendWin o.ctx e (m.addr % 2 ^ 64).toNat bs (.op s.cur o.id)
    else if rKind e = 3 ∧ nfld e 20 17 = 0 then
      if rMod e = s.own then (if m.addr < 0 then s.failOp o { s.opCause o 0x18#8 with loc := BitVec.ofInt 64 m.addr } else s.glbStep o m)
      else if s.tile.podBusy o m (rMod e) then s else s.sendPod o m
    else s.failOp o bad
  | _ => s
/-! ## Requests of other modules (R305) -/

def reqKind (p : Pkt) : Nat := if p.op = 2 then 0 else if p.op = 3 then 1 else 2
/-- A request that has still to be translated. -/
def Rq.fresh (q : Rq) : Bool := q.pas.isEmpty && (decide (2 ≤ q.pkt.op ∧ q.pkt.op ≤ 4) || q.pkt.op == 0xc)
/-- A request of another module is translated by the Hearth, and goes to its home. -/
def State.reqStep (s : State) (id : Nat) : State :=
  let q := mget Rq.zero s.fab.reqs id
  let p := q.pkt
  if !q.fresh || p.op == 0xc then s
  else match translBy s.hearth.tlb q.hand p.tenant p.addr (reqSize p) (reqKind p) with
    | .fault c => s.answerOut id (some c) false false []
    | .miss va => s.missTo 8 p.tenant va ⟨0, 3, id, reqKind p⟩
    | .ok ps =>
      let tlb := (pagesOf p.addr (reqSize p)).foldl (fun m a => match tlbFind m p.tenant a with | some e => tlbPut m e | none => m) s.hearth.tlb
      let s : State := { s with hearth := { s.hearth with tlb := tlb }, fab := { s.fab with reqs := mset Rq.zero s.fab.reqs id { q with pas := ps, hand := [] } } }
      let pa := ps.headD 0
      match memHome pa with
      | some (_ + 2) => (match pktKey p with
        | some k => s.mergeIn 8 { pa := pa, tenant := p.tenant, op := k.1, parts := [{ tile := 4096, id := id, a := k.2, n := reqCount p }], opened := s.clock, due := none }
        | none => s.later 25 (.linkCross 4096 id))
      | _ => s.reqHome id 50
def aopOf : Nat → RmwOp
  | 0 => .add | 1 => .fxadd | 2 => .min | 3 => .max | 4 => .and | 5 => .or | 6 => .xor | _ => .swap
/-- The word that an atomic packet leaves where it finds `w`; none where it leaves the word as it is (R337, R366 to R368). -/
def reqNew (p : Pkt) (w : Word) : Option Word :=
  match nfld p.attr 0 4 with
  | 8 => if w == p.data.headD 0 then some (p.data.getD 1 0) else none
  | 9 => if w.toNat < p.idata.toNat then some (BitVec.ofNat 64 (w.toNat + min (reqCount p) (p.idata.toNat - w.toNat))) else none
  | k => some (RmwOp.new (aopOf k) w p.idata)
/-- The home performs it; words that are uncorrectable answer poison, and an atomic leaves such a word alone. -/
def State.reqDo (s : State) (id : Nat) : State :=
  let q := mget Rq.zero s.fab.reqs id
  let p := q.pkt
  let l := segsOf (reqSize p) q.pas
  let ans := fun (s : State) (l : List Word) => s.answerOut id none false false l
  if q.pas.isEmpty then s
  else if p.op = 3 then
    ans (s.segWrite .glb l (((if p.data.isEmpty then [p.idata] else p.data).flatMap fun x => leBytes 8 x.toNat).take (reqSize p))) []
  else if s.segBad .glb l then (s.segFix .glb l).answerOut id none false true [0]
  else if p.op = 2 then ans (s.segFix .glb l) (dwords (s.segBytes .glb l))
  else
    let w : Word := BitVec.ofNat 64 (leNat (s.segBytes .glb l))
    let s := s.segFix .glb l
    ans (match reqNew p w with | some x => s.segWrite .glb l (leBytes 8 x.toNat) | none => s) [w]
def Op.glbWaits (o : Op) : Option MemAcc := match o.act with | .mem m => if m.sp == .glb && !m.sent then some m else none | _ => none
/-- An access in the global space must wait (R304, R328, R338). -/
def State.glbHeld (s : State) (o : Op) (m : MemAcc) : Bool :=
  s.tile.held o m || (match m.label with | some l => s.nearRoute (s.tile.route l) && s.tile.clusHeld o | none => false)
/-- R313, R315: an access is translated once nothing fired before holds it. -/
def execTranslationWalk (s : State) : Out3 :=
  match s.ev with
  | .translationWalk n id =>
    if n = 4096 then .next (s.reqStep id) else
    let s := s.focus n
    match s.tile.opN id with
    | some o =>
      match o.glbWaits with
      | some m =>
        .next (if s.glbHeld o m then s else match m.label with | some l => s.labelStep o m l | none => s.glbStep o m)
      | none => .next s
    | none => .next s
  | _ => .next s
/-- The home performs an access, and answers it (R320, R322). -/
def State.homeDo (s : State) (n id : Nat) : State :=
  if n = 4096 then s.reqDo id else
  match (s.tileN n).opN id with
  | some o =>
    match o.act with
    | .mem m =>
      let r := s.perform n o m
      (r.1.modTile n fun t => t.setOp (o.performed r.2)).answer (.op n id) none false
    | _ => s
  | none => s
/-- An answer to a request of a merge entry, which found `w` (R337). -/
def State.mergeAnswer (s : State) (p : MPart) (w : Word) : State :=
  if p.tile = 4096 then s.answerOut p.id none false false [w]
  else match (s.tileN p.tile).opN p.id with
    | some o => (match o.act with
      | .mem m =>
        let r : MRes := match m.op with
          | .atom d _ _ => { wr := wrS d (clean w), pl := none, hard := false, rc := some (w != 0) }
          | .binc d b => { wr := wrS d (clean w), pl := none, hard := false, rc := some (decide (w.toNat < b.toNat)) }
          | _ => .nil
        (s.modTile p.tile fun t => t.setOp (o.performed r)).answer (.op p.tile p.id) none false
      | _ => s)
    | none => s
/-- A request whose context a poison trap has stopped contributes nothing (R159). -/
def State.mergeLive (s : State) (p : MPart) : MPart :=
  if p.tile = 4096 then p
  else match (s.tileN p.tile).opN p.id with
    | some o => if ((s.tileN p.tile).ctx o.ctx).dead s.clock then { p with a := 0, n := 0 } else p
    | none => { p with a := 0, n := 0 }
/-- A merge entry is performed at the home as one place in T. (DESIGN CHOICE, log 30.) -/
def State.mergedDo (s : State) (k pa : Nat) : State :=
  match (s.merges k).find? (MergeE.ripe pa s.clock) with
  | none => s
  | some e =>
    let s := s.setMerges k ((s.merges k).erase e)
    if s.spBad 0 .glb pa 8 then e.parts.foldl (fun s p => s.homeDo p.tile p.id) s
    else
      let w : Word := s.memWord pa
      let r := e.op.mergeAll w (e.parts.map s.mergeLive)
      let s := s.spFix 0 .glb pa 8
      let s := if r.2 = w then s else s.spWrite 0 .glb pa (leBytes 8 r.2.toNat)
      r.1.foldl (fun s x => s.mergeAnswer x.1 x.2) s
/-- DEDUCED, log 78. -/
def execGlobalRead (s : State) : Out3 := match s.ev with | .globalRead n id => .next (s.homeDo n id) | _ => .next s
def execGlobalWrite (s : State) : Out3 := match s.ev with | .globalWrite n id => .next (s.homeDo n id) | _ => .next s
/-- R335, R337, R365 to R367. -/
def execGlobalAtomic (s : State) : Out3 :=
  match s.ev with | .globalAtomic n id => .next (s.homeDo n id) | .mergedAtomic k pa => .next (s.mergedDo k pa) | _ => .next s

end Sys2Proof.Machine
end

