-- ==== Sys2Proof/Machine/Host.lean ====
section
/-! DEFINITION. The host port: BAR0 registers, launch windows, completion queues, interrupts (R455 to R460) and host memory accesses (R339). -/

namespace Sys2Proof.Machine
open Sys2Proof

/-! ## BAR0 registers (R456) -/

def State.bar (s : State) (fn off : Nat) : Nat := (reg s.host.regs (0x2000 * fn + off)).toNat
def State.setBar (s : State) (fn off : Nat) (w : Word) : State := { s with host := { s.host with regs := setReg s.host.regs (0x2000 * fn + off) w } }
def State.bumpBar (s : State) (fn off : Nat) : State := { s with host := { s.host with regs := bumpReg s.host.regs (0x2000 * fn + off) 1 } }
/-- The start is complete: the whole of BAR0 is offered (R461). -/
def State.started (s : State) : Bool := nfld s.saloc.startst.toNat 0 4 == 8
def State.fnOn (s : State) (fn : Nat) : Bool := fn == 0 || (decide (fn ≤ 16) && s.vfEn fn)
def State.fnTag (s : State) (fn : Nat) : Nat := if fn = 0 then 0 else s.vfTag fn
/-- CQCTL: EN, IE, the number of entries and COAL. -/
def State.cqEn (s : State) (fn : Nat) : Bool := nfld (s.bar fn 0x1008) 0 1 == 1
def State.cqIe (s : State) (fn : Nat) : Bool := nfld (s.bar fn 0x1008) 1 1 == 1
def logn (x : Nat) : Nat := if x < 4 then 4 else x
def State.cqN (s : State) (fn : Nat) : Nat := 2 ^ logn (nfld (s.bar fn 0x1008) 2 4)
def State.cqCoal (s : State) (fn : Nat) : Nat := nfld (s.bar fn 0x1008) 6 8
def State.cqFull (s : State) (fn : Nat) : Bool := (s.bar fn 0x1010 + 1) % s.cqN fn == s.bar fn 0x1018
/-- CQWAIT. -/
def State.cqWait (s : State) (fn : Nat) : Nat := (s.host.waiting.filter fun e => e.fn == fn).length

/-! ## Interrupts (R460) -/

def State.msix (s : State) (fn vec : Nat) : State := s.emit (.msix fn vec)
/-- The tag's function is signalled. -/
def State.msixTag (s : State) (t : BitVec 4) (vec : Nat) : State := match s.vfOf t with | some fn => s.msix fn vec | none => s
def State.setUnsig (s : State) (fn n : Nat) : State := { s with host := { s.host with unsig := mset 0 s.host.unsig fn n } }
/-- An entry has been written: vector 0 after COAL + 1 of them, or 2 µs after the oldest (R456). -/
def State.signal (s : State) (fn : Nat) : State :=
  if !s.cqIe fn then s
  else
    let n := mget 0 s.host.unsig fn + 1
    if s.cqCoal fn + 1 ≤ n then (s.setUnsig fn 0).msix fn 0
    else if n = 1 then
      let s := s.setUnsig fn 1
      State.later { s with host := { s.host with since := mset 0 s.host.since fn s.clock } } Config.twoUs (.msixCoalesceTimer fn)
    else s.setUnsig fn n
def execMsixCoalesceTimer (s : State) : Out3 :=
  match s.ev with
  | .msixCoalesceTimer fn =>
    .next (if s.cqIe fn = true ∧ mget 0 s.host.unsig fn ≠ 0 ∧ mget 0 s.host.since fn + Config.twoUs ≤ s.clock then (s.setUnsig fn 0).msix fn 0 else s)
  | _ => .next s

/-! ## Completion entries (R458, R459) -/

/-- An entry waits in the coordinator, behind the earlier ones of its function. (DESIGN CHOICE, log 48.) -/
def State.postEntry (s : State) (t : BitVec 4) (ctag : BitVec 32) (status code : BitVec 8) (capped : Bool) (inst : Nat) : State :=
  match s.vfOf t with
  | none => s
  | some fn =>
    let e : CEntry :=
      { fn := fn, w0 := BitVec.ofNat 64 (ctag.toNat + at_ 32 status.toNat + at_ 40 code.toNat + at_ 48 (b2n capped)), w1 := BitVec.ofNat 64 inst }
    State.push { s with host := { s.host with waiting := s.host.waiting ++ [e] } } [.completionEntryWrite fn]
def dropFirst (p : CEntry → Bool) : List CEntry → List CEntry
  | [] => []
  | e :: l => if p e then l else e :: dropFirst p l
/-- The first waiting entry of a function is written to host memory when the queue has room (R455, R459). -/
def execCompletionEntryWrite (s : State) : Out3 :=
  match s.ev with
  | .completionEntryWrite fn =>
    .next (match s.host.waiting.find? (fun e => e.fn == fn) with
      | none => s
      | some e =>
        if !s.cqEn fn || s.cqFull fn then s
        else
          let tail := s.bar fn 0x1010
          let n := (tail + 1) % s.cqN fn
          let par := mget 0 s.host.wraps fn
          let s := s.emit (.hostEntry fn (s.bar fn 0x1000 + 16 * tail) (e.w0 ||| BitVec.ofNat 64 (at_ 63 ((1 + par) % 2))) e.w1)
          let s := s.setBar fn 0x1010 (BitVec.ofNat 64 n)
          let s := if nfld e.w0.toNat 32 8 < 128 then s.modInst e.w1.toNat fun i => if i.ended then { i with entryNo := some (mget 0 s.host.written fn) } else i else s
          let s := { s with host := { s.host with waiting := dropFirst (fun e => e.fn == fn) s.host.waiting,
                                                  written := mset 0 s.host.written fn (mget 0 s.host.written fn + 1),
                                                  wraps := mset 0 s.host.wraps fn (if n = 0 then (par + 1) % 2 else par) } }
          let s := s.signal fn
          if s.cqWait fn = 0 then s else s.push [.completionEntryWrite fn])
  | _ => .next s
/-- The frames of the mobile pages that lie in freed backings of a tenant's arena are free, their contents unwritten (R413). (DEDUCED, log 53.) -/
def State.dropFrames (s : State) (t : BitVec 4) (gone : List (Nat × Nat)) : State :=
  (s.winder.pages.filter fun p => p.tenant == t && p.frame.isSome && !s.moving p &&
    gone.any fun a => decide (a.1 ≤ 65536 * p.vpn ∧ 65536 * p.vpn < a.1 + a.2)).foldl (fun s p => s.giveBack p) s
/-- Backings of an arena that are given up. -/
def State.freeArena (s : State) (t : BitVec 4) (base : List Nat) : State :=
  let out := fun a : Nat × Nat × Nat => a.1 == t.toNat && base.contains a.2.1
  let s := s.dropFrames t ((s.coord.arena.filter out).map (·.2))
  { s with coord := { s.coord with arena := s.coord.arena.filter fun a => !out a } }
/-- Free an instance's backings and its place in the instance table (R361, R413). -/
def State.freeInst (s : State) (i : Nat) : State :=
  let x := s.inst i
  (s.freeArena x.tenant (x.bufs.map (·.1))).setInst i Inst.zero
/-- System software acknowledges an entry by moving CQHEAD past it: what a failed instance kept is freed, unless a fault template's instance holds
it (R361). (DEDUCED, log 47.) -/
def State.acknowledge (s : State) (fn : Nat) : State :=
  let done := mget 0 s.host.written fn - (s.bar fn 0x1010 + s.cqN fn - s.bar fn 0x1018) % s.cqN fn
  (s.coord.insts.filter fun x => s.vfOf x.2.tenant == some fn && x.2.ended && x.2.fault.isNone &&
    (match x.2.entryNo with | some k => decide (k < done) | none => false)).foldl (fun s x => s.freeInst x.1) s
/-- The function is offered: the physical one, and the VFs of the configuration record (R461, R467). -/
def State.offered (s : State) (fn : Nat) : Bool := s.started && decide (fn ≤ min 16 s.saloc.cfg.vfs)
/-- CQHEAD is written, or found changed by a read of the queue's head (R455). (DESIGN CHOICE, log 48.) -/
def execCqheadWrite (s : State) : Out3 :=
  match s.ev with
  | .cqheadWrite fn v =>
    .next (if !s.offered fn then s
      else ((s.setBar fn 0x1018 (BitVec.ofNat 64 (v.toNat % 65536 % s.cqN fn))).acknowledge fn).push [.completionEntryWrite fn])
  | _ => .next s
/-- What BAR0 of a function reads as: before a start has completed, STARTST alone (R456, R461, R464). What is not offered reads as zero. (DESIGN CHOICE, log 48.) -/
def State.barRead (s : State) (fn off : Nat) : Word :=
  if fn = 0 ∧ off = 0x1040 then s.saloc.startst
  else if !s.offered fn then 0
  else if off = 0x1030 then BitVec.ofNat 64 (s.cqWait fn)
  else if off = 0x1048 ∧ fn = 0 then s.saloc.pcap
  else if within off 0x1000 0x30 && off % 8 == 0 then BitVec.ofNat 64 (s.bar fn off)
  else 0
/-- CQBASE and LOGN are ignored while EN is 1; LDROP is set. A read is answered. -/
def execBar0RegisterWrite (s : State) : Out3 :=
  match s.ev with
  | .bar0RegisterRead fn off => .next (s.emit (.barData fn off (s.barRead fn off)))
  | .bar0RegisterWrite fn off v =>
    .next (if !s.offered fn then s
      else if off = 0x1000 then (if s.cqEn fn then s else s.setBar fn off (v &&& ~~~0xfff#64))
      else if off = 0x1008 then
        let old := s.bar fn off
        let n := if s.cqEn fn then nfld old 2 4 else logn (nfld v.toNat 2 4)
        (s.setBar fn off (BitVec.ofNat 64 (nfld v.toNat 0 2 + at_ 2 n + at_ 6 (nfld v.toNat 6 8)))).push [.completionEntryWrite fn]
      else if off = 0x1018 then s.push [.cqheadWrite fn v]
      else if off = 0x1028 then s.setBar fn off v
      else if off = 0x1048 ∧ fn = 0 then s.push [.pcapWrite v]
      else s)
  | _ => .next s

/-! ## Launches (R457) -/

def wordsOf (bs : List Byte) (i : Nat) : Word := BitVec.ofNat 64 (leNat ((bs.drop (8 * i)).take 8))
/-- A launch record from its eight words (R346). -/
def launchRec (w : Nat → Word) : LaunchRec :=
  { thandle := (w 0).setWidth 32, ctag := (w 0).extractLsb' 32 32, limit := w 1, ext := [w 2, w 3, w 4, w 5, w 6], param := w 7 }
/-- DESIGN CHOICE, log 48. -/
def execLaunchWrite (s : State) : Out3 :=
  match s.ev with
  | .launchWrite fn off bs =>
    .next (if !s.offered fn then s
      else if bs.length ≠ 64 ∨ off % 64 ≠ 0 ∨ 0x1000 ≤ off ∨ !s.fnOn fn ∨ s.coord.retiring.contains (s.fnTag fn) ∨ !s.cqEn fn ∨ s.cqWait fn = 4096 then
        s.bumpBar fn 0x1028
      else (s.bumpBar fn 0x1020).push [.launch fn (BitVec.ofNat 4 (s.fnTag fn)) (launchRec (wordsOf bs))])
  | _ => .next s

/-! ## Host accesses to tenant pages (R339, R455) -/

inductive HostAt where
  | ok (segs : List (Nat × Nat)) | transit | no
deriving DecidableEq, Repr
/-- Where a host access lands: every page mapped and permitted; a page in transit holds it (R318). (DESIGN CHOICE, log 36.) -/
def State.hostAt (s : State) (t : BitVec 4) (va n kind : Nat) : HostAt :=
  if n = 0 then .ok []
  else
    let ls := (List.range ((va + n - 1) / 65536 - va / 65536 + 1)).map fun i => s.leafOf t ((va / 65536 + i) * 65536)
    if ls.any (fun l => match l with | .fault _ => true | .leaf _ _ e _ => !leafOk e kind) then .no
    else if ls.any (fun l => match l with | .fault _ => false | .leaf _ _ e _ => !leafRes e) then .transit
    else .ok ((List.range ((va + n - 1) / 65536 - va / 65536 + 1)).filterMap fun i =>
      let p := (va / 65536 + i) * 65536
      let lo := max va p
      let hi := min (va + n) (p + 65536)
      match s.leafOf t p with
      | .leaf _ lvl _ b => some (b + lo % (if lvl = 1 then 2097152 else 65536), hi - lo)
      | .fault _ => none)
/-- The walker marks the pages of an access (R313). (DEDUCED, log 54.) -/
def State.hostTouch (s : State) (t : BitVec 4) (va n kind : Nat) : State :=
  if n = 0 then s
  else (List.range ((va + n - 1) / 65536 - va / 65536 + 1)).foldl (fun s i =>
    match s.leafOf t ((va / 65536 + i) * 65536) with | .leaf a _ _ _ => s.touchLeaf a kind | .fault _ => s) s
def State.physBytes (s : State) (l : List (Nat × Nat)) : List Byte := l.flatMap fun x => s.memRd x.1 x.2
def State.physWrite (s : State) : List (Nat × Nat) → List Byte → State
  | [], _ => s.fireWatches
  | x :: l, bs => (s.memWr x.1 (bs.take x.2)).physWrite l (bs.drop x.2)
/-- Requests of merge entries at the Hearth's links are ahead of a host access to their words: the entries close, and the access is made after them (R336). -/
def State.hostBehind (s : State) (l : List (Nat × Nat)) : Bool := (s.merges 8).any (·.hit l)
/-- DEDUCED, log 54. -/
def execHostRead (s : State) : Out3 :=
  match s.ev with
  | .hostRead t va n =>
    .next (if !s.started then s else match s.hostAt t va n 0 with
      | .ok l => if s.hostBehind l then (s.closeHits 8 l).later 1 (.hostRead t va n) else (s.hostTouch t va n 0).emit (.hostData (s.physBytes l))
      | .transit => s.later 1 (.hostRead t va n)
      | .no => s)
  | _ => .next s
/-- DEDUCED, log 54. -/
def execHostWrite (s : State) : Out3 :=
  match s.ev with
  | .hostWrite t va bs =>
    .next (if !s.started then s else match s.hostAt t va bs.length 1 with
      | .ok l => if s.hostBehind l then (s.closeHits 8 l).later 1 (.hostWrite t va bs) else (s.hostTouch t va bs.length 1).physWrite l bs
      | .transit => s.later 1 (.hostWrite t va bs)
      | .no => s)
  | _ => .next s

end Sys2Proof.Machine
end

