-- ==== Sys2Proof/Machine/Saggar.lean ====
section
/-! DEFINITION. Save records (R434 to R437): the bytes of a task's saved state, and the state that such bytes restore. -/

namespace Sys2Proof.Machine
open Sys2Proof

/-! ## Pieces -/

def wB (x : Nat) : List Byte := leBytes 8 x
def padB (n : Nat) (bs : List Byte) : List Byte := bs ++ List.replicate (n - bs.length) 0#8
/-- An entry in the layout of R21. -/
def entryNum (e : Entry) : Nat := e.data.toNat + at_ 512 e.tag.toNat + at_ 520 e.w.toNat + at_ 522 (b2n e.p)
def entryOf (x : Nat) : Entry :=
  { data := BitVec.ofNat 512 x, tag := BitVec.ofNat 8 (nfld x 512 8), w := BitVec.ofNat 2 (nfld x 520 2), p := nfld x 522 1 == 1 }
def chanBytes (es : List Entry) : List Byte := padB 528 (es.flatMap fun e => leBytes 66 (entryNum e))
/-- Little-endian number of the `n` bytes of memory at an address. -/
def State.memNat (s : State) (a n : Nat) : Nat := leNat (s.memRd a n)
def State.chanAt (s : State) (a n : Nat) : List Entry := (List.range n).map fun i => entryOf (s.memNat (a + 66 * i) 66)
def bitsOf (l : List Bool) : Nat := l.foldr (fun b x => b2n b + 2 * x) 0

/-! ## Waits (PEND) -/

def pwBits (ws : List PWrite) (i : Nat) : Nat := match ws[i]? with | some w => 64 + w.p.val | none => 0
/-- The doubleword of an operation. -/
def opWord (i : Instr) : Nat := ((encodeOp i).getD 0).toNat
/-- The index under which BMAP names a descriptor. -/
def bmapIdx (m b : Nat) : Nat := ((List.range 8).find? fun k => nfld m (7 * k) 7 == 64 + b).getD 0
/-- The PEND word of an operation that waits; none where the layout has no kind for it. (DEDUCED, log 57.) -/
def Op.pend (o : Op) (t : Tile) (bm : Nat) : Option Nat :=
  let w := fun (kind dest arg : Nat) => some (kind + at_ 4 dest + at_ 11 arg + at_ 28 (pwBits (o.pws.filter pwIsRc) 0) + at_ 35 (pwBits (o.pws.filter pwIsRc) 1))
  let pr := fun p : PReg => 0x60 + p.val
  match o.act with
  | .drain d ids =>
    let k := match (t.copies.find? fun c => ids.contains c.id) with
      | some c => (match c.f.dsp with | .csp => 2 | .glb => 3 | _ => 1)
      | none => 1
    w k (pr d) 0
  | .gbar d m fin => w 4 (pr d) (m.toNat + at_ 8 (b2n fin))
  | .otwait d n _ => w 5 (pr d) n
  | .join d m => w 6 (pr d) m.toNat
  | .bwait d b e => w 7 (pr d) (bmapIdx bm b + at_ 3 (b2n e))
  | .cbar d _ true _ => w 8 (pr d) 0
  | .group i v =>
    let f := match i with | .pcomb _ _ _ _ => 1 | .pbcast _ _ _ => 2 | _ => 0
    w 9 (nfld (opWord i) 41 7) (nfld ((v.headD 0).toNat) 0 8 + at_ 8 (nfld (opWord i) 48 3) + at_ 11 f)
  | _ => none
/-- Operations that a save parks with no word of their own in the record. -/
def Op.extra (o : Op) (t : Tile) : Bool := (o.pend t 0).isNone

/-- An operation restored from a PEND word, and what is kept beside it. -/
def pendOp (c : Fin 8) (x : Nat) (id : Nat) (t : Tile) (x0 : Ctx) (bm : Nat) (barr : Bool) (clk : Nat) (y : PWait) : Option Op :=
  let d : PReg := Fin.ofNat 16 (nfld x 4 4)
  let arg := nfld x 11 16
  let pws := ((if nfld x 34 1 = 1 then [⟨.rc, Fin.ofNat 16 (nfld x 28 4)⟩] else []) ++
    (if nfld x 41 1 = 1 then [⟨.rc, Fin.ofNat 16 (nfld x 35 4)⟩] else []) : List PWrite)
  let ids := fun k : Nat => (t.copies.filter fun y => (match y.f.dsp with | .csp => 2 | .glb => 3 | _ => 1) == k).map (·.id)
  let g : SSrc := .reg 0
  let dest : SDst := match dSD (BitVec.ofNat 7 (nfld x 4 7)) with | .ok d => d | .bad _ => .reg 0
  let act : Option Act := match nfld x 0 4 with
    | 1 => some (.drain d (ids 1)) | 2 => some (.drain d (ids 2)) | 3 => some (.drain d (ids 3))
    | 4 => some (.gbar d (BitVec.ofNat 8 arg) (nfld arg 8 1 == 1))
    | 5 => some (.otwait d (nfld arg 0 4) (if y.k = 0 then t.tokFired x0 (nfld arg 0 4) else y.k))
    | 6 => some (.join d (BitVec.ofNat 8 arg))
    | 7 => some (.bwait d (nfld bm (7 * nfld arg 0 3) 6) (nfld arg 3 1 == 1))
    | 8 => some (.cbar d (nfld bm 57 3) true barr)
    | 9 =>
      let op : CombOp := match nfld arg 8 3 with | 0 => .fxadd | 1 => .add | 2 => .min | 3 => .max | _ => .fadd
      some (.group (match nfld arg 11 2 with | 0 => .pbar d g | 1 => .pcomb op dest g g | _ => .pbcast dest g g) [BitVec.ofNat 64 (nfld arg 0 8)])
    | _ => none
  act.map fun a =>
    { id := id, ctx := c, slot := y.slot, fired := if y.fired = 0 then clk else y.fired, due := none, act := a, wr := if nfld x 0 4 = 9 then [] else [.p d true], poison := none, hard := false,
      rc := some true, srng := none, pws := pws, fl := 0, am := y.am,
      dsts := (if nfld x 0 4 = 9 ∧ nfld arg 11 2 ≠ 0 then (match dest with | .reg r => [.s r] | .chan _ => [] | .sys _ => []) else [.p d]) ++ pwRes pws, room := [], accs := [], pt := (0, 0), ents := [] }

/-! ## Context images (R436, R437) -/

def watchWord2 (w : Watch) (armed : Bool) : Nat :=
  let x := opWord (.watch w.f w.pred (.reg 0) (.reg 0))
  w.pred.val + at_ 4 (b2n armed) + at_ 5 (nfld x 20 7) + at_ 12 (nfld x 16 4) + at_ 16 (nfld x 0 16)
/-- Armed watches, then notifications held. -/
def Ctx.watchBytes (c : Ctx) : List Byte :=
  padB 128 (((c.watches.map fun w => wB w.addr.toNat ++ wB w.val.toNat ++ wB (watchWord2 w true) ++ wB 0)
    ++ (c.ctl.held.map fun h => wB h.w.addr.toNat ++ wB h.w.val.toNat ++ wB (watchWord2 h.w false + at_ 32 1) ++ wB h.val.toNat)).flatMap id |>.take 128)
def Ctx.pstate (c : Ctx) (clk : Nat) : Nat :=
  c.regs.p.toNat + (match c.ctl.asleep with
    | none => 0
    | some z => at_ 16 1 + (match z.till with | some k => at_ 17 1 + at_ 32 (k - clk) | none => 0))
/-- DEDUCED, log 57. -/
def Ctx.control (c : Ctx) (t : Tile) (ci : Fin 8) (bm clk : Nat) : List Byte :=
  let pend := ((t.pendingOps ci).filterMap fun o => o.pend t bm).take 16
  padB 1024 (wB c.ctxcfg.toNat ++ wB c.regs.flags.toNat ++ wB c.regs.amode.toNat ++ wB c.regs.srng.toNat
    ++ wB (bitsOf (c.regs.s.toList.map (·.full) ++ c.regs.v.toList.map (·.full) ++ c.regs.k.toList.map (·.full)))
    ++ wB (bitsOf (c.regs.s.toList.map (·.pois) ++ c.regs.v.toList.map (·.pois) ++ c.regs.k.toList.map (·.pois)))
    ++ wB (c.pstate clk)
    ++ leBytes 16 ((c.inb.toList ++ c.egr.toList).foldr (fun l x => l.length + 16 * x) 0) ++ wB 0
    ++ leBytes 16 (c.arr.toList.foldr (fun k x => k + 65536 * x) 0)
    ++ (c.ib.toList.flatMap fun b => wB b.word.toNat) ++ (c.eb.toList.flatMap fun b => wB b.word.toNat)
    ++ c.watchBytes ++ padB 128 (pend.flatMap wB))
/-- DEDUCED, log 57. -/
def Ctx.image (c : Ctx) (t : Tile) (ci : Fin 8) (bm clk : Nat) : List Byte :=
  (c.regs.s.toList.flatMap fun r => leBytes 8 r.bits.toNat) ++ (c.regs.v.toList.flatMap fun r => leBytes 256 r.bits.toNat)
    ++ (c.regs.k.toList.flatMap fun r => leBytes 32 r.bits.toNat) ++ (c.inb.toList.flatMap chanBytes) ++ (c.egr.toList.flatMap chanBytes)
    ++ c.control t ci bm clk

def bitN (x i : Nat) : Bool := nfld x i 1 == 1
/-- The registers of a context image at an address. -/
def State.regsAt (s : State) (a : Nat) : Regs :=
  let k := a + 0x5400
  let pres := s.memNat (k + 0x20) 8
  let pois := s.memNat (k + 0x28) 8
  { s := Vector.ofFn fun i : Fin 32 => { bits := BitVec.ofNat 64 (s.memNat (a + 8 * i.val) 8), full := bitN pres i.val, pois := bitN pois i.val }
    v := Vector.ofFn fun i : Fin 16 =>
      { bits := BitVec.ofNat 2048 (s.memNat (a + 0x100 + 256 * i.val) 256), full := bitN pres (32 + i.val), pois := bitN pois (32 + i.val) }
    k := Vector.ofFn fun i : Fin 8 =>
      { bits := BitVec.ofNat 256 (s.memNat (a + 0x1100 + 32 * i.val) 32), full := bitN pres (48 + i.val), pois := bitN pois (48 + i.val) }
    p := BitVec.ofNat 16 (s.memNat (k + 0x30) 2), flags := BitVec.ofNat 6 (s.memNat (k + 8) 8), amode := BitVec.ofNat 10 (s.memNat (k + 0x10) 8),
    srng := BitVec.ofNat 32 (s.memNat (k + 0x18) 8), bad := [] }
/-- The watch that an entry of the record describes, with its original operands. -/
def State.watchOf (s : State) (a : Nat) : Option Watch :=
  let x := s.memNat (a + 16) 8
  let w := 0x3c * 2 ^ 56 + (0x60 + nfld x 0 4) * 2 ^ 41 + nfld x 5 7 * 2 ^ 20 + nfld x 12 4 * 2 ^ 16 + nfld x 16 16
  match decodeOp (BitVec.ofNat 64 w) with
  | .ok (.watch f d _ _) => some { pred := d, f := f, addr := BitVec.ofNat 64 (s.memNat a 8), val := BitVec.ofNat 64 (s.memNat (a + 8) 8), sent := false, due := 0, note := none }
  | _ => none
/-- A watch to be armed again, and a notification that is held. -/
def State.watchAt (s : State) (a : Nat) : Option Watch := if bitN (s.memNat (a + 16) 8) 4 then s.watchOf a else none
def State.heldAt (s : State) (a : Nat) : Option Held :=
  if bitN (s.memNat (a + 16) 8) 32 then (s.watchOf a).map fun w => ⟨w, BitVec.ofNat 64 (s.memNat (a + 24) 8)⟩ else none
/-- Whether removing an entry returns a credit: not where the binding is a message handler's with no sender (R349, R504). (DEDUCED, log 18.) -/
def IBind.owes (b : IBind) : Bool := !(b.mh && b.src == 0)
/-- A context as the image at an address restores it, over what placement gave it; `cfg0` is the CTXCFG saved. -/
def State.ctxAt (s : State) (a : Nat) (x : Ctx) (resume : CSt) : Ctx :=
  let k := a + 0x5400
  let cfg0 := CtxCfg.ofWord (BitVec.ofNat 64 (s.memNat k 8))
  let ps := s.memNat (k + 0x30) 8
  let cnt := s.memNat (k + 0x38) 16
  let ib := Vector.ofFn fun i : Fin 16 => IBind.ofWord (BitVec.ofNat 64 (s.memNat (k + 0x60 + 8 * i.val) 8))
  { x with
    st := .saved
    cfg := { x.cfg with hen := cfg0.hen, hmask := cfg0.hmask, srot := x.cfg.rbase + (cfg0.srot - cfg0.rbase) }
    regs := s.regsAt a
    inb := Vector.ofFn fun i : Fin 16 => s.chanAt (a + 0x1200 + 528 * i.val) (nfld cnt (4 * i.val) 4)
    egr := Vector.ofFn fun i : Fin 16 => s.chanAt (a + 0x1200 + 528 * (16 + i.val)) (nfld cnt (4 * (16 + i.val)) 4)
    owe := Vector.ofFn fun i : Fin 16 => List.replicate (nfld cnt (4 * i.val) 4) (ib[i]).owes
    ib := ib
    eb := Vector.ofFn fun i : Fin 16 => EBind.ofWord (BitVec.ofNat 64 (s.memNat (k + 0xe0 + 8 * i.val) 8))
    arr := Vector.ofFn fun i : Fin 8 => s.memNat (k + 0x50 + 2 * i.val) 2
    watches := (List.range 4).filterMap fun i => s.watchAt (k + 0x160 + 32 * i)
    ctl := { Ctl.zero with
      asleep := if bitN ps 16 then some ⟨if bitN ps 17 then some (s.clock + nfld ps 32 32) else none⟩ else none
      resume := resume
      held := (List.range 4).filterMap fun i => s.heldAt (k + 0x160 + 32 * i) } }

/-! ## Records (R435) -/

def copyBytes (c : Copy) : List Byte :=
  wB (nfld (opWord (.cpy c.f)) 0 48) ++ wB c.da.toNat ++ wB c.sa.toNat ++ wB (c.len + at_ 32 c.rows)
    ++ wB ((c.sstr % 2 ^ 32).toNat + at_ 32 (c.dstr % 2 ^ 32).toNat) ++ wB (c.row * ((c.len + 63) / 64) + c.off / 64) ++ wB 0 ++ wB 0
/-- A stream as R435 saves it. There is no field for a `gstop` that waits for a stalled element: it is saved as RUNNING, and the stop is kept beside the record
(`SStrm`, log 57). -/
def strmBytes (g : Strm) (ci : Nat) : List Byte :=
  leBytes 32 g.desc.toNat ++ wB g.next ++ wB ((match g.st with | .idle => 0 | .conf => 1 | .run => 2) + at_ 2 ci) ++ wB 0 ++ wB 0
def accImage (a : Acc) : List Byte := ((List.range 64).flatMap fun j => leBytes 256 (a.row j).toNat)
def reqBytes (o : Op) (ci bm tb : Nat) : List Byte :=
  let tw := fun t : Option PReg => match t with | some p => p.val | none => 0
  match o.act with
  | .bput d b vec data pa _ t =>
    padB 288 (leBytes 32 (ci + at_ 8 1 + at_ 9 (b2n t.isSome) + at_ 10 (b2n vec) + at_ 11 (bmapIdx bm b) + at_ 14 d.val + at_ 18 (tw t)
      + at_ 32 (if vec then 0 else pa - tb)) ++ (if vec then data.getD [] else []))
  | .bget x b pa _ t =>
    match x with
    | .tcm d _ => padB 288 (leBytes 32 (ci + at_ 9 (b2n t.isSome) + at_ 11 (bmapIdx bm b) + at_ 14 d.val + at_ 18 (tw t) + at_ 32 (pa - tb)))
    | .vec v => padB 288 (leBytes 32 (ci + at_ 9 (b2n t.isSome) + at_ 10 1 + at_ 11 (bmapIdx bm b) + at_ 14 (match v with | .reg r => r.val | .chan c => c.val) + at_ 18 (tw t)))
  | _ => List.replicate 288 0#8
def resumeOf (c : Ctx) : CSt := c.ctl.resume
/-- Bytes of the sections of a seat's record: contexts, accumulators, streams, TCM, CSP. -/
def recLen (nctx acnt gcnt tlen csp : Nat) : Nat := 256 + nctx * 22528 + acnt * 16448 + gcnt * 64 + 1024 + 1152 + tlen + csp + 2304
def bytesOfCtx (c : Ctx) (acnt gcnt csp : Nat) (n : Nat) : Nat := recLen n acnt gcnt c.tlen.toNat csp
/-- The bytes of the CSP window of a context. -/
def State.cspLen (s : State) (n : Nat) (c : Fin 8) : Nat := nfld (s.cspw n c).toNat 10 11 * 65536
def pos? (l : List (Fin 8)) (c : Fin 8) : Nat := (l.findIdx? fun x => x == c).getD 0
/-- A context as the save reads it: what its storage has lost is poison (R158); no rule reads, so the payload names slot 0. (DEDUCED, log 83.) (DEDUCED, log 57.) -/
def State.lostRead (s : State) (t : Tile) (c : Fin 8) : Ctx :=
  (t.ctx c).seen (mkPayload 8#8 0 c s.env s.clock) (fun ch => mkPayload 9#8 ch.val c s.env s.clock)
/-- The save record of one seat of a task. (DEDUCED, log 57.) -/
def State.recBytes (s : State) (die idx : Nat) (seat : Seat) : List Byte :=
  let r := s.trec die idx
  let t := s.tileN seat.tile
  let c0 := seat.ctxs.headD 0
  let x := t.ctx c0
  let bm := (s.bmap seat.tile c0).toNat
  let k := match (t.taskOf x) with | some k => k | none => { ref := ⟨die, idx, seat.member, seat.copy⟩, bleft := 0, debug := false, priv := false, gang := 0, otok := [], pend := [], mmr := 0 }
  let csp := s.cspLen seat.tile c0
  let res := (seat.ctxs.zipIdx.map fun y => at_ (4 * y.2) (resumeOf (t.ctx y.1)).code.toNat).foldl (· + ·) 0
  let reqs := t.ops.filter fun o => seat.ctxs.contains o.ctx && o.act.isBuf
  padB 256 (wB (idx + at_ 16 die + at_ 19 seat.member + at_ 23 (b2n r.glazeForm) + at_ 24 (seat.ctxs.length - 1) + at_ 27 r.acnt + at_ 30 r.gcnt)
      ++ wB k.bleft ++ wB x.tlen.toNat ++ wB csp ++ wB res ++ wB 0 ++ ((List.range 15).flatMap fun i => leBytes 4 (k.fired (i + 1))))
    ++ (seat.ctxs.flatMap fun c => (s.lostRead t c).image t c bm s.clock)
    ++ ((List.range r.acnt).flatMap fun i => accImage (t.acc[x.accOf (Fin.ofNat 4 i)]))
    ++ ((List.range r.acnt).flatMap fun i => let a := t.acc[x.accOf (Fin.ofNat 4 i)]; padB 64 (wB (b2n a.pois) ++ wB a.payload.toNat))
    ++ ((List.range r.gcnt).flatMap fun i => let g := t.strm[x.strmOf (Fin.ofNat 8 i)]; strmBytes g (pos? seat.ctxs g.ctx))
    ++ padB 1024 ((t.copies.filter fun c => seat.ctxs.contains c.ctx).flatMap fun c => copyBytes c)
    ++ padB 1152 ((reqs.take 4).flatMap fun o => reqBytes o (pos? seat.ctxs o.ctx) bm x.tbase.toNat)
    ++ t.tcmRd x.tbase.toNat x.tlen.toNat
    ++ readBytes (s.clus (clusOf seat.tile)).csp (s.cspPa seat.tile c0 0) csp
    ++ padB 2304 (padB 128 (((List.range 8).flatMap fun i => wB (if bitN bm (7 * i + 6) then (s.clus (clusOf seat.tile)).bufd (nfld bm (7 * i) 6) else 0))
        ++ wB (if bitN bm 56 then (reg (s.clus (clusOf seat.tile)).regs (0xa00 + 8 * nfld bm 57 3)).toNat else 0)) ++ (if r.gang = 0 then [] else t.nq.toList.flatMap chanBytes))

/-- Offsets of a record's sections, from its header. -/
structure RecMap where
  ctx : Nat
  acc : Nat
  accp : Nat
  strm : Nat
  copy : Nat
  req : Nat
  tcm : Nat
  csp : Nat
  clus : Nat
  stop : Nat
deriving DecidableEq, Repr
/-- The sections of the record at an address, as its header gives them. -/
def State.recMap (s : State) (a : Nat) : RecMap :=
  let w := s.memNat a 8
  let n := nfld w 24 3 + 1
  let acnt := nfld w 27 3
  let gcnt := nfld w 30 4
  let tlen := s.memNat (a + 0x10) 8
  let csp := s.memNat (a + 0x18) 8
  let o1 := 256 + 22528 * n
  let o2 := o1 + 16384 * acnt
  let o3 := o2 + 64 * acnt
  let o4 := o3 + 64 * gcnt
  let o5 := o4 + 1024
  let o6 := o5 + 1152
  let o7 := o6 + tlen
  let o8 := o7 + csp
  { ctx := 256, acc := o1, accp := o2, strm := o3, copy := o4, req := o5, tcm := o6, csp := o7, clus := o8, stop := o8 + 2304 }
/-- The stream of the record, served by the context of that position, with what is kept beside it. -/
def State.strmAt (s : State) (a : Nat) (ctxs : List (Fin 8)) (y : SStrm) : Strm :=
  let w := s.memNat (a + 40) 8
  { Strm.zero with
    desc := BitVec.ofNat 256 (s.memNat a 32), next := s.memNat (a + 32) 8
    st := (match nfld w 0 2 with | 1 => .conf | 2 => .run | _ => .idle), ctx := (ctxs[nfld w 2 3]?).getD 0
    start := s.clock + 1, ptk := y.ptk, slot := y.slot, halt := y.halt, lose := y.lose, hold := y.hold }
/-- The copy command of the record, with what is kept beside it. -/
def State.copyAt (s : State) (a : Nat) (ctxs : List (Fin 8)) (id : Nat) (y : SCopy) : Option Copy :=
  match decodeOp (BitVec.ofNat 64 (0x99 * 2 ^ 56 + nfld (s.memNat a 8) 0 48)) with
  | .ok (.cpy f) =>
    let len := nfld (s.memNat (a + 24) 8) 0 32
    let per := (len + 63) / 64
    let j := s.memNat (a + 40) 8
    some { id := id, ctx := (ctxs[y.pos]?).getD 0, slot := y.slot, start := s.clock + 1, f := f,
           da := BitVec.ofNat 64 (s.memNat (a + 8) 8), sa := BitVec.ofNat 64 (s.memNat (a + 16) 8), rows := nfld (s.memNat (a + 24) 8) 32 32, len := len,
           sstr := signedOf 32 (nfld (s.memNat (a + 32) 8) 0 32), dstr := signedOf 32 (nfld (s.memNat (a + 32) 8) 32 32),
           wtk := y.wtk, ptk := y.ptk, hold := y.hold,
           row := if per = 0 then 0 else j / per, off := if per = 0 then 0 else j % per * 64, outs := [], dead := false }
  | _ => none
/-- A buffer request as its record gives it, over what is kept beside the record (R435). -/
def Op.ofReq (s : State) (o : Op) (a base bm : Nat) : Op :=
  let w := s.memNat a 8
  let b := nfld bm (7 * nfld w 11 3) 6
  let tw := fun t : Option PReg => t.map fun p => if bitN w 9 then (Fin.ofNat 16 (nfld w 18 4) : PReg) else p
  { o with act := match o.act with
    | .bput _ _ true _ pa n t => .bput (Fin.ofNat 16 (nfld w 14 4)) b true (some (s.memRd (a + 32) 256)) pa n (tw t)
    | .bput _ _ false bs _ n t => .bput (Fin.ofNat 16 (nfld w 14 4)) b false bs (base + nfld w 32 32) n (tw t)
    | .bget (.tcm _ x) _ _ n t => .bget (.tcm (Fin.ofNat 16 (nfld w 14 4)) x) b (base + nfld w 32 32) n (tw t)
    | .bget (.vec (.reg _)) _ pa n t => .bget (.vec (.reg (Fin.ofNat 16 (nfld w 14 4)))) b pa n (tw t)
    | .bget (.vec (.chan _)) _ pa n t => .bget (.vec (.chan (Fin.ofNat 16 (nfld w 14 4)))) b pa n (tw t)
    | x => x }
/-- The accumulator of the record. -/
def State.accAt (s : State) (a p : Nat) : Acc :=
  { rows := (List.range 64).foldl (fun m j => mset 0 m j (BitVec.ofNat 2048 (s.memNat (a + 256 * j) 256))) [], pois := bitN (s.memNat p 8) 0,
    payload := BitVec.ofNat 64 (s.memNat (p + 8) 8) }

end Sys2Proof.Machine
end

