-- ==== Sys2Proof/Machine/Kiln.lean ====
section
/-! DEFINITION. The Kiln and the coordinator: fault records (R359, R446), admission (R356), instances (R346), decrements (R347), staging (R350, R274),
cancelling and completion (R361). -/

namespace Sys2Proof.Machine
open Sys2Proof

/-! ## Fault records (R359, R446) -/

/-- What a fault record says beside its instance, its task and its die. -/
structure FRec where
  kind : Nat
  cause : Nat
  slot : Nat
  tile : Nat
  ctx : Nat
  payload : Word
  loc : Word
  code : Nat
  chlab : Nat
  bytes : Nat
  pmark : Bool
  offset : Word
  cyc : Word
deriving DecidableEq, Repr
def FRec.of (kind cause : Nat) (clk : Nat) : FRec :=
  { kind := kind, cause := cause, slot := 0, tile := 0, ctx := 0, payload := 0, loc := 0, code := 0, chlab := 0, bytes := 0, pmark := false,
    offset := 0, cyc := BitVec.ofNat 64 clk }
/-- The record of a context's stop. -/
def FRec.stop (i : StopInfo) (tile : Nat) (c : Fin 8) : FRec :=
  { kind := 1, cause := i.cause.toNat, slot := i.slot.toNat, tile := tileIn tile, ctx := c.val, payload := i.payload, loc := i.loc, code := i.code.toNat,
    chlab := i.chlab.toNat, bytes := i.bytes.toNat, pmark := i.pmark, offset := 0, cyc := i.cyc }
/-- The eight words of R359. -/
def FRec.words (f : FRec) (ctag idx die : Nat) : List Word :=
  [ BitVec.ofNat 64 (f.kind + at_ 8 f.cause + at_ 16 f.slot + at_ 32 ctag),
    BitVec.ofNat 64 (idx + at_ 16 die + at_ 19 f.tile + at_ 27 f.ctx), f.payload, f.loc,
    BitVec.ofNat 64 (f.code + at_ 16 f.chlab + at_ 24 f.bytes + at_ 56 (b2n f.pmark)), f.offset, f.cyc, 0 ]
def fqBlk (t : BitVec 4) : Nat := 0x4000 + 0x40 * t.toNat
/-- Write a record at the tail of the tag's queue; its address, 0 when it is dropped. -/
def State.fqPut (s : State) (t : BitVec 4) (ws : List Word) : State × Nat :=
  let b := fqBlk t
  let cap := s.coReg (b + 8)
  let cnt := s.coReg (b + 0x18)
  if cap ≤ cnt then ({ s with coord := { s.coord with regs := bumpReg s.coord.regs (b + 0x20) 1 } }, 0)
  else
    let a := s.coReg b + 64 * ((s.coReg (b + 0x10) + cnt) % cap)
    (((s.memWr a (ws.flatMap fun w => wB w.toNat)).setCo (b + 0x18) (BitVec.ofNat 64 (cnt + 1))).msixTag t 1, a)

/-! ## Records -/

def recIds (d : Die) : List (Nat × TRec) := d.recs
/-- Every record that is not FREE, with its die and index. -/
def State.recsAll (s : State) : List (Nat × Nat × TRec) := s.dies.flatMap fun d => d.2.recs.map fun r => (d.1, r.1, r.2)
def State.recsOfInst (s : State) (t : BitVec 4) (i : Nat) : List (Nat × Nat × TRec) :=
  s.recsAll.filter fun x => x.2.2.st != .free && x.2.2.tenant == t && x.2.2.inst == i
/-- The lowest index of a FREE record. -/
def lowFree (used : List Nat) : Nat := ((List.range (used.length + 1)).find? fun n => !used.contains n).getD 0
/-- DEDUCED, log 43. -/
def Die.freeIdx (d : Die) : Nat := lowFree (d.recs.map (·.1))
/-- A number that counts up per tenant and hardware queue (R353). (DEDUCED, log 46.) -/
def State.takeSeq (s : State) (die : Nat) (t : BitVec 4) (q : Nat) : State × Nat :=
  let k := 16 * t.toNat + q
  let n := mget 0 (s.die die).seqs k
  (s.modDie die fun d => { d with seqs := mset 0 d.seqs k ((n + 1) % 2 ^ 32) }, n)
/-- The successor entries of a record (R342). -/
def State.succs (s : State) (die : Nat) (r : TRec) : List Word :=
  (List.range (r.nsucc + r.nstrm)).map fun i => mget 0 (s.die die).succ (r.succoff + i)
def eTask (e : Word) : Nat := nfld e.toNat 2 16
def eDie (e : Word) : Nat := nfld e.toNat 18 3
def eMod (e : Word) : Nat := nfld e.toNat 21 12
def State.counted (s : State) (die : Nat) (r : TRec) : List Word := (s.succs die r).take r.nsucc
def State.streamed (s : State) (die : Nat) (r : TRec) : List Word := (s.succs die r).drop r.nsucc
/-- The template entry from which a record was made. -/
def State.tmplOf (s : State) (h : Nat) : Option Template := s.coord.tmpls.find? fun t => t.handle == h
def State.entryOf (s : State) (r : TRec) : Option TEntry :=
  (s.tmplOf (s.inst r.inst).tmpl).bind fun t => t.entries[r.tmplEntry]?
def State.imageOf (s : State) (r : TRec) : Option Image := s.coord.images.find? fun i => i.handle == r.image

/-! ## Admission (R355, R356, R423, R426) -/

def State.ntAll (s : State) (t : BitVec 4) : Nat := sumL ((List.range 8).map fun d => nfld (s.kten d t) 44 8)
/-- A tenant's slice and period in ms (R426). -/
def State.slice (s : State) (t : BitVec 4) : Nat × Nat :=
  let d := match s.vfOf t with | some n => s.vfDom n | none => 0
  let pl := s.splan d
  match pl.find? (fun x => x.1 == t.toNat) with
  | some x => (x.2, x.2 + 2 * sumL ((pl.filter fun y => y.1 != t.toNat).map (·.2)) + 4 * pl.length)
  | none => (0, 0)
def ceilDiv (a b : Nat) : Nat := (a + b - 1) / b
def usPs : Nat := 1000000
def msPs : Nat := 1000000000
/-- Times in ps as cycles of 1.05 GHz, rounded up. -/
def psCycles (x : Nat) : Nat := ceilDiv (x * 21) 20000
def cyclesPs (n : Nat) : Nat := n * 20000 / 21
/-- Ts: 1 µs and the PF buffers at 32 GB/s. -/
def tsPs (pf : Nat) : Nat := usPs + pf * 125 / 4
def trPs (b : Nat) : Nat := ceilDiv b 210000 * (200 * usPs)
def tpPs (cls : Nat) (two : Bool) : Nat :=
  let p := match cls with | 0 => 18 * usPs | 1 => 20 * usPs | 2 => 200 * usPs | _ => 0
  if two then 2 * p + 2 * usPs else p
def bflPlace (f : Nat) : Nat := nfld f 0 2
def bflPF (f : Nat) : Bool := bitN f 2
def bflRD (f : Nat) : Bool := bitN f 3
def bflWR (f : Nat) : Bool := bitN f 4
def bflDM1 (f : Nat) : Nat := nfld f 5 3
def TRec.pfBytes (r : TRec) : Nat :=
  sumL ((List.finRange 8).map fun k => if bflPlace (r.bfl k) ≠ 3 ∧ bflPF (r.bfl k) then r.bsize k * 1024 else 0)
def TRec.wrBytes (r : TRec) : Nat :=
  sumL ((List.finRange 8).map fun k => if bflPlace (r.bfl k) ≠ 3 ∧ bflWR (r.bfl k) then r.bsize k * 1024 else 0)
def Image.hasGlaze (i : Image) : Bool := i.slots.any fun x => match slotRule x with | some r => r.op.glazeOnly | none => false
/-- A task that may have to migrate (R403). -/
def State.mayMigrate (s : State) (r : TRec) : Bool :=
  r.profile == 0 && !r.gl && (match s.imageOf r with | some i => i.hasGlaze | none => false)
/-- A node of the graph of counted edges: its name, the name of its stream-joined set, Tp, Ts, Tr, and the names it precedes. -/
structure Node where
  id : Nat
  set : Nat
  tp : Nat
  ts : Nat
  tr : Nat
  next : List Nat
deriving DecidableEq, Repr
/-- The term of a node: over a set, the largest of each. -/
def setTerm (ns : List Node) (k : Nat) : Nat :=
  let m := ns.filter fun n => n.set == k
  maxL (m.map (·.tp)) + maxL (m.map (·.ts)) + maxL (m.map (·.tr))
/-- One round of longest paths: for each set its term and the longest of the sets it precedes. -/
def pathRound (ns : List Node) (d : List (Nat × Nat)) : List (Nat × Nat) :=
  d.map fun x =>
    let nx := (ns.filter fun n => n.set == x.1).flatMap fun n => n.next.filterMap fun j => (ns.find? fun m => m.id == j).map (·.set)
    (x.1, setTerm ns x.1 + maxL ((d.filter fun y => y.1 != x.1 && nx.contains y.1).map (·.2)))
/-- Lcp in ps. -/
def lcpPs (ns : List Node) : Nat :=
  let start := ((ns.map (·.set)).eraseDups).map fun k => (k, 0)
  maxL (((List.range start.length).foldl (fun d _ => pathRound ns d) start).map (·.2))
def State.node (s : State) (r : TRec) (id set : Nat) (next : List Nat) : Node :=
  { id := id, set := set, tp := tpPs r.dclass (s.mayMigrate r), ts := tsPs r.pfBytes,
    tr := trPs r.bound + (if r.twin then cyclesPs (ceilDiv r.wrBytes 64) else 0), next := next }
/-- The stream-joined set of an entry: the least entry that stream edges join it to. -/
def joinRound (es : List (Nat × Nat)) (m : List Nat) : List Nat :=
  es.foldl (fun m e => let a := m.getD e.1 0; let b := m.getD e.2 0; m.map fun x => if x = a ∨ x = b then min a b else x) m
def setsOf (n : Nat) (es : List (Nat × Nat)) : List Nat := joinRound es (List.range n)
def recOfEntry (e : TEntry) : TRec := { TRec.zero with w := e.w }
/-- The stream edges of a template as pairs of entries. -/
def streamPairs (es : List TEntry) : List (Nat × Nat) :=
  es.zipIdx.flatMap fun x => ((x.1.succ.drop (recOfEntry x.1).nsucc)).map fun w => (x.2, eTask w)
def State.tmplNodes (s : State) (es : List TEntry) (one : Bool) : List Node :=
  let sets := setsOf es.length (streamPairs es)
  es.zipIdx.map fun x =>
    let r := recOfEntry x.1
    let r := if one then r.put 0 24 2 1 else r
    s.node r x.2 (sets.getD x.2 x.2) ((x.1.succ.take r.nsucc).map eTask)
def bleftOf (s : State) (die idx : Nat) (r : TRec) : Nat :=
  match r.seats with
  | [] => r.bound
  | q :: _ => match (s.tileN q.tile).tasks.find? (fun t => t.ref.die == die && t.ref.idx == idx) with | some t => t.bleft | none => r.bound
def RSt.unfinished (x : RSt) : Bool := x != .free && x != .retired && x != .faulted
/-- Wa in tile-cycles, over classes up to `cls`. -/
def State.waCycles (s : State) (t : BitVec 4) (cls : Nat) (skip : Option Nat) : Nat :=
  sumL ((s.recsAll.filter fun x => x.2.2.tenant == t && x.2.2.st.unfinished && decide (x.2.2.dclass ≤ cls) && skip != some x.2.2.inst).map fun x =>
    (x.2.2.gang + 1) * bleftOf s x.1 x.2.1 x.2.2)
/-- The bound of R356 in ps for nodes; none where the formula has no value. (DEDUCED, log 45.) -/
def State.boundPs (s : State) (t : BitVec 4) (ns : List Node) (cls : Nat) (skip : Option Nat) : Option Nat :=
  let nt := s.ntAll t
  if nt = 0 then none
  else
    let x := lcpPs ns + ceilDiv (s.waCycles t cls skip * 20000) (21 * nt)
    if s.phi t = 255 then some x
    else
      let sl := s.slice t
      if sl.1 * msPs ≤ 3 * msPs / 2 then none
      else some (ceilDiv x (sl.1 * msPs - 3 * msPs / 2) * (sl.2 * msPs) + sl.2 * msPs)
/-- Admission: refused, or admitted with a bound in cycles, or without one. -/
inductive Admit where
  | refused | bounded (cycles : Nat) | free
deriving DecidableEq, Repr
/-- DEDUCED, log 45. -/
def State.admission (s : State) (t : BitVec 4) (es : List TEntry) (limit : Nat) (fault : Bool) : Admit :=
  let cl := es.map fun e => if fault then 1 else (recOfEntry e).dclass
  let only3 := cl.all fun c => c == 3
  if s.ntAll t = 0 then .refused
  else if only3 && limit == 0 && !fault then .free
  else if limit = 0 ∧ !fault then .refused
  else match s.boundPs t (s.tmplNodes es fault) (maxL cl) none with
    | none => .refused
    | some b => if limit ≠ 0 ∧ limit * 1000 < b then .refused else .bounded (psCycles b)

/-! ## The rename arena and quotas (R346, R416, R417) -/

def State.qtab (s : State) (t : BitVec 4) (w : Nat) : Nat := s.coReg (0x1000 + 0x40 * t.toNat + 8 * w)
def State.qRecs (s : State) (t : BitVec 4) : Nat := nfld (s.qtab t 0) 32 20
def State.qTiles (s : State) (t : BitVec 4) : Nat := nfld (s.qtab t 0) 0 11
def State.qCtxs (s : State) (t : BitVec 4) : Nat := nfld (s.qtab t 0) 11 14
def State.qDcnt (s : State) (t : BitVec 4) : Nat := nfld (s.qtab t 1) 0 24
/-- DEDUCED, log 46. -/
def State.qSlot (s : State) (t : BitVec 4) : Nat := nfld (s.qtab t 1) 24 16
/-- The arena of a tenant: base and bytes (VFAR). -/
def State.arenaOf (s : State) (t : BitVec 4) : Nat × Nat :=
  match s.vfOf t with | some n => (nfld (s.vf n 0x20) 0 32 * 65536, nfld (s.vf n 0x20) 32 32 * 65536) | none => (0, 0)
def up64 (n : Nat) : Nat := ceilDiv n 65536 * 65536
/-- The lowest gap of `n` units among used ranges, in a region. -/
def lowGap (used : List (Nat × Nat)) (base size n : Nat) : Option Nat :=
  let c := base :: (used.map fun u => u.1 + u.2).filter fun a => decide (base ≤ a)
  let ok := c.filter fun a => decide (a + n ≤ base + size) && used.all fun u => decide (u.1 + u.2 ≤ a ∨ a + n ≤ u.1)
  match ok with | [] => none | a :: l => some (l.foldl min a)
/-- The 8-byte units of graph memory beside the records (R5, R341). (DESIGN CHOICE, log 84.) -/
def graphUnits : Nat := 4 * 2 ^ 20 / 8
/-- The units of registered templates, which stand in every die's graph memory: entries, successor entries and graph-buffer tables. (DESIGN CHOICE, log 84.) -/
def Template.units (t : Template) : Nat := sumL (t.entries.map fun e => 16 + e.succ.length) + 2 * t.bufs.length
/-- DESIGN CHOICE, log 84. -/
def State.tmplUnits (s : State) : Nat := sumL (s.coord.tmpls.map Template.units)
/-- The successor lists of a die that are in use, as offset and length. -/
def Die.succUsed (d : Die) : List (Nat × Nat) :=
  (d.recs.filter fun r => r.2.nsucc + r.2.nstrm != 0).map fun r => (r.2.succoff, r.2.nsucc + r.2.nstrm)
/-- The lowest room of a die for a successor list of `n` entries (R341). (DESIGN CHOICE, log 84.) -/
def State.succRoom (s : State) (die n : Nat) : Option Nat := lowGap (s.die die).succUsed 0 (graphUnits - s.tmplUnits) n
/-- Take a backing of `n` bytes from the tenant's arena, in whole pages. -/
def State.takeArena (s : State) (t : BitVec 4) (n : Nat) : Option (State × Nat) :=
  let ar := s.arenaOf t
  let used := (s.coord.arena.filter fun x => x.1 == t.toNat).map fun x => x.2
  (lowGap used ar.1 ar.2 (up64 n)).map fun a => ({ s with coord := { s.coord with arena := s.coord.arena ++ [(t.toNat, a, up64 n)] } }, a)
def gbWR (b : Word × Word) : Bool := bitN b.1.toNat 4
def gbExt (b : Word × Word) : Option Nat := if bitN b.1.toNat 8 then some (nfld b.1.toNat 9 3) else none
def gbSize (b : Word × Word) : Nat := nfld b.2.toNat 0 16 * 1024
/-- The ranges that the WR buffers of a tenant's unfinished instances take (R346). -/
def State.extRanges (s : State) (t : BitVec 4) : List (Nat × Nat) :=
  (s.coord.insts.filter fun x => x.2.used && !x.2.ended && x.2.tenant == t).flatMap fun x => x.2.wr
/-- The WR ranges of a record. -/
def TRec.wrRanges (r : TRec) : List (Nat × Nat) :=
  (List.finRange 8).filterMap fun k => if bflPlace (r.bfl k) ≠ 3 ∧ bflWR (r.bfl k) then some (r.baddr k, r.bsize k * 1024) else none
def overlap (a b : Nat × Nat) : Bool := decide (a.1 < b.1 + b.2 ∧ b.1 < a.1 + a.2)
/-- A graph buffer of a template is flagged for writing, in its table or by a task. -/
def Template.writes (tm : Template) (k : Nat) : Bool :=
  (match tm.bufs[k]? with | some b => gbWR b | none => false)
  || tm.entries.any fun e => (List.finRange 8).any fun j =>
    bflPlace ((recOfEntry e).bfl j) != 3 && bflWR ((recOfEntry e).bfl j) && (recOfEntry e).baddr j == k
/-- Backings for the graph buffers: external arguments as given, internal ones from the arena; the instance's own are listed. -/
def State.backings (s : State) (t : BitVec 4) (ext : List Word) : List (Word × Word) → Option (State × List Nat × List (Nat × Nat))
  | [] => some (s, [], [])
  | b :: l =>
    match gbExt b with
    | some e => (s.backings t ext l).map fun r => (r.1, (ext.getD e 0).toNat % 2 ^ 48 :: r.2.1, r.2.2)
    | none =>
      match s.takeArena t (gbSize b) with
      | none => none
      | some (s, a) => (s.backings t ext l).map fun r => (r.1, a :: r.2.1, (a, gbSize b) :: r.2.2)

/-! ## Creating records -/

/-- Put a record's buffers at the backings that its graph-buffer indices name. -/
def TRec.rebase (r : TRec) (back : List Nat) : TRec :=
  (List.finRange 8).foldl (fun r k =>
    if bflPlace (r.bfl k) = 3 then r
    else { r with w := r.w.set (8 + k.val) (putFld (r.bword k) 0 48 (back.getD (r.baddr k) 0)) }) r
/-- The dies that a set of entries may be made on (R346, R351). -/
def diesFor (rs : List TRec) : List Nat :=
  (List.range 8).filter fun d => rs.all fun r =>
    (decide (8 ≤ r.daff) || r.daff == d) && (if r.profile = 1 ∨ r.gl then !isBisque d else if r.profile = 2 then isBisque d else true)
/-- The die with the most FREE records, the lowest number among equals. -/
def State.bestDie (s : State) : List Nat → Option Nat
  | [] => none
  | d :: l => match s.bestDie l with
    | none => some d
    | some e => if (s.die e).recs.length < (s.die d).recs.length then some e else some d
/-- Store a record made from an entry in state CREATED, where its die has room for its successor list. (DESIGN CHOICE, log 84.) -/
def State.makeRec (s : State) (die : Nat) (t : BitVec 4) (r : TRec) (entry inst : Nat) (p0 : Word) (one : Bool) (succ : List Word) : Option (State × Nat) :=
  (s.succRoom die succ.length).map fun top =>
  let idx := (s.die die).freeIdx
  let q := s.takeSeq die t r.hwq
  let r := { r with seq := q.2 }
  let r := (((r.setSt .created).put 0 20 4 t.toNat).put 2 32 16 entry).put 4 48 16 inst
  let r := if one then r.put 0 24 2 1 else r
  let r := if t = 0 then r else r.put 0 28 1 0
  let r := { (r.put 3 0 32 top) with w := ((r.put 3 0 32 top).w.set 5 p0).set 6 (BitVec.ofNat 64 inst) }
  let s := q.1.modDie die fun d => { d with succ := (succ.zipIdx).foldl (fun m x => mset 0 m (top + x.2) x.1) d.succ }
  (s.setRec die idx r, idx)

/-- The physical function runs in a domain: its plan is empty, or domain 0 is in tag 0's slice, and tag 0 is not being switched out of it (R420, R423). -/
def State.runs0 (s : State) (d : Nat) : Bool :=
  let x := mget Dom.zero s.coord.doms d
  x.out.all (fun o => o.1 != 0) && (x.plan.isEmpty || (d == 0 && x.cur == some 0))
/-- Some tile stands in a partition. -/
def State.domTiles (s : State) (d : Nat) : Bool :=
  s.dies.any fun x => x.2.regs.any fun e => decide (0x800 ≤ e.1 ∧ e.1 < 0x860) && (List.range 16).any fun j => nfld e.2.toNat (4 * j) 3 == d
/-- A tenant may have tasks placed: it is in its slice, and not retiring (R354, R423, R428). The physical function runs in its own slice of domain 0, and
wherever the plan is empty. (DEDUCED, log 59.) -/
def State.mayRun (s : State) (t : BitVec 4) : Bool :=
  !s.retires t
  && (if t = 0 then s.runs0 0 || ((List.range 8).drop 1).any fun d => s.runs0 d && s.domTiles d
      else !(s.coord.doms.any fun d => d.2.out.any fun o => o.1 == t.toNat) && match s.vfOf t with | some n => s.vfState n == 1 | none => false)

/-! ## Staging (R350, R274, R264) -/

/-- The near-resident pages among those of a PF buffer in global memory. -/
def bufPages (r : TRec) (k : Fin 8) : List Nat :=
  if r.bsize k = 0 then [] else (List.range ((r.baddr k + r.bsize k * 1024 - 1) / 65536 - r.baddr k / 65536 + 1)).map fun i => r.baddr k / 65536 + i
def TRec.pfPages (r : TRec) : List Nat :=
  ((List.finRange 8).flatMap fun k => if bflPlace (r.bfl k) = 2 ∧ bflPF (r.bfl k) then bufPages r k else []).eraseDups
/-- A page lies in near memory. -/
def State.isNear (s : State) (t : BitVec 4) (p : Nat) : Bool :=
  match s.leafOf t (p * 65536) with
  | .leaf _ _ e b => leafRes e && (match memHome b with | some h => h != 0 | none => false)
  | .fault _ => false
def State.theta (s : State) (die : Nat) (r : TRec) : Nat := nfld (s.kten die r.tenant) (4 + 8 * r.dclass) 8
/-- A range of units of a CSP is free of other tenants' buffers. -/
def unitsOf (d : Nat) : Nat × Nat := (bufBase d / 65536, ceilDiv (bufBase d % 65536 + bufLen d * bufDepth d) 65536)
def Cluster.used (k : Cluster) : List (Nat × Nat × Nat) :=
  (List.range 64).filterMap fun b => if bitN (k.bufd b) 37 then some ((unitsOf (k.bufd b)).1, (unitsOf (k.bufd b)).2, nfld (k.bufd b) 38 4) else none
/-- The smallest window over buffers of a cluster: base and length in 64 KiB units. (DEDUCED, log 42.) -/
def Cluster.window (k : Cluster) (bs : List Nat) : Nat × Nat :=
  match bs with
  | [] => (0, 0)
  | _ =>
    let l := bs.map fun b => unitsOf (k.bufd b)
    let lo := (l.map (·.1)).foldl min 1024
    (lo, maxL (l.map fun u => u.1 + u.2) - lo)
/-- The window holds no other tenant's buffer. (DEDUCED, log 42.) -/
def Cluster.windowOk (k : Cluster) (bs : List Nat) (t : BitVec 4) : Bool :=
  let w := k.window bs
  k.used.all fun u => u.2.2 == t.toNat || decide (u.1 + u.2.1 ≤ w.1 ∨ w.1 + w.2 ≤ u.1)
/-- A buffer of the instance that already stands in a cluster and that the task may map (R264, R274). -/
def Die.stagedFor (d : Die) (inst clus baddr : Nat) : Option Staged := d.staged.find? fun x => x.inst == inst && x.clus == clus && x.baddr == baddr
/-- The buffer that a descriptor of a cluster holds. -/
def Die.stagedAt (d : Die) (clus bufd : Nat) : Option Staged := d.staged.find? fun x => x.clus == clus && x.bufd == bufd
def Die.modStaged (d : Die) (clus bufd : Nat) (f : Staged → Staged) : Die :=
  { d with staged := d.staged.map fun x => if x.clus = clus ∧ x.bufd = bufd then f x else x }
/-- The BUFD of a new buffer: with PF all its slots are staged. -/
def newBufd (base : Nat) (r : TRec) (k : Fin 8) : Nat :=
  let dm1 := bflDM1 (r.bfl k)
  base * 1024 + at_ 20 (r.bsize k * 16 / (dm1 + 1)) + at_ 34 dm1 + at_ 37 1 + at_ 38 r.tenant.toNat + at_ 42 (if bflPF (r.bfl k) then 2 ^ (dm1 + 1) - 1 else 0)
/-- Place one CSP buffer of a task in a cluster: the descriptor, whether a copy is to be waited for. Copies into one cluster follow one another at its
staging port; copies of one buffer that start in one cycle share a fetch (R274). (DEDUCED, log 42.) -/
def State.stageBuf (s : State) (die : Nat) (r : TRec) (c : Nat) (k : Fin 8) : Option (State × Nat × Bool) :=
  match (s.die die).stagedFor r.inst c (r.baddr k) with
  | some x => some (s.modDie die fun d => d.modStaged c x.bufd fun y => { y with wrt := y.wrt || bflWR (r.bfl k) }, x.bufd, !x.done)
  | none =>
    let cl := s.clus c
    match (List.range 64).find? (fun b => !bitN (cl.bufd b) 37), lowGap (cl.used.map fun u => (u.1, u.2.1)) 0 1024 (ceilDiv (r.bsize k) 64) with
    | some b, some u =>
      let s := s.modClus c fun x => { x with regs := setReg x.regs (0x800 + 8 * b) (BitVec.ofNat 64 (newBufd u r k)), last := mset 0 x.last b 0 }
      let home := match s.leafOf r.tenant (r.baddr k) with | .leaf _ _ _ p => (memHome p).getD 0 | .fault _ => 0
      let ends := max (s.clock + homeS die home) (s.clus c).port + ceilDiv (r.bsize k * 1024) 128
      let s := if bflPF (r.bfl k) then s.modClus c fun x => { x with port := ends } else s
      some (s.modDie die fun d => { d with staged := d.staged ++ [{ inst := r.inst, baddr := r.baddr k, clus := c, bufd := b, wrt := bflWR (r.bfl k),
                                                                    start := s.clock, ends := ends, got := false, done := !bflPF (r.bfl k) }] }, b, bflPF (r.bfl k))
    | _, _ => none
def TRec.cspBufs (r : TRec) : List (Fin 8) := (List.finRange 8).filter fun k => bflPlace (r.bfl k) == 1
/-- All CSP buffers of a task in one cluster. -/
def State.stageIn (s : State) (die : Nat) (r : TRec) (c : Nat) : List (Fin 8) → Option (State × List (Nat × Nat × Nat) × List (Fin 8))
  | [] => some (s, [], [])
  | k :: l =>
    match s.stageBuf die r c k with
    | none => none
    | some (s, b, cp) => (s.stageIn die r c l).map fun x => (x.1, (k.val, c, b) :: x.2.1, if cp then k :: x.2.2 else x.2.2)
/-- The domain of a tile (R419) and those that a tenant's tasks may be placed on (R420). -/
def State.tdom (s : State) (n : Nat) : Nat := nfld (reg (s.die (dieOf n)).regs (0x800 + 8 * (tileIn n / 16))).toNat (4 * (tileIn n % 16)) 3
def State.domOk (s : State) (t : BitVec 4) (n : Nat) : Bool :=
  let d := s.tdom n
  if t = 0 then s.runs0 d else match s.vfOf t with | some v => d == s.vfDom v | none => false
/-- Clusters of a die in which the task can be placed: they hold a tile of the tenant's domains, for a gang in every place of it; a buffer that stands already, and that
its task or this one may write, fixes the cluster. -/
def State.clusFor (s : State) (die : Nat) (r : TRec) : List Nat :=
  let all := (List.range 12).map (12 * die + ·)
  let fixed := (s.die die).staged.find? fun x => x.inst == r.inst && r.cspBufs.any fun k => r.baddr k == x.baddr && (x.wrt || bflWR (r.bfl k))
  match fixed with
  | some x => [x.clus]
  | none => all.filter fun c =>
    if r.gang = 0 then (List.range 16).any fun p => s.domOk r.tenant (tileAtPos c p)
    else (List.range (r.gang + 1)).all fun p => s.domOk r.tenant (tileAtPos c p)
/-- Find room for a task's CSP buffers, the lowest cluster first. -/
def State.stageCsp (s : State) (die : Nat) (r : TRec) : List Nat → Option (State × List (Nat × Nat × Nat) × List (Fin 8))
  | [] => none
  | c :: l =>
    match s.stageIn die r c r.cspBufs with
    | some x => if (x.1.clus c).windowOk (x.2.1.map (·.2.2)) r.tenant then some x else s.stageCsp die r l
    | none => s.stageCsp die r l
/-- The gate of R350 is open. -/
def State.gateOpen (s : State) (die : Nat) (r : TRec) : Bool :=
  let n := r.pages.length
  r.copies == 0 && (n == 0 || decide (ceilDiv (s.theta die r * n) 256 ≤ (r.pages.filter (s.isNear r.tenant)).length)
    || decide (r.since + psCycles (tsPs r.pfBytes) ≤ s.clock))
/-- Stage a task's CSP buffers when there is room, and open the gate when it may open. (DEDUCED, log 42.) -/
def State.stage1 (s : State) (die idx : Nat) : State :=
  let r := s.trec die idx
  if r.st != .staging || !s.mayRun r.tenant then s
  else
    let s :=
      if r.cspBufs.isEmpty || !r.csp.isEmpty then s
      else match s.stageCsp die r (s.clusFor die r) with
        | none => s.modRec die idx fun r => { r with nofit := match r.nofit with | some c => some c | none => some s.clock }
        | some (s, l, cps) =>
          let wait := match r.nofit with | some c => s.clock - c | none => 0
          let s := s.modInst r.inst fun i => { i with promised := i.promised.map (· + wait) }
          let s := s.modRec die idx fun r => { r with csp := l, copies := cps.length, nofit := none, since := r.since + wait }
          cps.foldl (fun s k =>
            match l.find? (fun x => x.1 == k.val) with
            | some x => s.later (((s.die die).stagedAt x.2.1 x.2.2).elim 0 fun y => y.ends - s.clock) (.cspStagingCopy die idx k)
            | none => s) s
    let r := s.trec die idx
    if (r.cspBufs.isEmpty || !r.csp.isEmpty) && s.gateOpen die r
        && r.csp.all (fun x => match (s.die die).stagedAt x.2.1 x.2.2 with | some y => y.done | none => true) then
      s.modRec die idx fun r => r.setSt .ready
    else s
/-- The staging of a record begins, or goes on in its tenant's next slice, `gone` cycles of the allowance having run. -/
def State.runStaging (s : State) (die idx gone : Nat) : State :=
  let s := s.modRec die idx fun r => { r with since := s.clock - gone, pages := r.pfPages }
  let r := s.trec die idx
  let s := r.pfPages.foldl (fun s p => s.askUp r.tenant p 8 2 none) s
  let s := if r.pfPages.isEmpty then s else s.later (psCycles (tsPs r.pfBytes) - gone) (.stagingAllowanceExpiry die idx)
  s.stage1 die idx
/-- A record enters STAGING: its pages are asked for, its buffers staged (R347, R350); out of its tenant's slice it waits (R442). (DEDUCED, log 46.) -/
def State.enterStaging (s : State) (die idx : Nat) : State :=
  let s := s.modRec die idx fun r => { (r.setSt .staging) with since := 0 }
  if s.mayRun (s.trec die idx).tenant then s.runStaging die idx 0 else s
/-- A CREATED record leaves for WAITING or STAGING at once (R343). -/
def State.admitRec (s : State) (die idx : Nat) : State :=
  if (s.trec die idx).cnt = 0 then s.enterStaging die idx else s.modRec die idx fun r => r.setSt .waiting
def execStagingGateOpen (s : State) : Out3 := match s.ev with | .stagingGateOpen d i => .next (s.stage1 d i) | _ => .next s
def execStagingAllowanceExpiry (s : State) : Out3 := match s.ev with | .stagingAllowanceExpiry d i => .next (s.stage1 d i) | _ => .next s
/-- A staged copy completes: the buffer's bytes stand in the CSP (R274). -/
def State.vaBytes (s : State) (t : BitVec 4) (va n : Nat) : List Byte :=
  if n = 0 then []
  else (List.range ((va + n - 1) / 65536 - va / 65536 + 1)).flatMap fun i =>
    let p := (va / 65536 + i) * 65536
    let lo := max va p
    let hi := min (va + n) (p + 65536)
    match s.leafOf t p with
    | .leaf _ lvl _ b => s.memRd (b + lo % (if lvl = 1 then 2097152 else 65536)) (hi - lo)
    | .fault _ => List.replicate (hi - lo) 0#8
/-- DEDUCED, log 42. -/
def State.cspCopy (s : State) (t : BitVec 4) (c b va n : Nat) : State := s.modClus c fun k => k.wr (bufBase (k.bufd b)) (s.vaBytes t va n)
/-- The fetch of a staged copy: one read of the source fills every copy of the buffer that shares it (R274). (DEDUCED, log 42.) -/
def State.fetchStaged (s : State) (r : TRec) (y : Staged) (k : Fin 8) : State :=
  let n := r.bsize k * 1024
  let bs := s.vaBytes r.tenant (r.baddr k) n
  let same := fun z : Staged => z.inst == y.inst && z.baddr == y.baddr && !z.done && !z.got && z.start == y.start && !(z.wrt || y.wrt)
  let all := (s.dies.flatMap fun d => d.2.staged).filter fun z => same z || (z.clus == y.clus && z.bufd == y.bufd)
  let s := all.foldl (fun s z => s.modClus z.clus fun c => c.wr (bufBase (c.bufd z.bufd)) bs) s
  (s.dies.map (·.1)).foldl (fun s d => s.modDie d fun e => { e with staged := e.staged.map fun z => if same z then { z with got := true } else z }) s
/-- Staged copies of the second copy of a twin that are complete. -/
def State.secondStaged (s : State) (d : Nat) (r : TRec) : State :=
  s.modDie d fun e => { e with staged := e.staged.map fun y => if y.inst = r.inst ∧ y.ends ≤ s.clock ∧ r.twinB.any (fun x => x.2 == y.baddr) then { y with done := true } else y }
/-- DEDUCED, log 42. -/
def execCspStagingCopy (s : State) : Out3 :=
  match s.ev with
  | .cspStagingCopy d i k =>
    let r := s.trec d i
    .next (match r.st, r.csp.find? (fun x => x.1 == k.val) with
      | .staging, some x =>
        let y := (s.die d).stagedAt x.2.1 x.2.2
        if y.any fun y => decide (s.clock < y.ends) then s.later (y.elim 1 fun y => y.ends - s.clock) (.cspStagingCopy d i k)
        else if (s.hostAt r.tenant (r.baddr k) (r.bsize k * 1024) 0) == .transit then s.later 1 (.cspStagingCopy d i k)
        else
          let s := if y.any (·.done) then s
            else (match y with | some z => if z.got then s else s.fetchStaged r z k | none => s).modDie d fun e => e.modStaged x.2.1 x.2.2 fun y => { y with done := true }
          let s := s.modRec d i fun r => { r with copies := r.copies - 1 }
          s.stage1 d i
      | _, _ => s.secondStaged d r)
  | _ => .next s

/-! ## Instances (R346, R361) -/

def State.freeInstIdx (s : State) : Nat := lowFree ((s.coord.insts.filter fun x => x.2.used).map (·.1))
/-- A template task needs more tiles or contexts than its whole quota (R417). -/
def State.tooWide (s : State) (t : BitVec 4) (es : List TEntry) : Bool :=
  es.any fun e => let r := recOfEntry e; decide (s.qTiles t < (r.gang + 1) * (1 + b2n r.twin)) || decide (s.qCtxs t < (r.gang + 1) * r.nctx * (1 + b2n r.twin))
/-- Records and counters that a launch would add exceed a quota. (DEDUCED, log 45.) -/
def State.quotaShort (s : State) (t : BitVec 4) (es : List TEntry) : Bool :=
  decide (s.qRecs t < s.useRecs t + es.length)
  || decide (s.qDcnt t < s.useDcnt t + sumL (es.map fun e => (recOfEntry e).cnt))
  || decide (s.qSlot t < s.useQslot t + (es.filter fun e => (recOfEntry e).cnt == 0).length)
/-- Make the records of an instance, entry by entry: each on the die of its stream-joined set, or on the die chosen for it. -/
def State.makeAll (s : State) (t : BitVec 4) (es : List TEntry) (sets : List Nat) (back : List Nat) (inst : Nat) (p0 : Word) (one : Bool) :
    List Nat → List (Nat × Nat) → Option (State × List (Nat × Nat))
  | [], got => some (s, got)
  | i :: l, got =>
    match es[i]? with
    | none => some (s, got)
    | some e =>
      let set := sets.getD i i
      let pick : Option Nat := match (List.range i).find? (fun j => sets.getD j j == set) with
        | some j => got[j]?.map (·.1)
        | none => s.bestDie (diesFor ((es.zipIdx.filter fun x => sets.getD x.2 x.2 == set).map fun x => recOfEntry x.1))
      match pick.filter (fun d => decide ((s.die d).recs.length < 65536)) with
      | none => none
      | some d =>
        match s.makeRec d t ((recOfEntry e).rebase back) i inst p0 one e.succ with
        | none => none
        | some m => m.1.makeAll t es sets back inst p0 one l (got ++ [(d, m.2)])
/-- Point the successor entries of new records at the records of the same instance. -/
def State.linkRecs (s : State) (got : List (Nat × Nat)) : State :=
  got.foldl (fun s x =>
    let r := s.trec x.1 x.2
    s.modDie x.1 fun d => { d with succ := (List.range (r.nsucc + r.nstrm)).foldl (fun m i =>
      let e := mget 0 m (r.succoff + i)
      let to_ := got.getD (eTask e) (0, 0)
      mset 0 m (r.succoff + i) (if nfld e.toNat 0 2 = 0 then putFld (putFld (putFld e 2 16 to_.2) 18 3 to_.1) 21 12 s.own else putFld e 2 16 to_.2)) d.succ }) s
/-- The least factor of the dies that hold an instance's records. (DEDUCED, log 76.) -/
def State.instCap (s : State) (i : Nat) (x : Inst) : Nat :=
  ((s.recsOfInst x.tenant i).map fun r => s.capOf r.1).foldl min s.saloc.capF
/-- What the capped time not yet counted adds to an instance's promise (R468). (DEDUCED, log 76.) -/
def State.capGain (s : State) (i : Nat) (x : Inst) : Nat :=
  let f := s.instCap i x
  if f = 16 then 0 else (s.clock - s.saloc.capAt) * (16 - f) / f
/-- The capped time up to now is counted: it extends every bound promised, and marks the completion entry of its instance (R458, R468). (DEDUCED, log 76.) -/
def State.stretch (s : State) : State :=
  let hot := s.coord.insts.filter fun x => x.2.used && !x.2.ended && x.2.promised.isSome && decide (s.instCap x.1 x.2 < 16) && decide (s.saloc.capAt < s.clock)
  let s := hot.foldl (fun s x => s.modInst x.1 fun y => { y with capped := true, promised := y.promised.map (· + s.capGain x.1 x.2) }) s
  { s with saloc := { s.saloc with capAt := s.clock } }
inductive Made where
  | refused (code : Nat) | made (s : State) (inst : Nat)
/-- Instantiate a template for a launch record; refusals are the codes of R377. (DEDUCED, log 45.) -/
def State.instantiate (s : State) (t : BitVec 4) (r : LaunchRec) (fault : Bool) (arrival : Nat) : Made :=
  match s.tmplOf r.thandle.toNat with
  | none => .refused 6
  | some tm =>
    if tm.tenant != t then .refused 6
    else
      match s.admission t tm.entries r.limit.toNat fault with
      | .refused => .refused 2
      | a =>
        let wr := tm.bufs.zipIdx.filterMap fun b => match gbExt b.1 with | some e => if tm.writes b.2 then some ((r.ext.getD e 0).toNat % 2 ^ 48, gbSize b.1) else none | none => none
        if wr.any (fun x => (s.extRanges t).any (overlap x)) then .refused 3
        else if s.tooWide t tm.entries || s.quotaShort t tm.entries then .refused 1
        else
          let i := s.freeInstIdx
          match (if i < 65536 then s.stretch.backings t r.ext tm.bufs else none) with
          | none => .refused 5
          | some (s, back, own) =>
            let x : Inst := { Inst.zero with
              used := true, arrived := arrival, isFault := fault, tenant := t, tmpl := r.thandle.toNat, ctag := r.ctag
              promised := (match a with | .bounded b => some (arrival + b) | _ => none), bufs := own, ext := r.ext
              wr := (back.zip tm.bufs).zipIdx.filterMap fun b => if tm.writes b.2 then some (b.1.1, gbSize b.1.2) else none }
            match (s.setInst i x).makeAll t tm.entries (setsOf tm.entries.length (streamPairs tm.entries)) back i r.param fault (List.range tm.entries.length) [] with
            | none => .refused 5
            | some (s, got) =>
              let s := (s.linkRecs got).modInst i fun x => { x with recs := got }
              .made (got.foldl (fun s x => s.admitRec x.1 x.2) s) i
def execLaunch (s : State) : Out3 :=
  match s.ev with
  | .launch _ t r =>
    .next (match s.instantiate t r false s.clock with
      | .made s _ => s
      | .refused k => s.postEntry t r.ctag (BitVec.ofNat 8 (0x80 + k)) 0 false 0)
  | _ => .next s

/-! ## Faults of tasks (R359, R361) -/

/-- A fault record reaches its tenant's queue, after every pop of the cycle (R451); with a template, it instantiates it (R359). A refused template is recorded too; the
spec states no kind for that record, so its kind is a free value. (DESIGN CHOICE, log 8.) Where several tasks of an instance fault with templates, the instance made
last is the one that its internal buffers wait for (R361). (DESIGN CHOICE, log 96.) -/
def State.deliverFault (s : State) (die idx : Nat) (t : BitVec 4) (inst : Nat) (ws : List Word) (tmpl : Option Nat) : State :=
  let i := s.inst inst
  let q := s.fqPut t ws
  match (if s.retires t then none else tmpl) with
  | none => q.1
  | some h =>
      match q.1.instantiate t { thandle := BitVec.ofNat 32 h, ctag := i.ctag, limit := 0, ext := i.ext, param := BitVec.ofNat 64 q.2 } true s.clock with
      | .made s j => s.modInst inst fun x => { x with fault := some (j + 1) }
      | .refused _ =>
        let kind := (Config.freeValue q.1.free).toNat % 256
        (State.fqPut { q.1 with free := q.1.free + 1 } t ((FRec.of kind 0 s.clock).words i.ctag.toNat idx die)).1
/-- A record of a task's fault leaves for its queue. -/
def State.postFault (s : State) (die idx : Nat) (f : FRec) : State :=
  let r := s.trec die idx
  s.atEnd (.faultRecord die idx r.tenant r.inst (f.words (s.inst r.inst).ctag.toNat idx die) (if r.ftv then some r.ftmpl else none))
/-- A fault record of the instance has not reached the queue yet. -/
def State.faultDue (s : State) (i : Nat) : Bool := s.queue.any fun e => match e.2 with | .faultRecord _ _ _ j _ _ => j == i | _ => false
/-- A pre-empted task gives up what it still held of its old tiles (R358). -/
def State.clearHusk (s : State) (die idx : Nat) (old : List Seat) : State :=
  old.foldl (fun s q => s.modTile q.tile fun t => { t with husks := t.husks.filter fun h => !(h.die == die && h.idx == idx) }) s
def RTarget.task : RTarget → Option Nat | .chan t _ _ => some t | .win t _ => some t | _ => none
/-- A target that is cancelled: entries that wait for it behind a gate are open, to its old place, or lead nowhere where it had none (R79). -/
def State.openGates (s : State) (die idx : Nat) : State :=
  let r := s.trec die idx
  let made := decide ((s.inst r.inst).recs[r.tmplEntry]? = some (die, idx))
  let named := fun (x : TRec) (l : Nat) => match s.entryOf x with
    | some e => e.routes.any fun (d : RouteDecl) => d.label == l && RTarget.task d.target == some r.tmplEntry
    | none => false
  let points := fun e : Nat => (rKind e == 1 || rKind e == 2) && rMod e == s.own && r.old.any fun q => q.tile == rTile e && (rKind e == 2 || q.ctxs.contains (rCtx e))
  (s.recsOfInst r.tenant r.inst).foldl (fun s x => x.2.2.seats.foldl (fun s q => s.modTile q.tile fun t =>
    x.2.2.labels.foldl (fun (t : Tile) l =>
      if !t.gates.contains l then t
      else if r.old.isEmpty then (if made && named x.2.2 l then { t with gates := sremove t.gates l, dead := sinsert t.dead l } else t)
      else if points (t.route (BitVec.ofNat 7 l)) then { t with gates := sremove t.gates l } else t) t) s) s
/-- A record returns to FREE and its successor list and save records with it. -/
def State.freeRec (s : State) (die idx : Nat) : State :=
  let r := s.trec die idx
  let s := (s.openGates die idx).modDie die fun d =>
    { d with succ := (List.range (r.nsucc + r.nstrm)).foldl (fun m i => mset 0 m (r.succoff + i) 0) d.succ }
  let s := (s.clearHusk die idx r.old).setRec die idx TRec.zero
  let wanted := fun p => s.recsAll.any fun x => x.2.2.st == .staging && x.2.2.tenant == r.tenant && x.2.2.pages.contains p
  s.setMoves (s.winder.moves.filter fun m => !(m.ends.isNone && m.reply.isNone && m.cls == 2 && m.tenant == r.tenant && r.pages.contains m.vpn && !wanted m.vpn))
/-- A record becomes READY; one of a failed instance is cancelled instead (R361). -/
def State.toReady (s : State) (die idx : Nat) : State :=
  if (s.inst (s.trec die idx).inst).failed then s.freeRec die idx else s.modRec die idx fun r => r.setSt .ready
def RSt.cancellable (x : RSt) : Bool := match x with | .created => true | .waiting => true | .staging => true | .ready => true | _ => false
/-- The instance fails: what has not started is cancelled, what runs goes on (R361). (DEDUCED, log 47.) -/
def State.failInst (s : State) (i : Nat) (status : BitVec 8) : State :=
  let t := (s.inst i).tenant
  let s := s.modInst i fun x => if x.failed then x else { x with failed := true, status := status }
  ((s.recsOfInst t i).filter fun x => x.2.2.st.cancellable).foldl (fun s x => s.freeRec x.1 x.2.1) s
/-- A task faults: its record is FAULTED, with the first fault's record alone, and its instance fails. (DEDUCED, log 47.) -/
def State.failTask (s : State) (die idx : Nat) (f : FRec) : State :=
  let r := s.trec die idx
  if r.st = .faulted ∨ r.st = .free then s
  else ((s.modRec die idx fun r => r.setSt .faulted).failInst r.inst (if f.kind = 7 then 2#8 else 1#8)).postFault die idx f
/-- No task of the instance is placed any longer; one that is held after its save is not. -/
def State.instIdle (s : State) (i : Nat) : Bool :=
  ((s.recsOfInst (s.inst i).tenant i).all fun x =>
    match x.2.2.st with | .retired => true | .faulted => x.2.2.seats.isEmpty | .preempted => (s.inst i).failed && x.2.2.seats.isEmpty | _ => false)
def State.instDone (s : State) (i : Nat) : Bool := (s.inst i).used && !(s.inst i).ended && s.instIdle i && !s.faultDue i
/-- Dirty near pages of external WR buffers are written down (R413). -/
def State.writeExt (s : State) (t : BitVec 4) (rs : List TRec) (own : List (Nat × Nat)) : State :=
  (rs.flatMap fun r => (List.finRange 8).flatMap fun k =>
    if bflPlace (r.bfl k) ≠ 3 ∧ bflWR (r.bfl k) ∧ !(own.any fun b => b.1 == r.baddr k) then bufPages r k else []).eraseDups.foldl (fun s p =>
      match s.mpage t p with | some m => s.writeDown m | none => s) s
/-- R361, R413: the records return to FREE, the CSP buffers and, unless the instance failed, its backings are freed; the entry is posted. (DEDUCED, log 47.) (DESIGN CHOICE, log 96.) -/
def State.completeInst (s : State) (i : Nat) : State :=
  let s := s.stretch
  let x := s.inst i
  let rs := s.recsOfInst x.tenant i
  let s := s.writeExt x.tenant (rs.map (·.2.2)) x.bufs
  let s := rs.foldl (fun s y => s.freeRec y.1 y.2.1) s
  let s := (List.range 8).foldl (fun s d =>
    let mine := (s.die d).staged.filter fun y => y.inst == i
    (mine.foldl (fun s y => s.modClus y.clus fun k => { k with regs := setReg k.regs (0x800 + 8 * y.bufd) 0 }) s).modDie d fun e =>
      { e with staged := e.staged.filter fun y => y.inst != i }) s
  let s := s.modInst i fun y => { y with ended := true, recs := [] }
  let s := s.postEntry x.tenant x.ctag (if x.failed then x.status else 0) x.code x.capped i
  let s := (s.coord.insts.filter fun y => y.2.fault == some (i + 1)).foldl (fun s y =>
    if y.2.ended then s.freeInst y.1 else s.modInst y.1 fun z => { z with fault := some 0 }) s
  if x.failed && x.fault != some 0 then s else s.freeInst i
/-- DESIGN CHOICE, log 48. -/
def execInstanceCompletion (s : State) : Out3 :=
  match s.ev with
  | .instanceCompletion i => .next (if s.instDone i then s.completeInst i else s)
  | _ => .next s

/-! ## Decrements (R347, R378, R506) -/

/-- `n` decrements of a record, as one step; one below zero posts a record and has no other effect. (DEDUCED, log 47.) -/
def State.decRec (s : State) (die idx n : Nat) (t : BitVec 4) (inst : Nat) : State :=
  let r := s.trec die idx
  if s.retires t then s.meshDrop die t
  else if r.st = .free ∨ r.tenant ≠ t ∨ r.inst ≠ inst then s.modDie die fun d => { d with regs := bumpReg d.regs 0x8d0 1 }
  else
    let s := s.setRec die idx (r.put 0 0 16 (r.cnt - n))
    let s := if r.cnt < n then (s.fqPut t ((FRec.of 5 0 s.clock).words (s.inst inst).ctag.toNat idx die)).1 else s
    if r.st = .waiting ∧ r.cnt ≤ n then s.enterStaging die idx else s
def execDecrementArrival (s : State) : Out3 :=
  match s.ev with
  | .decrementArrival d i n t inst => .next (s.decRec d i n t inst)
  | _ => .next s
/-- Decrements of a record of another module: a sync-class packet of OP 0x8 with the index, the count and the sender's instance. -/
def State.sendDec (s : State) (sdie : Nat) (src : BitVec 32) (no : BitVec 8) (t : BitVec 4) (inst m die idx n : Nat) : State :=
  s.sendPkt sdie none { Pkt.zero with
    op := 8, vn := s.vnOf t, cls := 2, tenant := t, dmod := m, ddie := die, dtgt := 0xfe, src := src, tag := no, addr := idx, attr := inst, idata := BitVec.ofNat 64 n }
/-- One decrement to each counted successor of a task on a die, in list order (R348). -/
def State.sendDecs (s : State) (die : Nat) (r : TRec) : State :=
  (s.counted die r).foldl (fun s e =>
    if eMod e = s.own then s.later (if eDie e = die then 8 else 120) (.decrementArrival (eDie e) (eTask e) 1 r.tenant r.inst)
    else s.sendDec die (agentSrc s.own die 0xfe) 0 r.tenant r.inst (eMod e) (eDie e) (eTask e) 1) s

end Sys2Proof.Machine
end

