-- ==== Sys2Proof/Machine/Place.lean ====
section
/-! DEFINITION. Placement (R79, R83, R85, R170, R176 to R179, R264, R267, R269, R272, R349 to R354, R420, R430): the tile a task goes to, the registers
that the Kiln writes, the picker of READY tasks, and the loading of images (R61 to R66, R70). -/

namespace Sys2Proof.Machine
open Sys2Proof

/-! ## Free resources of a tile -/

def Ctx.inUse (c : Ctx) : Bool := c.st != .free || c.task.isSome
def Tile.freeCtxs (t : Tile) : List (Fin 8) := allCtx.filter fun c => !(t.ctx c).inUse && !(t.husks.any fun h => h.ctxs.contains c)
def Tile.busyCtxs (t : Tile) : List Ctx := (allCtx.filter fun c => (t.ctx c).inUse).map t.ctx
def Tile.usedAccs (t : Tile) : List Nat := (t.busyCtxs.flatMap fun c => (List.range c.ag.acnt.toNat).map fun i => (c.accOf (Fin.ofNat 4 i)).val) ++ t.husks.flatMap (·.accs)
def Tile.usedStrms (t : Tile) : List Nat := (t.busyCtxs.flatMap fun c => (List.range c.ag.gcnt.toNat).map fun i => (c.strmOf (Fin.ofNat 8 i)).val) ++ t.husks.flatMap (·.strms)
def Tile.usedSlots (t : Tile) : List (Nat × Nat) := t.busyCtxs.map fun c => (c.cfg.rbase.toNat, c.cfg.rlast.toNat + 1 - c.cfg.rbase.toNat)
def Tile.usedTcm (t : Tile) : List (Nat × Nat) :=
  (t.busyCtxs.filterMap fun c => if c.tlen = 0 then none else some (c.tbase.toNat, c.tlen.toNat)) ++ t.husks.flatMap (·.tcm)
/-- The records of the tasks placed on a tile. -/
def State.recsOn (s : State) (n : Nat) : List TRec := (s.tileN n).tasks.map fun k => s.trec k.ref.die k.ref.idx
/-- Route labels and windows that the tasks placed on a tile use. (DEDUCED, log 41.) -/
def State.usedLabels (s : State) (n : Nat) : List Nat := (s.recsOn n).flatMap (·.labels)
/-- DEDUCED, log 41. -/
def State.usedWins (s : State) (n : Nat) : List Nat := (s.recsOn n).flatMap (·.wins)
def disjoint (a b : List Nat) : Bool := a.all fun x => !b.contains x

/-! ## CSP buffers that move to another cluster (R398) -/

def dieClusters (d : Nat) : List Nat := (List.range 12).map (12 * d + ·)
def dieTiles (d : Nat) : List Nat := (List.range 192).map (192 * d + ·)
/-- Free descriptors for the buffers that move, one for each descriptor that they have. -/
def newDescs (k : Cluster) : List Nat → List (Nat × Nat) → Option (List (Nat × Nat))
  | [], got => some got
  | b :: l, got =>
    if got.any (fun x => x.1 == b) then newDescs k l got
    else match (List.range 64).find? (fun d => !bitN (k.bufd d) 37 && !got.any fun x => x.2 == d) with
      | some d => newDescs k l (got ++ [(b, d)])
      | none => none
/-- A move of a CSP window whole: its clusters, its old base, its length and its new base in 64 KiB units, and the descriptors as (old, new). -/
structure CspMove where
  src : Nat
  dst : Nat
  base : Nat
  len : Nat
  to_ : Nat
  descs : List (Nat × Nat)
deriving DecidableEq, Repr
/-- Room in cluster `c` for the window over some buffers of cluster `k`: the lowest gap, and the lowest free descriptors. (DEDUCED, log 51.) -/
def State.cspMove (s : State) (k c : Nat) (bs : List Nat) : Option CspMove :=
  let w := (s.clus k).window bs
  match lowGap ((s.clus c).used.map fun u => (u.1, u.2.1)) 0 1024 w.2, newDescs (s.clus c) bs [] with
  | some u, some ds => some { src := k, dst := c, base := w.1, len := w.2, to_ := u, descs := ds }
  | _, _ => none
/-- A buffer (index, cluster, descriptor) in its new place. -/
def CspMove.entry (m : CspMove) (x : Nat × Nat × Nat) : Nat × Nat × Nat :=
  match m.descs.find? (fun d => x.2.1 == m.src && d.1 == x.2.2) with | some d => (x.1, m.dst, d.2) | none => x
/-- A descriptor at its new base: FULL, PUT and GET stay. -/
def CspMove.word (m : CspMove) (w : Word) : Word := putFld w 0 20 (nfld w.toNat 0 20 + m.to_ * 1024 - m.base * 1024)
/-- The buffers' descriptors in the new cluster. -/
def State.grantCsp (s : State) (m : CspMove) : State :=
  let k := s.clus m.src
  s.modClus m.dst fun c => { c with regs := m.descs.foldl (fun g d => setReg g (0x800 + 8 * d.2) (m.word (reg k.regs (0x800 + 8 * d.1)))) c.regs }
/-- The window's contents and its buffers as they stand pass to the new cluster, uncorrectable words with them; the old descriptors end (R398, R407). -/
def State.copyCsp (s : State) (m : CspMove) : State :=
  let p := m.base * 65536
  let q := m.to_ * 65536
  let n := m.len * 65536
  let k := s.clus m.src
  let s := (s.grantCsp m).modClus m.dst fun y => { y with
    csp := (k.csp.filter fun z => decide (p ≤ z.1 ∧ z.1 < p + n)).foldl (fun g z => setByte g (z.1 - p + q) z.2) (y.csp.filter fun z => !decide (q ≤ z.1 ∧ z.1 < q + n))
    cspBad := (badIn k.cspBad p n).foldl (fun l w => sinsert l (w - p / 8 + q / 8)) (y.cspBad.filter fun w => !decide (q ≤ 8 * w ∧ 8 * w < q + n))
    cspSoft := (badIn k.cspSoft p n).foldl (fun l w => sinsert l (w - p / 8 + q / 8)) (y.cspSoft.filter fun w => !decide (q ≤ 8 * w ∧ 8 * w < q + n)) }
  s.modClus m.src fun y => { y with regs := m.descs.foldl (fun g d => setReg g (0x800 + 8 * d.1) 0) y.regs }
/-- A staged buffer in its new place. -/
def Staged.moved (m : CspMove) (y : Staged) : Staged :=
  let e := m.entry (0, y.clus, y.bufd)
  { y with clus := e.2.1, bufd := e.2.2 }
/-- The staged buffers of a record's die, and the record, name the new place. -/
def State.renameCsp (s : State) (die idx : Nat) (m : CspMove) : State :=
  (s.modDie die fun d => { d with staged := d.staged.map (Staged.moved m) }).modRec die idx fun r => { r with csp := r.csp.map m.entry }
/-- Dies in the order of R395. -/
def migDies (d : Nat) : List Nat :=
  let a := (d + 7) % 8
  let b := (d + 1) % 8
  [a, b] ++ [0, 2, 4, 6].filter fun x => x != a && x != b

/-! ## The tile of a task (R351, R352) -/

/-- What a task needs of each of its tiles. -/
structure Need where
  nctx : Nat
  acnt : Nat
  gcnt : Nat
  tcm : Nat
  slots : Nat
  labels : List Nat
  wins : List Nat
deriving DecidableEq, Repr
def State.need (s : State) (r : TRec) : Need :=
  let e := s.entryOf r
  { nctx := (match s.imageOf r with | some i => min r.nctx i.descs.length | none => r.nctx), acnt := r.acnt, gcnt := r.gcnt, tcm := r.tcmk * 1024, slots := (match s.imageOf r with | some i => i.slots.length | none => 0)
    labels := if r.saved.isEmpty then (match e with | some e => e.routes.map (·.label) | none => []) else r.labels, wins := (match e with | some e => e.wins.map (·.idx) | none => []) }
/-- Room on a tile: the lowest free contexts, units, TCM base and slots. (DEDUCED, log 43.) -/
def State.fit (s : State) (nd : Need) (n member copy : Nat) : Option Seat :=
  let t := s.tileN n
  let cs := t.freeCtxs.take nd.nctx
  let ac := ((List.range 4).filter fun i => !t.usedAccs.contains i).take nd.acnt
  let st := ((List.range 8).filter fun i => !t.usedStrms.contains i).take nd.gcnt
  if cs.length < nd.nctx ∨ ac.length < nd.acnt ∨ st.length < nd.gcnt ∨ !disjoint nd.labels (s.usedLabels n) ∨ !disjoint nd.wins (s.usedWins n) then none
  else match lowGap t.usedTcm 0 (tcmSize n) nd.tcm, lowGap t.usedSlots 0 512 nd.slots with
    | some b, some f => some { tile := n, ctxs := cs, member := member, copy := copy, base := b, first := f, accs := ac, strms := st }
    | _, _ => none
/-- A former seat is free as it was (R433). -/
def State.refit (s : State) (nd : Need) (q : Seat) : Option Seat :=
  let t := s.tileN q.tile
  let gap := fun (u : List (Nat × Nat)) (a n : Nat) => u.all fun x => decide (x.1 + x.2 ≤ a ∨ a + n ≤ x.1)
  if q.ctxs.all (fun c => t.freeCtxs.contains c) && disjoint q.accs t.usedAccs && disjoint q.strms t.usedStrms && gap t.usedTcm q.base nd.tcm
      && gap t.usedSlots q.first nd.slots && disjoint nd.labels (s.usedLabels q.tile) && disjoint nd.wins (s.usedWins q.tile) then some q else none
/-- The quotas of a tenant allow more tiles and contexts (R417, R355). -/
def State.roomFor (s : State) (t : BitVec 4) (tiles : List Nat) (nctx : Nat) : Bool :=
  let new := tiles.filter fun n => (s.tileN n).tenantCtxs t == 0
  let onDie := fun d => (s.allTiles.filter fun x => dieOf x.1 == d && x.2.tenantCtxs t != 0).length
  decide (s.useCtxs t + tiles.length * nctx ≤ s.qCtxs t) && decide (s.useTiles t + new.length ≤ s.qTiles t)
  && (List.range 8).all fun d => (new.filter fun n => dieOf n == d).isEmpty || decide (onDie d + (new.filter fun n => dieOf n == d).length ≤ nfld (s.kten d t) 44 8)
def matchDie (r : TRec) (d : Nat) : Bool := if r.profile = 1 ∨ r.gl ∨ r.glazeForm then !isBisque d else if r.profile = 2 then isBisque d else true
def State.barFree (s : State) (c : Nat) : Option Nat := (List.range 8).find? fun n => nfld (reg (s.clus c).regs (0xa00 + 8 * n)).toNat 0 1 == 0
def State.gangIn (s : State) (c : Nat) : Bool := (List.range 16).any fun p => (s.tileN (tileAtPos c p)).tasks.any fun k => k.gang != 0
def State.clusMatch (s : State) (r : TRec) (c : Nat) : Bool :=
  (match r.csp with
   | [] => true
   | x :: _ => x.2.1 == c || (r.glazeForm && isBisque (x.2.1 / 12) && (s.cspMove x.2.1 c (r.csp.map (·.2.2))).isSome))
  && (!r.barq || (s.barFree c).isSome)
/-- The first tile of a list with room. (DEDUCED, log 43.) -/
def State.firstFit (s : State) (r : TRec) (nd : Need) (copy : Nat) : List Nat → Option Seat
  | [] => none
  | n :: l =>
    if s.domOk r.tenant n && s.clusMatch r (clusOf n) && s.roomFor r.tenant [n] nd.nctx then
      match s.fit nd n 0 copy with | some q => some q | none => s.firstFit r nd copy l
    else s.firstFit r nd copy l
def allSome : List (Option Seat) → Option (List Seat)
  | [] => some []
  | none :: _ => none
  | some a :: l => (allSome l).map (a :: ·)
/-- A cluster for a gang: no gang in it, and its positions 0 to GANG free of any task. (DEDUCED, log 43.) -/
def State.gangFit (s : State) (r : TRec) (nd : Need) (copy : Nat) : List Nat → Option (List Seat)
  | [] => none
  | c :: l =>
    let ts := (List.range (r.gang + 1)).map fun p => tileAtPos c p
    if s.clusMatch r c && !s.gangIn c && ts.all (fun n => s.domOk r.tenant n && (s.tileN n).busyCtxs.isEmpty && (s.tileN n).husks.isEmpty) && s.roomFor r.tenant ts nd.nctx then
      match allSome (ts.zipIdx.map fun x => s.fit nd x.1 x.2 copy) with | some q => some q | none => s.gangFit r nd copy l
    else s.gangFit r nd copy l
/-- The seats of one copy of a task in some clusters: the first tile with room, or the first cluster for a gang. -/
def State.copyFit (s : State) (r : TRec) (nd : Need) (copy : Nat) (cs : List Nat) : Option (List Seat) :=
  if r.gang ≠ 0 then s.gangFit r nd copy cs
  else match cs with
    | [] => none
    | c :: _ => (s.firstFit r nd copy ((dieTiles (c / 12)).filter fun n => cs.contains (clusOf n))).map fun q => [q]
/-- New seats of a task on a die, within one cluster when `only` names it. -/
def State.newSeats (s : State) (d : Nat) (r : TRec) (only : Option Nat) : Option (List Seat) :=
  let nd := s.need r
  if !matchDie r d then none
  else
    match s.copyFit r nd 0 ((dieClusters d).filter fun c => only.all (· == c)) with
    | none => none
    | some qs =>
      if !r.twin then some qs
      else match s.copyFit { r with csp := [] } nd 1 ((dieClusters d).filter fun c => !(qs.any fun q => clusOf q.tile == c)) with
        | some ps => if s.roomFor r.tenant ((qs ++ ps).map (·.tile)) nd.nctx then some (qs ++ ps) else none
        | none => none
/-- The seats of a task of a die: its former ones, on whatever die they are, where they are free as they were; else new ones on its die, for a Glaze-form image
of a Bisque die in the order in which a migration tries the dies (R395, R433). (DEDUCED, log 51.) -/
def State.seatsFor (s : State) (d : Nat) (r : TRec) (only : Option Nat) : Option (List Seat) :=
  let nd := s.need r
  let again := r.old.all (fun q => matchDie r (dieOf q.tile) && only.all (· == clusOf q.tile) && s.domOk r.tenant q.tile && s.clusMatch r (clusOf q.tile) && (s.refit nd q).isSome)
    && s.roomFor r.tenant (r.old.map (·.tile)) nd.nctx && (r.gang == 0 || !(r.old.any fun q => s.gangIn (clusOf q.tile)))
  if !r.old.isEmpty && again then some r.old
  else (if r.glazeForm && isBisque d then migDies d else [d]).findSome? fun d => s.newSeats d r only
/-- The CSP buffers of a saved task that is restored in another cluster move there. -/
def State.followCsp (s : State) (die idx : Nat) (qs : List Seat) : Option State :=
  match (s.trec die idx).csp, qs with
  | x :: l, q :: _ =>
    if x.2.1 = clusOf q.tile then some s
    else (s.cspMove x.2.1 (clusOf q.tile) ((x :: l).map (·.2.2))).map fun m => (s.copyCsp m).renameCsp die idx m
  | _, _ => some s

/-! ## What the Kiln writes (R352) -/

def descFirst (d : Word) : Nat := nfld d.toNat 0 9
def descLast (d : Word) : Nat := nfld d.toNat 9 9
def descSucc (d : Word) : Nat := nfld d.toNat 18 3
def descHen (d : Word) : Bool := bitN d.toNat 21
def descShadow (d : Word) : Bool := bitN d.toNat 22
def descHmask (d : Word) : BitVec 16 := d.extractLsb' 24 16
/-- CTXCFG of a context of a seat (R83). A SUCC index at or above NCTX gives 0; HEN is 0 then. (DESIGN CHOICE, log 86.) -/
def seatCfg (q : Seat) (d : Word) : CtxCfg :=
  { rbase := BitVec.ofNat 9 (q.first + descFirst d), rlast := BitVec.ofNat 9 (q.first + descLast d),
    succ := BitVec.ofNat 3 ((q.ctxs.getD (descSucc d) 0).val), hen := descHen d, hmask := descHmask d, srot := BitVec.ofNat 9 (q.first + descFirst d) }
def seatAg (r : TRec) (q : Seat) : AgMap :=
  { amap := BitVec.ofNat 8 (sumL (q.accs.zipIdx.map fun x => at_ (2 * x.2) x.1)), acnt := BitVec.ofNat 3 r.acnt,
    gmap := BitVec.ofNat 24 (sumL (q.strms.zipIdx.map fun x => at_ (3 * x.2) x.1)), gcnt := BitVec.ofNat 4 r.gcnt }
/-- QUOTA of a task on a die (R355). -/
def State.quotaOf (s : State) (die : Nat) (r : TRec) : BitVec 20 :=
  let cw := match r.dclass with | 0 => 1024 | 1 => 768 | 2 => 512 | _ => 128
  BitVec.ofNat 20 (cw * nfld (s.kten die r.tenant) 0 4 / 16)
/-- Registers at the start of a context: the launch parameters preloaded where it starts in RUNNING (R346). (DEDUCED, log 44.) -/
def startRegs (r : TRec) (shadow : Bool) : Regs :=
  let g := Regs.start r.seed
  if shadow then g
  else
    let g := if 1 ≤ r.pcnt then g.setS 30 r.w[5] false else g
    if r.pcnt = 2 then g.setS 31 r.w[6] false else g
def mhBinds (m : BitVec 16) : Vector IBind 16 :=
  Vector.ofFn fun i : Fin 16 => if m.getLsbD i.val then { bv := true, gen := 0, mh := true, src := 0 } else IBind.zero
/-- A context as the Kiln sets it; it stays FREE until its image is loaded. -/
def State.seatCtx (s : State) (die idx : Nat) (r : TRec) (q : Seat) (d : Word) : Ctx :=
  { Ctx.zero with
    cfg := seatCfg q d, regs := startRegs r (descShadow d), ib := mhBinds r.mhmask, tbase := BitVec.ofNat 18 q.base, tlen := BitVec.ofNat 19 (r.tcmk * 1024),
    quota := s.quotaOf (dieOf q.tile) r, left := s.quotaOf (dieOf q.tile) r, ag := seatAg r q, task := some ⟨die, idx, q.member, q.copy⟩, tenant := r.tenant }
def routeWord (kind vn mod die tile ctx chan gen circ : Nat) : Word :=
  BitVec.ofNat 64 (kind + at_ 2 vn + at_ 5 mod + at_ 17 die + at_ 20 tile + at_ 28 ctx + at_ 31 chan + at_ 35 gen + at_ 37 circ)
def Tile.setRoute (t : Tile) (l : Nat) (w : Word) : Tile := { t with r := { t.r with routes := setReg t.r.routes l w } }
def Tile.gate (t : Tile) (l : Nat) : Tile := { t with gates := sinsert t.gates l }
def Tile.ungate (t : Tile) (l : Nat) : Tile := { t with gates := sremove t.gates l, dead := sremove t.dead l }
/-- The seat that a declared target names, when that task is placed: its first member or copy. (DESIGN CHOICE, log 86.) -/
def State.targetSeat (s : State) (inst task : Nat) : Option Seat :=
  match (s.inst inst).recs[task]? with
  | some x => (match (s.trec x.1 x.2).st with
    | .free => none | _ => if (s.trec x.1 x.2).saved.isEmpty && (s.trec x.1 x.2).sv == 0 then (s.trec x.1 x.2).seats.head? else none)
  | none => none
/-- A declared target has retired or been cancelled, so that it is never placed again. -/
def State.targetGone (s : State) (inst : Nat) (d : RouteDecl) : Bool :=
  match RTarget.task d.target with
  | some k => (match (s.inst inst).recs[k]? with | some x => (match (s.trec x.1 x.2).st with | .free => true | .retired => true | .faulted => true | _ => false) | none => true)
  | none => false
/-- The entry of a declaration, and whether it is complete (R79). (DESIGN CHOICE, log 86.) -/
def State.declWord (s : State) (r : TRec) (d : RouteDecl) : Word × Bool :=
  let vn := s.vnOf r.tenant
  match d.target with
  | .opn => (0, true)
  | .mem m => if m.getD s.own ≠ s.own ∧ s.sliced r.tenant then (0, true) else (routeWord 3 vn (m.getD s.own) 0 0 0 0 0 d.circ, true)
  | .chan task c ch =>
    match s.targetSeat r.inst task with
    | some q =>
      let x := q.ctxs.getD c 0
      (routeWord 1 vn s.own (dieOf q.tile) (tileIn q.tile) x.val ch ((((s.tileN q.tile).ctx x).ib[(Fin.ofNat 16 ch : Chan)]).gen.toNat) d.circ, true)
    | none => (routeWord 1 vn s.own 0 0 0 ch 0 d.circ, false)
  | .win task w =>
    match s.targetSeat r.inst task with
    | some q => (routeWord 2 vn s.own (dieOf q.tile) (tileIn q.tile) 0 w 0 d.circ, true)
    | none => (routeWord 2 vn s.own 0 0 0 w 0 d.circ, false)
def State.writeDecl (s : State) (r : TRec) (n : Nat) (d : RouteDecl) : State :=
  let w := s.declWord r d
  let gone := s.targetGone r.inst d
  s.modTile n fun t => let t := (t.setRoute d.label w.1).ungate d.label; if w.2 then t else if gone then { t with dead := sinsert t.dead d.label } else t.gate d.label
/-- Declarations of placed tasks of the instance that name a task just placed are completed. -/
def State.completeDecls (s : State) (inst : Nat) (t : BitVec 4) (task : Nat) : State :=
  (s.recsOfInst t inst).foldl (fun s x =>
    match s.entryOf x.2.2 with
    | some e => (e.routes.filter fun d => RTarget.task d.target == some task).foldl (fun s d => x.2.2.seats.foldl (fun s q =>
        if (s.tileN q.tile).gates.contains d.label then s.writeDecl x.2.2 q.tile d else s) s) s
    | none => s) s
/-- Windows a task declares (R79, R179). WLEN has 12 bits and counts units of 64 bytes: of a window of 262,144 bytes, the longest that R79 allows, it covers all but
the last 64. (DESIGN CHOICE, log 97.) -/
def winWord (owner : Fin 8) (t : BitVec 4) (d : WinDecl) : Word :=
  BitVec.ofNat 64 (1 + at_ 1 owner.val + at_ 4 t.toNat + at_ 8 (d.off / 64) + at_ 20 (min 4095 (d.bytes / 64)))
/-- CSPW and BMAP of a task in its cluster (R258). -/
def bmapWord (csp : List (Nat × Nat × Nat)) (bar : Option Nat) : Word :=
  BitVec.ofNat 64 (sumL (csp.map fun x => at_ (7 * x.1) (64 + x.2.2)) + (match bar with | some b => at_ 56 1 + at_ 57 b | none => 0))
def cspwWord (w : Nat × Nat) (t : BitVec 4) : Word := BitVec.ofNat 64 (w.1 + at_ 10 w.2 + at_ 21 t.toNat)
/-- NGRANT of a gang member: each queue whose sender is a member goes to its context of image index 0 (R267). (DEDUCED, log 43.) -/
def grantWord (r : TRec) (q : Seat) : Word :=
  BitVec.ofNat 64 (sumL ((List.finRange 4).map fun d => if posOf (neighbour q.tile d) ≤ r.gang then at_ (4 * d.val) (8 + (q.ctxs.headD 0).val) else 0))
/-- The registers of one seat. (DESIGN CHOICE, log 86.) -/
def State.writeSeat (s : State) (die idx : Nat) (r : TRec) (img : Image) (csp : List (Nat × Nat × Nat)) (bar : Option Nat) (q : Seat) : State :=
  let e := s.entryOf r
  let k := clusOf q.tile
  let s := s.modTile q.tile fun t =>
    let t := (q.ctxs.zipIdx).foldl (fun t x => t.setCtx x.1 (s.seatCtx die idx r q (img.descs.getD x.2 0))) t
    let t := q.accs.foldl (fun t a => t.setAcc (Fin.ofNat 4 a) Acc.zero) t
    let t := q.strms.foldl (fun t g => t.setStrm (Fin.ofNat 8 g) Strm.zero) t
    let t : Tile := match e with
      | some e => e.wins.foldl (fun (t : Tile) d => { t with r := { t.r with win := setReg t.r.win d.idx (winWord (q.ctxs.getD d.ctx 0) r.tenant d) } }) t
      | none => t
    { t with tasks := t.tasks ++ [{ ref := ⟨die, idx, q.member, q.copy⟩, bleft := r.bound, debug := r.debug, priv := r.priv, gang := r.gang, otok := [], pend := [], mmr := 0 }] }
  let w := (s.clus k).window (csp.map (·.2.2))
  let s := s.modClus k fun c => { c with regs := q.ctxs.foldl (fun m x =>
    setReg (setReg m (0x10 * (8 * posOf q.tile + x.val)) (cspwWord w r.tenant)) (0x10 * (8 * posOf q.tile + x.val) + 8) (bmapWord csp bar)) c.regs }
  if r.gang = 0 then s else s.modClus k fun c => { c with regs := setReg c.regs (0xa40 + 8 * posOf q.tile) (grantWord r q) }
/-- An image in the rule-image cache of a die, used now: what it displaces is what was used longest ago (R5, R70). (DESIGN CHOICE, log 93.) -/
def rcacheUse (l : List (Nat × Nat × Nat)) (x : Nat × Nat × Nat) : List (Nat × Nat × Nat) :=
  let l := l.filter fun y => y.1 != x.1
  let keep := (List.range (l.length + 1)).find? fun k => decide (sumL ((l.drop k).map (·.2.1)) + x.2.1 ≤ 2 * 2 ^ 20)
  l.drop (keep.getD l.length) ++ [x]
/-- The load of a seat's image is begun: the fetch into the die's rule-image cache where the image is not there, then the loader's cycles (R70).
(DESIGN CHOICE, log 93.) The image of a twin's second copy follows the copies of its buffers (R274). -/
def State.loadImage (s : State) (r : TRec) (img : Image) (from_ : Nat) (q : Seat) : State :=
  let d := dieOf q.tile
  let n := 16 * img.slots.length
  let at1 := match (s.die d).rcache.find? (fun x => x.1 == img.handle) with | some x => x.2.2 | none => s.clock + homeS d 0 + ceilDiv n 128
  let s := s.modDie d fun x => { x with rcache := rcacheUse x.rcache (img.handle, n, at1) }
  s.later (max at1 from_ - s.clock + (img.slots.length + 3) / 4 + 2)
    (.ruleImageLoad q.tile (q.ctxs.headD 0) q.first img.slots.length img.slots img.profile r.priv r.mhmask none)
/-- The private buffers of the second copy of a twin task, with the first's contents (R182). (DEDUCED, log 44.) -/
def State.twinBufs (s : State) (r : TRec) : List (Fin 8) → Option (State × List (Nat × Nat))
  | [] => some (s, [])
  | k :: l =>
    if bflPlace (r.bfl k) = 3 ∨ !bflWR (r.bfl k) then s.twinBufs r l
    else match s.takeArena r.tenant (r.bsize k * 1024) with
      | none => none
      | some (s, a) =>
        let s := match s.hostAt r.tenant a (r.bsize k * 1024) 1 with | .ok seg => s.physWrite seg (s.vaBytes r.tenant (r.baddr k) (r.bsize k * 1024)) | _ => s
        let s := s.modInst r.inst fun i => { i with bufs := i.bufs ++ [(a, r.bsize k * 1024)], wr := i.wr ++ [(a, r.bsize k * 1024)] }
        (s.twinBufs r l).map fun x => (x.1, (k.val, a) :: x.2)
/-- A record whose WR buffers are the second copy's. -/
def TRec.second (r : TRec) : TRec :=
  r.twinB.foldl (fun r x => { r with w := if h : 8 + x.1 < 16 then r.w.set (8 + x.1) (putFld r.w[8 + x.1] 0 48 x.2) else r.w }) r
/-- Seats of a task are taken and written: registers, routes, and the load of the image (R343: PLACED). (DEDUCED, log 44.) -/
def State.place (s : State) (die idx : Nat) (qs : List Seat) : Option State :=
  match s.followCsp die idx qs with
  | none => none
  | some s =>
  let r := s.trec die idx
  match s.imageOf r with
  | none => none
  | some img =>
    let bars := if r.barq then ((qs.map fun q => clusOf q.tile).eraseDups).map fun k => (k, s.barFree k) else []
    let s := bars.foldl (fun s x => match x.2 with
      | some b => s.modClus x.1 fun c => { c with regs := setReg c.regs (0xa00 + 8 * b) (BitVec.ofNat 64 (1 + at_ 1 r.tenant.toNat + at_ 5 r.bexp)) }
      | none => s) s
    let two := if r.twin && r.twinB.isEmpty && r.saved.isEmpty then s.twinBufs r (List.finRange 8) else some (s, r.twinB)
    match two with
    | none => none
    | some (s, tb) =>
      let s := s.modRec die idx fun r => { r with twinB := tb }
      let r := s.trec die idx
      let sec := if r.twin && !r.csp.isEmpty then
          (match qs.find? (fun q => q.copy == 1) with | some p => s.stageIn die r.second (clusOf p.tile) r.cspBufs | none => none) else some (s, [], [])
      match sec with
      | none => none
      | some (s, csp2, cps) =>
        let s := cps.foldl (fun s kk => match csp2.find? (fun x => x.1 == kk.val) with
          | some x => (s.cspCopy r.tenant x.2.1 x.2.2 (r.second.baddr kk) (r.bsize kk * 1024)).later
              (((s.die die).stagedAt x.2.1 x.2.2).elim 0 fun y => y.ends - s.clock) (.cspStagingCopy die idx kk)
          | none => s) s
        let from_ := maxL (csp2.map fun x => ((s.die die).stagedAt x.2.1 x.2.2).elim 0 fun y => if y.done then 0 else y.ends)
        let s := qs.foldl (fun s q => s.writeSeat die idx r img (if q.copy = 0 then r.csp else csp2) ((bars.find? fun x => x.1 == clusOf q.tile).bind (·.2)) q) s
        let nd := s.need r
        let s := s.modRec die idx fun r => { (r.setSt .placed) with seats := qs, since := s.clock, labels := nd.labels, wins := nd.wins }
        let s := qs.foldl (fun s q => match s.entryOf r with | some e => e.routes.foldl (fun s d => s.writeDecl r q.tile d) s | none => s) s
        let s := if r.saved.isEmpty ∧ (s.inst r.inst).recs[r.tmplEntry]? = some (die, idx) then s.completeDecls r.inst r.tenant r.tmplEntry else s
        some (qs.foldl (fun s q => s.loadImage r img (if q.copy = 0 then 0 else from_) q) s)

/-! ## Stream-joined sets (R349) -/

def joined (es : List (Nat × Nat)) : Nat → List Nat → List Nat
  | 0, l => l
  | k + 1, l => joined es k (es.foldl (fun l e => if l.contains e.1 ∧ !l.contains e.2 then l ++ [e.2] else if l.contains e.2 ∧ !l.contains e.1 then l ++ [e.1] else l) l)
/-- The set of a task that is placed for the first time: the records of the die that stream edges join to it. A saved task is restored for itself (R433). -/
def State.streamSet (s : State) (die idx : Nat) : List Nat :=
  let r := s.trec die idx
  if !r.saved.isEmpty then [idx] else
  let es := ((s.recsOfInst r.tenant r.inst).filter fun x => x.1 == die).flatMap fun x => (s.streamed die x.2.2).map fun e => (x.2.1, eTask e)
  joined es es.length [idx]
/-- Bind one stream edge between placed tasks; none where the producer's tile has no label left. (DEDUCED, log 41.) -/
def State.bindStream (s : State) (die pi : Nat) (e : Word) : Option State :=
  let p := s.trec die pi
  let c := s.trec die (eTask e)
  match p.seats.head?, c.seats.head? with
  | some pq, some cq =>
    let px := pq.ctxs.getD (nfld e.toNat 18 3) 0
    let cx := cq.ctxs.getD (nfld e.toNat 25 3) 0
    let pe : Chan := Fin.ofNat 16 (nfld e.toNat 21 4)
    let ci : Chan := Fin.ofNat 16 (nfld e.toNat 28 4)
    match ((List.range 128).reverse).find? (fun l => !(s.usedLabels pq.tile).contains l) with
    | none => none
    | some l =>
      let s := s.modTile pq.tile fun t => (t.setRoute l (routeWord 1 (s.vnOf p.tenant) s.own (dieOf cq.tile) (tileIn cq.tile) cx.val ci.val 0 0)).modCtx px fun x =>
        { x with eb := x.eb.set pe { bv := true, label := BitVec.ofNat 7 l, cred := 8 } }
      let s := s.modTile cq.tile fun t => t.modCtx cx fun x =>
        { x with ib := x.ib.set ci { bv := true, gen := 0, mh := c.mhmask.getLsbD ci.val, src := mkSrc s.own pq.tile px pe } }
      some (s.modRec die pi fun r => { r with labels := r.labels ++ [l] })
  | _, _ => some s
/-- Place every member of a set, or none. -/
def State.placeAll (s : State) (die : Nat) (only : Option Nat) : List Nat → Option State
  | [] => some s
  | i :: l =>
    match s.seatsFor die (s.trec die i) only with
    | none => none
    | some qs => match s.place die i qs with | none => none | some s => s.placeAll die only l
def firstSome {α : Type} : List (Option α) → Option α
  | [] => none
  | some a :: _ => some a
  | none :: l => firstSome l
/-- Bind the stream edges of a producer that has no saved state. -/
def State.bindTask (s : State) (die i : Nat) : Option State :=
  let r := s.trec die i
  if r.saved.isEmpty then (s.streamed die r).foldl (fun s e => s.bind fun s => s.bindStream die i e) (some s) else some s
/-- Place a set in one cluster where possible, otherwise on the die, and bind its edges. -/
def State.placeSet (s : State) (die : Nat) (set : List Nat) : Option State :=
  let r := match set with
    | [i] => s.placeAll die none [i]
    | _ => match firstSome ((dieClusters die).map fun c => s.placeAll die (some c) set) with | some t => some t | none => s.placeAll die none set
  set.foldl (fun s i => s.bind fun s => s.bindTask die i) r

/-! ## The picker of READY tasks (R353, R354) -/

def keyTP (t p : Nat) : Nat := 4 * t + p
def Die.readyAt (d : Die) (p t : Nat) : List (Nat × TRec) :=
  d.recs.filter fun x => x.2.st == .ready && !x.2.held && x.2.dclass == p && x.2.tenant.toNat == t
/-- The head of a ready queue: the lowest sequence. (DEDUCED, log 40.) -/
def headOf (l : List (Nat × TRec)) : Option (Nat × TRec) := firstBy (fun a b => decide (a.2.seq ≤ b.2.seq)) l
def rotFrom (start n : Nat) : List Nat := (List.range n).map fun i => (start + i) % n
/-- DEDUCED, log 40. -/
def TRec.cost (r : TRec) : Nat := (r.gang + 1) * min r.bound (2 ^ 20)
/-- The head of queue `q` of a tenant at a priority may be placed with its set, if resources are free: its record. (DEDUCED, log 40.) -/
def State.headMay (s : State) (die p t q : Nat) : Option Nat :=
  match headOf (((s.die die).readyAt p t).filter fun x => x.2.hwq == q) with
  | none => none
  | some (i, _) =>
    let set := s.streamSet die i
    let df := mget 0 (s.die die).deft (keyTP t p)
    if (set.all fun j => (s.trec die j).st == .ready && !(s.trec die j).held)
        && (decide (sumL (set.map fun j => (s.trec die j).cost) ≤ df) || decide (2 ^ 25 ≤ df)) then some i else none
/-- A task is placed with its set, and its tenant's DEF pays for it. -/
def State.placePaid (s : State) (die i : Nat) : Option State :=
  let r := s.trec die i
  let set := s.streamSet die i
  let t := r.tenant.toNat
  (s.placeSet die set).map fun u => u.modDie die fun d => { d with
    deft := mset 0 d.deft (keyTP t r.dclass) (mget 0 d.deft (keyTP t r.dclass) - sumL (set.map fun j => (s.trec die j).cost)),
    lastT := mset 0 d.lastT r.dclass ((t + 1) % 16), lastQ := mset 0 d.lastQ (keyTP t r.dclass) ((r.hwq + 1) % 16) }
/-- Try the queues of a tenant at a priority, in rotation: the state with a set placed. (DEDUCED, log 40.) -/
def State.tryQueues (s : State) (die p t : Nat) (qs : List Nat) : Option State :=
  qs.findSome? fun q => (s.headMay die p t q).bind (s.placePaid die)
/-- The tenants at a priority, in rotation. (DEDUCED, log 40.) -/
def State.tryTenants (s : State) (die p : Nat) : List Nat → State × Bool
  | [] => (s, false)
  | t :: l =>
    if ((s.die die).readyAt p t).isEmpty || !s.mayRun (BitVec.ofNat 4 t) || nfld (s.kten die (BitVec.ofNat 4 t)) 0 4 == 0 then s.tryTenants die p l
    else
      let sh := nfld (s.kten die (BitVec.ofNat 4 t)) 0 4
      let s := s.modDie die fun d => { d with deft := mset 0 d.deft (keyTP t p) (min (mget 0 d.deft (keyTP t p) + sh * 65536) (2 ^ 25)) }
      match s.tryQueues die p t (rotFrom (mget 0 (s.die die).lastQ (keyTP t p)) 16) with
      | some s => (s, true)
      | none => s.tryTenants die p l
/-- The first class-0 task, in the picker's order, that may be placed at the head of its queue while only a free resource of a tile is missing (R358).
(DEDUCED, log 40.) -/
def State.roomless (s : State) (die : Nat) : Option Nat :=
  (rotFrom (mget 0 (s.die die).lastT 0) 16).findSome? fun t =>
    if s.mayRun (BitVec.ofNat 4 t) && nfld (s.kten die (BitVec.ofNat 4 t)) 0 4 != 0 then
      (rotFrom (mget 0 (s.die die).lastQ (keyTP t 0)) 16).findSome? fun q => (s.headMay die 0 t q).bind fun i =>
        let r := s.trec die i
        if (s.placeSet die (s.streamSet die i)).isNone && matchDie r die
            && (dieTiles die).any fun n => s.domOk r.tenant n && s.roomFor r.tenant [n] r.nctx then some i else none
    else none
/-- A tenant whose queues at a priority are all empty has no DEF there (R354). -/
def State.dropDefs (s : State) (die : Nat) : State :=
  s.modDie die fun d => { d with deft := d.deft.filter fun x => !(d.readyAt (x.1 % 4) (x.1 / 4)).isEmpty }
def State.tryPrio (s : State) (die : Nat) : List Nat → State
  | [] => s
  | p :: l =>
    let r := s.tryTenants die p (rotFrom (mget 0 (s.die die).lastT p) 16)
    if r.2 then r.1
    else
      let want := p == 0 && (r.1.die die).pre.isNone && (r.1.roomless die).isSome
      (if want then r.1.push [.class0Preemption die] else r.1).tryPrio die l
/-- DEDUCED, log 40. -/
def execPlacementDecision (s : State) : Out3 := match s.ev with | .placementDecision d => .next ((s.dropDefs d).tryPrio d [0, 1, 2, 3]) | _ => .next s

/-! ## Loading (R61 to R66, R70, R85) -/

/-- The task that a reserved or used context serves. -/
def State.recAt (s : State) (n : Nat) (c : Fin 8) : Option (TRef × TRec) := ((s.tileN n).ctx c).task.map fun r => (r, s.trec r.die r.idx)
/-- What the loader checks a slot against (R61). -/
def State.loadEnv (s : State) (n : Nat) (c : Fin 8) (priv : Bool) (mh : BitVec 16) (profile : BitVec 2) : LoadEnv :=
  let x := (s.tileN n).ctx c
  let bm := (s.bmap n c).toNat
  let tiles := match s.recAt n c with | some r => r.2.gang + 1 | none => 1
  let grant := fun (m : Nat) (d : Fin 4) => nfld (reg (s.clus (clusOf m)).regs (0xa40 + 8 * posOf m)).toNat (4 * d.val) 4
  let mine := fun (m : Nat) (d : Fin 4) => decide (8 ≤ grant m d) && match x.task with
    | some r => (match ((s.tileN m).ctx (Fin.ofNat 8 (grant m d % 8))).task with | some q => sameRec r q | none => false)
    | none => m == n && grant m d % 8 == c.val
  { priv := priv, mhmask := mh, acnt := x.ag.acnt.toNat, gcnt := x.ag.gcnt.toNat, bufv := BitVec.ofNat 8 (bitsOf ((List.range 8).map fun i => bitN bm (7 * i + 6))),
    barv := bitN bm 56, nsendOk := BitVec.ofNat 4 (bitsOf ((List.finRange 4).map fun d => mine (neighbour n d) (opp d))),
    nrecvOk := BitVec.ofNat 4 (bitsOf ((List.finRange 4).map fun d => mine n d)), bisqueImage := profile == 2, tiles := tiles }
/-- The first check that fails, with its slot. (DEDUCED, log 11.) -/
def loadCheck (env : LoadEnv) (bad : Option Nat) : Nat → List SlotWord → Option (Nat × Nat)
  | _, [] => none
  | i, x :: l =>
    match slotCheck env x with
    | some k => some (i, k)
    | none => if bad = some i then some (i, 0x0e) else loadCheck env bad (i + 1) l
/-- The slot and the code of a refusal. -/
def loadRefusal (env : LoadEnv) (bisque : Bool) (room : Nat) (profile : BitVec 2) (bad : Option Nat) (slots : List SlotWord) : Option (Nat × Nat) :=
  if room < slots.length ∨ profile = 3 ∨ (profile = 1 ∧ bisque = true) ∨ (profile = 2 ∧ bisque = false) then some (0, 0x0d)
  else loadCheck env bad 0 slots
/-- Write the slots, with migrate marks on a Bisque tile. -/
def Tile.putSlots (t : Tile) (first : Nat) (bisque : Bool) (slots : List SlotWord) : Tile :=
  let keep := fun k : Nat => !decide (first ≤ k ∧ k < first + slots.length)
  { t with
    store := slots.zipIdx.foldl (fun m x => mset 0 m (first + x.2) x.1) t.store
    badslots := t.badslots.filter keep
    marks := t.marks.filter keep ++ (slots.zipIdx.filterMap fun x =>
      if bisque && (match slotRule x.1 with | some r => r.op.glazeOnly | none => false) then some (first + x.2) else none) }
/-- The data section and the TCM buffers are copied, the rest of the allocation is cleared (R85, R350). -/
def State.tcmImage (s : State) (r : TRec) (img : Image) (copy : Nat) : List Byte :=
  let r := if copy = 0 then r else r.second
  let n := r.tcmk * 1024
  let bufs := (List.finRange 8).flatMap fun k => if bflPlace (r.bfl k) = 0 ∧ r.bsize k ≠ 0 then s.vaBytes r.tenant (r.baddr k) (r.bsize k * 1024) else []
  padB n ((padB (ceilDiv img.data.length 1024 * 1024) img.data ++ bufs).take n)
/-- Resources of a seat return (R66, R143, R170, R179, R272). -/
def Tile.clearSeat (t : Tile) (r : TRec) (q : Seat) : Tile :=
  let rng := q.ctxs.map fun c => ((t.ctx c).cfg.rbase.toNat, (t.ctx c).cfg.rlast.toNat)
  let t := q.ctxs.foldl (fun t c => t.setCtx c Ctx.zero) t
  let t := q.accs.foldl (fun t a => t.setAcc (Fin.ofNat 4 a) Acc.zero) t
  let t := q.strms.foldl (fun t g => t.setStrm (Fin.ofNat 8 g) Strm.zero) t
  let t : Tile := { t with r := { t.r with win := r.wins.foldl (fun m i => setReg m i 0) t.r.win } }
  let t : Tile := if r.gang = 0 then t else { t with nq := Vector.replicate 4 [], nqBad := [], ncred := Vector.replicate 4 8, nlink := Vector.replicate 4 [], panels := [] }
  { t with marks := t.marks.filter fun k => !(rng.any fun x => decide (x.1 ≤ k ∧ k ≤ x.2)), gates := t.gates.filter (fun l => !r.labels.contains l), dead := t.dead.filter fun l => !r.labels.contains l,
           fwd := t.fwd.filter fun f => !(q.ctxs.any fun c => f.1 / 32 == c.val || f.2 == c.val + 1),
           ops := t.ops.filter fun o => !q.ctxs.contains o.ctx, copies := t.copies.filter (fun c => !q.ctxs.contains c.ctx), away := t.away.filter fun a => !q.ctxs.contains a.ctx }
def State.clearSeat (s : State) (die idx : Nat) (r : TRec) (q : Seat) : State :=
  let k := clusOf q.tile
  let bm := (s.bmap q.tile (q.ctxs.headD 0)).toNat
  let s := (s.tileN q.tile).ops.foldl (fun s o => match o.act with
    | .claim b _ _ wr slot _ => if q.ctxs.contains o.ctx then s.claimDone q.tile b wr slot else s | _ => s) s
  let s := s.modTile q.tile fun t => { (t.clearSeat r q) with tasks := t.tasks.filter fun x => !(x.ref.die == die && x.ref.idx == idx) }
  s.modClus k fun c =>
    let m := q.ctxs.foldl (fun m x => setReg (setReg m (0x10 * (8 * posOf q.tile + x.val)) 0) (0x10 * (8 * posOf q.tile + x.val) + 8) 0) c.regs
    let bar := 0xa00 + 8 * nfld bm 57 3
    let m := if bitN bm 56 then setReg m bar (putFld (reg m bar) 0 1 0) else m
    { c with regs := if r.gang = 0 then m else setReg m (0xa40 + 8 * posOf q.tile) 0 }
/-- A load that is still to come for one of the seats. -/
def Ev.loadsSeat (qs : List Seat) : Ev → Bool
  | .ruleImageLoad n c _ _ _ _ _ _ _ => qs.any fun q => q.tile == n && q.ctxs.contains c
  | _ => false
/-- A task gives up its tiles. -/
def State.unplace (s : State) (die idx : Nat) : State :=
  let r := s.trec die idx
  let s := { s with queue := s.queue.filter fun x => !Ev.loadsSeat r.seats x.2 }
  (r.seats.foldl (fun s q => s.clearSeat die idx r q) s).modRec die idx fun r => { r with seats := [], labels := if r.saved.isEmpty then [] else r.labels, wins := if r.saved.isEmpty then [] else r.wins }
/-- Contexts of a seat leave FREE together (R343, R394, R433). -/
def State.startSeat (s : State) (r : TRec) (img : Image) (q : Seat) : State :=
  s.modTile q.tile fun t => q.ctxs.zipIdx.foldl (fun t x => t.modCtx x.1 fun c =>
    { c with st := if !r.saved.isEmpty then .saved else if descShadow (img.descs.getD x.2 0) then .shadow else .running }) t
/-- The seat of a task on a tile: where it is placed, or where it migrates to. -/
def State.seatOn (s : State) (rf : TRef) (n : Nat) : Option Seat :=
  match (s.trec rf.die rf.idx).seats.find? (fun q => q.tile == n) with
  | some q => some q
  | none => (s.winder.migs.flatMap fun m => if m.die == rf.die && m.idx == rf.idx then m.dst else []).find? fun q => q.tile == n
/-- A loaded image starts its task, or begins the restore of a saved one, or waits for the Shuttle. -/
def State.loaded (s : State) (rf : TRef) (img : Image) (q : Seat) : State :=
  let r := s.trec rf.die rf.idx
  if r.st = .migrating then s.modTile q.tile fun t => q.ctxs.foldl (fun t c => t.modCtx c fun x => { x with st := .migrating }) t else
  let s := s.startSeat r img q
  if r.saved.isEmpty then
    let s := s.modTile q.tile fun t => t.tcmWr q.base (s.tcmImage r img q.copy)
    if q.copy = 0 ∧ q.member = 0 then s.modRec rf.die rf.idx fun r => r.setSt .running else s
  else if q.copy = 0 ∧ q.member = 0 then
    let n := ceilDiv (maxL (r.saved.map (·.2))) 128
    (s.modRec rf.die rf.idx fun r => { r with svEnd := s.clock + n }).later n (.taskRestoreComplete rf.die rf.idx)
  else s
/-- R61, R66, R70: an image is written into a FREE range and validated; a refused one leaves no slot and its context FREE. (DEDUCED, log 44.) -/
def execRuleImageLoad (s : State) : Out3 :=
  match s.ev with
  | .ruleImageLoad n c first room slots profile priv mh bad =>
    if ((s.tileN n).ctx c).st != .free then .next s
    else
      let put := fun (t : Tile) l => t.putSlots first (isBisque (dieOf n)) (l ++ List.replicate (room - l.length) 0)
      .next (match loadRefusal (s.loadEnv n c priv mh profile) (isBisque (dieOf n)) room profile bad slots, s.recAt n c with
        | none, some (rf, r) =>
          let s := s.modTile n fun t => put t slots
          match s.imageOf r, s.seatOn rf n with
          | some img, some q => s.loaded rf img q
          | _, _ => s
        | none, none => s.modTile n fun t => put t slots
        | some (i, k), some (rf, _) =>
          ((s.modTile n fun t => put t []).failTask rf.die rf.idx { FRec.of 2 k s.clock with slot := i, tile := tileIn n, ctx := c.val }).unplace rf.die rf.idx
        | some _, none => s.modTile n fun t => put t [])
  | _ => .next s

end Sys2Proof.Machine
end

