-- ==== Sys2Proof/Machine/Ends.lean ====
section
/-! DEFINITION. How contexts and tasks end: stops, handover, release (R19, R33 to R35, R143, R159, R160, R165, R292), retirement (R348), and the
comparison of twins (R183). -/

namespace Sys2Proof.Machine
open Sys2Proof

/-! ## A context stops (R165) -/

/-- Running streams that serve a context, and that a test picks, issue no further element (R143, R232). -/
def Tile.stopStrms (t : Tile) (c : Fin 8) (p : Strm → Bool) : Tile :=
  (List.finRange 8).foldl (fun t g => if (t.strm[g]).st == .run && (t.strm[g]).ctx == c && p t.strm[g] then t.setStrm g (t.strm[g]).stopIssue else t) t
/-- Unclaimed buffer requests of a context leave the waiting lists of its controllers (R282). -/
def State.withdraw (s : State) (n : Nat) (c : Fin 8) : State :=
  let ids := ((s.tileN n).pendingOps c).map (·.id)
  s.modClus (clusOf n) fun k => { k with wait := k.wait.filter fun r => !(r.tile == n && ids.contains r.op) }
/-- STOPPED with a code (R143): read streams that serve the context stop, and write streams that find nothing. -/
def Tile.doneCtx (t : Tile) (c : Fin 8) (code : BitVec 8) : Tile :=
  let t := t.modCtx c fun x => { x with st := .stopped, code := code, watches := [], ctl := { x.ctl with ending := .none, mark := false, asleep := none } }
  t.stopStrms c fun g => !g.isWr || ((t.ctx c).egr[g.chan]).isEmpty
/-- FAULTED (R160): what waits for ever is dropped with the streams of the context. (DEDUCED, log 19.) -/
def Tile.faultCtx (t : Tile) (c : Fin 8) : Tile :=
  let t := t.modCtx c fun x => { x with st := .faulted, watches := [], ctl := { x.ctl with ending := .none, mark := false, asleep := none, trapped := false } }
  let t := t.stopStrms c fun _ => true
  { t with ops := t.ops.filter fun o => o.ctx != c || o.act.isTok }
/-- SAVED or MIGRATING, with the state to resume; watches are disarmed and recorded (R19, R394, R428). -/
def Tile.standCtx (t : Tile) (c : Fin 8) (st : CSt) : Tile :=
  t.modCtx c fun x => let x := x.hearAll
                      { x with st := st, watches := x.watches.map (fun w => { w with sent := false }),
                               ctl := { x.ctl with ending := .none, resume := if x.st = .saved ∨ x.st = .migrating then x.ctl.resume else x.st } }
/-- The record of a breakpoint, which fails nothing (R152, R359). -/
def State.postBreak (s : State) (r : TRef) (f : FRec) : State :=
  let k := s.trec r.die r.idx
  s.atEnd (.faultRecord r.die r.idx k.tenant k.inst (f.words (s.inst k.inst).ctag.toNat r.idx r.die) none)
/-- A fault of one copy of a twin: the record keeps the first, and that copy alone stops, on every tile of it (R183, R270). -/
def State.twinStop (s : State) (r : TRef) (n : Nat) (c : Fin 8) (i : StopInfo) : State :=
  (s.modRec r.die r.idx fun k => if k.info.isSome then k else { k with info := some i, stopd := [tileIn n, c.val] }).atEnd
    (.endAll r.die r.idx (some r.copy) .fault)
/-- What the fault of a context does to its task: from the next cycle on no context of it fires, on this tile or on another of its gang (R16, R19,
R270, R361). (DEDUCED, log 19.) -/
def State.taskFault (s : State) (n : Nat) (c : Fin 8) (i : StopInfo) : State :=
  match ((s.tileN n).ctx c).task with
  | none => s
  | some r =>
    let k := s.trec r.die r.idx
    if k.st = .faulted then s
    else if k.twin then s.twinStop r n c i
    else (s.failTask r.die r.idx (FRec.stop i n c)).atEnd (.endAll r.die r.idx none .fault)
/-- A context of the focus tile whose fired operations have written back changes its state. (DEDUCED, log 19.) -/
def State.stopCtx (s : State) (c : Fin 8) : State :=
  let x := s.tile.ctx c
  match x.ctl.ending with
  | .done code => s.onTile fun t => t.doneCtx c code
  | .save => (s.withdraw s.cur c).onTile fun t => t.standCtx c .saved
  | .mig _ => (s.withdraw s.cur c).onTile fun t => t.standCtx c .migrating
  | .stop i =>
    match i.cause == 0x12#8, x.task with
    | true, some r =>
      let s := (s.withdraw s.cur c).onTile fun t => t.standCtx c .saved
      s.postBreak r (FRec.stop i s.cur c)
    | _, _ => ((s.withdraw s.cur c).onTile fun t => t.faultCtx c).taskFault s.cur c i
  | _ => s
/-- A handover to this context is under way: it is completed before the context stands for a save or a migration (R19, R35). -/
def Tile.takesOver (t : Tile) (d : Fin 8) : Bool :=
  allCtx.any fun c => (t.ctx c).ctl.ending == .hand && (t.ctx c).succ == d
/-- A stop is taken in the cycle after its cause. -/
def Ending.dueBy (e : Ending) (clk : Nat) : Bool :=
  match e with | .none => false | .hand => false | .stop i => decide (i.cyc.toNat < clk) | _ => true
def State.stopMay (s : State) (c : Fin 8) : Bool :=
  let e := (s.tile.ctx c).ctl.ending
  e.dueBy s.clock && (s.blocking c e).isEmpty && !(match e with | .save => s.tile.takesOver c | .mig _ => s.tile.takesOver c | _ => false)
/-- R165. -/
def execContextStop (s : State) : Out3 :=
  match s.ev with
  | .contextStop c => .next (if s.stopMay c then s.stopCtx c else s)
  | .endAll d i copy why => .next (s.endRec d i copy (match why with
      | .fault => .stop (StopInfo.mk0 0x1c#8 0 s.clock) | .save => .save | .mig slot => .mig slot))
  | .faultRecord d i t j ws tmpl => .next (s.deliverFault d i t j ws tmpl)
  | _ => .next s

/-! ## Handover (R35, R292) -/

def Ctx.carriesIn (x : Ctx) (ch : Chan) : Bool := !x.cfg.hmask.getLsbD ch.val && ((x.ib[ch]).bv || !(x.inb[ch]).isEmpty)
def Ctx.carriesEg (x : Ctx) (ch : Chan) : Bool := (x.eb[ch]).bv || !(x.egr[ch]).isEmpty
/-- The handover marker. -/
def markEntry : Entry := mkEntry 0 0#2 0xff#8 false
/-- The successor with the carried channels, running. -/
def Ctx.takeOver (x y : Ctx) : Ctx :=
  { y with
    st := .running
    inb := Vector.ofFn fun ch => if x.carriesIn ch then x.inb[ch] else y.inb[ch]
    owe := Vector.ofFn fun ch => if x.carriesIn ch then x.owe[ch] else y.owe[ch]
    badIn := x.badIn.filter (fun b => x.carriesIn b.1) ++ y.badIn.filter fun b => !x.carriesIn b.1
    ib := Vector.ofFn fun ch => if x.carriesIn ch then x.ib[ch] else y.ib[ch]
    egr := Vector.ofFn fun ch => if x.carriesEg ch then x.egr[ch] ++ (if (x.eb[ch]).bv then [markEntry] else []) else y.egr[ch]
    eb := Vector.ofFn fun ch => if x.carriesEg ch then x.eb[ch] else y.eb[ch]
    arr := Vector.ofFn fun i => min 65535 (y.arr[i] + x.arr[i]) }
/-- The context without the channels it has handed over. -/
def Ctx.handed (x : Ctx) : Ctx :=
  { x with
    inb := Vector.ofFn fun ch => if x.carriesIn ch then [] else x.inb[ch]
    owe := Vector.ofFn fun ch => if x.carriesIn ch then [] else x.owe[ch]
    badIn := x.badIn.filter fun b => !x.carriesIn b.1
    ib := Vector.ofFn fun ch => if x.carriesIn ch then .zero else x.ib[ch]
    egr := Vector.ofFn fun ch => if x.carriesEg ch then [] else x.egr[ch]
    eb := Vector.ofFn fun ch => if x.carriesEg ch then .zero else x.eb[ch]
    arr := Vector.replicate 8 0 }
/-- Traffic to the carried channels follows them. -/
def Tile.forwardTo (t : Tile) (x : Ctx) (c d : Fin 8) : Tile :=
  let one := fun (m : AMap Nat) (key : Nat) => mset 0 (mset 0 m (32 * c.val + key) (d.val + 1)) (32 * d.val + key) 0
  { t with fwd := (List.finRange 16).foldl (fun m ch =>
      let m := if x.carriesIn ch then one m ch.val else m
      if x.carriesEg ch then one m (16 + ch.val) else m) t.fwd }
/-- The handover itself (R35): the successor takes the carried channels and runs, the context ends as `done` does, with code 0, since R35 gives none.
(DESIGN CHOICE, log 82.) (DEDUCED, log 17.) -/
def Tile.handStep (t : Tile) (c : Fin 8) : Tile :=
  let x := t.ctx c
  let d := x.succ
  let y := x.takeOver (t.ctx d)
  let t := ((t.forwardTo x c d).setCtx c x.handed).setCtx d y
  t.doneCtx c 0
/-- R35: once its operations have written back, and its successor stands in SHADOW (R19). -/
def State.handMay (s : State) (c : Fin 8) : Bool :=
  let x := s.tile.ctx c
  x.ctl.ending == .hand && (s.tile.ctx x.succ).st == .shadow && (s.blocking c .hand).isEmpty
def execHandoverStep (s : State) : Out3 :=
  match s.ev with
  | .handoverStep c => .next (if s.handMay c then s.onTile fun t => t.handStep c else s)
  | _ => .next s

/-! ## Retirement and release (R143, R348) -/

/-- The contexts of a placed task, with their tiles. -/
def State.ctxsOfRec (s : State) (r : TRec) : List (Nat × Ctx) := r.seats.flatMap fun q => q.ctxs.map fun c => (q.tile, (s.tileN q.tile).ctx c)
/-- Every context has stopped; where one copy of a twin has faulted, its contexts stand FAULTED (R183). (DEDUCED, log 17.) -/
def State.allStopped (s : State) (r : TRec) : Bool :=
  !r.seats.isEmpty && (s.ctxsOfRec r).all fun x => x.2.st == .stopped || (r.twin && x.2.st == .faulted)
/-- The largest completion code of a task's contexts. -/
def maxCode (l : List Ctx) : BitVec 8 := l.foldl (fun m c => if m.toNat < c.code.toNat then c.code else m) 0
/-- Every context of the task has stopped or fires no further rule on its way to STOPPED: a save leaves them there, since the task may retire (R348). (DESIGN CHOICE, log 48.) -/
def State.mayRetire (s : State) (r : TRec) : Bool :=
  (s.ctxsOfRec r).all fun x => x.2.st == .stopped || (x.2.st == .running && (match x.2.ctl.ending with | .done _ => true | .hand => true | _ => false))
    || (r.twin && (x.2.st == .faulted || (match x.2.ctl.ending with | .stop _ => true | _ => false)))
/-- A RUNNING task retires in the cycle in which its last context reaches STOPPED, also while a save waits for its contexts (R348). -/
def State.retireMay (s : State) (r : TRec) : Bool := r.st == .running && decide (r.sv ≤ 1) && s.allStopped r
/-- Nothing of a seat is under way: no operation, no copy, no running stream, and of a task that has not faulted no entry left to send. -/
def State.seatQuiet (s : State) (q : Seat) (faulted : Bool) : Bool :=
  let t := s.tileN q.tile
  q.ctxs.all (fun c => (t.pendingOps c).isEmpty && (t.copies.all fun k => k.ctx != c) && (t.away.all fun a => a.ctx != c)
    && ((List.finRange 8).all fun g => (t.strm[g]).st != .run || (t.strm[g]).ctx != c)
    && (faulted || (t.ctx c).egr.toList.all (·.isEmpty)))
def State.recQuiet (s : State) (r : TRec) (faulted : Bool) : Bool := r.seats.all fun q => s.seatQuiet q faulted
/-- No stub stands on a tile of the record (R394). -/
def State.noStub (s : State) (die idx : Nat) : Bool := !(s.winder.migs.any fun m => m.die == die && m.idx == idx)
/-- Entries left in the inbound channels of a task, counted in DROPCNT of their tiles. -/
def State.dropLeft (s : State) (r : TRec) : State :=
  r.seats.foldl (fun s q => s.modTile q.tile fun t => t.countDrop (sumL (q.ctxs.map fun c => sumL ((t.ctx c).inb.toList.map List.length)))) s

/-! ## Twins (R183) -/

/-- The bytes of a WR buffer of one copy of a twin: those in TCM of each of its tiles. -/
def State.twinBytes (s : State) (r : TRec) (copy : Nat) (k : Fin 8) : List Byte :=
  let r' := if copy = 0 then r else r.second
  (r.seats.filter fun q => q.copy == copy && (bflPlace (r.bfl k) == 0 || q.member == 0)).flatMap fun q =>
    let c0 := q.ctxs.headD 0
    let n := r.bsize k * 1024
    match bflPlace (r.bfl k) with
    | 0 =>
      let off := sumL ((List.finRange 8).map fun j => if j.val < k.val ∧ bflPlace (r.bfl j) = 0 then r.bsize j * 1024 else 0)
      let data := match s.imageOf r with | some i => ceilDiv i.data.length 1024 * 1024 | none => 0
      (s.tileN q.tile).tcmRd (q.base + data + off) n
    | 1 =>
      let b := nfld (s.bmap q.tile c0).toNat (7 * k.val) 6
      readBytes (s.clus (clusOf q.tile)).csp (bufBase ((s.clus (clusOf q.tile)).bufd b)) n
    | _ => s.vaBytes r'.tenant (r'.baddr k) n
/-- The first byte in which two lists differ. -/
def firstDiff : Nat → List Byte → List Byte → Option Nat
  | _, [], [] => none
  | i, a :: l, b :: m => if a = b then firstDiff (i + 1) l m else some i
  | i, _, _ => some i
/-- The first difference of the copies: buffer and offset. (DEDUCED, log 49.) -/
def State.twinDiff (s : State) (r : TRec) : List (Fin 8) → Option (Nat × Nat)
  | [] => none
  | k :: l =>
    if bflPlace (r.bfl k) = 3 ∨ !bflWR (r.bfl k) then s.twinDiff r l
    else match firstDiff 0 (s.twinBytes r 0 k) (s.twinBytes r 1 k) with
      | some o => some (k.val, o)
      | none => s.twinDiff r l
/-- Completion codes of the two copies. (DEDUCED, log 49.) -/
def State.twinCode (s : State) (r : TRec) (copy : Nat) : BitVec 8 :=
  maxCode ((r.seats.filter fun q => q.copy == copy).flatMap fun q => q.ctxs.map fun c => (s.tileN q.tile).ctx c)
/-- How a twin fares once both copies have stopped: its fault record, or none. (DEDUCED, log 49.) -/
def State.twinFault (s : State) (r : TRec) : Option FRec :=
  match r.info with
  | some i => some { FRec.stop i 0 0 with tile := r.stopd.headD 0, ctx := (r.stopd.drop 1).headD 0 }
  | none =>
    if s.twinCode r 0 ≠ s.twinCode r 1 then some (FRec.of 4 0 s.clock)
    else match s.twinDiff r (List.finRange 8) with
      | some (k, o) => some { FRec.of 4 0 s.clock with code := k, offset := BitVec.ofNat 64 o }
      | none => none
/-- The second copy's buffers return to the arena. -/
def State.freeTwin (s : State) (r : TRec) : State :=
  let a := r.twinB.map (·.2)
  ((s.freeArena r.tenant a).modInst r.inst
    fun i => { i with bufs := i.bufs.filter fun b => !a.contains b.1 })

/-- A RETIRING task that has given up its tiles is RETIRED: its completion is published and its successors are decremented (R348, R361). -/
def State.publishTask (s : State) (die idx : Nat) : State :=
  let r := s.trec die idx
  let s := s.modInst r.inst fun i => { i with retired := i.retired + 1, code := if i.code.toNat < r.code.toNat then r.code else i.code }
  let s := s.modRec die idx fun r => r.setSt .retired
  if (s.inst r.inst).failed then s else s.sendDecs die r
def State.releaseRec (s : State) (die idx : Nat) : State :=
  let r := s.trec die idx
  if r.st = .faulted then ((s.dropLeft r).unplace die idx)
  else if r.twin then
    match s.twinFault r with
    | some f => ((s.failTask die idx f).dropLeft r).unplace die idx
    | none => (((s.freeTwin r).dropLeft r).unplace die idx).publishTask die idx
  else ((s.dropLeft r).unplace die idx).publishTask die idx
/-- The contexts of the record stand so that the Kiln may release them. -/
def State.releaseMay (s : State) (die idx : Nat) : Bool :=
  let r := s.trec die idx
  !r.seats.isEmpty && s.noStub die idx &&
  match r.st with
  | .retiring => (s.ctxsOfRec r).all (fun x => x.2.ctl.ending == .none) && (s.recQuiet r false || (r.info.isSome && s.recQuiet r true))
  | .faulted => (s.ctxsOfRec r).all (fun x => x.2.st == .faulted || x.2.st == .free) && s.recQuiet r true
  | _ => false
/-- R143, R348: the Kiln releases the contexts of a task, and retires it. -/
def execContextRelease (s : State) : Out3 :=
  match s.ev with
  | .contextRelease d i => .next (if s.releaseMay d i then s.releaseRec d i else s)
  | _ => .next s

end Sys2Proof.Machine
end

