-- ==== Sys2Proof/Machine/Groups.lean ====
section
/-! DEFINITION. Pod groups (R496, R497, R507 to R512): contributions, abort markers, the fold over members and over modules, and completion. -/

namespace Sys2Proof.Machine
open Sys2Proof

/-- Answer an operation of a tile that waits. -/
def State.replyOp (s : State) (n id : Nat) (f : Op → Op) : State :=
  let s := s.focus n
  match s.tile.opN id with | some o => (s.retire { f o with act := .plain }).wake | none => s
/-- The modules of a pod, in increasing number: by coordinates, or in UALink mode by accelerator identifiers (R482, R498). (DEDUCED, log 74.) -/
def modulesOf (c : CfgRec) : List Nat :=
  if c.ualink then List.range (min 1024 (c.nx * c.ny * c.nz))
  else (List.range c.nz).flatMap fun z => (List.range c.ny).flatMap fun y => (List.range c.nx).map fun x => x + 16 * y + 256 * z
/-- Modules of the pod other than this one. -/
def State.otherMods (s : State) : List Nat := (modulesOf s.saloc.cfg).filter fun m => m != s.own
/-! ## The register of a group (R507) -/

def pgrp (g : Nat) : Nat := 0x7000 + 8 * g
def State.pgV (s : State) (g : Nat) : Bool := nfld (s.coReg (pgrp g)) 0 1 == 1
def State.pgTenant (s : State) (g : Nat) : Nat := nfld (s.coReg (pgrp g)) 1 4
def State.pgLocal (s : State) (g : Nat) : Nat := nfld (s.coReg (pgrp g)) 5 12
def State.pgPhase (s : State) (g : Nat) : Bool := nfld (s.coReg (pgrp g)) 17 1 == 1
def State.grp (s : State) (g : Nat) : GPhase :=
  (s.coord.groups.find? fun x => x.g == g).getD { g := g, parts := [], next := [], mods := [], sent := 0, known := [] }
/-- Keep a group's state, and ARRIVED with it. -/
def State.setGrp (s : State) (x : GPhase) : State :=
  let s : State := { s with coord := { s.coord with groups := (s.coord.groups.filter fun y => y.g != x.g) ++ [x] } }
  s.putCo (pgrp x.g) 18 12 x.parts.length
/-- The modules of a group: this one alone for a time-sliced tenant (R493, R507). -/
def State.groupMods (s : State) (g : Nat) : List Nat :=
  if s.sliced (BitVec.ofNat 4 (s.pgTenant g)) then [] else s.otherMods

/-! ## Folds (R496, R508) -/

/-- GOP of R511. -/
def gopOf : Instr → Nat
  | .pcomb .fxadd _ _ _ => 1 | .pcomb .add _ _ _ => 2 | .pcomb .min _ _ _ => 3 | .pcomb .max _ _ _ => 4 | .pcomb .fadd _ _ _ => 5
  | .pbcast _ _ _ => 6 | _ => 0
/-- One step of a fold. -/
def gopStep (gop : Nat) (a b : Word) : Word × Fl :=
  match gop with
  | 1 => (a + b, 0) | 2 => (a + b, 0)
  | 3 => (if a.toInt ≤ b.toInt then a else b, 0)
  | 4 => (if b.toInt ≤ a.toInt then a else b, 0)
  | 5 => let r := fAdd .f32 ⟨.rn, false, 0⟩ a b; (BitVec.ofNat 64 r.bits, r.fl)
  | _ => (a, 0)
/-- The fold of the values that are there, in order, with the flags of its steps. (DEDUCED, log 73.) -/
def gopFold (gop : Nat) : List (Option Word) → Option Word × Fl
  | l => l.foldl (fun acc x => match acc.1, x with
    | none, x => (x, acc.2) | a, none => (a, acc.2)
    | some a, some b => let r := gopStep gop a b; (some r.1, acc.2 ||| r.2)) (none, 0)
/-- The module's value takes part in a fold: it has a contribution, and for a broadcast a root's. -/
def ModVal.carries (m : ModVal) : Bool := m.n != 0 && m.gop != 0 && m.gop != 7 && (m.gop != 6 || m.root)
/-- The result of a ring, in the order of its modules: GOP 7 says that two of their operations differ, and counts beyond 4,095 stay there. (DEDUCED, log 73.) -/
def foldRing (own : Nat) (ph : Bool) (l : List ModVal) : ModVal :=
  let gops := ((l.filter fun m => m.n != 0).map (·.gop)).eraseDups
  let gop := if gops.length ≤ 1 then gops.headD 0 else 7
  let r := gopFold gop (l.map fun m => if m.carries then some m.val else none)
  { mod := own, phase := ph, gop := gop, val := r.1.getD 0, n := min 4095 (sumL (l.map (·.n))), root := l.any (·.root), aborted := min 4095 (sumL (l.map (·.aborted)))
    fl := l.foldl (fun f m => f ||| m.fl) r.2 }
def insertCtxid (p : Contrib) : List Contrib → List Contrib
  | [] => [p]
  | q :: l => if p.ctxid ≤ q.ctxid then p :: q :: l else q :: insertCtxid p l
/-- The operation of a phase: that of its first arrival that is no abort marker. -/
def phaseGop (l : List Contrib) : Option Nat := (l.find? fun p => !p.abort).map (·.gop)
/-- The module's value: folded over the members in increasing CTXID. -/
def State.modVal (s : State) (x : GPhase) : ModVal :=
  let l := x.parts.foldl (fun m p => insertCtxid p m) []
  let gop := (phaseGop x.parts).getD 0
  let live := l.filter fun p => !p.abort
  let r := gopFold gop (live.map fun p => if gop = 6 ∧ !p.root then none else some p.val)
  { mod := s.own, phase := s.pgPhase x.g, gop := gop, val := r.1.getD 0, n := live.length, root := gop == 6 && r.1.isSome, aborted := x.parts.length - live.length, fl := r.2 }

/-! ## Completion (R508, R509, R512) -/

/-- What a member's operation writes: D, the result condition, the flags; a trapping flag poisons D (R105). -/
def Op.groupEnd (o : Op) (n : Nat) (v : Word) (ok : Bool) (fl : Fl) : Op :=
  match o.act with
  | .group i _ =>
    match i with
    | .pbar d _ => { o with wr := [.p d true], rc := some ok }
    | .pcomb .fadd d _ _ =>
      match trapCause fl o.am.ten with
      | some k =>
        let pl := mkPayload k o.slot.toNat o.ctx ⟨dieOf n, tileIn n, o.fired⟩ o.fired
        { o with wr := wrS d { bits := pl, pois := true }, rc := some ok, fl := fl, poison := some pl, hard := sdHard d }
      | none => { o with wr := wrS d (clean v), rc := some ok, fl := fl }
    | .pcomb _ d _ _ => { o with wr := wrS d (clean v), rc := some ok }
    | .pbcast d _ _ => { o with wr := wrS d (clean v), rc := some ok }
    | _ => o
  | _ => o
/-- The key under which a contribution of a saved member waits (R512). -/
def parkKey (die idx seat pos : Nat) : Nat := 2048 + (((die * 65536 + idx) * 16 + seat) * 8 + pos)
def State.endPart (s : State) (g : Nat) (v : Word) (ok : Bool) (fl : Fl) (p : Contrib) : State :=
  if p.abort then s
  else if 2048 ≤ p.tile then { s with coord := { s.coord with kept := s.coord.kept ++ [(p.tile, g + at_ 8 (b2n ok), fl.toNat, v)] } }
  else s.replyOp p.tile p.op fun o => o.groupEnd p.tile v ok fl
def State.stopPart (s : State) (p : Contrib) : State :=
  if p.abort || decide (2048 ≤ p.tile) then s
  else
    let s := s.focus p.tile
    match s.tile.opN p.op with | some o => s.failOp o (s.opCause o 0x23#8) | none => s
/-- Cycles from the last arrival to completion: within R497. (DEDUCED, log 73.) -/
def State.groupLat (s : State) (g : Nat) : Nat :=
  let c := s.saloc.cfg
  if (s.groupMods g).isEmpty then 157 else (150 + 35 * (c.nx / 2 + c.ny / 2 + c.nz / 2)) * 105 / 100
/-- The rings of a group, in the order of their folds: this module's X ring, its Y ring and its Z ring, in increasing coordinate; one ring of every module in
UALink mode; this module alone for a time-sliced tenant (R496, R500, R507). -/
def State.rings (s : State) (g : Nat) : List (List Nat) :=
  let c := s.saloc.cfg
  if (s.groupMods g).isEmpty then [[s.own]]
  else if c.ualink then [modulesOf c]
  else (List.range 3).map fun a => (List.range (axisN c a)).map fun x => setAxis s.own a x
/-- A value goes to the other modules of a ring, on the group's port die (R496, R511). (DESIGN CHOICE, log 68.) -/
def State.sendVal (s : State) (g : Nat) (ring : List Nat) (v : ModVal) : State :=
  (ring.filter fun m => m != s.own).foldl (fun s m => s.sendPkt 0 (some (g % 4)) { Pkt.zero with
    op := 9, tenant := BitVec.ofNat 4 (s.pgTenant g), dmod := m, dtgt := 0xf8, src := agentSrc s.own 0 0xf8, addr := v.n + at_ 12 v.aborted + at_ 24 v.fl.toNat
    attr := g + at_ 9 v.gop + at_ 12 (b2n v.root) + at_ 13 (b2n v.phase), idata := v.val }) s
/-- The rings one after the other: this module sends its value on a ring, folds the ring when every value of it is here, and goes on to the next with the result;
the last result is there when every ring is folded. -/
def State.groupGo (s : State) (g k : Nat) (vs : List ModVal) : List (List Nat) → ModVal → State × Option ModVal
  | [], v => (s, some v)
  | r :: rs, v =>
    let s := if (s.grp g).sent ≤ k then (s.setGrp { s.grp g with sent := k + 1 }).sendVal g r v else s
    match r.mapM fun m => if m = s.own then some v else vs.find? fun y => y.mod == m with
    | none => (s, none)
    | some l => s.groupGo g (k + 1) vs rs (foldRing s.own v.phase l)
/-- The values of the phase that are here. -/
def State.phaseVals (s : State) (g : Nat) : List ModVal := (s.grp g).mods.filter fun m => m.phase == s.pgPhase g
/-- The module's value is complete: it goes round the first ring, and completion is not before the time of R497. (DESIGN CHOICE, log 68.) -/
def State.groupSend (s : State) (g : Nat) : State :=
  let x := s.grp g
  if x.sent ≠ 0 ∨ x.parts.length < s.pgLocal g ∨ s.pgLocal g = 0 then s
  else
    let v := s.modVal x
    (s.groupGo g 0 (s.phaseVals g) (s.rings g) v).1.later (s.groupLat g)
      (.podGroupPacket (BitVec.ofNat 12 s.own) (BitVec.ofNat 8 g) (Fin.ofNat 8 v.gop) v.root v.phase v.val v.n v.aborted v.fl)
/-- An arrival of a context counts in the next phase: the present one is complete here, or the context has its contribution in it (R509). (DEDUCED, log 73.) -/
def GPhase.later (x : GPhase) (ctxid : Nat) : Bool := x.sent != 0 || x.parts.any fun q => q.ctxid == ctxid
/-- A contribution joins the phase, or waits for the next one. -/
def State.addPart (s : State) (x : GPhase) (p : Contrib) : State :=
  if x.later p.ctxid then s.setGrp { x with next := x.next ++ [p] }
  else (s.setGrp { x with parts := x.parts ++ [p] }).groupSend x.g
/-- The phase is complete on every module with a value: every member is answered, and the next phase takes the arrivals that waited. -/
def State.groupDone (s : State) (g : Nat) (v : ModVal) : State :=
  let x := s.grp g
  let ph := s.pgPhase g
  let s := s.setGrp { x with parts := [], next := [], mods := x.mods.filter (fun m => m.phase != ph), sent := 0, known := x.parts.map (·.ctxid) }
  let s := s.putCo (pgrp g) 17 1 (b2n !ph)
  let s := if v.gop = 7 then x.parts.foldl State.stopPart s else x.parts.foldl (State.endPart · g (if v.carries then v.val else 0) (v.aborted == 0) v.fl) s
  let s := (x.next.filter fun p => !p.abort && decide (2048 ≤ p.tile)).foldl (fun s p => s.addPart (s.grp g) p) s
  s.push ((x.next.filter fun p => p.abort || decide (p.tile < 2048)).map fun p => if p.abort then .abortMarker (BitVec.ofNat 8 g) p.tile p.ctxid else .taskRequest p.tile p.op)
/-- A value has come: the rings go on, and after the last the phase is complete, once the time of R497 has passed. (DEDUCED, log 73.) -/
def State.groupCheck (s : State) (g : Nat) : State :=
  let x := s.grp g
  if x.sent = 0 then s
  else
    let r := s.groupGo g 0 (s.phaseVals g) (s.rings g) (s.modVal x)
    match r.2 with
    | some v => if (s.phaseVals g).any fun m => m.mod == s.own then r.1.groupDone g v else r.1
    | none => r.1
/-- R511: a module's value arrives. -/
def execPodGroupPacket (s : State) : Out3 :=
  match s.ev with
  | .podGroupPacket m g gop root phase val n ab fl =>
    let x := s.grp g.toNat
    let v : ModVal := { mod := m.toNat, phase := phase, gop := gop.val, val := val, n := n, root := root, aborted := ab, fl := fl }
    .next (if x.mods.any fun y => y.mod == v.mod && y.phase == v.phase then s else (s.setGrp { x with mods := x.mods ++ [v] }).groupCheck g.toNat)
  | _ => .next s

/-! ## Arrivals (R509, R510) -/

def Act.isGroup : Act → Bool | .group _ _ => true | _ => false
/-- The coordinator holds the operation's contribution. -/
def State.groupHas (s : State) (n id : Nat) : Bool :=
  s.coord.groups.any fun x => (x.parts ++ x.next).any fun p => !p.abort && p.tile == n && p.op == id
/-- A contribution reaches the coordinator, or stops its context with cause 0x23. -/
def State.groupArrive (s : State) (n : Nat) (o : Op) (i : Instr) (vals : List Word) : State :=
  let b := (vals.headD 0).toNat
  let g := b % 256
  let x := s.grp g
  let gop := gopOf i
  let c := (s.tileN n).ctx o.ctx
  if !s.pgV g || s.pgTenant g != c.tenant.toNat || s.pgLocal g == 0 || (!x.later (ctxidOf n o.ctx) && match phaseGop x.parts with | some k => k != gop | none => false) then
    let s := s.focus n
    s.failOp o (s.opCause o 0x23#8)
  else
    let a := (vals.drop 1).headD 0
    s.addPart x { tile := n, op := o.id, ctxid := ctxidOf n o.ctx, gop := gop, val := if gop = 5 then a &&& 0xffffffff#64 else a, root := bitN b 8, abort := false }
/-- R510: an abort marker takes a member's place. (DEDUCED, log 73.) -/
def State.groupAbort (s : State) (g n ctxid : Nat) : State :=
  if !s.pgV g || s.pgLocal g == 0 then s
  else s.addPart (s.grp g) { tile := n, op := 0, ctxid := ctxid, gop := 0, val := 0, root := false, abort := true }
def execAbortMarker (s : State) : Out3 :=
  match s.ev with
  | .abortMarker g n c => .next (s.groupAbort g.toNat n c)
  | _ => .next s
/-- Members of incomplete phases that a tenant's teardown leaves out: an abort marker for each arrival that is still missing (R440). (DEDUCED, log 61.) -/
def State.tearGroups (s : State) (t : BitVec 4) : State :=
  (List.range 256).foldl (fun s g =>
    if s.pgV g && s.pgTenant g == t.toNat then
      (List.range (s.pgLocal g - (s.grp g).parts.length)).foldl (fun s k => s.groupAbort g 0 (65536 + k)) s
    else s) s
/-- A context that arrived in the last phase stops while the next is incomplete: the markers that take its place (R510). -/
def State.leaveEvs (s : State) (n : Nat) (c : Fin 8) : List Ev :=
  let id := ctxidOf n c
  ((s.coord.groups.filter fun x => x.known.contains id && !x.parts.isEmpty && x.parts.all fun p => p.ctxid != id).map fun x =>
    .abortMarker (BitVec.ofNat 8 x.g) n id)

/-! ## Saved members (R512) -/

/-- Contributions of a task that is saved wait under a key of their own. -/
def State.parkGroups (s : State) (die idx : Nat) (r : TRec) : State :=
  let f := fun (p : Contrib) =>
    match (r.seats.zipIdx.find? fun q => q.1.tile == p.tile && q.1.ctxs.any fun c => ctxidOf q.1.tile c == p.ctxid) with
    | some q => { p with tile := parkKey die idx q.2 ((q.1.ctxs.findIdx? fun c => ctxidOf q.1.tile c == p.ctxid).getD 0) }
    | none => p
  let gs := s.coord.groups.map fun (x : GPhase) => ({ x with parts := x.parts.map f, next := x.next.map f } : GPhase)
  { s with coord := { s.coord with groups := gs } }
/-- A restored wait: the kept result is written, or the contribution is answered at its new place. -/
def State.relinkGroup (s : State) (key n : Nat) (o : Op) : State :=
  match s.coord.kept.find? (fun k => k.1 == key) with
  | some k =>
    let s : State := { s with coord := { s.coord with kept := s.coord.kept.filter fun y => y.1 != key } }
    s.modTile n fun t => t.finish { (o.groupEnd n k.2.2.2 (nfld k.2.1 8 1 == 1) (BitVec.ofNat 6 k.2.2.1)) with act := .plain } s.clock
  | none =>
    let f := fun (p : Contrib) => if p.tile = key then { p with tile := n, op := o.id } else p
    let gs := s.coord.groups.map fun (x : GPhase) => ({ x with parts := x.parts.map f, next := x.next.map f } : GPhase)
    { s with coord := { s.coord with groups := gs } }

end Sys2Proof.Machine
end

