-- ==== Sys2Proof/Machine/Saves.lean ====
section
/-! DEFINITION. Saving and restoring tasks (R282, R340, R358, R399, R431 to R438, R449): gates, the Saggar area, class-0 pre-emption, restores. -/

namespace Sys2Proof.Machine
open Sys2Proof

/-! ## Entries that point at a task (R399) -/

/-- A route entry's target is a seat of the task. -/
def State.pointsAt (s : State) (r : TRec) (qs : List Seat) (e : Nat) : Bool :=
  (rKind e == 1 || rKind e == 2) && rMod e == s.own
  && qs.any fun q => q.tile == rTile e && (if rKind e = 1 then q.ctxs.contains (rCtx e) else r.wins.contains (rWin e).val)
/-- Labels that a task declares `open`: their entries are not on the pointer list (R79). -/
def State.openLabels (s : State) (r : TRec) : List Nat :=
  match s.entryOf r with | some e => (e.routes.filter fun d => d.target == .opn).map (·.label) | none => []
/-- The route labels of placed tasks whose entries point at seats: tile and label. (DEDUCED, log 52.) -/
def State.pointers (s : State) (r : TRec) (qs : List Seat) : List (Nat × Nat) :=
  s.recsAll.flatMap fun x => x.2.2.seats.flatMap fun q =>
    (x.2.2.labels.filter fun l => !(s.openLabels x.2.2).contains l && s.pointsAt r qs ((s.tileN q.tile).route (BitVec.ofNat 7 l))).map fun l => (q.tile, l)
/-- DEDUCED, log 52. -/
def State.gateAll (s : State) (l : List (Nat × Nat)) : State := l.foldl (fun s x => s.modTile x.1 fun t => t.gate x.2) s

/-! ## The Saggar area (R434) -/

/-- Base and bytes of a tenant's area. -/
def State.sagArea (s : State) (t : BitVec 4) : Nat × Nat :=
  match s.vfOf t with | some n => (nfld (s.vf n 8) 12 36 * 4096, nfld (s.vf n 0x10) 0 36 * 4096) | none => (0, 0)
/-- Records of a tenant that lie in the area, with their dies. -/
def State.sagRecs (s : State) (t : BitVec 4) : List (Nat × Nat × Nat) :=
  (s.recsAll.filter fun x => x.2.2.tenant == t).flatMap fun x => x.2.2.saved.map fun a => (x.1, a.1, a.2)
def insertA (a : Nat × Nat) : List (Nat × Nat) → List (Nat × Nat)
  | [] => [a]
  | b :: l => if a.1 ≤ b.1 then a :: b :: l else b :: insertA a l
def chainOf : List (Nat × Nat) → List (Nat × Nat)
  | [] => []
  | [a] => [(a.1, 0)]
  | a :: b :: l => (a.1, b.1) :: chainOf (b :: l)
/-- A save of the tenant on the die is under way. -/
def State.savesOn (s : State) (t : BitVec 4) (d : Nat) : Bool := (s.die d).recs.any fun r => r.2.tenant == t && r.2.sv != 0 && r.2.sv != 4
/-- The die entries and the SNEXT chain of each die; `kill` marks a die whose deadline has passed. -/
def State.sagHeader (s : State) (t : BitVec 4) : State :=
  let a := s.sagArea t
  if a.2 = 0 then s
  else
    let s : State := { s with mem := s.mem.filter fun x => !decide (a.1 + 128 ≤ x.1 ∧ x.1 < a.1 + 4096) }
    (List.range 8).foldl (fun s d =>
    let l := ((s.sagRecs t).filter fun x => x.1 == d).foldl (fun m x => insertA (x.2.1, x.2.2) m) []
    let s := (chainOf l).foldl (fun s x => s.memWr (x.1 + 0x28) (wB (if x.2 = 0 then 0 else x.2 - a.1))) s
    s.memWr (a.1 + 16 * d) (wB (match l with | [] => 0 | x :: _ => x.1 - a.1)
      ++ wB (sumL (l.map (·.2)) % 2 ^ 32 + at_ 32 (b2n (!s.savesOn t d)) + at_ 33 (b2n (s.coord.kills.contains (t.toNat, d)))))) s
/-- Write one record at the lowest gap of the area. -/
def State.sagPut (s : State) (t : BitVec 4) (bs : List Byte) (more : List (Nat × Nat)) : Option (State × Nat) :=
  let a := s.sagArea t
  let n := ceilDiv bs.length 64 * 64
  if a.2 = 0 then none
  else (lowGap ((a.1, 4096) :: ((s.sagRecs t).map fun x => (x.2.1, x.2.2)) ++ more) a.1 a.2 n).map fun p => (s.memWr p (padB n bs), p)
def State.sagPuts (s : State) (t : BitVec 4) (got : List (Nat × Nat)) : List (List Byte) → Option (State × List (Nat × Nat))
  | [] => some (s, got)
  | b :: l => match s.sagPut t b got with
    | none => none
    | some (s, p) => s.sagPuts t (got ++ [(p, ceilDiv b.length 64 * 64)]) l

/-! ## Saving a task -/

/-- The bytes of a seat's record. -/
def State.seatLen (s : State) (r : TRec) (q : Seat) : Nat := recLen q.ctxs.length r.acnt r.gcnt (r.tcmk * 1024) (s.cspLen q.tile (q.ctxs.headD 0))
/-- Cycles of a save at 128 bytes per cycle and tile (R174, R358). (DEDUCED, log 56.) -/
def State.saveCycles (s : State) (r : TRec) : Nat := ceilDiv (maxL (r.seats.map (s.seatLen r))) 128
/-- Operations that a save does not wait for: a contribution to a group has reached the coordinator. (DEDUCED, log 57.) -/
def State.opParked (s : State) (n : Nat) (o : Op) : Bool :=
  (if o.act.isGroup then s.groupHas n o.id else ((s.focus n).parkedIds true).contains o.id)
/-- No entry is on its way to the tile or from it. -/
def State.linksQuiet (s : State) (n : Nat) : Bool :=
  (List.finRange 4).all fun d => ((s.tileN n).nlink[d]).isEmpty && ((s.tileN (neighbour n d)).nlink[opp d]).isEmpty
/-- Every context stands and every access is performed (R340). (DEDUCED, log 57.) -/
def State.saveReady (s : State) (r : TRec) : Bool :=
  (s.ctxsOfRec r).all (fun x => x.2.st == .saved || x.2.st == .faulted || x.2.st == .migrating)
  && r.seats.all fun q =>
    let t := s.tileN q.tile
    (t.ops.all fun o => !q.ctxs.contains o.ctx || s.opParked q.tile o) && (t.copies.all fun k => !q.ctxs.contains k.ctx || k.outs.isEmpty)
    && (t.away.all fun a => !q.ctxs.contains a.ctx)
    && (r.gang == 0 || s.linksQuiet q.tile)
/-- What a save leaves in the record: PREEMPTED, held or not. -/
def TRec.parkAs (r : TRec) (hold : Bool) : TRec := { (r.setSt .preempted) with held := hold, hold := false, sv := 0, why := 0 }
/-- A task that is not held goes back to its ready queue at its sequence (R343). -/
def State.park (s : State) (hold : Bool) (die idx : Nat) : State := if hold then s else s.toReady die idx
/-- The contexts of a task stop to be saved, unless the task may retire first: then they stay as they are until it cannot any more (R348). -/
def State.saveAll (s : State) (die idx : Nat) : State :=
  if s.mayRetire (s.trec die idx) then s else s.endRec die idx none .save
/-- The save of a task begins (R358, R428, R449): a task with no state of its own yet is only taken back. -/
def State.beginSave (s : State) (die idx why : Nat) (hold : Bool) : State :=
  let r := s.trec die idx
  match r.st with
  | .running =>
    ((s.gateAll (s.pointers r r.seats)).modRec die idx fun r => { r with sv := 1, why := why, hold := hold || r.hold }).saveAll die idx
  | .placed => ((s.unplace die idx).modRec die idx fun r => r.parkAs hold).park hold die idx
  | .ready => if hold then s.modRec die idx fun r => r.parkAs true else s
  | _ => s
/-- The operations that have no word of their own in a record, by seat and context. (DEDUCED, log 57.) -/
def State.parkOps (s : State) (r : TRec) : List (Nat × Op) :=
  r.seats.zipIdx.flatMap fun x => ((s.tileN x.1.tile).ops.filter fun o => x.1.ctxs.contains o.ctx && o.extra (s.tileN x.1.tile)).map fun o =>
    (8 * x.2 + pos? x.1.ctxs o.ctx, match o.act with
      | .bget d b pa n t => { o with act := .bget d b (pa - x.1.base) n t }
      | .bput d b v bs pa n t => { o with act := .bput d b v bs (pa - x.1.base) n t }
      | _ => { o with accs := o.accs.map fun a => (x.1.accs.findIdx? (· == a)).getD 0 })
/-- What the save of one seat keeps beside its record. (DEDUCED, log 23; DEDUCED, log 57.) -/
def State.sideOf (s : State) (die idx : Nat) (r : TRec) (q : Seat) : Side :=
  let t := s.tileN q.tile
  let gang := r.gang != 0
  { mmr := (match t.tasks.find? (fun k => k.ref.die == die && k.ref.idx == idx && k.ref.copy == q.copy) with | some k => k.mmr | none => 0)
    nq := if gang then t.nq.toList.map List.length else []
    panels := if gang then t.panels else []
    strms := q.strms.map fun i => let g := t.strm[(Fin.ofNat 8 i : Fin 8)]; { ptk := g.ptk, slot := g.slot, halt := g.st == .run && g.halt, lose := g.lose, hold := g.hold }
    copies := (t.copies.filter fun c => q.ctxs.contains c.ctx).map fun c => { pos := pos? q.ctxs c.ctx, slot := c.slot, wtk := c.wtk, ptk := c.ptk, hold := c.hold }
    waits := q.ctxs.map fun c => (t.ops.filter fun o => o.ctx == c && (o.pend t 0).isSome).map fun o =>
      { k := (match o.act with | .otwait _ _ k => k | _ => 0), am := o.am, slot := o.slot, id := o.id, fired := o.fired } }
def State.parkFirst (s : State) (r : TRec) : Option (Nat × Nat) :=
  (r.seats.zipIdx.flatMap fun x => x.1.ctxs.zipIdx.filterMap fun y =>
    let c := (s.tileN x.1.tile).ctx y.1
    c.ctl.first.map fun f => (8 * x.2 + y.2, f.toNat - c.cfg.rbase.toNat)).head?
/-- A FAULTED context of a twin copy is restored as such. -/
def State.markFaulted (s : State) (r : TRec) : State :=
  r.seats.foldl (fun s q => s.modTile q.tile fun t => q.ctxs.foldl (fun t c =>
    if (t.ctx c).st == .faulted then t.modCtx c fun x => x.setCtl { x.ctl with resume := .faulted } else t) t) s
/-- Words of a range that read as uncorrectable, as they stand in a copy of it. -/
def moveBad (l : List Nat) (a n b : Nat) : List Nat := (badIn l a n).map fun w => w - a / 8 + b / 8
/-- TCM words with an uncorrectable error read so in the record too, as in every copy (R398, R407). (DEDUCED, log 57.) -/
def State.markBad (s : State) (r : TRec) (got : List (Nat × Nat)) : State :=
  (r.seats.zip got).foldl (fun s x =>
    let m := s.recMap x.2.1
    let l := moveBad (s.tileN x.1.tile).tcmBad x.1.base (m.csp - m.tcm) (x.2.1 + m.tcm)
    { s with hearth := { s.hearth with memBad := l.foldl sinsert s.hearth.memBad } }) s
/-- The records are written and the tiles given up; none when the area has no room. (DEDUCED, log 56.) -/
def State.saveNow (s : State) (die idx : Nat) : Option State :=
  let r := s.trec die idx
  let s := s.markFaulted r
  match s.sagPuts r.tenant [] (r.seats.map (s.recBytes die idx)) with
  | none => none
  | some (s, got) =>
    let s := s.modRec die idx fun k => { k with
      saved := got, old := r.seats, parked := s.parkOps r, side := r.seats.map (s.sideOf die idx r), firstR := s.parkFirst r }
    some (((s.markBad r got).parkGroups die idx r).unplace die idx)
/-- D of a `csave` receives a status (R443). -/
def Op.answerStatus (status : Nat) (o : Op) : Op :=
  match o.act with
  | .req (.csave d _ _) _ => o.answer d (BitVec.ofNat 64 status)
  | _ => o
/-- A parked `csave` of the task itself is answered where it is parked (R449). -/
def TRec.answerParked (r : TRec) (n id status : Nat) : TRec :=
  let mine := fun o : Op => r.old.any (fun q => q.tile == n) && o.id == id
  { r with reply := none, parked := r.parked.map fun p => (p.1, if mine p.2 then { Op.answerStatus status p.2 with act := .plain, due := some 0 } else p.2) }
/-- DEDUCED, log 58. -/
def State.saveReply (s : State) (die idx status : Nat) : State :=
  match (s.trec die idx).reply with
  | none => s
  | some (n, id) =>
    let s := s.modRec die idx fun r => r.answerParked n id status
    if n = 4096 then s.answerOut id none false false [BitVec.ofNat 64 status] else s.replyOp n id (Op.answerStatus status)
/-- A task is killed for want of time or room (R432): its contexts go FREE. -/
def State.killTask (s : State) (die idx : Nat) : State :=
  let t := (s.trec die idx).tenant
  let s := ((s.failTask die idx (FRec.of 7 0 s.clock)).unplace die idx).clearHusk die idx (s.trec die idx).old
  let s := s.modRec die idx fun r => { r with sv := 0, why := 0 }
  (State.sagHeader { s with coord := { s.coord with kills := (t.toNat, die) :: s.coord.kills } } t).saveReply die idx 1
/-- The whole save is complete: PREEMPTED, then READY unless held. -/
def State.saveEnd (s : State) (die idx : Nat) : State :=
  let r := s.trec die idx
  let s := ((s.clearHusk die idx r.old).modRec die idx fun k => k.parkAs r.hold).saveReply die idx 0
  (s.park r.hold die idx).sagHeader r.tenant
/-- A save that its task's retirement overtakes ends, and the entries that point at the task are open again. (DESIGN CHOICE, log 48.) -/
def State.dropSave (s : State) (die idx : Nat) : State :=
  let r := s.trec die idx
  if r.sv = 0 then s
  else
    let s := (s.pointers r r.seats).foldl (fun s x => s.modTile x.1 fun t => t.ungate x.2) s
    (s.modRec die idx fun k => { k with sv := 0, why := 0, hold := false }).saveReply die idx 1
/-- DESIGN CHOICE, log 48. -/
def execTaskRetirement (s : State) : Out3 :=
  match s.ev with
  | .taskRetirement d i =>
    let r := s.trec d i
    .next (if s.retireMay r then
      (s.dropSave d i).modRec d i fun k => { (k.setSt .retiring) with code := maxCode ((s.ctxsOfRec r).map (·.2)) } else s)
  | _ => .next s
/-- A context that was ending otherwise when the save began, and has since stopped, is saved too. (DESIGN CHOICE, log 48.) -/
def State.saveMore (s : State) (die idx : Nat) : State :=
  if (s.ctxsOfRec (s.trec die idx)).any fun x => x.2.st.endable .save && x.2.ctl.ending == .none then s.saveAll die idx else s
/-- One look at a save that is under way. -/
def State.saveStep (s : State) (die idx : Nat) : State :=
  let r := s.trec die idx
  if r.st = .faulted then (s.modRec die idx fun r => { r with sv := 0 }).saveReply die idx 1
  else match r.sv with
  | 1 =>
    if s.saveReady r then s.modRec die idx fun r => { r with sv := 2, svEnd := s.clock + s.saveCycles r } else s.saveMore die idx
  | 2 =>
    if s.clock < r.svEnd then s
    else match s.saveNow die idx with | some s => s.saveEnd die idx | none => s.killTask die idx
  | 3 => if s.clock < r.svEnd then s else s.saveEnd die idx
  | _ => s
/-- R152, R449: a breakpoint has the task saved as `csave` with HOLD = 1 does. -/
def State.holdTask (s : State) (die idx : Nat) (hold : Bool) : State :=
  let r := s.trec die idx
  if r.sv ≠ 0 then s.modRec die idx fun r => { r with hold := r.hold || hold }
  else if r.st = .running then s.beginSave die idx 2 hold
  else s.saveReply die idx 1
def execTaskSaveComplete (s : State) : Out3 :=
  match s.ev with
  | .taskSaveComplete d i => .next (s.saveStep d i)
  | .holdTask d i hold => .next (s.holdTask d i hold)
  | _ => .next s
/-- DEDUCED, log 56. -/
def execVictimSaveComplete (s : State) : Out3 := match s.ev with | .victimSaveComplete d i => .next (s.saveStep d i) | _ => .next s

/-! ## Class-0 pre-emption (R358) -/

/-- A candidate victim. -/
def State.victimOk (s : State) (r : TRec) : Bool :=
  r.st == .running && r.sv == 0 && r.gang == 0 && !r.held && s.mayRun r.tenant
/-- The victim of a die: class 3 before 2 before 1, the one placed most recently. -/
def State.victim (s : State) (die : Nat) : Option Nat :=
  let l := (s.die die).recs.filter fun x => s.victimOk x.2 && x.2.dclass != 0
  (firstBy (fun a b => decide (b.2.dclass < a.2.dclass) || (a.2.dclass == b.2.dclass && decide (b.2.since ≤ a.2.since))) l).map (·.1)
/-- The class-0 task for which a victim is saved, while it is READY. (DEDUCED, log 56.) -/
def State.urgent (s : State) (die : Nat) : Option Nat :=
  (s.die die).pre.bind fun x => x.2.2.bind fun i => if (s.trec die i).st = .ready ∧ !(s.trec die i).held then some i else none
/-- Bytes of the part that is saved first: what the class-0 task will occupy. (DEDUCED, log 56.) -/
def State.firstPart (s : State) (die : Nat) : Nat :=
  match s.urgent die with
  | some i => let x := s.trec die i; x.nctx * 22528 + x.acnt * 16384 + x.tcmk * 1024
  | none => 0
/-- What is left of a range when another has been cut out of it. -/
def cutRange (a n b m : Nat) : List (Nat × Nat) :=
  [(a, min n (b - a)), (a + n - min n (a + n - (b + m)), min n (a + n - (b + m)))].filter fun x => x.2 != 0
/-- A seat of a victim keeps, until it is saved whole, what the class-0 task does not take (R358). (DEDUCED, log 56.) -/
def State.keepRest (s : State) (die idx : Nat) (r : TRec) (q : Seat) : State :=
  let got := (s.urgent die).bind fun i => (s.fit (s.need (s.trec die i)) q.tile 0 0).map fun e => (e, (s.trec die i).tcmk * 1024)
  s.modTile q.tile fun t => { t with husks := t.husks ++ [match got with
    | some (e, n) => { die := die, idx := idx, ctxs := q.ctxs.filter fun c => !e.ctxs.contains c, accs := q.accs.filter fun a => !e.accs.contains a,
                       strms := q.strms.filter fun g => !e.strms.contains g, tcm := cutRange q.base (r.tcmk * 1024) e.base n }
    | none => { die := die, idx := idx, ctxs := q.ctxs, accs := q.accs, strms := q.strms, tcm := [(q.base, r.tcmk * 1024)] }] }
/-- The class-0 task is placed as soon as the first part is saved; where it cannot be, the picker looks again. -/
def State.endPre (s : State) (die : Nat) : State :=
  let u := s.urgent die
  let s := s.modDie die fun x => { x with pre := none }
  match u.bind (s.placePaid die) with
  | some s => s
  | none => s.push [.placementDecision die]
/-- The victim stops; once it stands, its save begins; when the first part is saved the class-0 task is placed there. -/
def execClass0Preemption (s : State) : Out3 :=
  match s.ev with
  | .class0Preemption d =>
    .next (match (s.die d).pre with
      | none =>
        match s.victim d with
        | none => s
        | some v => (s.beginSave d v 1 false).modDie d fun x => { x with pre := some (v, 0, s.roomless d) }
      | some (v, at1, who) =>
        let r := s.trec d v
        if r.why ≠ 1 ∨ r.st = .faulted then s.modDie d fun x => { x with pre := none }
        else if r.sv = 1 then
          let s := s.saveStep d v
          if (s.trec d v).sv = 2 then s.modDie d fun x => { x with pre := some (v, s.clock + ceilDiv (s.firstPart d) 128, who) } else s
        else if r.sv = 2 ∧ at1 ≤ s.clock then
          match s.saveNow d v with
          | some s => ((r.seats.foldl (fun s q => s.keepRest d v r q) s).modRec d v fun r => { r with sv := 3 }).endPre d
          | none => (s.killTask d v).modDie d fun x => { x with pre := none }
        else s)
  | _ => .next s

/-! ## Restoring (R433) -/

/-- The saved SRCID of a binding that names an old seat, renamed to the new one. -/
def moveSrc (own : Nat) (old new : List Seat) (x : BitVec 32) : BitVec 32 :=
  if srcMod x ≠ own then x
  else match (old.zip new).find? (fun q => q.1.tile == srcTile x && q.1.ctxs.contains (srcCtx x)) with
    | some q => mkSrc own q.2.tile (q.2.ctxs.getD (pos? q.1.ctxs (srcCtx x)) 0) (srcChan x)
    | none => x
/-- Bindings of placed tasks, and those in saved records of the tenant, follow the task. -/
def State.moveBinds (s : State) (t : BitVec 4) (old new : List Seat) : State :=
  if old = new then s
  else
    let ids := (s.allTiles.filter fun x => x.2.placed).map (·.1)
    let s := ids.foldl (fun s n => s.modTile n fun u => allCtx.foldl (fun u c => if (u.ctx c).task.isNone then u else
      u.modCtx c fun x => { x with ib := x.ib.map fun b => if b.bv then { b with src := moveSrc s.own old new b.src } else b }) u) s
    ((s.recsAll.filter fun x => x.2.2.tenant == t).flatMap fun x => (x.2.2.saved.zip x.2.2.old)).foldl (fun s y =>
      (List.range y.2.ctxs.length).foldl (fun s i => (List.range 16).foldl (fun s ch =>
        let a := y.1.1 + 256 + 22528 * i + 0x5400 + 0x60 + 8 * ch
        let b := IBind.ofWord (s.memWord a)
        if b.bv then s.setMemWord a ({ b with src := moveSrc s.own old new b.src }).word else s) s) s) s
/-- A route entry moved from an old seat to the new one. -/
def moveRoute (old new : List Seat) (e : Nat) : Word :=
  match (old.zip new).find? (fun q => q.1.tile == rTile e && (rKind e == 2 || q.1.ctxs.contains (rCtx e))) with
  | some q =>
    let c := if rKind e = 2 then 0 else (q.2.ctxs.getD (pos? q.1.ctxs (rCtx e)) 0).val
    putFld (putFld (putFld (BitVec.ofNat 64 e) 17 3 (dieOf q.2.tile)) 20 8 (tileIn q.2.tile)) 28 3 c
  | none => BitVec.ofNat 64 e
/-- Labels of a placed task for its stream edges, from its bindings: the consumer's entry, or a gate while that is not placed. -/
def State.streamRoute (s : State) (die pi : Nat) (e : Word) : State :=
  let p := s.trec die pi
  let c := s.trec die (eTask e)
  match p.seats.head? with
  | none => s
  | some pq =>
    let px := pq.ctxs.getD (nfld e.toNat 18 3) 0
    let pe : Chan := Fin.ofNat 16 (nfld e.toNat 21 4)
    let l := (((s.tileN pq.tile).ctx px).eb[pe]).label.toNat
    match (if c.saved.isEmpty && c.sv == 0 then c.seats.head? else none) with
    | none => s.modTile pq.tile fun t => t.gate l
    | some cq =>
      let cx := cq.ctxs.getD (nfld e.toNat 25 3) 0
      let g := (((s.tileN cq.tile).ctx cx).ib[(Fin.ofNat 16 (nfld e.toNat 28 4) : Chan)]).gen.toNat
      s.modTile pq.tile fun t => (t.setRoute l (routeWord 1 (s.vnOf p.tenant) s.own (dieOf cq.tile) (tileIn cq.tile) cx.val (nfld e.toNat 28 4) g 0)).ungate l
/-- Entries of other tasks that point at the record, and its own, are written for its place (R399, R433). -/
def State.repoint (s : State) (die idx : Nat) : State :=
  let r := s.trec die idx
  let s := if (s.inst r.inst).recs[r.tmplEntry]? = some (die, idx) then s.completeDecls r.inst r.tenant r.tmplEntry else s
  let s := (s.recsOfInst r.tenant r.inst).foldl (fun s x =>
    if x.1 = die ∧ !x.2.2.seats.isEmpty ∧ x.2.2.saved.isEmpty then
      ((s.streamed die x.2.2).filter fun e => eTask e == idx || x.2.1 == idx).foldl (fun s e => s.streamRoute die x.2.1 e) s else s) s
  match s.entryOf r with
  | some e => r.seats.foldl (fun s q => e.routes.foldl (fun s d => s.writeDecl r q.tile d) s) s
  | none => s
/-- The operations that wait, from the PEND words of a context, with their numbers as (saved, new). -/
def State.restorePend (s : State) (q : Seat) (c : Fin 8) (a key : Nat) (ks : List PWait) : State × List (Nat × Nat) :=
  let n := q.tile
  let bm := (s.bmap n c).toNat
  (List.range 16).foldl (fun (acc : State × List (Nat × Nat)) i =>
    let s := acc.1
    let t := s.tileN n
    let phase := nfld (reg (s.clus (clusOf n)).regs (0xa00 + 8 * nfld bm 57 3)).toNat 21 1 == 1
    let y := ks.getD i { PWait.zero with am := (t.ctx c).regs.amode }
    match pendOp c (s.memNat (a + 8 * i) 8) t.nextId t (t.ctx c) bm phase s.clock y with
    | none => acc
    | some o =>
      let s := s.modTile n fun t => { t with ops := t.ops ++ [o], nextId := t.nextId + 1 }
      (match o.act with | .group _ _ => s.relinkGroup key n o | _ => s, (y.id, o.id) :: acc.2)) (s, [])
/-- An operation parked with no word in the record; a buffer request as its record gives it. (DEDUCED, log 57.) -/
def State.restoreOp (s : State) (q : Seat) (c : Fin 8) (o : Op) (req : Option Nat) : State :=
  let n := q.tile
  let id := (s.tileN n).nextId
  let o := { o with id := id, ctx := c, accs := o.accs.map fun i => q.accs.getD i 0, act := match o.act with
    | .bget d b pa k t => .bget d b (pa + q.base) k t | .bput d b v bs pa k t => .bput d b v bs (pa + q.base) k t | .mem m => .mem { m with sent := false, home := 0 }
    | .rsend l es tw _ => .rsend l es tw false
    | .cbar d _ arr ph => .cbar d (nfld (s.bmap n c).toNat 57 3) arr ph | x => x }
  let o := match req with | some a => Op.ofReq s o a q.base (s.bmap n c).toNat | none => o
  s.modTile n fun t => { t with ops := t.ops ++ [o], nextId := id + 1 }
/-- The state of one seat from its record. -/
def State.restoreSeat (s : State) (die idx : Nat) (r : TRec) (i : Nat) (q : Seat) (a : Nat) : State :=
  let m := s.recMap a
  let n := q.tile
  let st := s.memNat (a + 0x20) 8
  let y := r.side.getD i Side.zero
  let s := q.ctxs.zipIdx.foldl (fun s x => s.modTile n fun t => t.modCtx x.1 fun y =>
    s.ctxAt (a + m.ctx + 22528 * x.2) y (CSt.ofCode (BitVec.ofNat 3 (nfld st (4 * x.2) 3)))) s
  let s := q.accs.zipIdx.foldl (fun s x => s.modTile n fun t => t.setAcc (Fin.ofNat 4 x.1) (s.accAt (a + m.acc + 16384 * x.2) (a + m.accp + 64 * x.2))) s
  let s := q.strms.zipIdx.foldl (fun s x => s.modTile n fun t => t.setStrm (Fin.ofNat 8 x.1)
    (s.strmAt (a + m.strm + 64 * x.2) q.ctxs (y.strms.getD x.2 SStrm.zero))) s
  let s := y.copies.zipIdx.foldl (fun s x => match s.copyAt (a + m.copy + 64 * x.2) q.ctxs (s.tileN n).nextId x.1 with
    | some c => s.modTile n fun t => { t with copies := t.copies ++ [c], nextId := t.nextId + 1 } | none => s) s
  let s := s.modTile n fun t => t.tcmWr q.base (s.memRd (a + m.tcm) (m.csp - m.tcm))
  let s := s.modTile n fun t => { t with tcmBad := (moveBad s.hearth.memBad (a + m.tcm) (m.csp - m.tcm) q.base).foldl sinsert t.tcmBad }
  let bar := (s.bmap n (q.ctxs.headD 0)).toNat
  let s := if bitN bar 56 ∧ q.member = 0 then s.modClus (clusOf n) fun k =>
      { k with regs := setReg k.regs (0xa00 + 8 * nfld bar 57 3) (putFld (reg k.regs (0xa00 + 8 * nfld bar 57 3)) 13 9 (nfld (s.memNat (a + m.clus + 64) 8) 13 9)) }
    else s
  let s := if r.gang = 0 then s else s.modTile n fun t =>
    { t with panels := y.panels, nq := Vector.ofFn fun d : Fin 4 => s.chanAt (a + m.clus + 128 + 528 * d.val) (y.nq.getD d.val 0) }
  let otok := (List.range 15).foldl (fun o k => mset 0 o (k + 1) (s.memNat (a + 0x30 + 4 * k) 4)) ([] : AMap Nat)
  let pend := ((s.tileN n).copies.filter fun c => q.ctxs.contains c.ctx && c.f.pt.val != 0).map (fun c => (c.f.pt.val, c.ptk))
    ++ (q.strms.map fun g => (s.tileN n).strm[(Fin.ofNat 8 g : Fin 8)]).filterMap fun g => if g.st == .run && g.pt != 0 then some (g.pt, g.ptk) else none
  let pend := pend ++ (r.parked.filter fun p => p.1 / 8 == i && p.2.pt.1 != 0).map fun p => p.2.pt
  let s := s.modTile n fun t => { t with tasks := t.tasks.map fun k =>
    if k.ref.die == die && k.ref.idx == idx && k.ref.copy == q.copy then
      { k with bleft := s.memNat (a + 8) 8, otok := otok, pend := pend, mmr := y.mmr } else k }
  let w := q.ctxs.zipIdx.foldl (fun (acc : State × List (Nat × Nat)) x =>
    let p := acc.1.restorePend q x.1 (a + m.ctx + 22528 * x.2 + 0x5400 + 0x1e0) (parkKey die idx i x.2) (y.waits.getD x.2 [])
    (p.1, p.2 ++ acc.2)) (s, [])
  let w := (r.parked.filter fun p => p.1 / 8 == i).foldl (fun (acc : State × List (Nat × Nat) × Nat) p =>
    let k := acc.2.2
    let req := if p.2.act.isBuf && decide (k < 4) then some (a + m.req + 288 * k) else none
    (acc.1.restoreOp q (q.ctxs.getD (p.1 % 8) 0) p.2 req, (p.2.id, (acc.1.tileN n).nextId) :: acc.2.1, if p.2.act.isBuf then k + 1 else k)) (w.1, w.2, 0)
  let ren := fun l : List Nat => l.filterMap fun id => (w.2.1.find? fun z => z.1 == id).map (·.2)
  w.1.modTile n fun t =>
    let t := q.strms.foldl (fun (t : Tile) g => let x := t.strm[(Fin.ofNat 8 g : Fin 8)]; t.setStrm (Fin.ofNat 8 g) { x with hold := ren x.hold }) t
    { t with copies := t.copies.map fun c => if q.ctxs.contains c.ctx then { c with hold := ren c.hold } else c }
/-- Credits of the links between members: what the queues do not hold. -/
def State.linkCredits (s : State) (r : TRec) : State :=
  if r.gang = 0 then s
  else r.seats.foldl (fun s q => s.modTile q.tile fun t =>
    { t with ncred := Vector.ofFn fun d : Fin 4 => 8 - ((s.tileN (neighbour q.tile d)).nq[opp d]).length }) s
/-- A recorded watch is armed again (R151). -/
def State.armAgain (s : State) (n : Nat) (c : Fin 8) (w : Watch) : State :=
  let k := s.watchDelay n ((s.tileN n).ctx c).tenant w
  (s.modTile n fun t => t.modCtx c fun x =>
    { x with watches := x.watches.map fun y => if y.pred = w.pred then { y with due := s.clock + k } else y }).later k (.watchArm n c w.pred)
/-- The contexts leave SAVED or MIGRATING for their resume states; watches are armed again, LEFT is QUOTA, and withdrawn buffer requests are issued anew, in the
order of their fires (R19, R282, R401, R433). -/
def State.resumeSeat (s : State) (q : Seat) : State :=
  let again := (s.tileN q.tile).ops.filter fun o => q.ctxs.contains o.ctx && (o.act.isBuf || match o.act with | .bwait _ _ _ => true | _ => false)
  let s := s.push (again.map fun o => .bufferRequest q.tile o.id)
  q.ctxs.foldl (fun s c =>
    let x := (s.tileN q.tile).ctx c
    let s := s.modTile q.tile fun t => t.modCtx c fun x => { x with st := x.ctl.resume, left := x.quota, ctl := { x.ctl with resume := .free } }
    x.watches.foldl (fun s w => s.armAgain q.tile c w) s) s
def State.resumeRec (s : State) (die idx : Nat) : State :=
  let r := s.trec die idx
  let s := (r.seats.foldl State.resumeSeat s).modRec die idx fun r =>
    { r.setSt .running with sv := 0, why := 0, saved := [], old := [], parked := [], side := [], firstR := none, glazeForm := false }
  let s := s.repoint die idx
  s.sagHeader r.tenant
/-- Every task that is being restored for a switch has its state (R433). -/
def State.allRestored (s : State) (t : BitVec 4) : Bool :=
  s.recsAll.all fun x => !(x.2.2.tenant == t && x.2.2.why == 3 && x.2.2.st == .placed && x.2.2.sv != 4)
/-- R433: the state of a task has been written back. (DEDUCED, log 57.) -/
def State.restoreRec (s : State) (die idx : Nat) : State :=
  let r := s.trec die idx
  let s := ((r.seats.zip r.saved).zipIdx).foldl (fun s x => s.restoreSeat die idx r x.2 x.1.1 x.1.2.1) s
  let s := match r.firstR with
    | some (p, o) => match r.seats[p / 8]? with
      | some q => s.modTile q.tile fun t => t.modCtx (q.ctxs.getD (p % 8) 0) fun x => x.setCtl { x.ctl with first := some (x.cfg.rbase + BitVec.ofNat 9 o) }
      | none => s
    | none => s
  let s := (s.linkCredits r).moveBinds r.tenant r.old r.seats
  if r.why = 3 then
    let s := s.modRec die idx fun r => { r with sv := 4 }
    if s.allRestored r.tenant then
      (s.recsAll.filter fun x => x.2.2.tenant == r.tenant && x.2.2.sv == 4).foldl (fun s x => s.resumeRec x.1 x.2.1) s
    else s
  else s.resumeRec die idx
def execTaskRestoreComplete (s : State) : Out3 :=
  match s.ev with
  | .taskRestoreComplete d i =>
    let r := s.trec d i
    .next (if r.st = .placed ∧ !r.saved.isEmpty ∧ r.sv = 0 ∧ r.svEnd = s.clock ∧ (s.ctxsOfRec r).all (fun x => x.2.st == .saved) then s.restoreRec d i else s)
  | _ => .next s

end Sys2Proof.Machine
end

