-- ==== Sys2Proof/Machine/Shuttle.lean ====
section
/-! DEFINITION. Migration (R66 to R69, R394 to R404): the trap, the destination, the move of the state behind gates, the stub, and the resume. -/

namespace Sys2Proof.Machine
open Sys2Proof

/-! ## The trap (R67, R394, R403) -/

def State.setMig (s : State) (m : Mig) : State :=
  { s with winder := { s.winder with migs := s.winder.migs.map fun x => if x.die == m.die && x.idx == m.idx then m else x } }
def State.dropMig (s : State) (die idx : Nat) : State :=
  { s with winder := { s.winder with migs := s.winder.migs.filter fun m => !(m.die == die && m.idx == idx) } }
/-- SHSTUB, the number of stubs open (R409). -/
def State.countStubs (s : State) : State := s.setWreg 0x410 (BitVec.ofNat 64 (s.winder.migs.filter fun m => m.stage == 3).length)
/-- GL is set in the template entry of a record (R403). -/
def State.setGl (s : State) (r : TRec) : State :=
  let h := (s.inst r.inst).tmpl
  { s with coord := { s.coord with tmpls := s.coord.tmpls.map fun t =>
      if t.handle == h then { t with entries := t.entries.zipIdx.map fun e => if e.2 == r.tmplEntry then { e.1 with w := e.1.w.set 1 (putFld e.1.w[1] 51 1 1) } else e.1 } else t } }
/-- The seats that migrate: one copy of a twin, or the whole task. (DEDUCED, log 51.) -/
def migSeats (r : TRec) (rf : TRef) : List Seat := if r.twin then r.seats.filter fun q => q.copy == rf.copy else r.seats
/-- A marked slot has been chosen: its context fires nothing more, and from the next cycle on no other context of the task does, wherever it runs; they stop to
stand in MIGRATING. A copy of a twin that traps while the other migrates stops too, and migrates after it. (DEDUCED, log 51.) -/
def State.migTrap (s : State) (c : Fin 8) (slot : BitVec 9) (first : Option (BitVec 9)) : State :=
  let s := s.onTile fun t => t.modCtx c fun x => match x.ctl.ending with
    | .none => if x.st = .migrating then x else x.setCtl { x.ctl with ending := .mig slot, first := first, asleep := none } | _ => x
  match (s.tile.ctx c).task with
  | none => s
  | some rf =>
    let r := s.trec rf.die rf.idx
    if r.sv ≠ 0 ∨ (r.st ≠ .running ∧ r.st ≠ .migrating) then s
    else
      let s := s.atEnd (.endAll rf.die rf.idx (if r.twin then some rf.copy else none) (.mig slot))
      if r.st = .migrating then s
      else
        let m : Mig := { die := rf.die, idx := rf.idx, src := migSeats r rf, dst := [], slot := slot.toNat, ctx := c.val, stage := 1, start := s.clock, bytes := 0, gates := [] }
        let s := (s.modRec rf.die rf.idx fun r => r.setSt .migrating).setGl r
        { s with winder := { s.winder with migs := s.winder.migs ++ [m] } }
/-- R67; a trap of a rule whose result was found only after its fire has no rule to fire again (R69). (DEDUCED, log 51.) -/
def execMigrateTrap (s : State) : Out3 :=
  match s.ev with
  | .migrateTrap c slot => .next (s.migTrap c slot (some slot))
  | .lateMigrateTrap n c slot => let s := s.focus n; .next (if (s.tile.ctx c).ctl.ending = .none then s.migTrap c slot none else s)
  | _ => .next s

/-! ## Destination (R395, R396) -/

/-- The contexts of the migration. -/
def State.migCtxs (s : State) (m : Mig) : List (Nat × Fin 8 × Ctx) := m.src.flatMap fun q => q.ctxs.map fun c => (q.tile, c, (s.tileN q.tile).ctx c)
/-- Every context stands, and every access is performed and acknowledged (R340, R394). -/
def State.migQuiet (s : State) (m : Mig) : Bool :=
  (s.migCtxs m).all (fun x => x.2.2.st == .migrating)
  && m.src.all fun q =>
    let t := s.tileN q.tile
    (t.ops.all fun o => !q.ctxs.contains o.ctx || s.opParked q.tile o) && (t.copies.all fun k => !q.ctxs.contains k.ctx) && (t.away.all fun a => !q.ctxs.contains a.ctx)
    && s.linksQuiet q.tile
/-- The CSP buffers that a context's BMAP grants: (k, cluster, descriptor); and its barrier. -/
def State.bmapBufs (s : State) (q : Seat) : List (Nat × Nat × Nat) :=
  let b := (s.bmap q.tile (q.ctxs.headD 0)).toNat
  (List.range 8).filterMap fun k => if bitN b (7 * k + 6) then some (k, clusOf q.tile, nfld b (7 * k) 6) else none
/-- Another placed task maps one of the buffers or holds the barrier. -/
def State.sharesClus (s : State) (m : Mig) : Bool :=
  m.src.any fun q =>
    let mine := (s.bmapBufs q).map fun x => x.2.2
    let bar := (s.bmap q.tile (q.ctxs.headD 0)).toNat
    (List.range 16).any fun p =>
      let n := tileAtPos (clusOf q.tile) p
      allCtx.any fun c => match ((s.tileN n).ctx c).task with
        | none => false
        | some k =>
          if k.die == m.die && k.idx == m.idx then false
          else
            let b := (s.bmap n c).toNat
            (List.range 8).any (fun i => bitN b (7 * i + 6) && mine.contains (nfld b (7 * i) 6)) || (bitN bar 56 && bitN b 56 && nfld b 57 3 == nfld bar 57 3)
/-- Room for the task's CSP window, whole, in cluster `c` (R398). -/
def State.cspRoom (s : State) (m : Mig) (c : Nat) : Option CspMove :=
  match m.src with
  | [] => none
  | q :: _ => s.cspMove (clusOf q.tile) c ((s.bmapBufs q).map (·.2.2))
/-- Needs of a migrating task: the labels and windows it uses stay the same numbers. -/
def State.migNeed (s : State) (r : TRec) : Need := { s.need r with labels := r.labels, wins := r.wins }
def State.migClusOk (s : State) (m : Mig) (r : TRec) (c : Nat) : Bool :=
  (s.cspRoom m c).isSome && (!r.barq || (s.barFree c).isSome)
/-- The first Glaze tile, or cluster for a gang, of a die with room. -/
def State.migSeat (s : State) (m : Mig) (r : TRec) (d : Nat) : Option (List Seat) :=
  let nd := s.migNeed r
  if r.gang ≠ 0 then
    ((dieClusters d).filterMap fun c =>
      let ts := (List.range (r.gang + 1)).map fun p => tileAtPos c p
      if s.migClusOk m r c && !s.gangIn c && ts.all (fun n => s.domOk r.tenant n && (s.tileN n).busyCtxs.isEmpty) then
        allSome (ts.zipIdx.map fun x => s.fit nd x.1 x.2 0) else none).head?
  else
    match m.src with
    | [] => none
    | q :: _ => ((dieTiles d).filterMap fun n =>
        if s.domOk r.tenant n && s.migClusOk m r (clusOf n) then s.fit nd n q.member q.copy else none).head?.map fun x => [x]
/-- Bytes of R402. -/
def State.migBytes (s : State) (m : Mig) (r : TRec) : Nat :=
  maxL (m.src.map fun q => q.ctxs.length * 22528 + r.acnt * 16384 + r.tcmk * 1024 + s.cspLen q.tile (q.ctxs.headD 0))
/-- Buffers and the barrier of the task are granted in the destination cluster; the contents follow when the stub opens (R398). -/
def State.moveCsp (s : State) (m : Mig) (r : TRec) (c : Nat) (dst : List Seat) : State :=
  let bar := if r.barq then s.barFree c else none
  let s := match bar with
    | some b => s.modClus c fun x => { x with regs := setReg x.regs (0xa00 + 8 * b) (BitVec.ofNat 64 (1 + at_ 1 r.tenant.toNat + at_ 5 r.bexp)) }
    | none => s
  let csp := match s.cspRoom m c with
    | some v => (match m.src with | q :: _ => (s.bmapBufs q).map v.entry | [] => [])
    | none => []
  let s := match s.cspRoom m c with | some v => s.grantCsp v | none => s
  let w := (s.clus c).window (csp.map (·.2.2))
  dst.foldl (fun s q =>
    let s := s.modClus c fun x => { x with regs := q.ctxs.foldl (fun g y =>
      setReg (setReg g (0x10 * (8 * posOf q.tile + y.val)) (cspwWord w r.tenant)) (0x10 * (8 * posOf q.tile + y.val) + 8) (bmapWord csp bar)) x.regs }
    if r.gang = 0 then s else s.modClus c fun x => { x with regs := setReg x.regs (0xa40 + 8 * posOf q.tile) (grantWord r q) }) s
/-- A destination is reserved: its contexts are withheld, its image loads, and the stub will open when the state has been read out. -/
def State.reserve (s : State) (m : Mig) (r : TRec) (dst : List Seat) : State :=
  match s.imageOf r with
  | none => s
  | some img =>
    let s := dst.foldl (fun s q => s.modTile q.tile fun t => q.ctxs.zipIdx.foldl (fun t x =>
      t.setCtx x.1 { (s.seatCtx m.die m.idx r q (img.descs.getD x.2 0)) with ib := Vector.replicate 16 .zero }) t) s
    let s := dst.foldl (fun s q => s.modTile q.tile fun t =>
      { t with tasks := t.tasks ++ [{ ref := ⟨m.die, m.idx, q.member, q.copy⟩, bleft := r.bound, debug := r.debug, priv := r.priv, gang := r.gang, otok := [], pend := [], mmr := 0 }] }) s
    let s := match m.src, dst with
      | _ :: _, b :: _ => s.moveCsp m r (clusOf b.tile) dst
      | _, _ => s
    let s := dst.foldl (fun s q => s.loadImage r img 0 q) s
    let b := s.migBytes m r
    (s.setMig { m with dst := dst, stage := 2, start := s.clock, bytes := b }).later (598 + ceilDiv b 128) (.stubOpen m.die m.idx)
/-- The reserved destination is free again. -/
def State.dropDst (s : State) (m : Mig) : State :=
  let r := s.trec m.die m.idx
  let s := { s with queue := s.queue.filter fun x => !Ev.loadsSeat m.dst x.2 }
  let s := m.dst.foldl (fun s q =>
    let s := (s.bmapBufs q).foldl (fun s x => s.modClus x.2.1 fun k => { k with regs := setReg k.regs (0x800 + 8 * x.2.2) 0 }) s
    s.clearSeat m.die m.idx r q) s
  s.dropMig m.die m.idx
/-- A fault ends a migration before its stub opens: the contexts that the destination has loaded are FAULTED, and released at the next look (R19, R396). (DEDUCED, log 51.) -/
def State.faultDst (s : State) (m : Mig) : State :=
  (m.dst.foldl (fun s q => s.modTile q.tile fun t => q.ctxs.foldl (fun t c =>
    if (t.ctx c).st == .migrating then t.modCtx c fun x => { x with st := .faulted } else t) t) s).setMig { m with stage := 4 }
/-- The other copy of a twin runs on when one ends its migration without a resume. -/
def State.twinOn (s : State) (m : Mig) : State :=
  let r := s.trec m.die m.idx
  if r.twin ∧ r.st = .migrating then s.modRec m.die m.idx fun r => r.setSt .running else s
/-- R396: the migration is refused: the task faults with cause 0x21, or that copy of a twin alone. -/
def State.refuseMig (s : State) (m : Mig) : State :=
  let info := { StopInfo.mk0 0x21#8 m.slot s.clock with loc := 0 }
  let n := (m.src.headD { tile := 0, ctxs := [], member := 0, copy := 0, base := 0, first := 0, accs := [], strms := [] }).tile
  let s := ((s.dropMig m.die m.idx).bumpWreg 0x408 1).twinOn m
  let s := if (s.trec m.die m.idx).twin then s.modRec m.die m.idx fun k => if k.info.isSome then k else { k with info := some info, stopd := [tileIn n, m.ctx] }
    else s.failTask m.die m.idx (FRec.stop info n (Fin.ofNat 8 m.ctx))
  m.src.foldl (fun s q => s.modTile q.tile fun t => q.ctxs.foldl (fun t c => t.faultCtx c) t) s
/-- Contexts of a migrating task that another end has left RUNNING, SHADOW or STOPPED stand for the migration too (R394). -/
def State.migMore (s : State) (m : Mig) (r : TRec) : State :=
  if (s.migCtxs m).any fun x => x.2.2.st.endable (.mig 0) && x.2.2.ctl.ending == .none then
    s.endRec m.die m.idx (if r.twin then (m.src.head?).map (·.copy) else none) (.mig (BitVec.ofNat 9 m.slot))
  else s
/-- Migrations that wait: one whose task, or whose copy of a twin, has faulted is abandoned, one that shares cluster state is refused, the others take a
destination. (DEDUCED, log 51.) -/
def State.migStep (s : State) (m : Mig) : State :=
  let r := s.trec m.die m.idx
  if m.stage = 4 then s.dropDst m
  else if r.st ≠ .migrating then s.faultDst m
  else if r.twin ∧ (s.migCtxs m).any (fun x => x.2.2.st == .faulted) then (s.faultDst m).twinOn m
  else if m.stage ≠ 1 then s
  else if !s.migQuiet m then s.migMore m r
  else if s.sharesClus m then s.refuseMig m
  else
    match (migDies (dieOf ((m.src.map (·.tile)).headD 0))).findSome? fun d => s.migSeat m r d with
    | some dst => s.reserve m r dst
    | none => s
/-- R395: at the trap's end, and whenever a Glaze destination frees. -/
def execMigrationDestinationFree (s : State) : Out3 :=
  match s.ev with
  | .migrationDestinationFree => .next ((s.winder.migs.filter fun m => m.stage != 3).foldl (fun s m => s.migStep m) s)
  | _ => .next s

/-! ## The move (R397 to R400) -/

def seatCtxOf (src dst : Seat) (c : Fin 8) : Fin 8 := dst.ctxs.getD (pos? src.ctxs c) 0
/-- A context image in its place on the destination (R397). -/
def Ctx.moved (x y : Ctx) : Ctx :=
  { x with
    cfg := { x.cfg with rbase := y.cfg.rbase, rlast := y.cfg.rlast, succ := y.cfg.succ, srot := y.cfg.rbase +
      ((match x.ctl.first with | some n => n | none => x.cfg.srot) - x.cfg.rbase) }
    ctl := { x.ctl with first := x.ctl.first.map fun n => y.cfg.rbase + (n - x.cfg.rbase) }
    tbase := y.tbase, quota := y.quota, left := y.quota, ag := y.ag, task := y.task, st := .migrating }
/-- Operations, copies and streams carried over, their numbers shifted by `k`. -/
def Op.moved (o : Op) (k : Nat) (src dst : Seat) : Op :=
  { o with
    id := o.id + k, ctx := seatCtxOf src dst o.ctx
    accs := o.accs.map fun a => dst.accs.getD ((src.accs.findIdx? (· == a)).getD 0) 0
    act := match o.act with
      | .drain d ids => .drain d (ids.map (· + k))
      | .bget d b pa n t => .bget d b (pa - src.base + dst.base) n t
      | .bput d b v bs pa n t => .bput d b v bs (pa - src.base + dst.base) n t
      | .rsend l es tw _ => .rsend l es tw false
      | x => x }
/-- Buffer requests name the new descriptors, a barrier wait the new barrier. -/
def Op.reclus (o : Op) (bufs : List (Nat × Nat)) (bar : Nat) : Op :=
  let f := fun b => match bufs.find? (fun x => x.1 == b) with | some x => x.2 | none => b
  { o with act := match o.act with
    | .bput d b v bs pa n t => .bput d (f b) v bs pa n t | .bget d b pa n t => .bget d (f b) pa n t | .bwait d b e => .bwait d (f b) e
    | .cbar d _ a p => .cbar d bar a p | x => x }
def Copy.shifted (c : Copy) (k : Nat) (src dst : Seat) : Copy := { c with id := c.id + k, ctx := seatCtxOf src dst c.ctx, start := 0, hold := c.hold.map (· + k) }
def Strm.moved (g : Strm) (k : Nat) (src dst : Seat) : Strm := { g with ctx := seatCtxOf src dst g.ctx, hold := g.hold.map (· + k), stall := false }
/-- A contribution at the coordinator is answered where its operation now stands. -/
def Contrib.moved (k : Nat) (src dst : Seat) (p : Contrib) : Contrib :=
  if p.tile == src.tile && src.ctxs.any (fun c => p.ctxid == ctxidOf src.tile c) then { p with tile := dst.tile, op := p.op + k } else p
/-- One tile's state passes to its destination; the source keeps what the stub needs. -/
def State.moveTile (s : State) (m : Mig) (r : TRec) (src dst : Seat) : State :=
  let t := s.tileN src.tile
  let u := s.tileN dst.tile
  let k := u.nextId
  let old := s.bmapBufs src
  let new := s.bmapBufs dst
  let bufs := old.zip new |>.map fun x => (x.1.2.2, x.2.2.2)
  let bar := nfld (s.bmap dst.tile (dst.ctxs.headD 0)).toNat 57 3
  let mine := fun (k : TTask) => k.ref.die == m.die && k.ref.idx == m.idx && k.ref.copy == src.copy
  let u := (src.ctxs.zip dst.ctxs).foldl (fun u x => u.modCtx x.2 fun y => (t.ctx x.1).moved y) u
  let u := (src.accs.zip dst.accs).foldl (fun u x => u.setAcc (Fin.ofNat 4 x.2) t.acc[(Fin.ofNat 4 x.1 : Fin 4)]) u
  let u := (src.strms.zip dst.strms).foldl (fun u x => u.setStrm (Fin.ofNat 8 x.2) ((t.strm[(Fin.ofNat 8 x.1 : Fin 8)]).moved k src dst)) u
  let len := r.tcmk * 1024
  let u : Tile := { u.tcmWr dst.base (t.tcmRd src.base len) with tcmBad := u.tcmBad.filter (fun w => !decide (dst.base ≤ 8 * w ∧ 8 * w < dst.base + len)) }
  let u : Tile := { u with
    tcmBad := (t.tcmBad.filter fun w => decide (src.base ≤ 8 * w ∧ 8 * w < src.base + len)).foldl (fun l w => sinsert l (w - src.base / 8 + dst.base / 8)) u.tcmBad
    ops := u.ops ++ (t.ops.filter fun o => src.ctxs.contains o.ctx).map fun o => (o.moved k src dst).reclus bufs bar
    copies := u.copies ++ (t.copies.filter fun c => src.ctxs.contains c.ctx).map fun c => c.shifted k src dst
    nextId := k + t.nextId
    tasks := u.tasks.map fun x => if mine x then (match t.tasks.find? mine with | some y => { y with ref := x.ref } | none => x) else x
    r := { u.r with
      routes := r.labels.foldl (fun g l => setReg g l (reg t.r.routes l)) u.r.routes
      win := r.wins.foldl (fun g w => setReg g w (putFld (reg t.r.win w) 1 3 (seatCtxOf src dst (Fin.ofNat 8 (nfld (reg t.r.win w).toNat 1 3))).val)) u.r.win }
    gates := (r.labels.filter fun l => t.gates.contains l).foldl sinsert u.gates
    fwd := (t.fwd.filter fun f => src.ctxs.any fun c => f.1 / 32 == c.val).foldl (fun g f =>
      mset 0 g (32 * (seatCtxOf src dst (Fin.ofNat 8 (f.1 / 32))).val + f.1 % 32) ((seatCtxOf src dst (Fin.ofNat 8 (f.2 - 1))).val + 1)) u.fwd
    dead := (r.labels.filter fun l => t.dead.contains l).foldl sinsert u.dead
    nq := if r.gang = 0 then u.nq else t.nq, nqBad := if r.gang = 0 then u.nqBad else t.nqBad, panels := if r.gang = 0 then u.panels else t.panels }
  let t := src.ctxs.foldl (fun t c => t.modCtx c fun x => { Ctx.zero with st := .migrating, cfg := x.cfg, tbase := x.tbase, task := x.task, tenant := x.tenant, ib := x.ib }) t
  let t : Tile := { t with ops := t.ops.filter fun o => !src.ctxs.contains o.ctx, copies := t.copies.filter fun c => !src.ctxs.contains c.ctx
                           nq := if r.gang = 0 then t.nq else Vector.replicate 4 [], nqBad := if r.gang = 0 then t.nqBad else [], panels := if r.gang = 0 then t.panels else [], ncred := if r.gang = 0 then t.ncred else Vector.replicate 4 8 }
  let t := src.accs.foldl (fun t a => t.setAcc (Fin.ofNat 4 a) Acc.zero) t
  let t := src.strms.foldl (fun t g => t.setStrm (Fin.ofNat 8 g) Strm.zero) t
  let s := (s.setTile src.tile t).setTile dst.tile u
  let mv := fun (l : List Contrib) => l.map (Contrib.moved k src dst)
  let gs := s.coord.groups.map fun (g : GPhase) => ({ g with parts := mv g.parts, next := mv g.next } : GPhase)
  { s with coord := { s.coord with groups := gs } }
/-- A seat that has moved. -/
def Seat.moved (l : List (Seat × Seat)) (q : Seat) : Seat :=
  match l.find? (fun x => x.1.tile == q.tile && x.1.copy == q.copy) with
  | some x => x.2
  | none => q
/-- The contents of the task's CSP window, its buffers and its barrier's count pass to the new cluster (R398). -/
def State.moveClus (s : State) (m : Mig) : State :=
  match m.src, m.dst with
  | a :: _, b :: _ =>
    let old := s.bmapBufs a
    let new := s.bmapBufs b
    let k := clusOf a.tile
    let c := clusOf b.tile
    let w := (s.clus k).window (old.map (·.2.2))
    let v : CspMove := { src := k, dst := c, base := w.1, len := w.2, to_ := nfld (s.cspw b.tile (b.ctxs.headD 0)).toNat 0 10, descs := ((old.zip new).map fun x => (x.1.2.2, x.2.2.2)).eraseDups }
    let s := if old.isEmpty then s else s.copyCsp v
    let s := if a.copy = 0 ∧ !old.isEmpty then s.renameCsp m.die m.idx v else s.modDie m.die fun d => { d with staged := d.staged.map (Staged.moved v) }
    let ba := (s.bmap a.tile (a.ctxs.headD 0)).toNat
    let bb := (s.bmap b.tile (b.ctxs.headD 0)).toNat
    if bitN ba 56 && bitN bb 56 then
      let w := (reg (s.clus k).regs (0xa00 + 8 * nfld ba 57 3)).toNat
      s.modClus c fun y => { y with regs := setReg y.regs (0xa00 + 8 * nfld bb 57 3) (putFld (reg y.regs (0xa00 + 8 * nfld bb 57 3)) 13 9 (nfld w 13 9)) }
    else s
  | _, _ => s
/-- The source cluster's grants end. -/
def State.dropGrants (s : State) (q : Seat) : State :=
  let b := (s.bmap q.tile (q.ctxs.headD 0)).toNat
  s.modClus (clusOf q.tile) fun k =>
    let m := q.ctxs.foldl (fun m x => setReg (setReg m (0x10 * (8 * posOf q.tile + x.val)) 0) (0x10 * (8 * posOf q.tile + x.val) + 8) 0) k.regs
    { k with regs := if bitN b 56 then setReg m (0xa00 + 8 * nfld b 57 3) 0 else m }

/-- The destination's contexts stand in MIGRATING: their images are validated (R394). -/
def State.dstLoaded (s : State) (m : Mig) : Bool := m.dst.all fun q => q.ctxs.all fun c => ((s.tileN q.tile).ctx c).st == .migrating
/-- A gated label that has moved to another tile with its task: what other migrations await of it, they await there (R399). -/
def State.renameGates (s : State) (m : Mig) (ls : List Nat) : State :=
  let f := fun (x : Nat × Nat) => match (m.src.zip m.dst).find? (fun q => q.1.tile == x.1 && ls.contains x.2) with | some q => (q.2.tile, x.2) | none => x
  let g := fun (e : Ev) => match e with | .flushToken n l => .flushToken (f (n, l.toNat)).1 l | e => e
  { s with winder := { s.winder with migs := s.winder.migs.map fun x => { x with gates := x.gates.map f } }
           queue := s.queue.map fun x => (x.1, g x.2), agenda := s.agenda.map g }
/-- R399, R400: the stub opens, the state passes, every entry that points at the task is rewritten behind a gate, and the flush tokens leave. (DEDUCED, log 51.) -/
def State.openStub (s : State) (m : Mig) : State :=
  let r := s.trec m.die m.idx
  let ptr := s.pointers r m.src
  let s := (m.src.zip m.dst).foldl (fun s x => s.moveTile m r x.1 x.2) s
  let s := (m.src.foldl State.dropGrants (s.moveClus m)).renameGates m r.labels
  let s := ptr.foldl (fun s x => s.modTile x.1 fun t => (t.setRoute x.2 (moveRoute m.src m.dst (t.route (BitVec.ofNat 7 x.2)))).gate x.2) s
  let ptr := (ptr.map fun x => match (m.src.zip m.dst).find? (fun q => q.1.tile == x.1 && r.labels.contains x.2) with
    | some q => (q.2.tile, x.2) | none => x)
  let s := ptr.foldl (fun s x => s.modTile x.1 fun t => (t.setRoute x.2 (moveRoute m.src m.dst (t.route (BitVec.ofNat 7 x.2)))).gate x.2) s
  let s := s.moveBinds r.tenant m.src m.dst
  let s := s.modRec m.die m.idx fun r => { r with seats := r.seats.map (Seat.moved (m.src.zip m.dst)) }
  let s := (s.linkCredits (s.trec m.die m.idx)).setMig { m with stage := 3, gates := ptr }
  let s := s.countStubs
  let s := s.later 1 (.migrationResume m.die m.idx)
  (ptr.foldl (fun s x => s.later 1 (.flushToken x.1 (BitVec.ofNat 7 x.2))) s).later 1 (.stubClose m.die m.idx)
/-- DEDUCED, log 51. -/
def execStubOpen (s : State) : Out3 :=
  match s.ev with
  | .stubOpen d i =>
    .next (match s.winder.migs.find? (fun m => m.die == d && m.idx == i && m.stage == 2) with
      | some m => if (s.trec d i).st ≠ .migrating then s
        else if s.clock < m.start + 598 + ceilDiv m.bytes 128 then s.later (m.start + 598 + ceilDiv m.bytes 128 - s.clock) s.ev
        else if s.dstLoaded m then s.openStub m else s.later 1 s.ev
      | none => s)
  | _ => .next s
/-- R399: a flush token has passed through the stub and reached the destination; its entry is ungated. (DEDUCED, log 52.) -/
def execFlushToken (s : State) : Out3 :=
  match s.ev with
  | .flushToken n l =>
    .next (match s.winder.migs.find? (fun m => m.stage == 3 && m.gates.contains (n, l.toNat)) with
      | some m => ((s.modTile n fun t => t.ungate l.toNat).setMig { m with gates := m.gates.filter fun g => g != (n, l.toNat) }).push [.stubClose m.die m.idx]
      | none => s)
  | _ => .next s
/-- R400: the stub closes behind the last flush token; the source contexts return to FREE. -/
def State.closeStub (s : State) (m : Mig) : State :=
  let r := s.trec m.die m.idx
  ((m.src.foldl (fun s q => s.clearSeat m.die m.idx r { q with accs := [], strms := [] }) s).dropMig m.die m.idx).countStubs
/-- DEDUCED, log 51. -/
def execStubClose (s : State) : Out3 :=
  match s.ev with
  | .stubClose d i =>
    .next (match s.winder.migs.find? (fun m => m.die == d && m.idx == i && m.stage == 3) with
      | some m => if m.gates.isEmpty then s.closeStub m else s
      | none => s)
  | _ => .next s
/-- Where no rule is to fire first, the notifications that were held reach the task as it resumes. (DEDUCED, log 51.) -/
def State.hearNow (s : State) (on : List Seat) : State :=
  if on.any fun q => q.ctxs.any fun c => ((s.tileN q.tile).ctx c).ctl.first.isSome then s
  else on.foldl (fun s q => s.modTile q.tile fun t => q.ctxs.foldl (fun t c => t.modCtx c Ctx.unhold) t) s
/-- R401: the contexts of the migration leave MIGRATING together for their resume states. (DEDUCED, log 51.) -/
def execMigrationResume (s : State) : Out3 :=
  match s.ev with
  | .migrationResume d i =>
    let r := s.trec d i
    let on := (s.winder.migs.filter fun m => m.die == d && m.idx == i && m.stage == 3).flatMap (·.dst)
    .next (if r.st = .migrating ∧ r.sv = 0 ∧ !on.isEmpty then ((on.foldl State.resumeSeat s).hearNow on).modRec d i (fun r => r.setSt .running) |>.bumpWreg 0x400 1 else s)
  | _ => .next s

end Sys2Proof.Machine
end

