-- ==== Sys2Proof/Machine/Tenancy.lean ====
section
/-! DEFINITION. Slices, switches and teardown (R414, R415, R423 to R433, R439 to R442), with the Winder's part in them (R408, R410, R411). -/

namespace Sys2Proof.Machine
open Sys2Proof

/-! ## Domains and their plans (R423, R425) -/

def State.dom (s : State) (d : Nat) : Dom := mget Dom.zero s.coord.doms d
def State.setDom (s : State) (d : Nat) (x : Dom) : State := { s with coord := { s.coord with doms := mset Dom.zero s.coord.doms d x } }
def tnt (t : Nat) : BitVec 4 := BitVec.ofNat 4 t
/-- CARRY and DEBT of a tag, in ms. -/
def State.carry (s : State) (t : Nat) : Nat := match s.vfOf (tnt t) with | some n => nfld (s.vf n 0x28) 4 8 | none => 0
def State.debt (s : State) (t : Nat) : Nat := match s.vfOf (tnt t) with | some n => nfld (s.vf n 0x28) 12 8 | none => 0
def State.putStat (s : State) (t lo len x : Nat) : State := match s.vfOf (tnt t) with | some n => s.putCo (vfBlk n + 0x28) lo len x | none => s
def State.setCarry (s : State) (t x : Nat) : State := s.putStat t 4 8 (min x 255)
def State.setDebt (s : State) (t x : Nat) : State := s.putStat t 12 8 (min x 255)
def State.setVfState (s : State) (t x : Nat) : State := if t = 0 then s else s.putStat t 0 3 x
/-- A tenant is idle (R425). -/
def State.idleTag (s : State) (t : Nat) : Bool :=
  (s.vfOf (tnt t)).isNone
  || ((s.allRecs.all fun r => r.tenant.toNat != t || r.st == .free || r.st == .retired || r.st == .faulted) && s.coord.wait.all fun w => w.tenant.toNat != t)
/-- PHI of every entry of a plan, written in every KTEN. -/
def phiOf (plan : List (Nat × Nat)) (ms : Nat) : Nat :=
  match plan with | [_] => 255 | _ => min 254 (256 * ms / sumL (plan.map (·.2)))
def State.applyPlan (s : State) (d : Nat) (plan : List (Nat × Nat)) : State :=
  let s := plan.foldl (fun s e => (List.range 8).foldl (fun s k => s.modDie k fun x =>
    { x with regs := setReg x.regs (ktenOff (tnt e.1)) (putFld (reg x.regs (ktenOff (tnt e.1))) 36 8 (phiOf plan e.2)) }) s) s
  s.setDom d { s.dom d with plan := plan }
/-- The entries after the tenant in slice, in order; from the first where none is. -/
def planAfter (plan : List (Nat × Nat)) (cur : Option Nat) : List (Nat × Nat) :=
  match cur.bind fun t => plan.findIdx? fun e => e.1 == t with
  | some i => plan.drop (i + 1) ++ plan.take i
  | none => plan
/-- The next tenant with work; an idle one is skipped and carries its slice over; a tag that no VF holds is idle even where it stands alone. (DEDUCED, log 59.) -/
def State.nextEntry (s : State) (sole : Bool) : List (Nat × Nat) → State × Option (Nat × Nat)
  | [] => (s, none)
  | e :: l => if (sole && (s.vfOf (tnt e.1)).isSome) || !s.idleTag e.1 then (s, some e) else (s.setCarry e.1 e.2).nextEntry sole l
/-- The slice of a tenant in ms: MS + CARRY less DEBT, at least 1; CARRY and the DEBT taken are gone. (DEDUCED, log 59.) -/
def State.takeSlice (s : State) (e : Nat × Nat) : State × Nat :=
  let full := e.2 + s.carry e.1
  let n := max 1 (full - s.debt e.1)
  ((s.setCarry e.1 0).setDebt e.1 (s.debt e.1 - (full - n)), n)

/-! ## Switching out (R428 to R432) -/

/-- The task holds a tile of the domain. -/
def State.inDom (s : State) (d : Nat) (r : TRec) : Bool := r.seats.any fun q => s.tdom q.tile == d
/-- The task's save begins; its image is kept in the Glaze form. -/
def State.overtaken (s : State) (die idx : Nat) : State :=
  (s.gateAll (s.pointers (s.trec die idx) (s.trec die idx).seats)).modRec die idx fun r => { r with sv := 1, why := 4, glazeForm := true }
/-- A migration that a switch overtakes is saved in the Glaze form, unless it is refused (R396, R404). (DEDUCED, log 51.) -/
def State.overtake (s : State) (die idx : Nat) : State :=
  match s.winder.migs.find? (fun m => m.die == die && m.idx == idx && m.stage != 3) with
  | some m => if m.stage = 1 ∧ s.sharesClus m then s.refuseMig m else (s.dropDst m).overtaken die idx
  | none => s.overtaken die idx
/-- Round 1 for one task of the outgoing tenant; one that is still PLACED is taken when its contexts start (R343). -/
def State.gateTask (s : State) (die idx : Nat) : State :=
  let r := s.trec die idx
  if r.sv ≠ 0 then s
  else match r.st with
    | .running => s.beginSave die idx 3 false
    | .migrating => s.overtake die idx
    | _ => s
def State.clearAcc (s : State) (t : BitVec 4) (vpn : Nat) : State :=
  match s.leafAt t vpn with
  | some (a, e) => (s.setMemWord a (putFld (BitVec.ofNat 64 e) 6 1 0)).invalPage t vpn
  | none => s
def State.dirtyNear (s : State) (t : BitVec 4) : List MPage :=
  s.winder.pages.filter fun p => p.tenant == t && p.frame.isSome && !s.winder.moves.any (fun m => isMove t p.vpn m && m.ends.isSome && m.cls != 4) && match s.leafAt t p.vpn with | some (_, e) => leafDirty e | none => false
/-- The write-downs of a switch are asked for (R410). -/
def State.askDowns (s : State) (d t : Nat) : State :=
  let ps := s.dirtyNear (tnt t)
  let s := ps.foldl (fun s p => s.writeDown p) s
  { s with coord := { s.coord with downs := s.coord.downs ++ ps.map fun p => (d, p.vpn, t) } }
/-- R428, R410: the outgoing tenant is gated, in the cycle of the tick. -/
def State.gateTenant (s : State) (d t : Nat) : State :=
  let g := tnt t
  let s := (s.recsAll.filter fun x => x.2.2.tenant == g && s.inDom d x.2.2).foldl (fun s x => s.gateTask x.1 x.2.1) s
  let s := (s.recsAll.filter fun x => x.2.2.tenant == g && x.2.2.st == .staging).foldl (fun s x =>
    s.modRec x.1 x.2.1 fun r => { r with since := s.clock - r.since }) s
  let s := if nfld (s.wreg (wten g 0x18)) 0 1 = 1 then (s.winder.pages.filter fun p => p.tenant == g).foldl (fun s p => s.clearAcc g p.vpn) s else s
  let s := s.askDowns d t
  let s := { s with coord := { s.coord with rounds := [], kills := s.coord.kills.filter fun k => k.1 != t } }
  let s := (List.range 8).foldl (fun s k => s.modDie k fun x => { x with settled := [] }) s
  let s := s.setVfState t 2
  (List.range 8).foldl (fun s k => s.later (4 * Config.msCycles) (.saveDeadlineKill k d)) s
/-- A switch to an entry of the plan at tick `k`. (DEDUCED, log 59.) -/
def State.startSwitch (s : State) (d k : Nat) (out : Option Nat) (e : Nat × Nat) : State :=
  let r := s.takeSlice e
  let s := r.1
  match out with
  | none => (s.setDom d { s.dom d with cur := none, ends := k + r.2, out := none, inn := some e.1 }).push [.switchIn d]
  | some o => (s.setDom d { s.dom d with cur := none, ends := k + r.2, out := some (o, s.clock), inn := some e.1 }).gateTenant d o
/-- Who must leave a domain: the tenant in slice, or the physical function that runs there by default, in domain 0 also where it has no task.
(DEDUCED, log 59.) -/
def State.leaver (s : State) (d t : Nat) : Option Nat :=
  match (s.dom d).cur with
  | some o => some o
  | none => if t ≠ 0 ∧ ((s.dom d).plan.isEmpty && d == 0 || s.allRecs.any fun r => r.tenant == 0 && s.inDom d r) then some 0 else none
/-- One domain at a tick. (DEDUCED, log 59.) -/
def State.domTick (s : State) (d k : Nat) : State :=
  let x := s.dom d
  if x.out.isSome || x.inn.isSome then s
  else
    let due := match x.cur with | some t => decide (x.ends ≤ k) || s.idleTag t | none => true
    if !due then s
    else match s.splan d with
      | [] => match x.cur with
        | some t => if t = 0 then s else (s.setDom d { x with plan := [], cur := none, out := some (t, s.clock), inn := none }).gateTenant d t
        | none => s
      | plan =>
        let r := s.nextEntry (plan.length == 1) ((planAfter plan x.cur).filter fun e => some e.1 != x.cur)
        match r.2 with
        | none => r.1
        | some e => (r.1.applyPlan d plan).startSwitch d k (r.1.leaver d e.1) e
def execPackageTick (s : State) : Out3 :=
  match s.ev with
  | .packageTick =>
    let k := s.clock / Config.msCycles
    .next ((List.range 8).foldl (fun s d => s.domTick d k) { s with coord := { s.coord with tick := k } })
  | _ => .next s

/-- Tasks of a tenant whose save is under way on a tile. -/
def State.savesAt (s : State) (n : Nat) (t : BitVec 4) : List (TTask × TRec) :=
  ((s.tileN n).tasks.map fun k => (k, s.trec k.ref.die k.ref.idx)).filter fun x => x.2.tenant == t && x.2.sv != 0
def State.saving (s : State) (n : Nat) (c : Fin 8) (t : BitVec 4) : Bool :=
  match ((s.tileN n).ctx c).task with | some k => let r := s.trec k.die k.idx; r.tenant == t && r.sv == 1 | none => false
/-- The tiles to which a tile's bound channels lead, once for each channel that is bound at both ends (R429). (DEDUCED, log 60.) -/
def State.peers (s : State) (n : Nat) (t : BitVec 4) : List Nat :=
  let u := s.tileN n
  (allCtx.filter fun c => s.saving n c t).flatMap fun c => (List.finRange 16).flatMap fun ch =>
    let x := u.ctx c
    let e := u.route (x.eb[ch]).label
    let out := (x.eb[ch]).bv && rKind e == 1 && rMod e == s.own && s.saving (rTile e) (rCtx e) t
      && (let b := ((s.tileN (rTile e)).ctx (rCtx e)).ib[(rChan e)]; b.bv && b.src == mkSrc s.own n c ch)
    let b := x.ib[ch]
    let q := srcTile b.src
    let inn := b.bv && srcMod b.src == s.own && s.saving q (srcCtx b.src) t
      && (let y := (s.tileN q).ctx (srcCtx b.src)
          let f := (s.tileN q).route (y.eb[(srcChan b.src)]).label
          (y.eb[(srcChan b.src)]).bv && rTile f == n && rCtx f == c && rChan f == ch)
    (if out then [rTile e] else []) ++ (if inn then [q] else [])
/-- A tile has nothing outstanding of the tenant: it sends its markers (R429). -/
def State.tileQuiet (s : State) (n : Nat) (t : BitVec 4) : Bool := (s.savesAt n t).all fun x => x.2.sv != 1 || s.saveReady x.2
/-- DEDUCED, log 60. -/
def State.sendRounds (s : State) (d n : Nat) (t : BitVec 4) : State :=
  (s.modDie d fun x => { x with settled := sinsert x.settled n }).push ((s.peers n t).map fun m => .roundMarker m t)
/-- R429: a round marker reaches a tile. (DEDUCED, log 60.) -/
def execRoundMarker (s : State) : Out3 :=
  match s.ev with
  | .roundMarker n _ => .next { s with coord := { s.coord with rounds := mset 0 s.coord.rounds n (mget 0 s.coord.rounds n + 1) } }
  | _ => .next s
/-- The tile has sent its markers and received one on every bound channel. -/
def State.isSettled (s : State) (d n : Nat) (t : BitVec 4) : Bool :=
  (s.die d).settled.contains n && decide ((s.peers n t).length ≤ mget 0 s.coord.rounds n)
/-- Tasks of the tenant in the domain that a switch still waits for. -/
def State.unsaved (s : State) (d : Nat) (g : BitVec 4) : List (Nat × Nat × TRec) :=
  s.recsAll.filter fun x => x.2.2.tenant == g && (x.2.2.sv == 1 || x.2.2.sv == 2 || x.2.2.sv == 3 ||
    (s.inDom d x.2.2 && (x.2.2.st == .running || x.2.2.st == .placed || x.2.2.st == .migrating || x.2.2.st == .retiring)))
/-- R432: four ms after the tick. -/
def execSaveDeadlineKill (s : State) : Out3 :=
  match s.ev with
  | .saveDeadlineKill k d =>
    .next (match (s.dom d).out with
      | some (t, c) =>
        if c + 4 * Config.msCycles ≤ s.clock then
          ((s.unsaved d (tnt t)).filter fun x => x.1 == k && x.2.2.st != .retiring).foldl (fun s x =>
            let s := match s.winder.migs.find? (fun m => m.die == x.1 && m.idx == x.2.1 && m.stage != 3) with | some m => s.dropDst m | none => s
            s.killTask x.1 x.2.1) s
        else s
      | none => s)
  | _ => .next s
/-- A write-down that a switch waits for goes on beyond this cycle. -/
def State.downsRun (s : State) (d : Nat) (g : BitVec 4) : Bool :=
  s.coord.downs.any fun w => w.1 == d && (match s.moveOf g w.2.1 with
    | some m => !m.up && (match m.ends with | some e => decide (s.clock + 1 < e) || !(s.usersOf 511 g (· == w.2.1)).isEmpty | none => true)
    | none => false)
/-- Every die has finished: the late part of the save is charged, and the next tenant starts in the cycle after (R427). -/
def State.switchDone (s : State) (d : Nat) : State :=
  match (s.dom d).out with
  | none => s
  | some (t, c) =>
    let g := tnt t
    if !(s.unsaved d g).isEmpty then s
    else if s.downsRun d g then s
    else if !((s.dirtyNear g).filter fun p => !(s.coord.downs.any fun w => w.1 == d && w.2.1 == p.vpn)).isEmpty then
      State.askDowns { s with coord := { s.coord with downs := s.coord.downs.filter fun w => w.1 != d } } d t
    else
      let s := { s with coord := { s.coord with downs := s.coord.downs.filter fun w => w.1 != d } }
      let due := c + 3 * Config.msCycles / 2
      let late := ceilDiv (s.clock + 1 - due) Config.msCycles
      let s := if late = 0 then s else
        let s := s.setDebt t (s.debt t + late)
        { s with coord := { s.coord with insts := s.coord.insts.map fun i =>
            if i.2.tenant == g && !i.2.ended then (i.1, { i.2 with promised := i.2.promised.map (· + late * Config.msCycles) }) else i } }
      let x := s.dom d
      let s := s.setDom d { x with out := none, ends := x.ends + late }
      if x.inn.isSome then s.later 1 (.switchIn d) else s

/-- R429, R431: rounds 2 and 3 of a die. -/
def execSwitchSave (s : State) : Out3 :=
  match s.ev with
  | .switchSave k d =>
    .next (match (s.dom d).out with
      | none => s
      | some (t, _) =>
        let g := tnt t
        let s := ((s.die k).recs.filter fun x => x.2.tenant == g && x.2.st == .running && x.2.sv == 0 && s.inDom d x.2).foldl (fun s x => s.gateTask k x.1) s
        let mine := (s.die k).recs.filter fun x => x.2.tenant == g && x.2.sv != 0 && (x.2.why == 3 || x.2.why == 4)
        let tiles := (mine.flatMap fun x => x.2.seats.map (·.tile)).eraseDups
        let s := (tiles.filter fun n => !(s.die k).settled.contains n && s.tileQuiet n g).foldl (fun s n => s.sendRounds k n g) s
        let s := mine.foldl (fun s x =>
          let r := s.trec k x.1
          if r.sv = 1 ∧ s.saveReady r ∧ !(r.seats.all fun q => s.isSettled k q.tile g) then s else s.saveStep k x.1) s
        s.switchDone d)
  | _ => .next s
/-! ## Switching in (R408, R411, R433) -/

/-- The Winder takes the tenant's touch map: ACC is cleared on its pages, and they are asked for in recorded order. -/
def State.takeMap (s : State) (g : BitVec 4) : State :=
  let base := s.wreg (wten g 0)
  let es := (List.range (s.wreg (wten g 0x10))).map fun i => (s.memWord (base + 8 * i)).toNat
  let s := s.setWreg (wten g 0x10) 0
  es.foldl (fun s e => if bitN e 0 then (s.clearAcc g (nfld e 16 32)).askUp g (nfld e 16 32) (nfld e 1 3) 3 none else s) s
def insertSeq (x : Nat × Nat × TRec) : List (Nat × Nat × TRec) → List (Nat × Nat × TRec)
  | [] => [x]
  | y :: l => if x.2.2.seq ≤ y.2.2.seq then x :: y :: l else y :: insertSeq x l
/-- Saved tasks are restored before any other is placed, in the order of their sequences; those that find room leave SAVED together. -/
def State.restoreAll (s : State) (g : BitVec 4) : State :=
  let l := (s.recsAll.filter fun x => x.2.2.tenant == g && x.2.2.st == .ready && !x.2.2.held && !x.2.2.saved.isEmpty).foldl (fun m x => insertSeq x m) []
  l.foldl (fun s x =>
    if (s.trec x.1 x.2.1).st ≠ .ready then s
    else
      let set := s.streamSet x.1 x.2.1
      if set.all fun j => (s.trec x.1 j).st == .ready && !(s.trec x.1 j).held then
        match s.placeSet x.1 set with
        | some s => set.foldl (fun s j => s.modRec x.1 j fun r => if r.saved.isEmpty then r else { r with why := 3 }) s
        | none => s
      else s) s
def execSwitchIn (s : State) : Out3 :=
  match s.ev with
  | .switchIn d =>
    .next (match (s.dom d).inn with
      | none => s
      | some t =>
        let g := tnt t
        let s := s.setDom d { s.dom d with cur := some t, inn := none }
        let s := ((s.setVfState t 1).takeMap g).restoreAll g
        (s.recsAll.filter fun x => x.2.2.tenant == g && x.2.2.st == .staging).foldl (fun s x => s.runStaging x.1 x.2.1 x.2.2.since) s)
  | _ => .next s

/-! ## Teardown (R439 to R441) -/

/-- The circuits of this module to others, as (source die, module, destination die, circuit, port die). -/
def State.podCircs (s : State) : List (Nat × Nat × Nat × Nat × Nat) :=
  s.dies.flatMap fun d => (d.2.circ.filter fun e => nfld e.2.toNat 0 2 == 3).flatMap fun e =>
    s.otherMods.map fun m => (d.1, m, e.1 / 64, e.1 % 64, circPort e.2.toNat)
/-- The torus ports that lead to another module, with it. -/
def State.ports (s : State) : List (Nat × Nat) :=
  if s.saloc.cfg.ualink then []
  else ((List.range 24).filter fun l => s.linkSt l != 3).filterMap fun l =>
    let m := nextMod s.saloc.cfg s.own (l % 6)
    if m = s.own then none else some (l, m)
/-- The modules that a sweep reaches. -/
def State.swept (s : State) : List Nat := s.otherMods.filter fun m => (s.podCircs.any fun c => c.2.1 == m) || s.ports.any fun p => p.2 == m
/-- The sweep markers of a tenant, in every class: one on every circuit of its virtual network that leaves the module, and one out of every torus port to the module
next to it, which DCTX tells apart (R441). (DEDUCED, log 61.) -/
def State.emitMarkers (s : State) (vn : Nat) (t : BitVec 4) : State :=
  let three := fun (s : State) (f : State → Nat → State) => (List.range 3).foldl f s
  let s := s.podCircs.foldl (fun s c => three s fun s k => s.sendPkt c.1 none (markPkt 4 0 vn k t c.2.1 c.2.2.1 c.2.2.2.1 (agentSrc s.own c.1 0xf8))) s
  s.ports.foldl (fun s p => three s fun s k => s.sendFlits p.1 { (markPkt 4 0 vn k t p.2 0 0 (agentSrc s.own (p.1 / 6) 0xf8)) with dctx := p.1 % 6 + 1 }) s
/-- An access, a request or a message that is under way. -/
def Op.isFlit (o : Op) : Bool :=
  match o.act with
  | .mem m => m.sp == .glb || m.label.isSome | .req _ _ => true | .rsend _ _ _ sent => sent
  | _ => false
/-- What the contexts of a seat that is torn down have under way is dropped and counted in RTDROP (R439). -/
def State.lostFlits (s : State) (q : Seat) : State :=
  let t := s.tileN q.tile
  let n := (t.ops.filter fun o => q.ctxs.contains o.ctx && o.isFlit).length + sumL ((t.copies.filter fun c => q.ctxs.contains c.ctx).map fun c => c.outs.length)
  if n = 0 then s else s.modDie (dieOf q.tile) fun d => { d with regs := bumpReg d.regs 0x8c0 n }
/-- One record of a tenant that is torn down: its contexts go FREE without a save, and it is FREE. -/
def State.dropRec (s : State) (die idx : Nat) : State :=
  let s := (s.winder.migs.filter fun m => m.die == die && m.idx == idx).foldl (fun s m => if m.stage = 3 then s.closeStub m else s.dropDst m) s
  (((s.trec die idx).seats.foldl (fun s q => s.lostFlits q) s).unplace die idx).freeRec die idx
/-- The step of R439. (DEDUCED, log 61.) -/
def State.tearDown (s : State) (n : Nat) : State :=
  if n = 0 || !s.vfEn n then s
  else
    let t := s.vfTag n
    let g := tnt t
    let s := (s.recsAll.filter fun x => x.2.2.tenant == g).foldl (fun s x => s.dropRec x.1 x.2.1) s
    let s := s.tearGroups g
    let own := (s.coord.insts.filter fun i => i.2.used && i.2.tenant == g).map (·.1)
    let s := (List.range 8).foldl (fun s d =>
      let mine := (s.die d).staged.filter fun y => own.contains y.inst
      (mine.foldl (fun s y => s.modClus y.clus fun k => { k with regs := setReg k.regs (0x800 + 8 * y.bufd) 0 }) s).modDie d fun e =>
        { e with staged := e.staged.filter fun y => !own.contains y.inst }) s
    let others := s.swept
    let s : State := { s with
      coord := { s.coord with
        insts := s.coord.insts.filter fun i => !own.contains i.1, arena := s.coord.arena.filter fun a => a.1 != t, wait := s.coord.wait.filter (fun w => w.tenant != g), kills := s.coord.kills.filter fun k => k.1 != t
        retiring := sinsert s.coord.retiring t, sweeps := s.coord.sweeps ++ [(t, n, others)], downs := s.coord.downs.filter fun w => w.2.2 != t
        doms := (s.coord.doms.map fun d => (d.1, { d.2 with cur := if d.2.cur = some t then none else d.2.cur, inn := if d.2.inn = some t then none else d.2.inn })).filter fun d => d.2 != Dom.zero }
      host := { s.host with waiting := s.host.waiting.filter fun e => e.fn != n } }
    ((s.putCo (vfBlk n) 0 1 0).putCo (vfBlk n + 0x28) 0 4 3).later 1 (.sweepMarker (BitVec.ofNat 12 s.own) g)
/-- The coordinator sweeps, from the cycle after the stop (R441): its markers leave, and its own echo comes. (DEDUCED, log 61.) -/
def State.beginSweep (s : State) (g : BitVec 4) : State :=
  match s.coord.sweeps.find? (fun x => x.1 == g.toNat) with
  | none => s
  | some (_, n, _) =>
    let s := s.emitMarkers (s.vfDom n) g
    (s.putCo (vfBlk n + 0x28) 0 3 4).later 1 (.sweepEcho (BitVec.ofNat 12 s.own) g)
/-- DEDUCED, log 61. -/
def execTeardown (s : State) : Out3 := match s.ev with | .teardown n => .next (s.tearDown n) | _ => .next s
def execVfctlTeardown (s : State) : Out3 := match s.ev with | .vfctlTeardown n => .next (s.tearDown n) | _ => .next s
/-- A function-level reset by the host. -/
def execVfFunctionLevelReset (s : State) : Out3 := match s.ev with | .vfFunctionLevelReset n => .next (s.tearDown n) | _ => .next s
/-- R415. -/
def execVfctlEnable (s : State) : Out3 := match s.ev with | .vfctlEnable n t d => .next (if s.vfEn n then s else s.vfEnable n t d) | _ => .next s
/-- R441: a sweep marker of another module is answered behind everything it follows; the module's own stands for the start of its sweep. (DEDUCED, log 61.) -/
def execSweepMarker (s : State) : Out3 :=
  match s.ev with
  | .sweepMarker m t => .next (if m.toNat = s.own then s.beginSweep t else s.sendPkt 0 none (markPkt 5 0 (s.vnOf t) 2 t m.toNat 0 0 (agentSrc s.own 0 0xf8)))
  | _ => .next s
/-- Everything of the tag is released, and the tag is free. (DEDUCED, log 61.) -/
def State.endSweep (s : State) (t n : Nat) : State :=
  let g := tnt t
  let s := s.inval 511 g fun _ => true
  let s : State := { s with
    winder := { s.winder with pages := s.winder.pages.filter fun p => p.tenant != g, moves := s.winder.moves.filter fun m => m.tenant != g }
    coord := { s.coord with retiring := sremove s.coord.retiring t, sweeps := s.coord.sweeps.filter fun x => x.1 != t } }
  ((s.putCo (vfBlk n + 0x28) 0 3 0).msix n 2).msix 0 2
def execSweepEcho (s : State) : Out3 :=
  match s.ev with
  | .sweepEcho m t =>
    .next (match s.coord.sweeps.find? (fun x => x.1 == t.toNat) with
      | none => s
      | some (k, n, ms) =>
        let ms := ms.filter fun x => x != m.toNat
        if ms.isEmpty then s.endSweep k n
        else { s with coord := { s.coord with sweeps := s.coord.sweeps.map fun x => if x.1 == k then (k, n, ms) else x } })
  | _ => .next s

end Sys2Proof.Machine
end

