-- ==== Sys2Proof/Machine/Requests.lean ====
section
/-! DEFINITION. Requests (R373 to R383, R443 to R453, R506): what the agent that holds a target does with one, and the answer. -/

namespace Sys2Proof.Machine
open Sys2Proof

/-! ## Task references (R374) -/

def refTask (a : Word) : Nat := nfld a.toNat 0 16
def refDie (a : Word) : Nat := nfld a.toNat 16 3
def refMod (a : Word) : Nat := nfld a.toNat 19 12
/-- The instance of a context's task. -/
def State.ctxInst (s : State) (x : Ctx) : Nat := match x.task with | some r => (s.trec r.die r.idx).inst | none => 0
/-- The record that a reference of a tenant's instance names: none is answered as a FREE one. -/
def State.refOf (s : State) (t : BitVec 4) (inst : Nat) (a : Word) : Option (Nat × Nat × TRec) :=
  let r := s.trec (refDie a) (refTask a)
  if nfld a.toNat 31 33 ≠ 0 ∨ r.st = .free ∨ r.tenant ≠ t ∨ r.inst ≠ inst then none else some (refDie a, refTask a, r)
/-- The record that a reference names, of any tenant (R449). -/
def State.anyRec (s : State) (a : Word) : Option (Nat × Nat × TRec) :=
  let r := s.trec (refDie a) (refTask a)
  if nfld a.toNat 31 33 ≠ 0 ∨ refMod a ≠ s.own ∨ r.st = .free then none else some (refDie a, refTask a, r)
/-- A module other than this one holds the target of a request. (DEDUCED, log 66.) -/
def State.refAway (s : State) (i : Instr) (v : List Word) : Bool :=
  let a := v.headD 0
  let out := refMod a != s.own && nfld a.toNat 31 33 == 0
  match i with
  | .tdec _ => out | .rdec _ _ => out | .tinc _ _ _ => out | .tstatus _ _ => out | .tcancel _ _ _ => out
  | .csave _ _ _ => out | .crest _ _ => out | .ctxw _ _ _ _ => out
  | _ => false

/-! ## Times (R385, R454) -/

/-- The die that holds a configuration register; 8 is the Hearth. -/
def CfgReg.die : CfgReg → Nat
  | .ctx n _ _ => dieOf n | .ibind n _ _ => dieOf n | .ebind n _ _ => dieOf n | .route n _ => dieOf n | .win n _ => dieOf n | .ctr n _ => dieOf n
  | .clus k _ => k / 12 | .kiln d _ => d | .circ d _ _ => d | .coord _ => 8 | .winder _ => 8 | .hcirc _ _ => 8
def dieL (d e : Nat) : Nat := if e = 8 then 64 else if e = d then 24 else 140
/-- L of a request from tile `n`. -/
def State.reqL (n : Nat) (i : Instr) (v : List Word) : Nat :=
  let d := dieOf n
  let a := v.headD 0
  match i with
  | .pfg _ _ _ => 1 | .tparam _ _ => 4 | .tbound _ => 24
  | .tspawn _ _ _ _ => 200 | .trytspawn _ _ _ _ _ => 200 | .tenq _ _ => 200 | .trytenq _ _ _ => 200
  | .tdec _ => dieL d (refDie a) | .rdec _ _ => dieL d (refDie a) | .tinc _ _ _ => dieL d (refDie a) | .tstatus _ _ => dieL d (refDie a)
  | .tcancel _ _ _ => dieL d (refDie a) | .csave _ _ _ => dieL d (refDie a)
  | .cfgr _ _ => (match cfgReg a.toNat with | some r => dieL d r.die | none => 24)
  | .cfgw _ _ _ => (match cfgReg a.toNat with | some r => dieL d r.die | none => 24)
  | .srd _ _ => homeL d ((memHome a.toNat).getD 1) | .swr _ _ _ => homeL d ((memHome a.toNat).getD 1)
  | .crest _ _ => 140 | .ctxw _ _ _ _ => 140
  | .xinv _ _ _ _ _ => maxL ((List.range 9).map fun k => if bitN ((v.drop 2).headD 0).toNat k then dieL d k else 24)
  | _ => 64
/-- A request of R443 of the context that was fired before is not performed yet: its requests are performed in fire order. -/
def Op.sysWaits (o : Op) : Bool := match o.act with | .req i _ => within (nfld (opWord i) 56 8) 0xd0 14 && o.due.isNone | _ => false
def State.sysHeld (s : State) (o : Op) : Bool := o.sysWaits && (s.tile.before o.id).any fun p => p.ctx == o.ctx && p.sysWaits
/-- A request that the tile's agents take to its target in this cycle; a decrement, a spawn and an enqueue leave only after what they release (R378,
R384, R506). (DEDUCED, log 62.) -/
def State.reqDue (s : State) (o : Op) : Bool :=
  match o.act with
  | .req i v =>
    match i with
    | .xinv _ _ _ _ _ => decide (o.fired + State.reqL s.cur i v ≤ s.clock + 1) && !s.sysHeld o
    | .tspawn _ _ _ _ => o.due.isNone && decide (o.fired + State.reqL s.cur i v ≤ s.clock + 1) && s.tile.settled o
    | .trytspawn _ _ _ _ _ => o.due.isNone && decide (o.fired + State.reqL s.cur i v ≤ s.clock + 1) && s.tile.settled o
    | .tenq _ _ => o.due.isNone && decide (o.fired + State.reqL s.cur i v ≤ s.clock + 1) && s.tile.settled o
    | .trytenq _ _ _ => o.due.isNone && decide (o.fired + State.reqL s.cur i v ≤ s.clock + 1) && s.tile.settled o
    | .tdec _ => o.due.isNone && decide (o.fired + State.reqL s.cur i v ≤ s.clock + 1) && s.tile.settled o
    | .rdec _ _ => o.due.isNone && decide (o.fired + State.reqL s.cur i v ≤ s.clock + 1) && s.tile.settled o
    | _ => o.due.isNone && decide (o.fired + State.reqL s.cur i v ≤ s.clock + 1) && !s.sysHeld o
  | .group _ _ => s.tile.settled o && !s.groupHas s.cur o.id
  | _ => false

/-! ## Answers -/

/-- A request that is answered later: it is not made again. -/
def Op.asked (o : Op) (clk : Nat) : Op := { o with due := some clk }
def Op.answerP (o : Op) (d : PReg) (b : Bool) : Op := { o with act := .plain, wr := if b then [.p d true] else [], rc := some b }
/-- D of a `tstatus`; the result condition is 1 for RETIRED (R380). -/
def Op.statusOf (o : Op) (d : SDst) (w : Word) : Op := { o.answer d w with rc := some (nfld w.toNat 0 4 == 8) }
/-- The answer of another module to a request reaches its operation. -/
def Op.told (o : Op) (w : Word) : Op :=
  match o.act with
  | .req i _ => (match i with
    | .tinc d _ _ => o.answerP d (w != 0) | .tcancel d _ _ => o.answerP d (w != 0) | .tstatus d _ => o.statusOf d w
    | .csave d _ _ => o.answer d w | .crest d _ => o.answer d w | .ctxw d _ _ _ => o.answer d w
    | _ => o)
  | _ => o
def State.status (s : State) (o : Op) (d : SDst) (k : Nat) : State := s.retire (o.answer d (BitVec.ofNat 64 k))

/-! ## Pages (R373, R448) -/

/-- R373: residency of the pages of a range. (DEDUCED, log 65.) -/
def State.doPfg (s : State) (t : BitVec 4) (die : Nat) (addr : Int) (n : Nat) : State :=
  let n := min n (2 ^ 26)
  if n = 0 ∨ addr + n ≤ 0 then s
  else
    let lo := addr.toNat / 65536
    let hi := (addr + n - 1).toNat / 65536
    (List.range (hi - lo + 1)).foldl (fun s i =>
      let p := lo + i
      match s.leafOf t (p * 65536) with
      | .leaf _ _ e _ =>
        if leafRd e && !leafRes e then
          let seen := (List.range (s.wreg (wten t 0x10))).any fun j => nfld (s.memWord (s.wreg (wten t 0) + 8 * j)).toNat 16 32 == p
          (if seen then s else s.touch t die p).askUp t p die 1 none
        else s
      | .fault _ => s) s
/-- R448: append a page to the touch map. -/
def State.doTouch (s : State) (t : BitVec 4) (die va : Nat) : State × Nat :=
  let p := va / 65536
  if (s.mpage t p).isNone then (s, 3)
  else if (List.range (s.wreg (wten t 0x10))).any fun j => nfld (s.memWord (s.wreg (wten t 0) + 8 * j)).toNat 16 32 == p then (s, 0)
  else if nfld (s.wreg (wten t 8)) 0 17 ≤ s.wreg (wten t 0x10) then (s.touch t die p, 1)
  else (s.touch t die p, 0)
/-- R448, at once: register or unregister a page as mobile. (DEDUCED, log 55.) -/
def State.doMobile (s : State) (t : BitVec 4) (va : Nat) (reg : Bool) : State × Nat :=
  let p := va / 65536
  match s.leafOf t va with
  | .fault _ => (s, 3)
  | .leaf _ l _ base =>
    if reg then
      if l ≠ 0 ∨ memHome base ≠ some 0 then (s, 1)
      else if (s.mpage t p).isSome then (s, 0)
      else ({ s with winder := { s.winder with pages := s.winder.pages ++ [{ tenant := t, vpn := p, far := base, frame := none }] } }, 0)
    else if s.liesNear t p || s.winder.moves.any (isMove t p) then (s, 1)
    else ({ s with winder := { s.winder with pages := s.winder.pages.filter fun m => !(m.tenant == t && m.vpn == p) } }, 0)
/-- R448: a move asked for by `wres`, ahead of the classes of R411; answered at once where nothing moves, and made again while another request waits
for the same page. (DEDUCED, log 55.) -/
def State.doMove (s : State) (o : Op) (d : SDst) (t : BitVec 4) (va : Nat) (up : Bool) : State :=
  let p := va / 65536
  let st := fun (s : State) (k : Nat) => s.status o d (k + s.pageBits t p)
  match s.leafOf t va, s.mpage t p with
  | .fault _, _ => st s 3
  | _, none => st s 1
  | _, some m =>
    match s.moveOf t p with
    | some v =>
      if v.reply.isSome || v.up != up then s
      else (s.setMoves (s.winder.moves.map fun x => if isMove t p x then { x with cls := 0, reply := some (s.cur, o.id) } else x)).onTile fun u => u.setOp (o.asked s.clock)
    | none =>
      if up = m.frame.isSome then st s 0
      else if up && !s.nearRoom t then st s 1
      else (s.setMoves (s.winder.moves ++ [{ tenant := t, vpn := p, up := up, die := 8, cls := 0, ends := none, reply := some (s.cur, o.id) }])).onTile
        fun u => u.setOp (o.asked s.clock)

/-! ## Task records (R375 to R383) -/

/-- The nodes of an instance's unfinished tasks, with a child that precedes `next`. -/
def State.instNodes (s : State) (t : BitVec 4) (inst : Nat) (child : Option (TRec × List Nat)) : List Node :=
  let id := fun (d i : Nat) => 65536 * d + i
  let rs := (s.recsOfInst t inst).filter fun x => x.2.2.st.unfinished
  let es := rs.flatMap fun x => (s.streamed x.1 x.2.2).map fun e => (id x.1 x.2.1, id (eDie e) (eTask e))
  let ids := rs.map fun x => id x.1 x.2.1
  let pos := fun k : Nat => (ids.findIdx? (· == k)).getD 0
  let sets := setsOf ids.length (es.map fun e => (pos e.1, pos e.2))
  let ns := rs.zipIdx.map fun x => s.node x.1.2.2 (id x.1.1 x.1.2.1) (sets.getD x.2 x.2) ((s.counted x.1.1 x.1.2.2).map fun e => id (eDie e) (eTask e))
  match child with
  | some (r, next) => ns ++ [s.node r (8 * 65536) ids.length next]
  | none => ns
/-- The bound of R356 for an instance's unfinished tasks, counted from now, in ps. They are the nodes of the bound, and not part of the work of others that precedes
it. (DESIGN CHOICE, log 101.) -/
def State.instBound (s : State) (t : BitVec 4) (inst : Nat) (child : Option (TRec × List Nat)) : Option Nat :=
  let cl := (((s.recsOfInst t inst).filter fun x => x.2.2.st.unfinished).map fun x => x.2.2.dclass) ++ (child.map (·.1.dclass)).toList
  s.boundPs t (s.instNodes t inst child) (maxL cl) (some inst)
/-- The buffers of an instance by their places in its template (R346). -/
def State.backsOf (s : State) (x : Inst) : List Nat :=
  match s.tmplOf x.tmpl with
  | none => []
  | some tm =>
    (tm.bufs.foldl (fun (acc : List Nat × List Nat) b => match gbExt b with
      | some e => (acc.1 ++ [(x.ext.getD e 0).toNat % 2 ^ 48], acc.2)
      | none => (acc.1 ++ [acc.2.headD 0], acc.2.drop 1)) ([], x.bufs.map (·.1))).1
/-- The result of a `tspawn` or `tenq` (R377): STATUS, and the index and die of what was made. -/
inductive Spawned where
  | no (k : Nat) | yes (s : State) (idx die : Nat)
/-- R375. The record is made on the die with the most FREE records that matches the entry, as R346 says for a launch. (DEDUCED, log 63; DESIGN CHOICE, log 102.) -/
def State.spawn (s : State) (x : Ctx) (a b c : Word) : Spawned :=
  let t := x.tenant
  let me := s.ctxInst x
  let inst := s.inst me
  let src := nfld a.toNat 16 16
  let sx := s.inst src
  let succ : Option (Nat × Nat) := if bitN c.toNat 35 then some (nfld c.toNat 32 3, nfld c.toNat 16 16) else none
  if nfld a.toNat 32 32 ≠ 0 ∨ nfld c.toNat 36 28 ≠ 0 then .no 4
  else match (s.tmplOf inst.tmpl).bind fun tm => tm.entries[nfld a.toNat 0 16]? with
    | none => .no 6
    | some e =>
      if (recOfEntry e).nstrm != 0 || (match succ with | some (d, i) => decide ((s.trec d i).st = .free ∨ (s.trec d i).tenant ≠ t ∨ (s.trec d i).inst ≠ me) | none => false) then .no 4
      else if src ≠ 65535 ∧ !(sx.used && sx.failed && sx.tenant == t) then .no 7
      else
        let back := s.backsOf (if src = 65535 then inst else sx)
        let r := (recOfEntry e).rebase back
        let r := ((r.put 0 0 16 (nfld c.toNat 0 16)).put 3 32 8 (b2n succ.isSome)).put 3 40 8 0
        let r := if inst.isFault then r.put 0 24 2 1 else r
        let next := match succ with | some (d, i) => [65536 * d + i] | none => []
        let only3 := r.dclass == 3 && (s.recsOfInst t me).all fun y => y.2.2.dclass == 3
        let late := match s.instBound t me (some (r, next)), inst.promised with
          | some ps, some p => decide (p + s.capGain me inst < s.clock + psCycles ps) | _, _ => true
        if !only3 && late then .no 2
        else if s.qRecs t < s.useRecs t + 1 ∨ s.qDcnt t < s.useDcnt t + r.cnt ∨ s.qSlot t < s.useQslot t + b2n (r.cnt == 0) then .no 1
        else match (s.bestDie (diesFor [recOfEntry e])).filter fun d => decide ((s.die d).recs.length < 65536) with
          | none => .no 5
          | some d =>
            let w := match succ with | some (sd, si) => [BitVec.ofNat 64 (at_ 2 si + at_ 18 sd + at_ 21 s.own)] | none => []
            match s.makeRec d t r (nfld a.toNat 0 16) me b inst.isFault w with
            | none => .no 5
            | some m =>
              let s := (m.1.admitRec d m.2).modInst me fun x => { x with wr := (x.wr ++ (m.1.trec d m.2).wrRanges).eraseDups }
              .yes (if inst.failed then s.freeRec d m.2 else s) m.2 d
/-- R376: a launch record of eight doublewords. -/
def launchOf (v : List Word) : LaunchRec :=
  let w := fun k => v.getD k 0
  { thandle := (w 0).setWidth 32, ctag := (w 0).extractLsb' 32 32, limit := w 1, ext := [w 2, w 3, w 4, w 5, w 6], param := w 7 }
/-- DEDUCED, log 35. -/
def State.enqueue (s : State) (t : BitVec 4) (v : List Word) (arrival : Nat) : Spawned :=
  if s.qSlot t < s.useQslot t then .no 1
  else match s.instantiate t (launchOf v) false arrival with
    | .refused k => .no k
    | .made s i => .yes s i 0
/-- The answer of R377; a blocking form answers neither shortage. (DEDUCED, log 63.) -/
def State.spawnReply (s : State) (o : Op) (d : SDst) (pc : Option PReg) (r : Spawned) : Option State :=
  match r with
  | .yes s i die =>
    let o := o.answer d (BitVec.ofNat 64 (at_ 8 i + at_ 24 die))
    some (s.retire { o with wr := o.wr ++ (match pc with | some p => [.p p true] | none => []), rc := some true })
  | .no k =>
    if pc.isNone ∧ (k = 1 ∨ k = 5) then none
    else
      let o := o.answer d (BitVec.ofNat 64 k)
      some (s.retire { o with wr := o.wr ++ (match pc with | some p => [.p p false] | none => []), rc := some false })
/-- One look at a `tspawn` or `tenq` of the focus tile. -/
def State.trySpawn (s : State) (o : Op) (arrival : Nat) : Option State :=
  let x := s.tile.ctx o.ctx
  match o.act with
  | .req i v =>
    let a := v.headD 0; let b := v.getD 1 0; let c := v.getD 2 0
    match i with
    | .tspawn d _ _ _ => s.spawnReply o (.reg d) none (s.spawn x a b c)
    | .trytspawn d _ _ _ p => s.spawnReply o (.reg d) (some p) (s.spawn x a b c)
    | .tenq d _ => s.spawnReply o d none (s.enqueue x.tenant v arrival)
    | .trytenq d _ p => s.spawnReply o d (some p) (s.enqueue x.tenant v arrival)
    | _ => none
  | _ => none
/-- R377: a blocking request joins the tenant's waiting ones, or is answered at once. (DEDUCED, log 63.) -/
def State.spawnReq (s : State) (o : Op) (wait : Bool) : State :=
  let t := (s.tile.ctx o.ctx).tenant
  let queue := fun s : State =>
    let s : State := { s with coord := { s.coord with wait := s.coord.wait ++ [{ tile := s.cur, op := o.id, tenant := t, at_ := s.clock }] } }
    s.onTile fun u => u.setOp (o.asked s.clock)
  if wait && s.coord.wait.any (fun w => w.tenant == t) then queue s
  else match s.trySpawn o s.clock with | some s => s | none => queue s
/-- R377: the waiting requests, in order; a tenant's list stops at the first without room. -/
def State.applyWaiting (s : State) : State :=
  (s.coord.wait.foldl (fun (acc : State × List WaitReq) w =>
    let s := acc.1.focus w.tile
    match s.tile.opN w.op with
    | none => (s, acc.2)
    | some o =>
      if acc.2.any fun y => y.tenant == w.tenant then (s, acc.2 ++ [w])
      else match s.trySpawn o w.at_ with | some s => (s.wake, acc.2) | none => (s, acc.2 ++ [w])) ({ s with coord := { s.coord with wait := [] } }, [])) |>
    fun r => { r.1 with coord := { r.1.coord with wait := r.2 } }
/-- DEDUCED, log 62. -/
def execWaitingRequestApply (s : State) : Out3 := match s.ev with | .waitingRequestApply => .next s.applyWaiting | _ => .next s

/-- R381: cancel a record. -/
def State.doCancel (s : State) (die idx : Nat) (dec : Bool) : State :=
  let r := s.trec die idx
  let s := if dec then s.sendDecs die r else s
  let i := r.inst
  let s := s.freeRec die idx
  if s.instDone i then s.push [.instanceCompletion i] else s
/-- R382: a field of the caller's record. -/
def State.param (s : State) (x : Ctx) (a : Word) : Word :=
  match x.task with
  | none => 0
  | some rf =>
    let r0 := s.trec rf.die rf.idx
    let r := if rf.copy = 1 then r0.second else r0
    let n := nfld a.toNat 0 5
    if n = 0 then r.w[5] else if n = 1 then r.w[6] else if n = 2 then BitVec.ofNat 64 r.inst
    else if n = 3 then (s.inst r.inst).ctag.setWidth 64
    else if 8 ≤ n ∧ n < 16 then BitVec.ofNat 64 (r.baddr (Fin.ofNat 8 (n - 8)))
    else if 16 ≤ n ∧ n < 24 then BitVec.ofNat 64 (r.bsize (Fin.ofNat 8 (n - 16)) * 1024)
    else 0
/-- Cycles for which tasks of an instance have been waiting for room in a CSP: the promise will be extended by them (R274). (DEDUCED, log 42.) -/
def State.cspWaits (s : State) (t : BitVec 4) (inst : Nat) : Nat :=
  sumL ((s.recsOfInst t inst).map fun x => match x.2.2.nofit with | some c => s.clock - c | none => 0)
/-- R383: the slack in ns, rounded down: the time left rounded down, less the bound rounded up. (DESIGN CHOICE, log 95.) (DEDUCED, log 64.) -/
def State.slack (s : State) (x : Ctx) : Word :=
  let i := s.ctxInst x
  match (s.inst i).promised with
  | none => BitVec.ofNat 64 (2 ^ 63 - 1)
  | some p =>
    match s.instBound x.tenant i none with
    | none => 0
    | some b => BitVec.ofNat 64 ((p + s.cspWaits x.tenant i + s.capGain i (s.inst i) - s.clock) * 20000 / 21 / 1000 - ceilDiv b 1000)

/-! ## Tenants (R447, R451, R452) -/

def State.doVfset (s : State) (n : Nat) (en : Bool) : State × Nat :=
  if n = 0 ∨ 16 < n then (s, 2)
  else if s.vfEn n = en ∨ s.vfState n = 3 then (s, 1)
  else if en then
    let s := s.vfEnable n (s.vfTag n) (s.vfDom n)
    (s, if s.vfEn n then 0 else 1)
  else ((s.atEnd (.teardown n)).putCo (vfBlk n + 0x28) 0 3 3, 0)
/-- The oldest record of a fault queue. -/
def State.fqPop (s : State) (t : BitVec 4) : State × Option (List Byte) :=
  let blk := fqBlk t
  let cap := nfld (s.coReg (blk + 8)) 0 16
  let n := nfld (s.coReg (blk + 0x18)) 0 17
  let h := nfld (s.coReg (blk + 0x10)) 0 16
  if n = 0 then (s, none)
  else
    let a := s.coReg blk + 64 * (if cap = 0 then 0 else h % cap)
    let bs := s.memRd a 64
    ((s.setCo (blk + 0x10) (BitVec.ofNat 64 (if cap = 0 then 0 else (h + 1) % cap))).setCo (blk + 0x18) (BitVec.ofNat 64 (n - 1)), some bs)
/-- R452. -/
def State.clearGl (s : State) (h e : Nat) : State × Nat :=
  match s.tmplOf h with
  | none => (s, 3)
  | some tm =>
    match tm.entries[e]? with
    | none => (s, 3)
    | some x =>
      let old := bitN x.w[1].toNat 51
      let tm' := { tm with entries := tm.entries.set e { x with w := x.w.set 1 (putFld x.w[1] 51 1 0) } }
      ({ s with coord := { s.coord with tmpls := s.coord.tmpls.map fun y => if y.handle = h then tm' else y } }, at_ 8 (b2n old))

/-! ## Held tasks (R449) -/

/-- The request of a task's save: its status at once, or none in it while the save runs; none at all while it has to be made again. (DEDUCED, log 58.) -/
def State.askSave (s : State) (a : Word) (hold : Bool) (who : Nat × Nat) : State × Option (Option Nat) :=
  match s.anyRec a with
  | none => (s, some (some 1))
  | some (die, idx, r) =>
    match r.st with
    | .running =>
      if r.reply.isSome || r.sv == 4 then (s, none)
      else
        ((s.atEnd (.holdTask die idx hold)).modRec die idx fun r => { r with reply := some who }, some none)
    | .placed => (s.beginSave die idx 2 hold, some (some 0))
    | .ready => (s.beginSave die idx 2 hold, some (some 0))
    | _ => (s, some (some 1))
/-- R449: `csave` of a tile; a context that saves its own task finds its answer when it is restored. (DEDUCED, log 58.) -/
def State.doSave (s : State) (o : Op) (d : SDst) (a : Word) (hold : Bool) : State :=
  let q := s.askSave a hold (s.cur, o.id)
  match q.2 with
  | none => s
  | some none => q.1.onTile fun u => u.setOp (o.asked s.clock)
  | some (some k) => q.1.status o d k
/-- A word of a save record that `ctxw` may write: the mask of its bits; none is a refusal. -/
def State.ctxwMask (s : State) (base off : Nat) : Option Word :=
  let m := s.recMap base
  let nctx := (m.acc - 256) / 22528
  let word := fun (lo hi len n : Nat) => if decide (lo ≤ off ∧ off < hi) && decide (n ≤ (off - lo) % len) then none else some allBits
  if off < 256 then (if off = 8 ∨ off = 0x10 ∨ off = 0x18 ∨ within off 0x30 0x38 then some allBits else if off = 0x68 then some (fm 0 32) else none)
  else if off < 256 + 22528 * nctx then
    let i := (off - 256) % 22528
    if i = 0x5400 then some (fm 43 9)
    else if i < 0x5400 then some allBits
    else
      let k := i - 0x5400
      if k = 0x48 ∨ within k 0x1e0 (1024 - 0x1e0) ∧ !(within k 0x1e0 0x80) then none else some allBits
  else if off < m.accp then some allBits
  else if off < m.strm then word m.accp m.strm 64 16
  else if off < m.copy then word m.strm m.copy 64 48
  else if off < m.req then word m.copy m.req 64 48
  else if off < m.tcm then (if within ((off - m.req) % 288) 8 24 then none else some allBits)
  else if off < m.clus then some allBits
  else word m.clus m.stop 2304 2240 |>.bind fun x => if within off (m.clus + 72) 56 then none else some x
/-- The record of a gang's member that holds an offset into the task's records, one after the other, with the offset in it. -/
def recAtOff : List (Nat × Nat) → Nat → Option (Nat × Nat)
  | [], _ => none
  | q :: l, off => if off < q.2 then some (q.1, off) else recAtOff l (off - q.2)
/-- R449: write a word of a held task's save records, one after the other; the answer is the old word or a status. (DEDUCED, log 58.) -/
def State.ctxwAt (s : State) (a b c : Word) : State × Word :=
  match s.anyRec a with
  | none => (s, 1)
  | some (_, _, r) =>
    if !r.held || r.st ≠ .preempted then (s, 1)
    else match recAtOff r.saved b.toNat with
      | none => (s, 2)
      | some (q, off) =>
        if off % 8 ≠ 0 then (s, 2)
        else match s.ctxwMask q off with
          | none => (s, 2)
          | some m => (s.setMemWord (q + off) ((s.memWord (q + off) &&& ~~~m) ||| (c &&& m)), s.memWord (q + off))
/-- R449: a held task goes back to READY. -/
def State.crestAt (s : State) (a : Word) : State × Word :=
  match s.anyRec a with
  | some (e, k, r) => if r.held && r.st == .preempted then ((s.setRec e k { r with held := false }).toReady e k, 0) else (s, 1)
  | none => (s, 1)

/-! ## Records (R379 to R381) -/

/-- R379: add to CNT; 1 where it was applied. -/
def State.tincAt (s : State) (t : BitVec 4) (inst : Nat) (a b : Word) : State × Word :=
  match s.refOf t inst a with
  | some (e, k, r) =>
    if (r.st == .created || r.st == .waiting) && decide (b.toNat < 65536 ∧ r.cnt + b.toNat ≤ 65535 ∧ (b = 0 ∨ s.useDcnt t + b.toNat ≤ s.qDcnt t)) then
      (s.setRec e k (r.put 0 0 16 (r.cnt + b.toNat)), 1)
    else (s, 0)
  | none => (s, 0)
/-- R380: the state and CNT of a record. -/
def State.tstatusAt (s : State) (t : BitVec 4) (inst : Nat) (a : Word) : Word :=
  match s.refOf t inst a with | some (_, _, r) => BitVec.ofNat 64 (r.st.code + at_ 4 r.cnt) | none => 0
/-- R381: cancel a record; 1 where it was. -/
def State.tcancelAt (s : State) (t : BitVec 4) (inst : Nat) (a b : Word) : State × Word :=
  match s.refOf t inst a with
  | some (e, k, r) => if r.st.cancellable && decide (b.toNat < 2) then (s.doCancel e k (b == 1#64), 1) else (s, 0)
  | none => (s, 0)

/-! ## Invalidation (R450) -/

/-- The request invalidates once; it is answered when every access that used a removed entry or a discarded walk is performed. (DEDUCED, log 65.) -/
def State.doXinv (s : State) (o : Op) (i : Instr) (v : List Word) (range : Fin 3) (d : PReg) : State :=
  let t := BitVec.ofNat 4 (v.headD 0).toNat
  let va := (v.getD 1 0).toNat / 65536
  let mask := nfld (v.getD 2 0).toNat 0 9
  let p := fun k : Nat => if range = 0 then k == va else if range = 1 then k / 32 == va / 32 else true
  let left := fun s : State => (v.drop 3).all fun w => !s.inFlight (w.toNat / 2 ^ 32) (w.toNat % 2 ^ 32)
  if o.due.isSome then (if left s then s.retire (o.answerP d true) else s)
  else
    let us := s.usersOf mask t p ++ s.walkUsers mask t p
    let s := s.inval mask t p
    if us.isEmpty then s.retire (o.answerP d true)
    else s.onTile fun u => u.setOp { (o.asked s.clock) with act := .req i (v.take 3 ++ us.map fun x => BitVec.ofNat 64 (x.1 * 2 ^ 32 + x.2)) }

/-! ## Every request -/

/-- What an agent does with a request whose target is in this module. (DEDUCED, log 62.) -/
def State.request (s : State) (o : Op) (i : Instr) (v : List Word) : State :=
  let x := s.tile.ctx o.ctx
  let a := v.headD 0; let b := v.getD 1 0; let c := v.getD 2 0
  let tag := BitVec.ofNat 4 a.toNat
  let die := dieOf s.cur
  match i with
  | .pfg _ off _ => (s.doPfg x.tenant die (a.toNat + off.toInt) b.toNat).retire { o with act := .plain }
  | .tspawn _ _ _ _ => s.spawnReq o true
  | .trytspawn _ _ _ _ _ => s.spawnReq o false
  | .tenq _ _ => s.spawnReq o true
  | .trytenq _ _ _ => s.spawnReq o false
  | .tdec _ =>
    let s := s.retire { o with act := .plain }
    if nfld a.toNat 31 33 ≠ 0 then s.modDie (refDie a) fun d => { d with regs := bumpReg d.regs 0x8d0 1 }
    else s.push [.decrementArrival (refDie a) (refTask a) 1 x.tenant (s.ctxInst x)]
  | .rdec _ _ =>
    let s := s.retire { o with act := .plain }
    if nfld a.toNat 31 33 ≠ 0 then s.modDie (refDie a) fun d => { d with regs := bumpReg d.regs 0x8d0 1 }
    else s.push [.decrementArrival (refDie a) (refTask a) b.toNat x.tenant (s.ctxInst x)]
  | .tinc d _ _ => let r := s.tincAt x.tenant (s.ctxInst x) a b; r.1.retire (o.answerP d (r.2 != 0))
  | .tstatus d _ => s.retire (o.statusOf d (s.tstatusAt x.tenant (s.ctxInst x) a))
  | .tcancel d _ _ => let r := s.tcancelAt x.tenant (s.ctxInst x) a b; r.1.retire (o.answerP d (r.2 != 0))
  | .tparam d _ => s.retire (o.answer d (s.param x a))
  | .tbound d => s.retire (o.answer d (s.slack x))
  | .cfgr d _ => s.retire (o.answer d ((s.cfgRead a.toNat).getD 0))
  | .cfgw d _ _ =>
    match (cfgReg a.toNat).bind fun r => s.cfgWrite r b with
    | some _ => (s.push [.configRegisterWrite a b]).retire (o.answerP d true)
    | none => s.retire (o.answerP d false)
  | .vfsetEnable d _ _ =>
    let r := s.doVfset a.toNat (b == 1#64)
    r.1.retire (o.answer d (BitVec.ofNat 64 (r.2 + if a.toNat = 0 ∨ 16 < a.toNat then 0 else at_ 8 (r.1.vf a.toNat 0x28))))
  | .vfsetTeardown d _ _ =>
    let r := s.doVfset a.toNat (b == 1#64)
    r.1.retire (o.answer d (BitVec.ofNat 64 (r.2 + if a.toNat = 0 ∨ 16 < a.toNat then 0 else at_ 8 (r.1.vf a.toNat 0x28))))
  | .quota d _ _ =>
    let r : CfgReg := .coord (0x1000 + 0x40 * tag.toNat + 8 * nfld a.toNat 4 2)
    (s.cfgPut r (cfgNew r (s.cfgGet r) b)).retire (o.answer d (s.cfgGet r))
  | .wtouch d _ _ =>
    let r := s.doTouch tag die b.toNat
    r.1.status o d r.2
  | .wresMobile d _ _ =>
    let r := s.doMobile tag b.toNat true
    r.1.status o d (r.2 + r.1.pageBits tag (b.toNat / 65536))
  | .wresFixed d _ _ =>
    let r := s.doMobile tag b.toNat false
    r.1.status o d (r.2 + r.1.pageBits tag (b.toNat / 65536))
  | .wresUp d _ _ => s.doMove o d tag b.toNat true
  | .wresDown d _ _ => s.doMove o d tag b.toNat false
  | .wresQuery k d _ _ =>
    if k.val ≠ 0 then s.status o d (2 + s.pageBits tag (b.toNat / 65536))
    else s.status o d ((match s.leafOf tag b.toNat with | .fault _ => 3 | _ => 0) + s.pageBits tag (b.toNat / 65536))
  | .csave d _ _ => s.doSave o d a (b == 1#64)
  | .crest d _ => let r := s.crestAt a; r.1.retire (o.answer d r.2)
  | .ctxw d _ _ _ => let r := s.ctxwAt a b c; r.1.retire (o.answer d r.2)
  | .xinv range d _ _ _ => s.doXinv o i v range d
  | .fqpop d _ =>
    let r := s.fqPop tag
    r.1.retire { o with act := .plain, wr := [.v d (BitVec.ofNat 2048 (leNat (r.2.getD []))) false], rc := some r.2.isSome }
  | .mtret d _ _ =>
    let r := s.clearGl a.toNat b.toNat
    r.1.status o d r.2
  | .srd d _ =>
    if s.spBad s.cur .glb a.toNat 8 then
      let pl := mkPayload causeEcc o.slot.toNat o.ctx { s.env with cyc := o.fired } o.fired
      s.retire { o with act := .plain, wr := wrS d { bits := pl, pois := true }, poison := some pl, hard := sdHard d, rc := some true }
    else (s.spFix s.cur .glb a.toNat 8).retire (o.answer d (s.memWord a.toNat))
  | .swr d _ _ => (s.spWrite s.cur .glb a.toNat (leBytes 8 b.toNat)).retire (o.answerP d true)
  | _ => s.retire { o with act := .plain }
/-- A request for another module leaves (R301, R443); a decrement is performed when its Kiln acknowledges it (R320). ATTR names the instruction and the instance, IDATA is B and a data flit C. (DEDUCED, log 66.) -/
def State.requestOut (s : State) (o : Op) (i : Instr) (v : List Word) : State :=
  let x := s.tile.ctx o.ctx
  let a := v.headD 0
  let dec := fun n : Word => (s.sendDec (dieOf s.cur) (mkSrc s.own s.cur o.ctx 0) (reqNo (.op s.cur o.id)) x.tenant (s.ctxInst x) (refMod a) (refDie a) (refTask a)
    n.toNat).onTile fun u => u.setOp (o.asked s.clock)
  match i with
  | .tdec _ => dec 1
  | .rdec _ _ => dec (v.getD 1 0)
  | _ => (s.sendPkt (dieOf s.cur) none { Pkt.zero with
      op := 0xc, tenant := x.tenant, dmod := refMod a, ddie := refDie a, dtgt := 0xfe, src := mkSrc s.own s.cur o.ctx 0, addr := refTask a
      tag := reqNo (.op s.cur o.id), attr := nfld (opWord i) 48 16 + at_ 16 (s.ctxInst x), idata := v.getD 1 0, data := v.drop 2 }).onTile fun u => u.setOp (o.asked s.clock)
/-- A request of another module reaches the Kiln of its record. (DEDUCED, log 66.) -/
def State.kilnRequest (s : State) (id : Nat) : State :=
  let q := mget Rq.zero s.fab.reqs id
  let p := q.pkt
  let a : Word := BitVec.ofNat 64 (p.addr % 65536 + at_ 16 p.ddie + at_ 19 s.own)
  let inst := nfld p.attr 16 16
  let ans := fun r : State × Word => r.1.answerOut id none false false [r.2]
  if !q.fresh then s
  else match nfld p.attr 8 8 with
  | 0xc3 => ans (s, s.tstatusAt p.tenant inst a)
  | 0xc4 => ans (s.tcancelAt p.tenant inst a p.idata)
  | 0xc5 => ans (s.tincAt p.tenant inst a p.idata)
  | 0xd6 =>
    let r := s.askSave a (p.idata == 1#64) (4096, id)
    match r.2 with
    | none => s
    | some none => { r.1 with fab := { r.1.fab with reqs := mset Rq.zero r.1.fab.reqs id { q with pas := [0] } } }
    | some (some k) => ans (r.1, BitVec.ofNat 64 k)
  | 0xd7 => ans (s.crestAt a)
  | 0xdb => ans (s.ctxwAt a p.idata (p.data.headD 0))
  | _ => s.answerOut id none false false []
/-- R374, R443: a request reaches its agent; R508: a contribution leaves. (DEDUCED, log 62.) -/
def execTaskRequest (s : State) : Out3 :=
  match s.ev with
  | .taskRequest n id =>
    if n = 4096 then .next (s.kilnRequest id) else
    let s := s.focus n
    match s.tile.opN id with
    | none => .next s
    | some o =>
      match o.act with
      | .req i v => .next (if s.reqDue o then (if s.refAway i v then s.requestOut o i v else s.request o i v).wake else s)
      | .group i v => .next (if s.reqDue o then s.groupArrive n o i v else s)
      | _ => .next s
  | _ => .next s
/-- R445: a configuration write takes effect. -/
def execConfigRegisterWrite (s : State) : Out3 :=
  match s.ev with
  | .configRegisterWrite a w => .next (((cfgReg a.toNat).bind fun r => s.cfgWrite r w).getD s)
  | _ => .next s

end Sys2Proof.Machine
end

