-- ==== Sys2Proof/Machine/Links.lean ====
section
/-! DEFINITION. The receiving side of the pod fabric (R483 to R493): packets from other modules, the link protocol, retraining, retirement and death
of links, and UALink mode (R498 to R500). -/

namespace Sys2Proof.Machine
open Sys2Proof

/-! ## Packets from other modules -/

/-- Entries of a packet of OP 0x0: eight doublewords each. -/
def pktEntries (p : Pkt) : List Entry :=
  (List.range ((p.data.length + 7) / 8)).map fun i =>
    { data := BitVec.ofNat 512 (((p.data.drop (8 * i)).take 8).foldr (fun w x => w.toNat + x * 2 ^ 64) 0), tag := p.tag, w := p.w, p := p.p }
def pktHdr (p : Pkt) : Hdr :=
  { op := BitVec.ofNat 4 p.op, vn := BitVec.ofNat 3 p.vn, cls := BitVec.ofNat 2 p.cls, tenant := p.tenant, circ := BitVec.ofNat 6 p.circ, src := p.src }
/-- Keep a request of another module until it is answered. (DEDUCED, log 66.) -/
def State.keepReq (s : State) (p : Pkt) : State × Nat :=
  let id := s.fab.nextReq
  ({ s with fab := { s.fab with reqs := mset Rq.zero s.fab.reqs id { pkt := p, pas := [], hand := [] }, nextReq := id + 1 } }, id)
/-- A marker that is sent in every class takes effect once a copy of each class has arrived (R303). -/
def State.thirdMark (s : State) (p : Pkt) : State × Bool :=
  let k := ((((((p.attr * 2 ^ 32 + p.src.toNat) * 64 + p.circ) * 8 + p.vn) * 8 + p.ddie) * 256 + p.dtgt) * 8 + p.dctx) * 16 + p.dchan
  let m := mset 0 s.fab.marks (3 * k + p.cls) (mget 0 s.fab.marks (3 * k + p.cls) + 1)
  let all := (List.range 3).all fun c => mget 0 m (3 * k + c) != 0
  ({ s with fab := { s.fab with marks := if all then (List.range 3).foldl (fun m c => mset 0 m (3 * k + c) (mget 0 m (3 * k + c) - 1)) m else m } }, all)
/-- A marker of a reserved kind, or with bits of ATTR that its kind does not use. -/
def badMark (p : Pkt) : Bool := decide (9 ≤ p.attr % 16) || p.attr / 128 != 0 || (p.attr % 16 != 0 && p.attr / 16 != 0)
def State.deliverMark (s : State) (p : Pkt) : State :=
  let n := 192 * p.ddie + p.dtgt
  let m := BitVec.ofNat 12 (srcMod p.src)
  let sd := srcDie p.src
  let circ := BitVec.ofNat 6 p.circ
  let every := fun (f : State → State) => let r := s.thirdMark p; if r.2 then f r.1 else r.1
  match p.attr % 16 with
  | 0 =>
    let c : Fin 8 := if p.idata = 1 then Fin.ofNat 8 (nfld (reg (s.tileN n).r.win (p.dchan % 4)).toNat 1 3) else Fin.ofNat 8 p.dctx
    every fun s => s.push [.circuitToken n c (Fin.ofNat 8 (nfld p.attr 4 3)) (pktHdr p)]
  | 1 => every fun s => s
  | 2 => s.push [.roundMarker n p.tenant]
  | 3 => s.push [.roundMarker n p.tenant]
  | 4 => every fun s => s.push [.sweepMarker m p.tenant]
  | 5 => s.push [.sweepEcho m p.tenant]
  | 6 => every fun s => s.push [.linkFlushMarker m sd p.ddie circ]
  | 7 => s.push [.linkFlushEcho m p.ddie sd circ]
  | _ => s.push [.linkRetirementNotice m (Fin.ofNat 24 (p.addr % 32))]
/-- An answer finds the operation, the copy or the entry that waits for it. -/
def State.deliverAck (s : State) (p : Pkt) : State :=
  let n := 192 * p.ddie + p.dtgt
  let k := p.tag.toNat
  let cause : Option (BitVec 8) := if bitN p.attr 0 then some (p.idata.setWidth 8) else none
  let t := s.tileN n
  if k < 128 then
    match t.ops.find? fun o => o.id % 128 == k with
    | some o =>
      if cause = some 0x16#8 then
        s.push [.windowRefusal (.op n o.id) (s.labelOf (.op n o.id)) (match o.act with | .mem m => (m.addr % 2 ^ 64).toNat | _ => 0) 8]
      else (s.modTile n fun t => t.setOp (o.told p.idata)).push [.acknowledgementArrival (.op n o.id) cause (bitN p.attr 1)]
    | none => (s.focus n).onTile (fun t => { t with away := t.away.filter fun a => a.id % 128 != k }) |>.wake
  else
    match t.copies.find? fun c => c.id % 128 == k - 128 with
    | some c =>
      if cause = some 0x16#8 then s.push [.windowRefusal (.copy n c.id) c.f.label (c.outs.headD (0, 0)).1 (c.outs.headD (0, 0)).2]
      else s.push [.acknowledgementArrival (.copy n c.id) cause false]
    | none => s
/-- DTGT names a tile or an agent (R301). -/
def goodTgt (p : Pkt) : Bool := decide (p.dtgt < 0xcc) || p.dtgt == 0xf8 || p.dtgt == 0xfc || p.dtgt == 0xfe
/-- The packet is for a tile: an entry, a window write, a credit, an answer to a tile, and a marker of a tile's. -/
def forTile (p : Pkt) : Bool := p.op == 0 || p.op == 1 || p.op == 7 || ((p.op == 5 || p.op == 6) && p.dtgt != 0xf8) || (p.op == 0xd && decide (p.attr % 16 < 4))
/-- A packet that any router drops without acting on it (R302, R303). (DESIGN CHOICE, log 68.) -/
def State.dropPkt (s : State) (p : Pkt) : Bool :=
  decide (14 ≤ p.op) || p.cls == 3 || s.tagDrop p.ddie p || !goodTgt p || (forTile p && decide (192 ≤ p.dtgt)) || (p.op == 0xd && badMark p)
/-- A packet that its destination drops (R302, R368). (DESIGN CHOICE, log 68.) -/
def State.badPkt (s : State) (p : Pkt) : Bool := s.dropPkt p || (p.op == 4 && decide (10 ≤ p.attr % 16))
/-- A packet reaches its module: it is dropped (R302, R493), or acts as its operation states. -/
def State.deliver (s : State) (p : Pkt) : State :=
  let h := pktHdr p
  let n := 192 * p.ddie + p.dtgt
  let c : Fin 8 := Fin.ofNat 8 p.dctx
  let ch : Chan := Fin.ofNat 16 p.dchan
  if s.badPkt p then s.meshDrop p.ddie p.tenant
  else
    match p.op with
    | 0 =>
      let mh := bitN p.addr 8 || (((((s.tileN n).ctx ((s.tileN n).inbOwner c ch)).ib[ch]).mh) && !bitN p.addr 9)
      let r := if mh || bitN p.addr 9 then s.keepReq p else (s, 0)
      let me : AckTo := .remote (srcMod p.src) r.2
      let s := r.1.push [.channelEntryArrival n c ch (BitVec.ofNat 2 p.gen) h (pktEntries p) (if mh then some me else none)]
      if !mh && bitN p.addr 9 then s.later 1 (.acknowledgementArrival me none false) else s
    | 1 =>
      let r := s.keepReq p
      let bs := ((if p.data.isEmpty then [p.idata] else p.data).flatMap fun w => leBytes 8 w.toNat).take (p.attr % 512)
      r.1.push [.windowWriteArrival n (Fin.ofNat 4 p.dchan) h p.addr bs (.remote (srcMod p.src) r.2)]
    | 2 => let r := s.keepReq p; r.1.push [.translationWalk 4096 r.2]
    | 3 => let r := s.keepReq p; r.1.push [.translationWalk 4096 r.2]
    | 4 => let r := s.keepReq p; r.1.push [.translationWalk 4096 r.2]
    | 5 => if p.dtgt = 0xf8 then s.splitMerged p else s.deliverAck p
    | 6 => if p.dtgt = 0xf8 then s.splitMerged p else s.deliverAck p
    | 7 => s.push [.creditArrival n c ch p.idata.toNat]
    | 8 =>
      let dec : Ev := .decrementArrival p.ddie p.addr p.idata.toNat p.tenant p.attr
      if srcTgt p.src < 192 then (let r := s.keepReq p; r.1.push [dec, .acknowledgementArrival (.remote (srcMod p.src) r.2) none false]) else s.push [dec]
    | 9 =>
      s.push [.podGroupPacket (BitVec.ofNat 12 (srcMod p.src)) (BitVec.ofNat 8 p.attr) (Fin.ofNat 8 (nfld p.attr 9 3)) (bitN p.attr 12) (bitN p.attr 13) p.idata
        (nfld p.addr 0 12) (nfld p.addr 12 12) (BitVec.ofNat 6 (p.addr / 2 ^ 24))]
    | 0xc => let r := s.keepReq p; r.1.push [.taskRequest 4096 r.2]
    | 0xd => s.deliverMark p
    | _ => s

/-! ## The receiving side of a link (R485 to R487) -/

def linkPd (l : Fin 24) : Nat := l.val / 6
def linkTp (l : Fin 24) : Nat := l.val % 6
def State.linkBump (s : State) (l off n : Nat) : State := s.setLinkReg l off (satInc (s.linkReg l off) n)
/-- The control flit of a link: LGSEQ, NAK and the counts of places freed (R486). -/
def Link.control (x : Link) (nak : Bool) : BitVec 256 :=
  BitVec.ofNat 256 (x.lgseq.toNat + at_ 10 (b2n nak) + sumL ((List.range 24).map fun v => at_ (16 + 8 * v) (mget 0 x.freed v)))
def State.sendControl (s : State) (l : Fin 24) (nak : Bool) : State :=
  let x := s.link l
  (s.setLink l { x with fresh := 0, told := s.clock }).emit (.flit l (x.control nak) (trailer (x.control nak) (at_ 10 1)))
/-- Flits of a packet that is complete, as a packet. (PRESUMED, log 69.) -/
def pktOfFlits (l : List (BitVec 256)) : Option Pkt :=
  match l with
  | [] => none
  | h :: d => if d.length = nfld h.toNat 81 4 then some (pktOf h (d.flatMap flitWords)) else none
/-- An accepted flit joins its packet; a complete packet is delivered, goes on, or is dropped (R493), and its places are free again.
(DESIGN CHOICE, log 70.) -/
def State.acceptFlit (s : State) (l : Fin 24) (f : BitVec 256) : State :=
  let x := s.link l
  let rx := x.rx ++ [f]
  match pktOfFlits rx with
  | none => s.setLink l { x with rx := rx }
  | some p =>
    let s := s.setLink l { x with rx := [], freed := mset 0 x.freed (pktVc p) ((mget 0 x.freed (pktVc p) + rx.length) % 256) }
    if p.dmod = s.own then s.deliver p
    else if s.dropPkt p then s.meshDrop p.ddie p.tenant
    else s.passOn (linkPd l) (some (linkTp l)) p
/-- The torus ports carry flits: from the end of step 7 on, under a configuration record of the native mode (R461, R467, R498). -/
def State.portsUp (s : State) : Bool := s.started && !bitN s.saloc.startst.toNat 7 && !s.saloc.cfg.ualink
/-- A training flit tells the other end the last SEQ received (R488). Its place in the flit is that of a control flit. (DESIGN CHOICE, log 71.) -/
def State.sendTraining (s : State) (l : Fin 24) : State :=
  let f := BitVec.ofNat 256 (s.link l).lgseq.toNat
  s.emit (.flit l f (trailer f (at_ 10 2)))
def State.setLinkSt (s : State) (l : Fin 24) (st : Nat) : State :=
  if s.linkSt l = st then s else (s.setLinkReg l 0 (putFld (s.linkReg l 0) 0 2 st)).msix 0 3
/-- The link stops sending data and retrains. (DESIGN CHOICE, log 71.) -/
def State.beginRetrain (s : State) (l : Fin 24) : State :=
  let x := s.link l
  let c := nfld (s.linkReg l 8).toNat 0 4
  ((((s.setLinkSt l 1).setLinkReg l 8 (BitVec.ofNat 64 (min 15 (c + 1)))).setLink l { x with tries := 0, since := s.clock }).sendTraining l).later 105000
    (.retrainAttemptTimeout l)
/-- R485, R487, R488: a data flit; a training flit begins a retraining. -/
def execLinkDataFlit (s : State) : Out3 :=
  match s.ev with
  | .linkDataFlit l f t =>
    let x := s.link l
    let lo := t.toNat % 2 ^ 16
    let good := flitCrc f lo == t.extractLsb' 16 16
    let nak := fun s : State => if x.naked then s else (s.setLink l { x with naked := true }).sendControl l true
    .next (if s.linkSt l = 1 ∨ s.linkSt l = 3 ∨ s.portsUp = false then s
      else if !good then nak (s.linkBump l 0x18 1)
      else if nfld lo 10 2 = 2 then s.beginRetrain l
      else if nfld lo 10 2 ≠ 0 then s
      else if nfld lo 0 10 ≠ (x.lgseq + 1).toNat then nak s
      else
        let s := (s.setLink l { x with lgseq := x.lgseq + 1, naked := false, fresh := x.fresh + 1 }).acceptFlit l f
        if 64 ≤ (s.link l).fresh then s.sendControl l false else s)
  | _ => .next s
/-- A control flit at least every 100 ns. -/
def execLinkControlFlitInterval (s : State) : Out3 :=
  match s.ev with
  | .linkControlFlitInterval l =>
    .next (if s.linkSt l = 1 ∨ s.linkSt l = 3 ∨ s.clock < (s.link l).told + 105 then s else s.sendControl l false)
  | _ => .next s

/-! ## Replays and retraining (R487, R488) -/

/-- The oldest flit is looked at when it has waited 2 µs. -/
def State.armReplay (s : State) (l : Fin 24) : State :=
  match (s.link l).buf with
  | [] => s
  | f :: _ => s.later (max 1 (f.2 + Config.twoUs - s.clock)) (.replayTimeout l)
/-- Every unacknowledged flit is sent again, from the oldest. -/
def State.resend (s : State) (l : Fin 24) : State :=
  let x := s.link l
  let s := x.buf.zipIdx.foldl (fun s y => s.emit (.flit l y.1.1 (trailer y.1.1 ((x.oldest + y.2) % 1024)))) s
  (s.setLink l { x with buf := x.buf.map fun f => (f.1, s.clock) }).armReplay l
/-- A replay of the oldest flit, or after the third a retraining. -/
def State.replay (s : State) (l : Fin 24) : State :=
  let x := s.link l
  if x.buf.isEmpty || s.linkSt l == 1 || s.linkSt l == 3 then s
  else if 3 ≤ x.replays then s.beginRetrain l
  else ((s.setLink l { x with replays := x.replays + 1 }).linkBump l 0x10 1).resend l
def execReplayTimeout (s : State) : Out3 :=
  match s.ev with
  | .replayTimeout l => .next (match (s.link l).buf with | f :: _ => if f.2 + Config.twoUs ≤ s.clock then s.replay l else s | [] => s)
  | _ => .next s
/-- The flits up to a SEQ are acknowledged. -/
def Link.acked (x : Link) (seq : Nat) : Link :=
  let k := (seq + 1 + 1024 - x.oldest) % 1024
  if k = 0 ∨ x.buf.length < k then x else { x with buf := x.buf.drop k, replays := 0 }
/-- R486. (DESIGN CHOICE, log 70.) -/
def execControlFlit (s : State) : Out3 :=
  match s.ev with
  | .controlFlit l f =>
    .next (if s.portsUp = false ∨ s.linkSt l = 3 then s
      else
        let x := s.link l
        let cred := (List.range 24).foldl (fun m v => mset 0 m v (nfld f.toNat (16 + 8 * v) 8)) []
        let y := { (x.acked (nfld f.toNat 0 10)) with cred := cred }
        let s := s.setLink l y
        let s := if y.buf.length < x.buf.length then s.armReplay l else s
        let s := if bitN f.toNat 10 then s.replay l else s
        s.pump l)
  | _ => .next s

/-! ## Retirement (R489 to R491) -/

/-- Those whose fixed path crosses a link of a module. -/
def State.crossing (s : State) (m : Nat) (l : Fin 24) : List (Nat × Nat × Nat × Nat × Nat) :=
  s.podCircs.filter fun c => match podPath s.saloc.cfg s.fab.retired c.2.2.2.2 s.own c.2.1 with
    | some p => c.2.2.2.2 == linkPd l && p.any (hopRetired s.saloc.cfg [24 * m + l.val] c.2.2.2.2)
    | none => false
def keyOf (c : Nat × Nat × Nat × Nat × Nat) : Nat := circKey c.1 c.2.1 c.2.2.1 c.2.2.2.1
/-- A link flush marker, in every class, on a circuit. -/
def State.flushCirc (s : State) (c : Nat × Nat × Nat × Nat × Nat) : State :=
  (List.range 3).foldl (fun s k => s.sendPkt c.1 (some c.2.2.2.2)
    (markPkt 6 0 0 k 0 c.2.1 c.2.2.1 c.2.2.2.1 (agentSrc s.own c.1 0xf8))) s
/-- A link is marked retired: circuits that cross it are gated, behind their markers on the old path. (DESIGN CHOICE, log 71.) -/
def State.retireLink (s : State) (m : Nat) (l : Fin 24) : State :=
  if s.fab.retired.contains (24 * m + l.val) then s
  else
    let cs := s.crossing m l
    let s := cs.foldl (fun s c => s.flushCirc c) s
    { s with fab := { s.fab with retired := sinsert s.fab.retired (24 * m + l.val), gated := cs.foldl (fun g c => sinsert g (keyOf c)) s.fab.gated } }
/-- A dead link of this module: the flits of its retry buffer are lost, the circuits that cross it are failed until their markers on the detour are
echoed, and the packets that it has not sent go on over the detour ahead of the markers. (DESIGN CHOICE, log 71.) -/
def State.killLink (s : State) (l : Fin 24) : State :=
  let m := s.own
  let cs := s.crossing m l
  let wait := (s.link l).tx.filterMap fun p => pktOfFlits p.1
  let s := s.setLink l { (s.link l) with buf := [], tx := [], tries := 0, replays := 0 }
  let s : State := { s with fab := { s.fab with retired := sinsert s.fab.retired (24 * m + l.val), failed := cs.foldl (fun g c => sinsert g (keyOf c)) s.fab.failed } }
  cs.foldl (fun s c => s.flushCirc c) (wait.foldl (fun s p => s.routeOut (linkPd l) none p) s)
/-- Every other module is told of a link of this one (R303). (DESIGN CHOICE, log 71.) -/
def State.noticeLink (s : State) (l : Fin 24) : State :=
  s.otherMods.foldl (fun s m => s.sendPkt 0 (some (linkPd l)) { (markPkt 8 0 0 2 0 m 0 0 (agentSrc s.own 0 0xf8)) with addr := l.val }) s
def execLinkRetirementNotice (s : State) : Out3 := match s.ev with | .linkRetirementNotice m l => .next (s.retireLink m.toNat l) | _ => .next s
/-- The destination Hearth answers a flush marker. -/
def execLinkFlushMarker (s : State) : Out3 :=
  match s.ev with
  | .linkFlushMarker m sd dd c =>
    .next (s.sendPkt dd (some (circPort (s.circE dd sd c.toNat))) (markPkt 7 0 0 2 0 m.toNat sd c.toNat (agentSrc s.own dd 0xf8)))
  | _ => .next s
/-- The circuit is ungated onto its detour, with the packets that waited. (DESIGN CHOICE, log 71.) -/
def execLinkFlushEcho (s : State) : Out3 :=
  match s.ev with
  | .linkFlushEcho m sd dd c =>
    let k := circKey sd m.toNat dd c.toNat
    let mine := fun p : Pkt => circKey (srcDie p.src) p.dmod p.ddie p.circ == k
    let go := s.fab.held.filter mine
    let s : State := { s with fab := { s.fab with gated := sremove s.fab.gated k, failed := sremove s.fab.failed k, held := s.fab.held.filter fun p => !mine p } }
    .next (go.foldl (fun s p => s.sendPkt sd none p) s)
  | _ => .next s
/-- An attempt of a retraining fails; the third leaves the link dead. -/
def State.attemptFails (s : State) (l : Fin 24) : State :=
  let x := s.link l
  if x.tries < 2 then ((s.setLink l { x with tries := x.tries + 1, since := s.clock }).sendTraining l).later 105000 (.retrainAttemptTimeout l)
  else
    let s := ((s.setLinkSt l 3).killLink l).noticeLink l
    (s.fab.ports.filter fun e => e.link == l.val).foldl (fun s e =>
      State.sendMerged { s with fab := { s.fab with ports := s.fab.ports.erase e } } { e with came := none }) s
/-- R488, R489: an attempt of the retraining ends with the lanes that lock and the other end's LGSEQ; an attempt that the other end asks for begins a
retraining of its own. (DESIGN CHOICE, log 71.) -/
def execLinkRetrain (s : State) : Out3 :=
  match s.ev with
  | .linkRetrain l lanes peer =>
    .next (if s.linkSt l = 3 then s
      else
        let s := if s.linkSt l = 1 then s else s.beginRetrain l
        if lanes < 28 then s.attemptFails l
        else
          let x := (s.link l).acked peer.toNat
          let s := (s.setLink l { x with replays := 0, tries := 0 }).setLinkReg l 0 (putFld (s.linkReg l 0) 2 6 (min lanes 32))
          let s := s.resend l
          let old := s.fab.retired.contains (24 * s.own + l.val)
          let out := old || decide (9 ≤ nfld (s.linkReg l 8).toNat 0 4)
          let s := if out && !old then (s.retireLink s.own l).noticeLink l else s
          (s.setLinkSt l (if out then 2 else 0)).pump l)
  | _ => .next s
def execRetrainAttemptTimeout (s : State) : Out3 :=
  match s.ev with
  | .retrainAttemptTimeout l => .next (if s.linkSt l = 1 ∧ (s.link l).since + 105000 ≤ s.clock then s.attemptFails l else s)
  | _ => .next s
/-- R489: one less after each hour. -/
def execRtcntDecay (s : State) : Out3 :=
  match s.ev with
  | .rtcntDecay l => .next (s.setLinkReg l 8 (BitVec.ofNat 64 (nfld (s.linkReg l 8).toNat 0 4 - 1)))
  | _ => .next s

/-! ## Die-to-die links (R308) -/

/-- A link that fails three retrainings in a row: it is reported as a package fault, and every circuit that crosses it is failed. (DESIGN CHOICE, log 71.) -/
def execD2dLinkFailure (s : State) : Out3 :=
  match s.ev with
  | .d2dLinkFailure d e => .next ((s.modDie d fun x => { x with failed := sinsert x.failed e.val }).emit (.packageFault d e.val))
  | _ => .next s
/-- A replayed flit or a spare lane: the link is held without loss, and nothing else changes. (DEDUCED, log 72.) -/
def execD2dLinkRetraining (s : State) : Out3 := .next s

/-! ## UALink mode (R498 to R500) -/

/-- Aperture packets of one source and circuit that have come early and are next. (DEDUCED, log 74.) -/
def State.uaRun : Nat → State → Nat → State
  | 0, s, _ => s
  | n + 1, s, k =>
    let w := mget 0 s.fab.uaNext k
    match s.fab.uaEarly.find? fun x => x.1 == k && x.2.1 == w with
    | none => s
    | some x =>
      let s : State := { s with fab := { s.fab with uaNext := mset 0 s.fab.uaNext k ((w + 1) % 65536), uaEarly := s.fab.uaEarly.filter fun y => y != x } }
      (s.deliver x.2.2).uaRun n k
/-- R499, R500: an aperture write is performed as the native packet, in the order of its sequence numbers; a read, a write, an atomic or a completion comes as it is
sent. (DEDUCED, log 74.) -/
def execApertureWrite (s : State) : Out3 :=
  match s.ev with
  | .apertureWrite m seq p =>
    let k := 64 * m.toNat + p.circ % 64
    let s : State := { s with fab := { s.fab with uaEarly := s.fab.uaEarly ++ [(k, seq.toNat, p)] } }
    .next (State.uaRun s.fab.uaEarly.length s k)
  | .ualinkRequest p => .next (if p.dmod = s.own then s.deliver p else s.meshErr p.ddie)
  | _ => .next s
/-- R500: a port that fails, and with it every circuit assigned to it. -/
def execUalinkPortFailure (s : State) : Out3 :=
  match s.ev with
  | .ualinkPortFailure p => .next { s with fab := { s.fab with uaFailed := sinsert s.fab.uaFailed p.val } }
  | _ => .next s

end Sys2Proof.Machine
end

