-- ==== Sys2Proof/Machine/Register.lean ====
section
/-! DEFINITION. Registering a template (R82 to R84, R182, R344): the checks of its images and of its graph. -/

namespace Sys2Proof.Machine
open Sys2Proof

/-! ## Images (R82, R83) -/

/-- CRC-32 with the IEEE 802.3 polynomial. (PRESUMED, log 87.) -/
def crc32Byte (c : BitVec 32) (b : Byte) : BitVec 32 :=
  (List.range 8).foldl (fun c _ => if c.getLsbD 0 then (c >>> 1) ^^^ 0xedb88320#32 else c >>> 1) (c ^^^ b.setWidth 32)
/-- CRC-32 of CHECK (R82) with the IEEE 802.3 polynomial: least significant bit first, initial value of ones, final complement. R82 gives only the polynomial.
(PRESUMED, log 87.) -/
def crc32 (l : List Byte) : BitVec 32 := ~~~(l.foldl crc32Byte 0xffffffff#32)
def fieldAt (l : List Byte) (off n : Nat) : Nat := leNat ((l.drop off).take n)
def allZero (l : List Byte) : Bool := l.all fun b => b == 0#8
/-- Descriptors of R83: FIRST, LAST, SUCC, HEN, SHADOW. -/
def dFirst (d : Word) : Nat := nfld d.toNat 0 9
def dLast (d : Word) : Nat := nfld d.toNat 9 9
def dSucc (d : Word) : Nat := nfld d.toNat 18 3
def dHen (d : Word) : Bool := bitN d.toNat 21
def dShadow (d : Word) : Bool := bitN d.toNat 22
/-- The descriptors tile the slots from `n` on in table order. -/
def tiles (n slots : Nat) : List Word → Bool
  | [] => n == slots
  | d :: l => dFirst d == n && decide (n ≤ dLast d) && tiles (dLast d + 1) slots l
def succOk (ds : List Word) (i : Nat) (d : Word) : Bool :=
  !dHen d || (dSucc d != i && match ds[dSucc d]? with | some x => dShadow x | none => false)
/-- The image of a file that passes R84. (DEDUCED, log 50.) -/
def readImage (handle : Nat) (l : List Byte) : Option Image :=
  let nslot := fieldAt l 8 2
  let nctx := fieldAt l 0xa 1
  let datalen := fieldAt l 0x10 4
  let slotoff := ceilDiv (0x20 + 8 * nctx) 16 * 16
  let dataoff := slotoff + 16 * nslot
  let prof := fieldAt l 6 2
  let ds := (List.range nctx).map fun i => BitVec.ofNat 64 (fieldAt l (0x20 + 8 * i) 8)
  if fieldAt l 0 4 = 0x594e4c42 ∧ fieldAt l 4 2 = 1 ∧ prof < 3 ∧ 1 ≤ nslot ∧ nslot ≤ 512 ∧ 1 ≤ nctx ∧ nctx ≤ 8 ∧ fieldAt l 0xb 1 = 0
      ∧ fieldAt l 0xc 4 = dataoff ∧ datalen ≤ (if prof = 1 then 262144 else 196608) ∧ fieldAt l 0x14 4 = 0x20 ∧ fieldAt l 0x18 4 = slotoff
      ∧ l.length = dataoff + datalen ∧ allZero ((l.drop (0x20 + 8 * nctx)).take (slotoff - (0x20 + 8 * nctx))) = true
      ∧ crc32 (l.take 0x1c ++ [0, 0, 0, 0] ++ l.drop 0x20) = BitVec.ofNat 32 (fieldAt l 0x1c 4)
      ∧ ds.all (fun d => !bitN d.toNat 23 && decide (d.toNat < 2 ^ 40)) = true ∧ tiles 0 nslot ds = true ∧ ds.any (fun d => !dShadow d) = true
      ∧ ds.zipIdx.all (fun x => succOk ds x.2 x.1) = true then
    some { handle := handle, profile := BitVec.ofNat 2 prof, slots := (List.range nslot).map fun i => BitVec.ofNat 128 (fieldAt l (slotoff + 16 * i) 16), descs := ds,
           data := l.drop dataoff }
  else none

/-! ## Graphs (R182, R344) -/

/-- Some reserved field of a task entry is not zero, or a field has a value that R341 does not give. -/
def entryReserved (r : TRec) (bufs : Nat) : Bool :=
  r.f 0 46 2 != 0 || r.f 0 61 3 != 0 || r.f 1 56 8 != 0 || r.f 3 48 16 != 0 || r.f 4 48 16 != 0 || r.w[5] != 0 || r.w[6] != 0
  || r.profile == 3 || r.pcnt == 3 || decide (4 < r.acnt) || decide (8 < r.gcnt) || r.bound == 0 || r.tcmk == 0 || decide (256 < r.tcmk)
  || (List.finRange 8).any fun k => bflPlace (r.bfl k) != 3 && decide (bufs ≤ r.baddr k)
/-- A successor entry whose reserved fields are not zero, or whose kind is not that of its place in the list (R342). -/
def succReserved (stream : Bool) (w : Word) : Bool :=
  nfld w.toNat 33 31 != 0 || nfld w.toNat 0 2 != b2n stream || (stream && bitN w.toNat 32)
def bufReserved (b : Word × Word) : Bool := decide (2 ^ 12 ≤ b.1.toNat) || decide (2 ^ 16 ≤ b.2.toNat) || (bitN b.1.toNat 8 && decide (4 < nfld b.1.toNat 9 3))
/-- One round of removing the entries that no other precedes. -/
def peel (es : List (Nat × List Nat)) : List (Nat × List Nat) := es.filter fun x => es.any fun y => y.2.contains x.1
/-- The counted edges form a cycle. -/
def cyclic (es : List (Nat × List Nat)) : Bool := !((List.range es.length).foldl (fun l _ => peel l) es).isEmpty
def TRec.kbOf (r : TRec) (place : Nat) : Nat := sumL ((List.finRange 8).map fun k => if bflPlace (r.bfl k) = place then r.bsize k else 0)
/-- A CSP buffer whose slots are not whole 64-byte units or are too large. -/
def TRec.badCsp (r : TRec) : Bool :=
  (List.finRange 8).any fun k => bflPlace (r.bfl k) == 1
    && ((r.bsize k * 16) % (bflDM1 (r.bfl k) + 1) != 0 || decide (16383 < r.bsize k * 16 / (bflDM1 (r.bfl k) + 1)))
/-- A twin task that R182 refuses. -/
def badTwin (r : TRec) (i : Image) (consumes : Bool) : Bool :=
  r.twin && (r.nstrm != 0 || consumes || !((List.finRange 8).any fun k => bflPlace (r.bfl k) != 3 && bflWR (r.bfl k))
    || i.slots.any fun w => let m := nfld w.toNat 56 8; within m 0xb4 3 || within m 0xc0 16)
/-- DEDUCED, log 50. -/
def badEntry (r : TRec) (i : Image) (bufs : Nat) (consumes : Bool) : Bool :=
  entryReserved r bufs || r.badCsp || badTwin r i consumes
  || (r.dclass == 0 && (r.gang != 0 || decide (2 < r.nctx) || decide (2 < r.acnt) || decide (64 < r.tcmk)))
  || (decide (192 < r.tcmk) && r.profile != 1) || decide (r.tcmk < ceilDiv i.data.length 1024 + r.kbOf 0)
  || (if r.barq then decide (r.bexp < 1 ∨ 128 < r.bexp) else r.bexp != 0)
/-- The status of a registration: 0 accepted, 1 image-format, 2 graph-format. (DEDUCED, log 50.) -/
def State.checkTmpl (s : State) (entries : List TEntry) (bufs : List (Word × Word)) (images : List (Nat × List Byte)) : Nat × List Image :=
  let got := images.filterMap fun x => readImage x.1 x.2
  let known := got ++ s.coord.images.filter fun i => !(images.any fun x => x.1 == i.handle)
  let rs := entries.map recOfEntry
  if got.length ≠ images.length ∨ rs.any (fun r => !known.any fun i => i.handle == r.image) then (1, got)
  else
    let edges := entries.zipIdx.map fun x => (x.2, ((x.1.succ.take (recOfEntry x.1).nsucc).map eTask))
    let strm := entries.flatMap fun e => (e.succ.drop (recOfEntry e).nsucc).map eTask
    let bad := rs.zipIdx.any fun x => match known.find? (fun i => i.handle == x.1.image) with
      | some i => badEntry x.1 i bufs.length (strm.contains x.2)
      | none => true
    let out := entries.any fun e => e.succ.length != (recOfEntry e).nsucc + (recOfEntry e).nstrm || (e.succ.any fun w => decide (entries.length ≤ eTask w))
      || (e.succ.take (recOfEntry e).nsucc).any (succReserved false) || (e.succ.drop (recOfEntry e).nsucc).any (succReserved true)
    if bad || out || decide (256 < bufs.length) || bufs.any bufReserved || cyclic edges then (2, got) else (0, got)
/-- The graph memory of every die has room for `n` more units of templates. (DESIGN CHOICE, log 84.) -/
def State.graphRoom (s : State) (n : Nat) : Bool :=
  decide (s.tmplUnits + n ≤ graphUnits) && s.dies.all fun d => d.2.succUsed.all fun u => decide (u.1 + u.2 + s.tmplUnits + n ≤ graphUnits)
/-- R84, R344: a registration is accepted whole, or refused with a status. (DEDUCED, log 50.) -/
def execTemplateRegistration (s : State) : Out3 :=
  match s.ev with
  | .templateRegistration h t entries bufs images =>
    let r := s.checkTmpl entries bufs images
    .next (if (s.tmplOf h).isSome || !s.started then s
      else if r.1 ≠ 0 then s.emit (.registration h r.1)
      else
        let tm : Template := { handle := h, tenant := t, entries := entries, bufs := bufs, images := images.map (·.1) }
        if !s.graphRoom tm.units then s.emit (.registration h 2) else
        let s : State := { s with coord := { s.coord with
          images := (s.coord.images.filter fun i => !(images.any fun x => x.1 == i.handle)) ++ r.2, tmpls := s.coord.tmpls ++ [tm] } }
        let s : State := { s with dies := s.dies.map fun d => (d.1, { d.2 with rcache := d.2.rcache.filter fun y => !(images.any fun x => x.1 == y.1) }) }
        s.emit (.registration h 0))
  | _ => .next s
/-- R403: the template's entries and their GL marks end. (DEDUCED, log 50.) -/
def execTemplateUnregistration (s : State) : Out3 :=
  match s.ev with
  | .templateUnregistration h => .next { s with coord := { s.coord with tmpls := s.coord.tmpls.filter fun t => t.handle != h } }
  | _ => .next s

end Sys2Proof.Machine
end

