-- ==== Sys2Proof/Machine/Start.lean ====
section
/-! DEFINITION. Starts (R461 to R464, R467), attestation (R465, R466), and power and thermal limits (R468, R469). -/

namespace Sys2Proof.Machine
open Sys2Proof

/-! ## Starts -/

def State.setSaloc (s : State) (x : Saloc) : State := { s with saloc := x }
def State.stPut (s : State) (lo len x : Nat) : State := s.setSaloc { s.saloc with startst := putFld s.saloc.startst lo len x }
def State.stGet (s : State) (lo len : Nat) : Nat := nfld s.saloc.startst.toNat lo len
def State.stEnd (s : State) : State := s.setSaloc { s.saloc with run := none }
/-- A failed start keeps its code; a golden one leaves the module in recovery. (DEDUCED, log 75.) -/
def State.failStart (s : State) (code : Nat) : State :=
  let s := s.stEnd.stPut 8 8 code
  if s.stGet 5 1 = 1 then (s.stPut 6 1 1).stPut 0 4 0 else s.stPut 0 4 0
/-- Both signatures of an image, or of the record, verify (R465). -/
def imgSigned (x : FwImage) : Bool := x.ecdsa && x.lms
/-- It is accepted: signed, and not older than the stored version. (DEDUCED, log 75.) -/
def State.accepts (s : State) (x : FwImage) : Bool := imgSigned x && decide (mget 0 s.saloc.versions x.id ≤ x.version)
/-- Step 2: every image is accepted and the record's signatures verify; a start goes on without a record that is too old (R465, R467). (DEDUCED, log 75.) -/
def State.verified (s : State) (i : StartIn) : Bool := i.images.all s.accepts && (match i.record with | some r => imgSigned r.2 | none => true)
/-- The configuration record under which the module will run. -/
def State.record (s : State) (i : StartIn) : Option (CfgRec × FwImage) := i.record.filter fun r => s.accepts r.2
/-- The parameters of steps 3 to 5: restored by a warm start, but for the sets that fail their check, and trained otherwise (R462). -/
def State.trained (s : State) (i : StartIn) : List Word :=
  (List.range 3).map fun k => if s.stGet 4 1 = 1 ∧ !i.badSets.contains (k + 3) then s.saloc.params.getD k 0 else i.params.getD k 0
/-- Step 7 is complete: every SRAM word has been written, the module runs under its record, the stored versions are raised, and the count of failed starts is
cleared unless the image is the golden one. (DEDUCED, log 75.) -/
def State.endStart (s : State) (i : StartIn) : State :=
  let rc := s.record i
  let cfg := match rc with | some r => r.1 | none => cfgNone
  let st := if s.stGet 5 1 = 1 then s.saloc.startst else putFld s.saloc.startst 16 2 0
  let new := i.images ++ (rc.map (·.2)).toList
  let x := { s.saloc with
    startst := putFld (putFld st 0 4 8) 7 1 (b2n rc.isNone), versions := new.foldl (fun m x => mset 0 m x.id x.version) s.saloc.versions
    meas := i.rom :: new.map (·.hash), cfgHash := (match rc with | some r => r.2.hash | none => 0), cfg := cfg, params := s.trained i
    pcap := BitVec.ofNat 64 (min 3400 cfg.maxPcap), capF := 16, low := 0, capAt := 0, run := none }
  { State.reset with saloc := x, out := s.out, free := s.free, mem := s.mem, hearth := { Hearth.zero with memBad := s.hearth.memBad } }
/-- The limits of the steps, and of a whole start, in cycles (R461, R463). (DEDUCED, log 75.) -/
def stepLimit (k : Nat) : Nat := [50, 2000, 4000, 1000, 8000, 3000, 100].getD (k - 1) 0 * Config.msCycles
def startLimit : Nat := 30000 * Config.msCycles
/-- A step begins. -/
def State.beginStep (s : State) (i : StartIn) (began k : Nat) : State :=
  ((s.stPut 0 4 k).setSaloc { (s.stPut 0 4 k).saloc with run := some (i, began, s.clock) }).later (min (stepLimit k) (began + startLimit - s.clock)) .startTimeout
/-- The steps in order; a step without an outcome is in progress. (DEDUCED, log 75; DESIGN CHOICE, log 79.) -/
def State.runSteps (s : State) (i : StartIn) (began : Nat) : Nat → List (BitVec 8) → State
  | k, [] => if 7 < k then s.endStart i else s.beginStep i began k
  | k, c :: l =>
    if 7 < k then s.endStart i
    else
      let c : BitVec 8 := if k = 2 ∧ c = 0 ∧ !s.verified i then 1 else c
      if c = 0 then s.runSteps i began (k + 1) l else (s.stPut 0 4 k).failStart c.toNat
/-- A start of this kind is a warm one (R462). (DEDUCED, log 75.) -/
def warmWhy : StartWhy → Bool | .hostReset => true | .goldenExit => true | .powerCycle n => decide (n < 60) | .other => false
/-- R461 to R463: nothing runs from its beginning on, and the count of failed starts is committed first; at three the golden image is chosen, until it is
left. A start after a loss of power counts that as a failed start, whose code the spec does not give. (DEDUCED, log 75.) (DESIGN CHOICE, log 8.) -/
def State.start (s : State) (i : StartIn) : State :=
  let s := if s.saloc.power then s
    else
      let s := (s.stPut 8 8 ((Config.freeValue s.free).toNat % 256)).stPut 16 2 (min 3 (s.stGet 16 2 + 1))
      { s with free := s.free + 1, saloc := { s.saloc with power := true } }
  let n := s.stGet 16 2
  let s := ((s.stPut 4 1 (b2n (warmWhy i.why))).stPut 5 1 (b2n (decide (3 ≤ n) && i.why != .goldenExit))).stPut 6 1 0
  let s := s.stPut 16 2 (min 3 (n + 1))
  let s : State := { State.reset with
    clock := s.clock, saloc := s.saloc, out := s.out, free := s.free, mem := s.mem.filter fun c => decide (c.1 < Config.farSize)
    hearth := { Hearth.zero with memBad := s.hearth.memBad.filter fun w => decide (8 * w < Config.farSize) } }
  s.runSteps i s.clock 1 i.outs
/-- A start begins, of the kind that its cause makes it; or the step in progress ends. (DEDUCED, log 75.) -/
def execColdStart (s : State) : Out3 :=
  match s.ev with
  | .coldStart i => .next (if warmWhy i.why then s else s.start i)
  | .startStep c => .next (match s.saloc.run with | some (i, b, _) => s.runSteps i b (s.stGet 0 4) [c] | none => s)
  | _ => .next s
def execWarmStart (s : State) : Out3 := match s.ev with | .warmStart i => .next (if warmWhy i.why then s.start i else s) | _ => .next s
/-- A step, or the whole start, has taken too long. (DEDUCED, log 75.) -/
def execStartTimeout (s : State) : Out3 :=
  match s.ev with
  | .startTimeout => .next (match s.saloc.run with
    | some (_, b, k) => if k + stepLimit (s.stGet 0 4) ≤ s.clock ∨ b + startLimit ≤ s.clock then s.failStart 6 else s
    | none => s)
  | _ => .next s
/-- R466: the leaf counter is committed before the report leaves, signed with both identities; without a leaf there is no report. (DESIGN CHOICE, log 79.) -/
def execAttestationReport (s : State) : Out3 :=
  match s.ev with
  | .attestationReport nonce =>
    .next (if 2 ^ 30 ≤ s.saloc.leaf ∨ s.started = false then s
      else
        let s := s.setSaloc { s.saloc with leaf := s.saloc.leaf + 1 }
        let x := s.saloc
        let m := nonce.toNat :: x.meas.map (·.toNat) ++ [x.startst.toNat, x.cfgHash.toNat]
        s.emit (.report nonce x.meas x.startst x.cfgHash x.leaf (Config.signature 0 x.leaf m) (Config.signature 1 x.leaf m)))
  | _ => .next s

/-! ## Limits -/

/-- PCAP is clamped to the record's maximum. -/
def execPcapWrite (s : State) : Out3 :=
  match s.ev with
  | .pcapWrite w => .next (s.setSaloc { s.saloc with pcap := BitVec.ofNat 64 (min (nfld w.toNat 0 12) s.saloc.cfg.maxPcap) })
  | _ => .next s
/-- R468: every millisecond. (DEDUCED, log 76.) -/
def execTelemetrySample (s : State) : Out3 :=
  match s.ev with
  | .telemetrySample watts =>
    let x := s.saloc
    let cap := x.pcap.toNat
    let f := if cap < watts then max 4 (x.capF - 1) else if watts * 100 < 97 * cap ∧ 9 ≤ x.low then min 16 (x.capF + 1) else x.capF
    let low := if cap < watts then 0 else if watts * 100 < 97 * cap then (if 9 ≤ x.low then 0 else x.low + 1) else 0
    let s := s.stretch
    let s := s.setSaloc { s.saloc with capF := f, low := low }
    .next (if f = x.capF then s else s.msix 0 3)
  | _ => .next s
/-- Power is removed from the compute and port dies: what they held is lost, and with it every instance (R469). -/
def State.powerOff (s : State) : State :=
  let s : State := { s with
    tile := .zero, others := [], clusters := [], dies := [], todo := [], agenda := [], queue := [], fire := .zero, fab := .zero
    mem := s.mem.filter fun c => decide (c.1 < Config.nearBase)
    hearth := { s.hearth with memBad := s.hearth.memBad.filter fun w => decide (8 * w < Config.nearBase) }
    coord := { s.coord with insts := [], wait := [], arena := [], groups := [], kept := [], doms := [], downs := [], sweeps := [], rounds := [] }
    winder := { s.winder with pages := [], moves := [], migs := [] }
    saloc := { s.saloc with power := false } }
  (s.stPut 0 4 0).emit .linkDown
/-- A thermal sample: throttling, and the loss of power (R469). -/
def execThermalSample (s : State) : Out3 :=
  match s.ev with
  | .thermalSample d c =>
    let hot := (s.die d).throttle
    .next (if 115 ≤ c then (s.powerOff).msix 0 3
      else
        let now := decide (100 ≤ c) || (hot && decide (95 ≤ c))
        if now = hot then s else (s.stretch.modDie d fun x => { x with throttle := now }).msix 0 3)
  | _ => .next s

end Sys2Proof.Machine
end

