-- ==== Sys2Proof/Machine/Banks.lean ====
section
/-! DEFINITION. The banks of the TCM (R174) and of the CSP (R260 to R262, R278): the accesses that ask for banks in a cycle, the rotation in which
a bank grants them, and what a wait for a bank lengthens (R230, R247, R274, R290). -/

namespace Sys2Proof.Machine
open Sys2Proof

/-! ## Rotation -/

/-- The banks of `n`, each of units of `unit` bytes, that a range of bytes uses, one for each of its units. -/
def unitBanks (unit n pa len : Nat) : List Nat :=
  if len = 0 then [] else (List.range ((pa + len - 1) / unit - pa / unit + 1)).map fun i => (pa / unit + i) % n
def tcmBanks (pa len : Nat) : List Nat := unitBanks 16 32 pa len
def cspBanks (pa len : Nat) : List Nat := unitBanks 8 128 pa len
def mkReq (port : Nat) (key : BankKey) (banks : List Nat) (hold : Nat) (wr : Bool) : BankReq :=
  { port := port, key := key, banks := banks, left := banks, hold := hold, wr := wr }
/-- The word accesses that a bank can grant: of each port the first access that uses the bank and is not complete, for accesses of one port stand in
order (R262). (DEDUCED, log 31.) -/
def firstAt (b : Nat) : List Nat → List BankReq → List BankReq
  | _, [] => []
  | seen, r :: l =>
    if r.left.isEmpty || !r.banks.contains b || seen.contains r.port then firstAt b seen l
    else if r.left.contains b then r :: firstAt b (r.port :: seen) l else firstAt b (r.port :: seen) l
/-- One bank grants one word access, the first in the rotation of its `ports` ports. `cap` is the number of words that a port moves in a cycle in each
direction (R260), 0 where there is no such limit; `x.2` counts them. (DEDUCED, log 31.) -/
def bankGrant (ports cap clk : Nat) (x : Banks × AMap Nat) (b : Nat) : Banks × AMap Nat :=
  if clk < mget 0 x.1.busy b then x
  else
    let dist := fun r : BankReq => (r.port + ports - mget 0 x.1.next b) % ports
    let dir := fun r : BankReq => 2 * r.port + b2n r.wr
    match firstBy (fun r q => decide (dist r ≤ dist q)) ((firstAt b [] x.1.wait).filter fun r => cap == 0 || decide (mget 0 x.2 (dir r) < cap)) with
    | none => x
    | some r =>
      ({ x.1 with
          next := mset 0 x.1.next b ((r.port + 1) % ports)
          busy := if r.hold ≤ 1 then x.1.busy else mset 0 x.1.busy b (clk + r.hold)
          wait := x.1.wait.map fun q => if q.key = r.key then { q with left := q.left.erase b } else q
          used := b :: x.1.used },
       mset 0 x.2 (dir r) (mget 0 x.2 (dir r) + 1))
/-- One cycle of the banks: an access that has waited keeps the grants that it has, and its place ahead of what asks after it. (DEDUCED, log 31.) -/
def Banks.turn (ports cap clk : Nat) (b : Banks) (wants : List BankReq) : Banks :=
  if wants.isEmpty then { b with wait := [], at_ := 0, got := [], used := [] }
  else
    let l := (b.wait.filterMap fun q => (wants.find? fun r => r.key == q.key).map fun r => { r with left := q.left })
      ++ wants.filter fun r => !b.wait.any fun q => q.key == r.key
    let y := ((l.flatMap (·.left)).eraseDups.foldl (bankGrant ports cap clk) ({ b with wait := l, at_ := clk, used := [] }, [])).1
    { y with got := (y.wait.filter fun r => r.left.isEmpty).map (·.key), wait := y.wait.filter fun r => !r.left.isEmpty }
def Banks.has (b : Banks) (clk : Nat) (k : BankKey) : Bool := b.at_ == clk && b.got.contains k

/-! ## What asks for banks -/

/-- Bytes [off, off + n) of ranges taken one after the other. -/
def sliceOf : List (Nat × Nat) → Nat → Nat → List (Nat × Nat)
  | [], _, _ => []
  | (p, k) :: l, off, n =>
    if k ≤ off then sliceOf l (off - k) n
    else
      let m := min n (k - off)
      (if m = 0 then [] else [(p + off, m)]) ++ sliceOf l 0 (n - m)
/-- An access that its banks may perform before it is due: an element access takes four cycles, a CSP vector two (R247, R290). -/
def MemAcc.lead (m : MemAcc) : Nat :=
  match m.op with | .gath _ _ => 3 | .scat _ _ => 3 | _ => if m.sp = .csp ∧ m.size = 256 then 1 else 0
def MemAcc.banksOf (m : MemAcc) : List Nat :=
  match m.op with
  | .gath _ ix => ((idxOffs ix).map fun i => m.elemPa i / 16).eraseDups.map (· % 32)
  | .scat ix _ => ((idxOffs ix).map fun i => m.elemPa i / 16).eraseDups.map (· % 32)
  | _ => if m.sp = .csp then cspBanks m.addr.toNat m.size else tcmBanks m.addr.toNat m.size
/-- An access that goes to its banks now: earlier ones to the same bytes go ahead of it through the same port. -/
def State.mayAsk (s : State) (o : Op) (m : MemAcc) : Bool :=
  let due := fun (p : Op) k => match p.due with | some d => decide (d ≤ s.clock + k) | none => false
  due o m.lead && !s.tile.ordHeld o m && !s.bufClash s.cur o m && !s.winHeld o m
  && (s.tile.before o.id).all fun p => !o.clashes p m || (match p.act with | .mem q => due p q.lead && !s.tile.ordHeld p q | _ => true)
/-- The panels that a started matrix operation moves: in the CSP or not, address, bytes; and the cycle of its start (R230). -/
def State.matRanges (s : State) (o : Op) : List (Bool × Nat × Nat) × Bool × Nat :=
  let pa := fun csp v => s.panelPa o.ctx csp v
  let st := fun (d : Nat) (i : Instr) => d + 1 - i.time.2
  match o.act, o.due with
  | .mat (.mma f) [a, b] _ _ _, some d => ([(f.asp, pa f.asp a, f.bytesA), (f.bsp, pa f.bsp b, f.bytesB f.k)], false, st d (.mma f))
  | .mat (.mmas f m msp) [a, b, v] _ _ _, some d =>
    ([(f.asp, pa f.asp a, f.bytesSp), (f.bsp, pa f.bsp b, f.bytesB f.k), (msp, pa msp v, f.bytesMeta)], false, st d (.mmas f m msp))
  | .mat (.mmv f) [b] _ _ _, some d => ([(f.bsp, pa f.bsp b, f.bytesB f.fmt.kv)], false, st d (.mmv f))
  | .mat (.aload f) [a] _ _ _, some d => ([(f.asp, pa f.asp a, f.bytes)], false, st d (.aload f))
  | .mat (.mmr f ns) [a, _, b, _, _] _ _ _, some d => ([(false, pa false a, f.bytesA), (false, pa false b, f.bytesB f.k)], false, st d (.mmr f ns))
  | .rot f [_, _, a, b] _ _ _ _ _ _ _ ends, _ =>
    ([(false, pa false a, f.bytesA), (false, pa false b, f.bytesB f.k)], false, st ends (.mmr f false))
  | .put csp p bs, some d => ([(csp, p, bs.length)], true, d + 1 - (cdiv bs.length (if csp then 128 else 512) + 5))
  | _, _ => ([], false, 0)
/-- The window of a matrix operation in one memory in this cycle: 512 bytes in TCM, 128 in the CSP. -/
def State.matWant (s : State) (csp : Bool) (port : Nat) (o : Op) : List BankReq :=
  let r := s.matRanges o
  let n := if csp then 128 else 512
  let i := s.clock - (r.2.2 + 1)
  let l := sliceOf ((r.1.filter fun x => x.1 == csp).map (·.2)) (n * i) n
  if s.clock ≤ r.2.2 || l.isEmpty then []
  else [mkReq port (s.cur, 2, o.id, i) (l.flatMap fun x => if csp then cspBanks x.1 x.2 else tcmBanks x.1 x.2) 1 r.2.1]
/-- The window of a claimed buffer request (R265): 128 bytes of its slot, and of its TCM bytes. -/
def State.claimWant (s : State) (csp : Bool) (port : Nat) (o : Op) : List BankReq :=
  match o.act, o.due with
  | .claim _ pa bs wr slot len, some d =>
    let i := s.clock + cdiv len 128 - (d + 1)
    let m := min 128 (len - 128 * i)
    if s.clock + cdiv len 128 ≤ d || cdiv len 128 ≤ i || (!csp && bs.isEmpty) then []
    else if csp then [mkReq port (s.cur, 1, o.id, i) (cspBanks (slot + 128 * i) m) 1 wr]
    else [mkReq port (s.cur, 1, o.id, i) (tcmBanks (pa + 128 * i) m) 1 (!wr)]
  | _, _ => []
/-- The banks of the next element of a stream that may perform it. -/
def State.strmWant (s : State) (csp : Bool) (port : Nat) (g : Fin 8) : List BankReq :=
  let x := s.tile.strm[g]
  if x.sp != (if csp then .csp else .tcm) || !s.strmMay g then []
  else match s.reach (1, g.val) x.ctx x.sp (x.addr x.next) x.eb (b2n x.isWr) with
    | .ok l => [mkReq port (s.cur, 3, g.val, x.next) (l.flatMap fun y => if csp then cspBanks y.1 y.2 else tcmBanks y.1 y.2) 1 x.isWr]
    | _ => []
/-- The next chunk of a running copy stalls on a page (R242, R318). -/
def State.copyStalls (s : State) (c : Copy) : Bool :=
  let n := min 64 (c.len - c.off)
  match s.reach (2, c.id) c.ctx (sspOf c.f.ssp) (c.src c.row c.off) n 0 with
  | .stall _ => true
  | .stop _ => false
  | .ok _ => c.f.dsp != .win && (match s.reach (2, c.id) c.ctx (dspOf c.f.dsp) (c.dst c.row c.off) n 1 with | .stall _ => true | _ => false)
/-- The copy that moves a chunk in this cycle: the first that runs, has bytes to move and does not stall. (DESIGN CHOICE, log 25.) -/
def State.copyMover (s : State) : Option Copy := s.tile.copyRun.find? fun c => s.copyMay c && !c.moved && !s.copyStalls c
/-- The banks of a copy's chunk, of its source and its destination. -/
def State.copyWant (s : State) (csp : Bool) (port : Nat) : List BankReq :=
  let sp : Space := if csp then .csp else .tcm
  match s.copyMover with
  | none => []
  | some c =>
    let n := min 64 (c.len - c.off)
    let side := fun (q : Space) (a : Int) kind => if q != sp then [] else match s.reach (2, c.id) c.ctx q a n kind with
      | .ok l => l.flatMap fun y => if csp then cspBanks y.1 y.2 else tcmBanks y.1 y.2
      | _ => []
    let a := side (sspOf c.f.ssp) (c.src c.row c.off) 0
    let b := if c.f.dsp = .win then [] else side (dspOf c.f.dsp) (c.dst c.row c.off) 1
    if csp then
      (if a.isEmpty then [] else [mkReq port (s.cur, 4, c.id, 2 * (c.row * 2 ^ 32 + c.off)) a 1 false])
      ++ (if b.isEmpty then [] else [mkReq port (s.cur, 4, c.id, 2 * (c.row * 2 ^ 32 + c.off) + 1) b 1 true])
    else if a.isEmpty && b.isEmpty then [] else [mkReq port (s.cur, 4, c.id, c.row * 2 ^ 32 + c.off) (a ++ b) 1 false]
/-- The TCM bytes that an admitted window write reaches. -/
def State.winBytes (s : State) (n : Nat) (w : Fin 4) (h : Hdr) (off len : Nat) : Option (Nat × Nat) :=
  let e := (reg (s.tileN n).r.win w.val).toNat
  let r := s.stubAt n (Fin.ofNat 8 (nfld e 1 3))
  if winOk e h.tenant off len then some (r.1, ((s.tileN r.1).ctx r.2).tbase.toNat + nfld e 8 12 * 64 + off) else none
/-- The key of a window write: its place, its sender, and its number there. -/
def winKey (n w off : Nat) (src : BitVec 32) (who : AckTo) : BankKey :=
  (n, 5, w * 2 ^ 20 + off, src.toNat + 2 ^ 32 * (match who with | .op _ i => 2 * i | .copy _ i => 2 * i + 1 | .remote _ i => 2 * i))
def State.winWants (s : State) : List BankReq :=
  s.queue.filterMap fun q => match q.2 with
    | .windowWriteArrival n w h off bs who =>
      if s.clock < q.1 then none
      else match s.winBytes n w h off bs.length with
        | some x => if x.1 = s.cur then some (mkReq 4 (winKey n w.val off h.src who) (tcmBanks x.2 bs.length) 1 true) else none
        | none => none
    | _ => none
/-- What the Shuttle moves of a seat in this cycle of a transfer that has begun: 128 bytes of its TCM, which follow `t0` bytes of other state, or of its
CSP window (R174, R260, R358). (DEDUCED, log 31.) -/
def State.shuttleIn (s : State) (begin_ t0 : Nat) (r : TRec) (q : Seat) : Option (Bool × Nat × Nat) :=
  let c0 := q.ctxs.headD 0
  let tlen := r.tcmk * 1024
  let csp := s.cspLen q.tile c0
  let pos := 128 * (s.clock - begin_ - 1)
  if s.clock ≤ begin_ ∨ pos < t0 then none
  else if pos < t0 + tlen then some (false, q.base + (pos - t0), min 128 (t0 + tlen - pos))
  else if pos < t0 + tlen + csp then some (true, s.cspPa q.tile c0 (pos - t0 - tlen), min 128 (t0 + tlen + csp - pos))
  else none
/-- What it reads of a seat in a save. (DEDUCED, log 31.) -/
def State.shuttleAt (s : State) (r : TRec) (q : Seat) : Option (Bool × Nat × Nat) :=
  if r.sv ≠ 2 then none else s.shuttleIn (r.svEnd - s.saveCycles r) (recLen q.ctxs.length r.acnt r.gcnt 0 0 - 2304) r q
/-- The migrations whose state moves, as (migration, record, seat, whether it is written there) (R398, R402). -/
def State.migsNow (s : State) : List (Mig × TRec × Seat × Bool) :=
  (s.winder.migs.filter fun m => m.stage == 2).flatMap fun m =>
    (m.src.map fun q => (m, s.trec m.die m.idx, q, false)) ++ m.dst.map fun q => (m, s.trec m.die m.idx, q, true)
/-- What it moves of a seat in a migration. -/
def State.migAt (s : State) (x : Mig × TRec × Seat × Bool) : Option (Bool × Nat × Nat) :=
  s.shuttleIn x.1.start (x.2.2.1.ctxs.length * 22528 + x.2.1.acnt * 16384) x.2.1 x.2.2.1
def shutKey (die idx : Nat) (q : Seat) (pa : Nat) : BankKey := (q.tile, 6, 65536 * die + idx, pa)
/-- The saves under way, as (die, record's index, record, seat). -/
def State.savesNow (s : State) : List (Nat × Nat × TRec × Seat) :=
  (s.recsAll.filter fun x => x.2.2.sv == 2).flatMap fun x => x.2.2.seats.map fun q => (x.1, x.2.1, x.2.2, q)
def State.shutWants (s : State) (csp : Bool) (at_ : Nat → Bool) (port : Nat) : List BankReq :=
  let want := fun (die idx : Nat) (q : Seat) (wr : Bool) (x : Option (Bool × Nat × Nat)) => match x with
    | some (k, pa, n) => if k = csp then some (mkReq port (shutKey die idx q pa) (if csp then cspBanks pa n else tcmBanks pa n) 1 wr) else none
    | none => none
  (s.savesNow.filterMap fun x => if !at_ x.2.2.2.tile then none else want x.1 x.2.1 x.2.2.2 false (s.shuttleAt x.2.2.1 x.2.2.2))
  ++ s.migsNow.filterMap fun x => if !at_ x.2.2.1.tile then none else want x.1.die x.1.idx x.2.2.1 x.2.2.2 (s.migAt x)

/-! ## A TCM's cycle (R174) -/

/-- The requesters of the tile in focus, in the order of R174. (DEDUCED, log 31.) -/
def State.tcmWants (s : State) : List BankReq :=
  let t := s.tile
  (t.ops.flatMap fun o => match o.act with
    | .mem m => if m.sp == .tcm && s.mayAsk o m then [mkReq 0 (s.cur, 0, o.id, 0) m.banksOf 1 m.op.isStore] else []
    | _ => s.claimWant false 0 o)
  ++ (t.ops.flatMap fun o => s.matWant false 1 o)
  ++ ((List.finRange 8).flatMap fun g => s.strmWant false 2 g)
  ++ s.copyWant false 3 ++ s.winWants ++ s.shutWants false (fun n => n == s.cur) 5
def State.cspHas (s : State) (k : BankKey) : Bool := (s.clus (clusOf s.cur)).banks.has s.clock k
def State.tcmHas (s : State) (k : BankKey) : Bool := s.tile.banks.has s.clock k
/-- Everything that asks on behalf of an agent has its grants in this cycle. -/
def State.allHave (s : State) (tcm csp : List BankReq) : Bool := tcm.all (fun r => s.tcmHas r.key) && csp.all fun r => s.cspHas r.key
/-- The access of an operation that is due has its banks; other operations need none to write back. -/
def State.opBanks (s : State) (o : Op) : Bool :=
  match o.act with
  | .mem m => (match m.sp with | .tcm => s.tcmHas (s.cur, 0, o.id, 0) | .csp => s.cspHas (s.cur, 0, o.id, 0) | .glb => true)
  | _ => true
/-- A matrix or buffer operation ends a cycle later for each cycle in which a bank keeps it waiting (R230, R290). (DEDUCED, log 31.) -/
def Op.slip (o : Op) : Op :=
  { o with due := o.due.map (· + 1), act := match o.act with
    | .rot f v a b j gA gB sA sB e => .rot f v a b j gA gB sA sB (e + 1)
    | x => x }
def State.waitsBank (s : State) (o : Op) : Bool :=
  !s.allHave (s.matWant false 1 o ++ s.claimWant false 0 o) (s.matWant true 0 o ++ s.claimWant true 0 o)
/-- The banks of the tile in focus grant what this cycle asks of them. (DEDUCED, log 31.) -/
def State.tcmTurn (s : State) : State :=
  let s := s.onTile fun t => { t with banks := t.banks.turn 6 0 s.clock s.tcmWants }
  let late := (s.tile.ops.filter s.waitsBank).map fun o => (o.id, o.accs.isEmpty)
  if late.isEmpty then s
  else s.onTile fun t => { t with
    ops := t.ops.map fun o => if late.any (fun x => x.1 == o.id) then o.slip else o
    units := if late.any (fun x => !x.2) then { t.units with mat := t.units.mat + 1 } else t.units }

/-! ## A CSP's cycle (R260 to R262, R278) -/

/-- What the tile in focus asks of its cluster's CSP, through its port. -/
def State.cspTile (s : State) : List BankReq :=
  let t := s.tile
  let p := posOf s.cur
  (t.ops.flatMap fun o => match o.act with
    | .mem m => if m.sp == .csp && s.mayAsk o m then [mkReq p (s.cur, 0, o.id, 0) m.banksOf (if m.op.isLoad || m.op.isStore then 1 else 2) m.op.isStore] else []
    | _ => s.claimWant true p o)
  ++ (t.ops.flatMap fun o => s.matWant true p o)
  ++ ((List.finRange 8).flatMap fun g => s.strmWant true p g) ++ s.copyWant true p
/-- The staging copy that uses the cluster's port (R274). -/
def State.stagingNow (s : State) (k : Nat) : Option (Nat × Nat) :=
  ((s.die (k / 12)).staged.filterMap fun y =>
    let d := (s.clus k).bufd y.bufd
    let n := bufLen d * bufDepth d
    let i := s.clock - (y.ends - cdiv n 128) - 1
    if y.clus = k ∧ !y.done ∧ y.ends - cdiv n 128 < s.clock ∧ s.clock ≤ y.ends then some (bufBase d + 128 * i, min 128 (n - 128 * i)) else none).head?
/-- The requests that leave the ports of a cluster for the cycle of the state. (DEDUCED, log 31.) -/
def State.cspWants (s : State) (k : Nat) : List BankReq :=
  ((List.range 16).flatMap fun p =>
    let t := s.tileN (tileAtPos k p)
    if t.ops.isEmpty && t.copies.isEmpty && t.strm.toList.all (fun g => g.st != .run) then [] else (s.focus (tileAtPos k p)).cspTile)
  ++ (match s.stagingNow k with | some x => [mkReq 16 (k, 7, x.1, 0) (cspBanks x.1 x.2) 1 true] | none => [])
  ++ s.shutWants true (fun n => clusOf n == k) 17
/-- The staging copies of a cluster end a cycle later. -/
def State.stagingSlip (s : State) (k : Nat) : State :=
  (s.modDie (k / 12) fun d => { d with staged := d.staged.map fun y => if y.clus = k ∧ !y.done then { y with ends := y.ends + 1 } else y }).modClus k
    fun c => { c with port := c.port + 1 }
/-- A migration whose move waits for a bank. -/
def State.migSlip (s : State) (m : Mig) : State :=
  { s with winder := { s.winder with migs := s.winder.migs.map fun x => if x.die == m.die && x.idx == m.idx then { x with start := x.start + 1 } else x } }
def State.saveSlip (s : State) (x : Nat × Nat × TRec × Seat) : State := s.modRec x.1 x.2.1 fun r => { r with svEnd := r.svEnd + 1 }
/-- A bank has granted one word of an access of several: it is performed there and then, for such an access is indivisible only word by word (R262). -/
def State.partDone (s : State) (n : Nat) (o : Op) (m : MemAcc) (w : Nat) : State :=
  let put := fun (s : State) (bs : List Byte) => s.modTile n fun t => { t with ops := t.ops.map fun q => if q.id = o.id then
    (match q.act with | .mem x => { q with act := .mem { x with part := x.part ++ [(w, bs)] } } | _ => q) else q }
  if m.part.any fun x => x.1 == w then s
  else match m.op with
    | .st bs => put (if ((s.tileN n).ctx o.ctx).dead s.clock then s else s.spWrite n .csp (8 * w) ((bs.drop (8 * w - m.addr.toNat)).take 8)) []
    | _ => put s (s.spBytes n .csp (8 * w) 8)
/-- The words of an access to the CSP that its banks have granted while others of it wait. -/
def State.partTurn (s : State) (r : BankReq) : State :=
  if r.key.2.1 ≠ 0 ∨ r.left.length = r.banks.length then s
  else match (s.tileN r.key.1).opN r.key.2.2.1 with
    | some o => (match o.act with
      | .mem m => if m.addr.toNat % 8 = 0 ∧ m.size % 8 = 0 then ((List.range (m.size / 8)).filter fun i => !r.left.contains ((m.addr.toNat / 8 + i) % 128)).foldl
          (fun s i => s.partDone r.key.1 o m (m.addr.toNat / 8 + i)) s else s
      | _ => s)
    | none => s
/-- The banks of a cluster grant what is asked of them for the next cycle. (DEDUCED, log 31.) -/
def State.cspTurn (s : State) (k : Nat) : State :=
  let u : State := { s with clock := s.clock + 1 }
  let b := (s.clus k).banks.turn 18 16 u.clock (u.cspWants k)
  let s := b.wait.foldl State.partTurn (s.modClus k fun c => { c with banks := b })
  let s := match u.stagingNow k with | some x => if b.has u.clock (k, 7, x.1, 0) then s else s.stagingSlip k | none => s
  let s := u.savesNow.foldl (fun s x => match u.shuttleAt x.2.2.1 x.2.2.2 with
    | some (true, pa, _) => if clusOf x.2.2.2.tile ≠ k || b.has u.clock (shutKey x.1 x.2.1 x.2.2.2 pa) then s else s.saveSlip x
    | _ => s) s
  (u.migsNow.filter fun x => match u.migAt x with
    | some (true, pa, _) => clusOf x.2.2.1.tile == k && !b.has u.clock (shutKey x.1.die x.1.idx x.2.2.1 pa) | _ => false).foldl (fun s x => s.migSlip x.1) s
/-- A migration's write of a TCM whose tile is not attended to has no other requester but window writes. -/
def State.migTcmWaits (s : State) (x : Mig × TRec × Seat × Bool) : Bool :=
  match s.migAt x with
  | some (false, pa, _) => let b := (s.tileN x.2.2.1.tile).banks; b.at_ == s.clock && !b.has s.clock (shutKey x.1.die x.1.idx x.2.2.1 pa)
  | _ => false
/-- The clusters in which something may ask for a bank, or has. -/
def State.busyClus (s : State) : List Nat :=
  ((s.tileIds.map clusOf) ++ (s.clusters.filter fun c => c.2.banks.at_ != 0).map (·.1)
    ++ s.dies.flatMap fun d => (d.2.staged.filter fun y => !y.done).map (·.clus)).eraseDups
/-- The banks of all clusters; a save whose TCM read has waited in this cycle ends a cycle later. (DEDUCED, log 31.) -/
def State.bankTurns (s : State) : State :=
  let s := s.savesNow.foldl (fun s x => match s.shuttleAt x.2.2.1 x.2.2.2 with
    | some (false, pa, _) => if (s.tileN x.2.2.2.tile).banks.has s.clock (shutKey x.1 x.2.1 x.2.2.2 pa) then s else s.saveSlip x
    | _ => s) s
  let s := (s.migsNow.filter s.migTcmWaits).foldl (fun s x => s.migSlip x.1) s
  s.busyClus.foldl State.cspTurn s

/-! ## Window writes -/

/-- Banks that nothing has used in this cycle are granted to a window write that reaches the tile in it, behind the window writes that wait; the rotation
goes on behind it, and it keeps what it has been granted. (DEDUCED, log 31.) -/
def Banks.takeIn (clk : Nat) (k : BankKey) (banks : List Nat) (b : Banks) : Banks × Bool :=
  let b := if b.at_ = clk then b else { b with at_ := clk, got := [], used := [] }
  let ahead := (b.wait.takeWhile fun q => q.key != k).filter fun q => q.port == 4
  let left := match b.wait.find? (fun q => q.key == k) with | some q => q.left | none => banks
  let take := (left.filter fun x => !b.used.contains x && !(ahead.any fun q => q.banks.contains x)).eraseDups
  let rest := take.foldl (fun l x => l.erase x) left
  let b := { b with used := take ++ b.used, next := take.foldl (fun m x => mset 0 m x 5) b.next }
  let r := { mkReq 4 k banks 1 true with left := rest }
  if rest.isEmpty then ({ b with wait := b.wait.filter fun q => q.key != k }, true)
  else ({ b with wait := if b.wait.any (fun q => q.key == k) then b.wait.map (fun q => if q.key = k then r else q) else b.wait ++ [r] }, false)
/-- The sending tile and the circuit of a packet, whose order the receiving tile keeps (R332). -/
def hdrLane (h : Hdr) : Nat × BitVec 6 := (nfld h.src.toNat 0 23, h.circ)
/-- The lane of an arrival at a tile. -/
def evLane : Ev → Option (Nat × Nat × BitVec 6)
  | .windowWriteArrival n _ h _ _ _ => some (n, hdrLane h) | .channelEntryArrival n _ _ _ h _ _ => some (n, hdrLane h) | .circuitToken n _ _ h => some (n, hdrLane h)
  | _ => none
/-- Window writes that are due meet the banks of their tile: one whose banks are taken in this cycle waits, and so does what its sender has sent behind
it on its circuit to that tile (R332). Answers the events that go on and those that wait. (DEDUCED, log 31.) -/
def State.admitWins (s : State) (lanes : List (Nat × Nat × BitVec 6)) : List Ev → State × List Ev × List Ev
  | [] => (s, [], [])
  | e :: l =>
    let go := fun (s : State) => let r := s.admitWins lanes l; (r.1, e :: r.2.1, r.2.2)
    let hold := fun (s : State) => let r := s.admitWins (lanes ++ (evLane e).toList) l; (r.1, r.2.1, e :: r.2.2)
    if (evLane e).any lanes.contains then hold s
    else match e with
    | .windowWriteArrival n w h off bs who =>
      match s.winBytes n w h off bs.length with
      | none => go s
      | some (m, pa) =>
        let b := (s.tileN m).banks
        let k := winKey n w.val off h.src who
        if b.has s.clock k then go s
        else
          let r := b.takeIn s.clock k (tcmBanks pa bs.length)
          let s := s.modTile m fun t => { t with banks := r.1 }
          if r.2 then go s else hold s
    | _ => go s
/-- The lanes of the window writes that wait for the next cycle. -/
def State.lanesOn (s : State) : List (Nat × Nat × BitVec 6) :=
  s.queue.filterMap fun q => match q.2 with | .windowWriteArrival _ _ _ _ _ _ => evLane q.2 | _ => none

end Sys2Proof.Machine
end

