-- ==== Sys2Proof/Machine/Agents.lean ====
section
/-! DEFINITION. What the agents of a tile and of the module do in a cycle: the events that are due or enabled, in the order in
which they are taken. -/

namespace Sys2Proof.Machine
open Sys2Proof

/-! ## Agents of a tile -/

/-- The copies that act in a cycle: those that are complete or stall, and the one that moves a chunk, once its banks are granted. (DESIGN CHOICE, log 25.) -/
def State.copyTurn (s : State) : List Ev :=
  let ok := s.allHave (s.copyWant false 3) (s.copyWant true 0)
  let mover := s.copyMover.map (·.id)
  (s.tile.copyRun.filter fun c => s.copyMay c && (if c.moved then c.outs.isEmpty else if mover == some c.id then ok else s.copyStalls c)).map fun c => .copyChunk c.id
/-- A stream performs its next element, once its banks are granted. -/
def State.strmTurn (s : State) : List Ev :=
  ((List.finRange 8).filter fun g => s.strmMay g && s.allHave (s.strmWant false 2 g) (s.strmWant true 0 g)).map .streamElement
/-- The events of a tile's agents, after its picker. (DESIGN CHOICE, log 1.) -/
def State.tileAgenda (s : State) : List Ev :=
  let t := s.tile
  let n := s.cur
  let due := t.ops.filter fun o => o.mayEnd s.clock && s.opBanks o
  let each := fun (p : Op → Bool) (f : Nat → Ev) => (t.ops.filter p).map fun o => f o.id
  due.map (fun o => Ev.operationWriteback n o.id)
  ++ each (fun o => match o.act with | .gbar _ _ false => true | _ => false) .gbarRelease
  ++ s.strmTurn
  ++ s.copyTurn
  ++ each s.matMay .matrixOperationStart
  ++ each (fun o => (match o.act with | .circ _ _ => t.circMay o | _ => false) || s.pubMet o) .orderTokenComplete
  ++ each (fun o => o.rotJ.isSome) (.mmrPanelArrival n)
  ++ each (fun o => match o.glbWaits with | some m => !s.glbHeld o m | none => false) (.translationWalk n)
  ++ each (fun o => match o.act with | .rsend _ _ _ false => s.rsendMay o | _ => false) (.rsendRetry n)
  ++ each (fun o => match o.act with | .cbar _ _ false _ => t.mayArrive o | _ => false) (.barrierArrival n)
  ++ each s.reqDue (.taskRequest n)
  ++ (List.finRange 8).flatMap fun c => ((List.finRange 16).filter fun ch => s.egressMay c ch).map fun ch => .egressTransmit c ch
/-- Errors that the tile finds in this cycle: in a rule slot of a running context, whose slots its picker reads, and by the scrubs, which come to each rule
slot and each TCM word once in 2^24 cycles (R71, R175). (DESIGN CHOICE, log 85.) -/
def State.scrubs (s : State) : List Ev :=
  let t := s.tile
  ((t.badslots.filter fun b => (mget 0 t.store b).getLsbD 127 && allCtx.any fun c =>
      let x := t.ctx c
      x.st != .free && x.canStop && decide (x.cfg.rbase.toNat ≤ b ∧ b ≤ x.cfg.rlast.toNat)
      && (x.st == .running || s.clock % 2 ^ 24 == 2 ^ 15 * b)).map fun b => .ruleStoreScrub (Fin.ofNat 512 b) true)
  ++ (t.tcmSoft.filter fun w => s.clock % 2 ^ 24 == 2 ^ 9 * w).map fun w => .tcmScrub w false
/-- Traps of a copy of a twin task that came while the other copy migrated: they are taken when it has resumed (R394). (DEDUCED, log 51.) -/
def State.trapsAgain (s : State) : List Ev :=
  (List.finRange 8).filterMap fun c =>
    let x := s.tile.ctx c
    match x.ctl.first, x.task with
    | some slot, some r =>
      if x.st == .migrating && (s.trec r.die r.idx).st == .running && (s.trec r.die r.idx).sv == 0
          && !(s.winder.migs.any fun m => (m.src ++ m.dst).any fun q => q.tile == s.cur && q.ctxs.contains c) then some (.migrateTrap c slot) else none
    | _, _ => none
/-- The changes of state of a tile's contexts, at the end of the cycle. (DESIGN CHOICE, log 1.) -/
def State.settleAgenda (s : State) : List Ev :=
  let t := s.tile
  (t.overruns.map fun r => Ev.overrun r.die r.idx)
  ++ ((List.finRange 8).flatMap fun c =>
        if s.stopMay c then .contextStop c :: (match (t.ctx c).ctl.ending with | .stop i => if i.cause == 0x12#8 then [] else s.leaveEvs s.cur c | _ => [])
        else if s.handMay c then [.handoverStep c] else [])
  ++ s.trapsAgain
  ++ (t.ops.filter fun o => match o.act with | .gbar _ _ true => true | _ => false).map (fun o => .gbarRelease o.id)
  ++ ((List.finRange 8).filter fun c => (t.ctx c).sleepOver s.clock).map .sleepTimerExpiry
  ++ (if s.clock % 1024 = 1023 then [.drawRefill] else [])
  ++ s.scrubs

/-! ## Agents of the module -/

/-- What the Kiln of a die sees of a record. -/
def State.recAgenda (s : State) (d i : Nat) (r : TRec) : List Ev :=
  (if r.st == .staging && s.mayRun r.tenant then [.stagingGateOpen d i] else [])
  ++ (if s.retireMay r then [.taskRetirement d i] else [])
  ++ (if s.releaseMay d i then [.contextRelease d i] else [])
  ++ (if r.why == 2 && r.sv != 0 then [.taskSaveComplete d i] else [])
  ++ (if r.why == 1 && r.sv == 3 then [.victimSaveComplete d i] else [])
/-- Placements of a die (R353, R358). -/
def State.dieAgenda (s : State) (d : Nat) (x : Die) : List Ev :=
  (if s.clock % 4 = 0 ∧ (!x.recs.isEmpty || !x.deft.isEmpty) = true then [.placementDecision d] else [])
  ++ (if x.pre.isSome then [.class0Preemption d] else [])
/-- Moves whose last cycle this is, once the accesses by the old translation are performed (R406). -/
def State.moveEnds (s : State) : List Ev :=
  (s.winder.moves.filter fun m => match m.ends with
    | some e => decide (e ≤ s.clock + 1) && (s.usersOf 511 m.tenant (· == m.vpn)).isEmpty
    | none => false).map fun m => .pageMoveComplete m.tenant m.vpn
/-- Moves that have not started, in the order of their classes; those of a tenant that does not run wait. -/
def State.moveAgenda (s : State) : List Ev :=
  let l := s.winder.moves.filter fun m => m.ends.isNone && (m.cls == 0 || m.cls == 4 || s.mayRun m.tenant)
  ([4, 0, 1, 2, 3].flatMap fun k => l.filter fun m => m.cls == k).map fun m => .pageMove m.tenant m.vpn
def State.linkAgenda (s : State) : List Ev :=
  (if s.portsUp then ((List.finRange 24).filter fun l : Fin 24 => decide ((s.link l).told + 105 ≤ s.clock) && s.linkSt l % 2 == 0).map (fun l => .linkControlFlitInterval l) else [])
  ++ (if s.clock % (3600000 * Config.msCycles) = 0 then (List.finRange 24).map .rtcntDecay else [])
/-- The events of the module's agents, in the order of a cycle. (DESIGN CHOICE, log 1.) (DESIGN CHOICE, log 85.) -/
def State.modAgenda (s : State) : List Ev :=
  s.moveAgenda
  ++ ((s.fab.reqs.filter fun x => x.2.fresh).map fun x => if x.2.pkt.op = 0xc then .taskRequest 4096 x.1 else .translationWalk 4096 x.1)
  ++ (if s.coord.wait.isEmpty then [] else [.waitingRequestApply])
  ++ (s.dies.flatMap fun d => d.2.recs.flatMap fun r => s.recAgenda d.1 r.1 r.2)
  ++ (if s.winder.migs.any (fun m => m.stage != 3) then [.migrationDestinationFree] else [])
  ++ (s.dies.flatMap fun d => s.dieAgenda d.1 d.2)
  ++ ((s.coord.doms.filter fun x => x.2.out.isSome).flatMap fun x => (List.range 8).map fun k => .switchSave k x.1)
  ++ ((s.coord.insts.filter fun x => s.instDone x.1).map fun x => .instanceCompletion x.1)
  ++ (if s.clock % Config.msCycles = 0 then [.packageTick] else [])
  ++ (s.clusters.flatMap fun c => (c.2.cspSoft.filter fun w => s.clock % 2 ^ 27 == 2 ^ 4 * w).map fun w => .cspScrub c.1 w false)
  ++ s.linkAgenda
  ++ s.moveEnds

/-! ## The order of a cycle (R28, R171) -/

/-- Events of the queue that are due. -/
def State.dueNow (s : State) : List Ev := (s.queue.filter fun x => decide (x.1 ≤ s.clock)).map (·.2)
def State.notDue (s : State) : List (Nat × Ev) := s.queue.filter fun x => !decide (x.1 ≤ s.clock)
/-- A tile needs attention in a cycle: it has a context in use, an operation, a copy or a stream. -/
def Tile.active (t : Tile) : Bool :=
  (List.finRange 8).any (fun c => (t.ctx c).st != .free) || !t.ops.isEmpty || !t.copies.isEmpty || !t.tcmSoft.isEmpty
/-- The tiles to attend to in a cycle, in rising order. -/
def State.activeTiles (s : State) : List Nat :=
  let o := (s.others.filter fun x => x.2.active).map (·.1)
  (if s.tile.active then sinsert o s.cur else o)
/-- The agents of the tile in focus act. -/
def State.beginAgents (s : State) : State :=
  let s := s.tcmTurn
  { s with stage := .settle, agenda := s.tileAgenda }
/-- BLEFT runs down, and the contexts of the tile change their states. While one copy of a twin migrates, the count of the other stands too: none counts while the task is
MIGRATING (R357). (DESIGN CHOICE, log 100.) -/
def State.beginSettle (s : State) : State :=
  let s := s.onTile fun t => t.tickBound (decide (s.clock % 16 < s.capOf (dieOf s.cur))) fun r => (s.trec r.die r.idx).st == .migrating
  { s with stage := .next, agenda := s.settleAgenda }
/-- The module's agents act on what is due and on what they see. -/
def State.beginModule (s : State) : State :=
  let s := s.bankTurns
  let w := s.admitWins [] s.dueNow
  { w.1 with stage := .turn, agenda := w.2.1 ++ s.modAgenda, queue := w.2.2.foldr (fun e q => qfront (s.clock + 1) e q) s.notDue }
/-- A cycle begins: the clock has advanced, and every active tile is to be attended to. -/
def State.nextCycle (s : State) : State :=
  match s.activeTiles with
  | [] => { s with clock := s.clock + 1, stage := .module, todo := [] }
  | n :: l => { (s.focus n) with clock := s.clock + 1, stage := .fire, todo := l }
/-- The next tile of the cycle, or the module's agents. -/
def State.nextTile (s : State) : State :=
  match s.todo with
  | n :: l => { (s.focus n) with fire := .zero, stage := .fire, todo := l }
  | [] => { s with fire := .zero, stage := .module }
/-- What the module's agents have sent for this cycle is taken too; then the cycle ends. -/
def State.endTurn (s : State) : State :=
  if s.dueNow.isEmpty then s.nextCycle
  else
    let w := s.admitWins (State.lanesOn { s with queue := s.notDue }) s.dueNow
    { w.1 with agenda := w.2.1, queue := w.2.2.foldl (fun q e => qinsert (s.clock + 1) e q) s.notDue }
/-- A stage of the cycle other than a fire begins. (DESIGN CHOICE, log 1.) -/
def State.advance (s : State) : State :=
  match s.stage with
  | .fire => { s with fire := .zero, stage := .agents }
  | .agents => s.beginAgents
  | .settle => s.beginSettle
  | .next => s.nextTile
  | .module => s.beginModule
  | .turn => s.endTurn

end Sys2Proof.Machine
end

