-- ==== Sys2Proof/Machine/Predicate.lean ====
section
/-! DEFINITION. Predicate logic (R125). -/

namespace Sys2Proof.Machine
open Sys2Proof

/-- The value written is the result condition. -/
def State.plog (s : State) (d : PReg) (b : Bool) : Iss := s.pIss d [] fNone b
def execPand (d a b : PReg) (s : State) : Out3 := s.fireOp (.pand d a b) (s.plog d (s.fctx.p a && s.fctx.p b))
def execPor (d a b : PReg) (s : State) : Out3 := s.fireOp (.por d a b) (s.plog d (s.fctx.p a || s.fctx.p b))
def execPxor (d a b : PReg) (s : State) : Out3 := s.fireOp (.pxor d a b) (s.plog d (s.fctx.p a != s.fctx.p b))
def execPandn (d a b : PReg) (s : State) : Out3 := s.fireOp (.pandn d a b) (s.plog d (s.fctx.p a && !s.fctx.p b))
def execPnot (d a : PReg) (s : State) : Out3 := s.fireOp (.pnot d a) (s.plog d (!s.fctx.p a))
def execPmov (d a : PReg) (s : State) : Out3 := s.fireOp (.pmov d a) (s.plog d (s.fctx.p a))

end Sys2Proof.Machine
end

