-- ==== Sys2Proof/Machine/Dispatch.lean ====
section
/-! DEFINITION. One arm per instruction, each one call of its meaning. -/

namespace Sys2Proof.Machine
open Sys2Proof

def exec (i : Instr) (s : State) : Host.Outcome State Fault Refusal :=
  match i with
  | .nop => Sys2Proof.Machine.execNop s
  | .add x0 x1 x2 x3 x4 => Sys2Proof.Machine.execAdd x0 x1 x2 x3 x4 s
  | .sub x0 x1 x2 x3 x4 => Sys2Proof.Machine.execSub x0 x1 x2 x3 x4 s
  | .mul x0 x1 x2 x3 x4 => Sys2Proof.Machine.execMul x0 x1 x2 x3 x4 s
  | .div x0 x1 x2 x3 x4 => Sys2Proof.Machine.execDiv x0 x1 x2 x3 x4 s
  | .mulh x0 x1 x2 x3 => Sys2Proof.Machine.execMulh x0 x1 x2 x3 s
  | .rem x0 x1 x2 x3 => Sys2Proof.Machine.execRem x0 x1 x2 x3 s
  | .and x0 x1 x2 x3 => Sys2Proof.Machine.execAnd x0 x1 x2 x3 s
  | .or x0 x1 x2 x3 => Sys2Proof.Machine.execOr x0 x1 x2 x3 s
  | .xor x0 x1 x2 x3 => Sys2Proof.Machine.execXor x0 x1 x2 x3 s
  | .andn x0 x1 x2 x3 => Sys2Proof.Machine.execAndn x0 x1 x2 x3 s
  | .shl x0 x1 x2 x3 => Sys2Proof.Machine.execShl x0 x1 x2 x3 s
  | .shr x0 x1 x2 x3 => Sys2Proof.Machine.execShr x0 x1 x2 x3 s
  | .sra x0 x1 x2 x3 => Sys2Proof.Machine.execSra x0 x1 x2 x3 s
  | .rol x0 x1 x2 x3 => Sys2Proof.Machine.execRol x0 x1 x2 x3 s
  | .ror x0 x1 x2 x3 => Sys2Proof.Machine.execRor x0 x1 x2 x3 s
  | .min x0 x1 x2 x3 => Sys2Proof.Machine.execMin x0 x1 x2 x3 s
  | .max x0 x1 x2 x3 => Sys2Proof.Machine.execMax x0 x1 x2 x3 s
  | .clz x0 x1 x2 => Sys2Proof.Machine.execClz x0 x1 x2 s
  | .ctz x0 x1 x2 => Sys2Proof.Machine.execCtz x0 x1 x2 s
  | .popc x0 x1 x2 => Sys2Proof.Machine.execPopc x0 x1 x2 s
  | .bext x0 x1 x2 x3 x4 => Sys2Proof.Machine.execBext x0 x1 x2 x3 x4 s
  | .bins x0 x1 x2 x3 => Sys2Proof.Machine.execBins x0 x1 x2 x3 s
  | .sel x0 x1 x2 x3 => Sys2Proof.Machine.execSel x0 x1 x2 x3 s
  | .cmp x0 x1 x2 x3 x4 => Sys2Proof.Machine.execCmp x0 x1 x2 x3 x4 s
  | .addi x0 x1 x2 => Sys2Proof.Machine.execAddi x0 x1 x2 s
  | .andi x0 x1 x2 => Sys2Proof.Machine.execAndi x0 x1 x2 s
  | .ori x0 x1 x2 => Sys2Proof.Machine.execOri x0 x1 x2 s
  | .xori x0 x1 x2 => Sys2Proof.Machine.execXori x0 x1 x2 s
  | .shli x0 x1 x2 => Sys2Proof.Machine.execShli x0 x1 x2 s
  | .shri x0 x1 x2 => Sys2Proof.Machine.execShri x0 x1 x2 s
  | .srai x0 x1 x2 => Sys2Proof.Machine.execSrai x0 x1 x2 s
  | .roli x0 x1 x2 => Sys2Proof.Machine.execRoli x0 x1 x2 s
  | .cmpi x0 x1 x2 x3 x4 => Sys2Proof.Machine.execCmpi x0 x1 x2 x3 x4 s
  | .li x0 x1 => Sys2Proof.Machine.execLi x0 x1 s
  | .lih x0 x1 => Sys2Proof.Machine.execLih x0 x1 s
  | .lea x0 x1 x2 x3 => Sys2Proof.Machine.execLea x0 x1 x2 x3 s
  | .sext x0 x1 x2 => Sys2Proof.Machine.execSext x0 x1 x2 s
  | .zext x0 x1 x2 => Sys2Proof.Machine.execZext x0 x1 x2 s
  | .mov x0 x1 => Sys2Proof.Machine.execMov x0 x1 s
  | .fadd x0 x1 x2 x3 x4 => Sys2Proof.Machine.execFadd x0 x1 x2 x3 x4 s
  | .fsub x0 x1 x2 x3 x4 => Sys2Proof.Machine.execFsub x0 x1 x2 x3 x4 s
  | .fmul x0 x1 x2 x3 x4 => Sys2Proof.Machine.execFmul x0 x1 x2 x3 x4 s
  | .fdiv x0 x1 x2 x3 x4 => Sys2Proof.Machine.execFdiv x0 x1 x2 x3 x4 s
  | .fsqrt x0 x1 x2 x3 => Sys2Proof.Machine.execFsqrt x0 x1 x2 x3 s
  | .ffma x0 x1 x2 x3 x4 x5 x6 => Sys2Proof.Machine.execFfma x0 x1 x2 x3 x4 x5 x6 s
  | .fmin x0 x1 x2 x3 => Sys2Proof.Machine.execFmin x0 x1 x2 x3 s
  | .fmax x0 x1 x2 x3 => Sys2Proof.Machine.execFmax x0 x1 x2 x3 s
  | .fcmp x0 x1 x2 x3 x4 => Sys2Proof.Machine.execFcmp x0 x1 x2 x3 x4 s
  | .fclass x0 x1 x2 => Sys2Proof.Machine.execFclass x0 x1 x2 s
  | .fcvt x0 x1 x2 x3 x4 => Sys2Proof.Machine.execFcvt x0 x1 x2 x3 x4 s
  | .fcvti x0 x1 x2 x3 => Sys2Proof.Machine.execFcvti x0 x1 x2 x3 s
  | .icvtf x0 x1 x2 x3 x4 => Sys2Proof.Machine.execIcvtf x0 x1 x2 x3 x4 s
  | .fxcvt x0 x1 x2 => Sys2Proof.Machine.execFxcvt x0 x1 x2 s
  | .fneg x0 x1 x2 => Sys2Proof.Machine.execFneg x0 x1 x2 s
  | .fabs x0 x1 x2 => Sys2Proof.Machine.execFabs x0 x1 x2 s
  | .fcpsgn x0 x1 x2 x3 => Sys2Proof.Machine.execFcpsgn x0 x1 x2 x3 s
  | .fflag x0 x1 => Sys2Proof.Machine.execFflag x0 x1 s
  | .fflagClr x0 x1 => Sys2Proof.Machine.execFflagClr x0 x1 s
  | .pand x0 x1 x2 => Sys2Proof.Machine.execPand x0 x1 x2 s
  | .por x0 x1 x2 => Sys2Proof.Machine.execPor x0 x1 x2 s
  | .pxor x0 x1 x2 => Sys2Proof.Machine.execPxor x0 x1 x2 s
  | .pandn x0 x1 x2 => Sys2Proof.Machine.execPandn x0 x1 x2 s
  | .pnot x0 x1 => Sys2Proof.Machine.execPnot x0 x1 s
  | .pmov x0 x1 => Sys2Proof.Machine.execPmov x0 x1 s
  | .recv x0 x1 => Sys2Proof.Machine.execRecv x0 x1 s
  | .tryrecv x0 x1 x2 => Sys2Proof.Machine.execTryrecv x0 x1 x2 s
  | .send x0 x1 x2 => Sys2Proof.Machine.execSend x0 x1 x2 s
  | .trysend x0 x1 x2 x3 => Sys2Proof.Machine.execTrysend x0 x1 x2 x3 s
  | .peek x0 x1 => Sys2Proof.Machine.execPeek x0 x1 s
  | .trypeek x0 x1 x2 => Sys2Proof.Machine.execTrypeek x0 x1 x2 s
  | .tagh x0 x1 => Sys2Proof.Machine.execTagh x0 x1 s
  | .chreset x0 => Sys2Proof.Machine.execChreset x0 s
  | .pset x0 => Sys2Proof.Machine.execPset x0 s
  | .pclr x0 => Sys2Proof.Machine.execPclr x0 s
  | .chcount x0 x1 => Sys2Proof.Machine.execChcount x0 x1 s
  | .chfree x0 x1 => Sys2Proof.Machine.execChfree x0 x1 s
  | .done x0 => Sys2Proof.Machine.execDone x0 s
  | .yield => Sys2Proof.Machine.execYield s
  | .handover => Sys2Proof.Machine.execHandover s
  | .trap x0 x1 => Sys2Proof.Machine.execTrap x0 x1 s
  | .watch x0 x1 x2 x3 => Sys2Proof.Machine.execWatch x0 x1 x2 x3 s
  | .unwatch x0 => Sys2Proof.Machine.execUnwatch x0 s
  | .sleep x0 => Sys2Proof.Machine.execSleep x0 s
  | .bkpt x0 => Sys2Proof.Machine.execBkpt x0 s
  | .vadd x0 x1 x2 x3 x4 => Sys2Proof.Machine.execVadd x0 x1 x2 x3 x4 s
  | .vsub x0 x1 x2 x3 x4 => Sys2Proof.Machine.execVsub x0 x1 x2 x3 x4 s
  | .vmul x0 x1 x2 x3 x4 => Sys2Proof.Machine.execVmul x0 x1 x2 x3 x4 s
  | .vfma x0 x1 x2 x3 x4 x5 x6 x7 => Sys2Proof.Machine.execVfma x0 x1 x2 x3 x4 x5 x6 x7 s
  | .vdiv x0 x1 x2 x3 x4 => Sys2Proof.Machine.execVdiv x0 x1 x2 x3 x4 s
  | .vmin x0 x1 x2 x3 x4 => Sys2Proof.Machine.execVmin x0 x1 x2 x3 x4 s
  | .vmax x0 x1 x2 x3 x4 => Sys2Proof.Machine.execVmax x0 x1 x2 x3 x4 s
  | .vabs x0 x1 x2 x3 => Sys2Proof.Machine.execVabs x0 x1 x2 x3 s
  | .vneg x0 x1 x2 x3 => Sys2Proof.Machine.execVneg x0 x1 x2 x3 s
  | .vadds x0 x1 x2 x3 x4 => Sys2Proof.Machine.execVadds x0 x1 x2 x3 x4 s
  | .vsubs x0 x1 x2 x3 x4 => Sys2Proof.Machine.execVsubs x0 x1 x2 x3 x4 s
  | .vand x0 x1 x2 x3 x4 => Sys2Proof.Machine.execVand x0 x1 x2 x3 x4 s
  | .vor x0 x1 x2 x3 x4 => Sys2Proof.Machine.execVor x0 x1 x2 x3 x4 s
  | .vxor x0 x1 x2 x3 x4 => Sys2Proof.Machine.execVxor x0 x1 x2 x3 x4 s
  | .vshl x0 x1 x2 x3 x4 => Sys2Proof.Machine.execVshl x0 x1 x2 x3 x4 s
  | .vshr x0 x1 x2 x3 x4 => Sys2Proof.Machine.execVshr x0 x1 x2 x3 x4 s
  | .vsra x0 x1 x2 x3 x4 => Sys2Proof.Machine.execVsra x0 x1 x2 x3 x4 s
  | .vcmp x0 x1 x2 x3 x4 => Sys2Proof.Machine.execVcmp x0 x1 x2 x3 x4 s
  | .vclass x0 x1 x2 x3 x4 => Sys2Proof.Machine.execVclass x0 x1 x2 x3 x4 s
  | .vmov x0 x1 x2 x3 => Sys2Proof.Machine.execVmov x0 x1 x2 x3 s
  | .vbcast x0 x1 x2 x3 => Sys2Proof.Machine.execVbcast x0 x1 x2 x3 s
  | .viota x0 x1 x2 x3 => Sys2Proof.Machine.execViota x0 x1 x2 x3 s
  | .vsel x0 x1 x2 x3 x4 => Sys2Proof.Machine.execVsel x0 x1 x2 x3 x4 s
  | .vperm x0 x1 x2 x3 x4 => Sys2Proof.Machine.execVperm x0 x1 x2 x3 x4 s
  | .vrot x0 x1 x2 x3 x4 => Sys2Proof.Machine.execVrot x0 x1 x2 x3 x4 s
  | .vext x0 x1 x2 x3 => Sys2Proof.Machine.execVext x0 x1 x2 x3 s
  | .vins x0 x1 x2 x3 => Sys2Proof.Machine.execVins x0 x1 x2 x3 s
  | .vcompress x0 x1 x2 x3 => Sys2Proof.Machine.execVcompress x0 x1 x2 x3 s
  | .vexpand x0 x1 x2 x3 => Sys2Proof.Machine.execVexpand x0 x1 x2 x3 s
  | .vpack x0 x1 x2 x3 x4 x5 => Sys2Proof.Machine.execVpack x0 x1 x2 x3 x4 x5 s
  | .vunpk x0 x1 x2 x3 x4 => Sys2Proof.Machine.execVunpk x0 x1 x2 x3 x4 s
  | .kand x0 x1 x2 => Sys2Proof.Machine.execKand x0 x1 x2 s
  | .kor x0 x1 x2 => Sys2Proof.Machine.execKor x0 x1 x2 s
  | .kxor x0 x1 x2 => Sys2Proof.Machine.execKxor x0 x1 x2 s
  | .kandn x0 x1 x2 => Sys2Proof.Machine.execKandn x0 x1 x2 s
  | .knot x0 x1 => Sys2Proof.Machine.execKnot x0 x1 s
  | .kmov x0 x1 => Sys2Proof.Machine.execKmov x0 x1 s
  | .kpop x0 x1 => Sys2Proof.Machine.execKpop x0 x1 s
  | .kfind x0 x1 => Sys2Proof.Machine.execKfind x0 x1 s
  | .vredsum x0 x1 x2 x3 x4 => Sys2Proof.Machine.execVredsum x0 x1 x2 x3 x4 s
  | .vredmin x0 x1 x2 x3 x4 => Sys2Proof.Machine.execVredmin x0 x1 x2 x3 x4 s
  | .vredmax x0 x1 x2 x3 x4 => Sys2Proof.Machine.execVredmax x0 x1 x2 x3 x4 s
  | .vredand x0 x1 x2 x3 x4 => Sys2Proof.Machine.execVredand x0 x1 x2 x3 x4 s
  | .vredor x0 x1 x2 x3 x4 => Sys2Proof.Machine.execVredor x0 x1 x2 x3 x4 s
  | .vredxor x0 x1 x2 x3 x4 => Sys2Proof.Machine.execVredxor x0 x1 x2 x3 x4 s
  | .vdot x0 x1 x2 x3 x4 x5 => Sys2Proof.Machine.execVdot x0 x1 x2 x3 x4 x5 s
  | .vscan x0 x1 x2 x3 x4 => Sys2Proof.Machine.execVscan x0 x1 x2 x3 x4 s
  | .vcvt x0 x1 x2 x3 x4 => Sys2Proof.Machine.execVcvt x0 x1 x2 x3 x4 s
  | .vmxq x0 x1 x2 x3 x4 x5 => Sys2Proof.Machine.execVmxq x0 x1 x2 x3 x4 x5 s
  | .vmxd x0 x1 x2 x3 x4 x5 => Sys2Proof.Machine.execVmxd x0 x1 x2 x3 x4 x5 s
  | .sfrcp x0 x1 x2 => Sys2Proof.Machine.execSfrcp x0 x1 x2 s
  | .sfrsqrt x0 x1 x2 => Sys2Proof.Machine.execSfrsqrt x0 x1 x2 s
  | .sfsqrt x0 x1 x2 => Sys2Proof.Machine.execSfsqrt x0 x1 x2 s
  | .sfexp2 x0 x1 x2 => Sys2Proof.Machine.execSfexp2 x0 x1 x2 s
  | .sflog2 x0 x1 x2 => Sys2Proof.Machine.execSflog2 x0 x1 x2 s
  | .sfsinpi x0 x1 x2 => Sys2Proof.Machine.execSfsinpi x0 x1 x2 s
  | .sfcospi x0 x1 x2 => Sys2Proof.Machine.execSfcospi x0 x1 x2 s
  | .sfsincospi x0 x1 x2 => Sys2Proof.Machine.execSfsincospi x0 x1 x2 s
  | .mma x0 => Sys2Proof.Machine.execMma x0 s
  | .mmas x0 x1 x2 => Sys2Proof.Machine.execMmas x0 x1 x2 s
  | .mmv x0 => Sys2Proof.Machine.execMmv x0 s
  | .azero x0 => Sys2Proof.Machine.execAzero x0 s
  | .aload x0 => Sys2Proof.Machine.execAload x0 s
  | .astore x0 => Sys2Proof.Machine.execAstore x0 s
  | .acvt x0 x1 x2 x3 => Sys2Proof.Machine.execAcvt x0 x1 x2 x3 s
  | .ascale x0 x1 x2 => Sys2Proof.Machine.execAscale x0 x1 x2 s
  | .aget x0 x1 x2 x3 => Sys2Proof.Machine.execAget x0 x1 x2 x3 s
  | .aput x0 x1 x2 x3 x4 => Sys2Proof.Machine.execAput x0 x1 x2 x3 x4 s
  | .aadd x0 x1 x2 x3 => Sys2Proof.Machine.execAadd x0 x1 x2 x3 s
  | .atrans x0 x1 => Sys2Proof.Machine.execAtrans x0 x1 s
  | .gcfg x0 x1 x2 => Sys2Proof.Machine.execGcfg x0 x1 x2 s
  | .gstart x0 => Sys2Proof.Machine.execGstart x0 s
  | .gstop x0 x1 => Sys2Proof.Machine.execGstop x0 x1 s
  | .gbar x0 x1 x2 => Sys2Proof.Machine.execGbar x0 x1 x2 s
  | .ld x0 x1 => Sys2Proof.Machine.execLd x0 x1 s
  | .st x0 x1 => Sys2Proof.Machine.execSt x0 x1 s
  | .vld x0 x1 => Sys2Proof.Machine.execVld x0 x1 s
  | .vst x0 x1 => Sys2Proof.Machine.execVst x0 x1 s
  | .tamo x0 x1 x2 => Sys2Proof.Machine.execTamo x0 x1 x2 s
  | .vgath x0 x1 x2 => Sys2Proof.Machine.execVgath x0 x1 x2 s
  | .vscat x0 x1 x2 => Sys2Proof.Machine.execVscat x0 x1 x2 s
  | .cpy x0 => Sys2Proof.Machine.execCpy x0 s
  | .cpy2d x0 => Sys2Proof.Machine.execCpy2d x0 s
  | .drainTcm x0 => Sys2Proof.Machine.execDrainTcm x0 s
  | .drainCsp x0 => Sys2Proof.Machine.execDrainCsp x0 s
  | .drainGlb x0 => Sys2Proof.Machine.execDrainGlb x0 s
  | .cld x0 x1 => Sys2Proof.Machine.execCld x0 x1 s
  | .cst x0 x1 => Sys2Proof.Machine.execCst x0 x1 s
  | .cvld x0 x1 => Sys2Proof.Machine.execCvld x0 x1 s
  | .cvst x0 x1 => Sys2Proof.Machine.execCvst x0 x1 s
  | .camo x0 x1 x2 => Sys2Proof.Machine.execCamo x0 x1 x2 s
  | .bput x0 x1 x2 => Sys2Proof.Machine.execBput x0 x1 x2 s
  | .trybput x0 x1 x2 x3 => Sys2Proof.Machine.execTrybput x0 x1 x2 x3 s
  | .bget x0 x1 => Sys2Proof.Machine.execBget x0 x1 s
  | .trybget x0 x1 x2 => Sys2Proof.Machine.execTrybget x0 x1 x2 s
  | .bwait x0 x1 x2 => Sys2Proof.Machine.execBwait x0 x1 x2 s
  | .nsend x0 x1 x2 => Sys2Proof.Machine.execNsend x0 x1 x2 s
  | .trynsend x0 x1 x2 x3 => Sys2Proof.Machine.execTrynsend x0 x1 x2 x3 s
  | .nrecv x0 x1 => Sys2Proof.Machine.execNrecv x0 x1 s
  | .trynrecv x0 x1 x2 => Sys2Proof.Machine.execTrynrecv x0 x1 x2 s
  | .mmr x0 x1 => Sys2Proof.Machine.execMmr x0 x1 s
  | .cbar x0 => Sys2Proof.Machine.execCbar x0 s
  | .ldg x0 x1 => Sys2Proof.Machine.execLdg x0 x1 s
  | .stg x0 x1 => Sys2Proof.Machine.execStg x0 x1 s
  | .vldg x0 x1 => Sys2Proof.Machine.execVldg x0 x1 s
  | .vstg x0 x1 => Sys2Proof.Machine.execVstg x0 x1 s
  | .amo x0 x1 x2 x3 => Sys2Proof.Machine.execAmo x0 x1 x2 x3 s
  | .cas x0 x1 x2 => Sys2Proof.Machine.execCas x0 x1 x2 s
  | .aincBound x0 x1 x2 => Sys2Proof.Machine.execAincBound x0 x1 x2 s
  | .fence x0 => Sys2Proof.Machine.execFence x0 s
  | .otpub x0 => Sys2Proof.Machine.execOtpub x0 s
  | .otpubCirc x0 x1 => Sys2Proof.Machine.execOtpubCirc x0 x1 s
  | .otwait x0 x1 => Sys2Proof.Machine.execOtwait x0 x1 s
  | .join x0 x1 => Sys2Proof.Machine.execJoin x0 x1 s
  | .pfg x0 x1 x2 => Sys2Proof.Machine.execPfg x0 x1 x2 s
  | .tspawn x0 x1 x2 x3 => Sys2Proof.Machine.execTspawn x0 x1 x2 x3 s
  | .trytspawn x0 x1 x2 x3 x4 => Sys2Proof.Machine.execTrytspawn x0 x1 x2 x3 x4 s
  | .tenq x0 x1 => Sys2Proof.Machine.execTenq x0 x1 s
  | .trytenq x0 x1 x2 => Sys2Proof.Machine.execTrytenq x0 x1 x2 s
  | .tdec x0 => Sys2Proof.Machine.execTdec x0 s
  | .tinc x0 x1 x2 => Sys2Proof.Machine.execTinc x0 x1 x2 s
  | .tstatus x0 x1 => Sys2Proof.Machine.execTstatus x0 x1 s
  | .tcancel x0 x1 x2 => Sys2Proof.Machine.execTcancel x0 x1 x2 s
  | .tparam x0 x1 => Sys2Proof.Machine.execTparam x0 x1 s
  | .tbound x0 => Sys2Proof.Machine.execTbound x0 s
  | .rsend x0 x1 x2 => Sys2Proof.Machine.execRsend x0 x1 x2 s
  | .tryrsend x0 x1 x2 x3 => Sys2Proof.Machine.execTryrsend x0 x1 x2 x3 s
  | .rstore x0 x1 x2 => Sys2Proof.Machine.execRstore x0 x1 x2 s
  | .rdec x0 x1 => Sys2Proof.Machine.execRdec x0 x1 s
  | .pbar x0 x1 => Sys2Proof.Machine.execPbar x0 x1 s
  | .pcomb x0 x1 x2 x3 => Sys2Proof.Machine.execPcomb x0 x1 x2 x3 s
  | .pbcast x0 x1 x2 => Sys2Proof.Machine.execPbcast x0 x1 x2 s
  | .pabort x0 => Sys2Proof.Machine.execPabort x0 s
  | .cfgr x0 x1 => Sys2Proof.Machine.execCfgr x0 x1 s
  | .cfgw x0 x1 x2 => Sys2Proof.Machine.execCfgw x0 x1 x2 s
  | .vfsetEnable x0 x1 x2 => Sys2Proof.Machine.execVfsetEnable x0 x1 x2 s
  | .vfsetTeardown x0 x1 x2 => Sys2Proof.Machine.execVfsetTeardown x0 x1 x2 s
  | .quota x0 x1 x2 => Sys2Proof.Machine.execQuota x0 x1 x2 s
  | .wtouch x0 x1 x2 => Sys2Proof.Machine.execWtouch x0 x1 x2 s
  | .wresMobile x0 x1 x2 => Sys2Proof.Machine.execWresMobile x0 x1 x2 s
  | .wresFixed x0 x1 x2 => Sys2Proof.Machine.execWresFixed x0 x1 x2 s
  | .wresUp x0 x1 x2 => Sys2Proof.Machine.execWresUp x0 x1 x2 s
  | .wresDown x0 x1 x2 => Sys2Proof.Machine.execWresDown x0 x1 x2 s
  | .wresQuery x0 x1 x2 x3 => Sys2Proof.Machine.execWresQuery x0 x1 x2 x3 s
  | .csave x0 x1 x2 => Sys2Proof.Machine.execCsave x0 x1 x2 s
  | .crest x0 x1 => Sys2Proof.Machine.execCrest x0 x1 s
  | .ctxw x0 x1 x2 x3 => Sys2Proof.Machine.execCtxw x0 x1 x2 x3 s
  | .xinv x0 x1 x2 x3 x4 => Sys2Proof.Machine.execXinv x0 x1 x2 x3 x4 s
  | .fqpop x0 x1 => Sys2Proof.Machine.execFqpop x0 x1 s
  | .mtret x0 x1 x2 => Sys2Proof.Machine.execMtret x0 x1 x2 s
  | .srd x0 x1 => Sys2Proof.Machine.execSrd x0 x1 s
  | .swr x0 x1 x2 => Sys2Proof.Machine.execSwr x0 x1 x2 s
  | .operationWriteback => Sys2Proof.Machine.execOperationWriteback s
  | .handoverStep => Sys2Proof.Machine.execHandoverStep s
  | .contextStop => Sys2Proof.Machine.execContextStop s
  | .contextRelease => Sys2Proof.Machine.execContextRelease s
  | .migrateTrap => Sys2Proof.Machine.execMigrateTrap s
  | .channelEntryArrival => Sys2Proof.Machine.execChannelEntryArrival s
  | .creditArrival => Sys2Proof.Machine.execCreditArrival s
  | .egressTransmit => Sys2Proof.Machine.execEgressTransmit s
  | .windowWriteArrival => Sys2Proof.Machine.execWindowWriteArrival s
  | .windowRefusal => Sys2Proof.Machine.execWindowRefusal s
  | .acknowledgementArrival => Sys2Proof.Machine.execAcknowledgementArrival s
  | .watchArm => Sys2Proof.Machine.execWatchArm s
  | .watchNotify => Sys2Proof.Machine.execWatchNotify s
  | .sleepTimerExpiry => Sys2Proof.Machine.execSleepTimerExpiry s
  | .drawRefill => Sys2Proof.Machine.execDrawRefill s
  | .overrun => Sys2Proof.Machine.execOverrun s
  | .ruleStoreScrub => Sys2Proof.Machine.execRuleStoreScrub s
  | .tcmScrub => Sys2Proof.Machine.execTcmScrub s
  | .cspScrub => Sys2Proof.Machine.execCspScrub s
  | .ruleImageLoad => Sys2Proof.Machine.execRuleImageLoad s
  | .streamElement => Sys2Proof.Machine.execStreamElement s
  | .gbarRelease => Sys2Proof.Machine.execGbarRelease s
  | .copyChunk => Sys2Proof.Machine.execCopyChunk s
  | .copyComplete => Sys2Proof.Machine.execCopyComplete s
  | .orderTokenComplete => Sys2Proof.Machine.execOrderTokenComplete s
  | .matrixOperationStart => Sys2Proof.Machine.execMatrixOperationStart s
  | .neighbourEntryArrival => Sys2Proof.Machine.execNeighbourEntryArrival s
  | .neighbourRetry => Sys2Proof.Machine.execNeighbourRetry s
  | .bufferRequest => Sys2Proof.Machine.execBufferRequest s
  | .fullBitChange => Sys2Proof.Machine.execFullBitChange s
  | .barrierArrival => Sys2Proof.Machine.execBarrierArrival s
  | .barrierRelease => Sys2Proof.Machine.execBarrierRelease s
  | .mmrPanelArrival => Sys2Proof.Machine.execMmrPanelArrival s
  | .globalRead => Sys2Proof.Machine.execGlobalRead s
  | .globalWrite => Sys2Proof.Machine.execGlobalWrite s
  | .globalAtomic => Sys2Proof.Machine.execGlobalAtomic s
  | .translationWalk => Sys2Proof.Machine.execTranslationWalk s
  | .walkComplete => Sys2Proof.Machine.execWalkComplete s
  | .mergeEntryClose => Sys2Proof.Machine.execMergeEntryClose s
  | .circuitToken => Sys2Proof.Machine.execCircuitToken s
  | .flushToken => Sys2Proof.Machine.execFlushToken s
  | .roundMarker => Sys2Proof.Machine.execRoundMarker s
  | .sweepMarker => Sys2Proof.Machine.execSweepMarker s
  | .sweepEcho => Sys2Proof.Machine.execSweepEcho s
  | .linkFlushMarker => Sys2Proof.Machine.execLinkFlushMarker s
  | .linkFlushEcho => Sys2Proof.Machine.execLinkFlushEcho s
  | .linkRetirementNotice => Sys2Proof.Machine.execLinkRetirementNotice s
  | .decrementArrival => Sys2Proof.Machine.execDecrementArrival s
  | .taskRequest => Sys2Proof.Machine.execTaskRequest s
  | .waitingRequestApply => Sys2Proof.Machine.execWaitingRequestApply s
  | .stagingGateOpen => Sys2Proof.Machine.execStagingGateOpen s
  | .stagingAllowanceExpiry => Sys2Proof.Machine.execStagingAllowanceExpiry s
  | .cspStagingCopy => Sys2Proof.Machine.execCspStagingCopy s
  | .placementDecision => Sys2Proof.Machine.execPlacementDecision s
  | .taskRetirement => Sys2Proof.Machine.execTaskRetirement s
  | .instanceCompletion => Sys2Proof.Machine.execInstanceCompletion s
  | .launch => Sys2Proof.Machine.execLaunch s
  | .class0Preemption => Sys2Proof.Machine.execClass0Preemption s
  | .victimSaveComplete => Sys2Proof.Machine.execVictimSaveComplete s
  | .migrationDestinationFree => Sys2Proof.Machine.execMigrationDestinationFree s
  | .stubOpen => Sys2Proof.Machine.execStubOpen s
  | .stubClose => Sys2Proof.Machine.execStubClose s
  | .migrationResume => Sys2Proof.Machine.execMigrationResume s
  | .pageMove => Sys2Proof.Machine.execPageMove s
  | .packageTick => Sys2Proof.Machine.execPackageTick s
  | .switchSave => Sys2Proof.Machine.execSwitchSave s
  | .saveDeadlineKill => Sys2Proof.Machine.execSaveDeadlineKill s
  | .switchIn => Sys2Proof.Machine.execSwitchIn s
  | .teardown => Sys2Proof.Machine.execTeardown s
  | .abortMarker => Sys2Proof.Machine.execAbortMarker s
  | .vfFunctionLevelReset => Sys2Proof.Machine.execVfFunctionLevelReset s
  | .vfctlEnable => Sys2Proof.Machine.execVfctlEnable s
  | .vfctlTeardown => Sys2Proof.Machine.execVfctlTeardown s
  | .configRegisterWrite => Sys2Proof.Machine.execConfigRegisterWrite s
  | .launchWrite => Sys2Proof.Machine.execLaunchWrite s
  | .completionEntryWrite => Sys2Proof.Machine.execCompletionEntryWrite s
  | .cqheadWrite => Sys2Proof.Machine.execCqheadWrite s
  | .msixCoalesceTimer => Sys2Proof.Machine.execMsixCoalesceTimer s
  | .hostRead => Sys2Proof.Machine.execHostRead s
  | .hostWrite => Sys2Proof.Machine.execHostWrite s
  | .pcapWrite => Sys2Proof.Machine.execPcapWrite s
  | .coldStart => Sys2Proof.Machine.execColdStart s
  | .warmStart => Sys2Proof.Machine.execWarmStart s
  | .startTimeout => Sys2Proof.Machine.execStartTimeout s
  | .attestationReport => Sys2Proof.Machine.execAttestationReport s
  | .telemetrySample => Sys2Proof.Machine.execTelemetrySample s
  | .thermalSample => Sys2Proof.Machine.execThermalSample s
  | .linkDataFlit => Sys2Proof.Machine.execLinkDataFlit s
  | .controlFlit => Sys2Proof.Machine.execControlFlit s
  | .replayTimeout => Sys2Proof.Machine.execReplayTimeout s
  | .linkRetrain => Sys2Proof.Machine.execLinkRetrain s
  | .retrainAttemptTimeout => Sys2Proof.Machine.execRetrainAttemptTimeout s
  | .rtcntDecay => Sys2Proof.Machine.execRtcntDecay s
  | .d2dLinkFailure => Sys2Proof.Machine.execD2dLinkFailure s
  | .podGroupPacket => Sys2Proof.Machine.execPodGroupPacket s
  | .rsendRetry => Sys2Proof.Machine.execRsendRetry s
  | .apertureWrite => Sys2Proof.Machine.execApertureWrite s
  | .templateRegistration => Sys2Proof.Machine.execTemplateRegistration s
  | .templateUnregistration => Sys2Proof.Machine.execTemplateUnregistration s
  | .watchDisarm => Sys2Proof.Machine.execWatchDisarm s
  | .pageMoveComplete => Sys2Proof.Machine.execPageMoveComplete s
  | .taskSaveComplete => Sys2Proof.Machine.execTaskSaveComplete s
  | .taskRestoreComplete => Sys2Proof.Machine.execTaskRestoreComplete s
  | .bar0RegisterWrite => Sys2Proof.Machine.execBar0RegisterWrite s
  | .linkControlFlitInterval => Sys2Proof.Machine.execLinkControlFlitInterval s
  | .ualinkPortFailure => Sys2Proof.Machine.execUalinkPortFailure s
  | .d2dLinkRetraining => Sys2Proof.Machine.execD2dLinkRetraining s

end Sys2Proof.Machine
end

