-- ==== Sys2Proof/Machine/Fetch.lean ====
section
/-! DEFINITION. The fire of a chosen rule, and placing one instruction where the next fire takes it. -/

namespace Sys2Proof.Machine
open Sys2Proof

/-! ## Migrate marks and stochastic rounding on a Bisque tile (R67, R69) -/

/-- The operation of a fire, as it stands outstanding after it, is to write 101 to AMODE.RND: its result is computed, or it loads from the TCM
or the CSP, whose bytes are read as they stand at the fire. (DEDUCED, log 81.) -/
def State.willRs (s : State) (o : Op) : Bool :=
  o.setsRs || match o.act with
    | .mem m => o.dsts.contains .amode && m.sp != .glb && (o.performed (s.perform s.cur o m).2).setsRs
    | _ => false
/-- The rule in state `s`, about to fire and leading to `s'`, rounds under the dynamic mode while AMODE.RND is 101, or writes 101 to it
(R69). (DEDUCED, log 81.) -/
def State.stoch (s s' : State) (i : Instr) : Bool :=
  isBisque (dieOf s.cur)
  && ((i.fpUse.dyn && s.fctx.regs.amode.rnd == 5#3)
    || (if s.tile.ops.length < s'.tile.ops.length then (match s'.tile.ops.getLast? with | some o => s'.willRs o | none => false)
        else (i.footOf s.fctx.regs.amode).wr.contains .amode && s'.fctx.ctl.ending == .none && s'.fctx.regs.amode.rnd == 5#3))

/-- A rule that may not fire on this tile: a migrate trap takes its place (R66, R67). -/
def State.trapRule (s : State) (c : Cand) : State := { s with stage := .agents }.push [.migrateTrap c.ctx (BitVec.ofNat 9 c.slot)]
/-- Errors that the operation finds in the channel entries that it reads: their P bits and payloads are set, once (R156, R158). -/
def State.find (s : State) (i : Instr) : State :=
  let x := s.tile.ctx s.fire.ctx
  let hit := fun b : Chan × Nat => (i.footOf s.fctx.regs.amode).need.any fun r => r.1 == b.1 && decide (b.2 < r.2)
  if x.badIn.any hit then
    let y := { x with badIn := x.badIn.filter hit }.readIn fun ch => mkPayload 9#8 ch.val s.fire.ctx s.env s.clock
    s.onTile fun t => t.setCtx s.fire.ctx { y with badIn := x.badIn.filter fun b => !hit b }
  else s
/-- The state in which the operation of a chosen rule is executed. -/
def State.atFire (s : State) (c : Cand) : State := ((s.atRule c.rule c.ctx c.slot).find c.rule.op).doClr
/-- What follows the operation of a fire of the tile in focus. -/
def State.fired (s t : State) (c : Cand) : State := if (s.atFire c).stoch t c.rule.op then s.trapRule c else { (t.afterFire c.rule.op) with stage := .agents }
/-- The fire of a chosen rule (R28, R67, R69). -/
def State.fireRule (s : State) (c : Cand) : Host.Outcome State Fault Refusal :=
  if s.tile.marks.contains c.slot then .next (s.trapRule c)
  else
    match exec c.rule.op (s.atFire c) with
    | .next t => .next (s.fired t c)
    | .fault f => .fault f
    | .refused r => .refused r

/-- The operation doubleword of a rule that always may fire, or the whole slot. (DESIGN CHOICE, log 3.) -/
def fetchSlot (nbits w : Nat) : SlotWord :=
  if nbits ≤ 64 then 0x80000000000000000000000000000000#128 ||| (BitVec.ofNat 64 w).setWidth 128 else BitVec.ofNat 128 w
/-- A context that runs the one slot 0, with eight zero entries in each inbound channel. (DESIGN CHOICE, log 3.) -/
def fetchCtx (s : State) : Ctx :=
  { (s.tile.ctx 0) with st := .running, cfg := .zero, ctl := .zero,
                        inb := Vector.replicate 16 (List.replicate 8 Entry.zero), owe := Vector.replicate 16 (List.replicate 8 false) }
/-- The tile in focus about to fire that instruction from slot 0 as context 0: no other context runs, nothing is outstanding
and no unit is held. (DESIGN CHOICE, log 3.) -/
def fetchTile (s : State) (nbits w : Nat) : Tile :=
  { s.tile with store := mset 0 s.tile.store 0 (fetchSlot nbits w), marks := [], ops := [], units := .zero,
                ctxs := (Vector.replicate 8 Ctx.zero).set 0 (fetchCtx s) }

end Sys2Proof.Machine
end

