-- ==== Sys2Proof/Machine/Step.lean ====
section
/-! DEFINITION. One step of the machine: the next event of the agenda, the fire of the tile in focus, or the passage to the next stage of
the cycle. -/

namespace Sys2Proof.Machine
open Sys2Proof

/-- One step. (DESIGN CHOICE, log 1.) -/
def step (s : State) : Host.Outcome State Fault Refusal :=
  match s.agenda with
  | e :: l => exec e.instr { s with agenda := l, ev := e }
  | [] =>
    match s.stage with
    | .fire =>
      match s.pick with
      | some c => s.fireRule c
      | none => .next s.advance
    | _ => .next s.advance
/-- The machine about to fire an instruction whose bits are `w`, as slot 0 of context 0 of the tile in focus. (DESIGN CHOICE, log 3.) -/
def State.withFetchWord (s : State) (nbits w : Nat) : State :=
  { s with tile := fetchTile s nbits w, stage := .fire, agenda := [] }

end Sys2Proof.Machine
end

