-- ==== Sys2Proof/Safety.lean ====
section
/-! DEFINITION. What counts as a safe run, and the words in which the statements say what a fire leads to. -/

namespace Sys2Proof.Machine
open Sys2Proof

/-- Every memory of the state has its canonical form: physical memory, the TCM of every tile and the CSP of every cluster. -/
def State.memWf (s : State) : Prop :=
  Memory.wf s.mem = true ∧ Memory.wf s.tile.tcm = true ∧ (∀ x ∈ s.others, Memory.wf x.2.tcm = true)
    ∧ ∀ x ∈ s.clusters, Memory.wf x.2.csp = true

/-! ## Operands and effects -/

/-- None of the sources whose payloads are listed is poisoned. -/
def unpoisoned (ps : List (Option Word)) : Prop := ∀ p ∈ ps, p = none
/-- No flag of `fl` is enabled to trap (R104, R105). -/
def State.quiet (s : State) (fl : Fl) : Prop := fl &&& s.amode.ten = 0#6
/-- An effect that is results, a result condition, raised flags and a new SRNG, and nothing else. -/
def Iss.res (wr : List Wr) (rc : Bool) (fl : Fl) (srng : Option (BitVec 32)) : Iss :=
  { Iss.zero with wr := wr, rc := some rc, fl := fl, srng := srng }
/-- A poisoned result. -/
def Iss.bad (wr : List Wr) (pl : Word) (hard : Bool) (fl : Fl) : Iss := { Iss.zero with wr := wr, poison := some pl, hard := hard, fl := fl }
/-- A word and its flags as a scalar result; the condition is that the 64 bits are not all zero (R112, R114). -/
def ARes.res (r : ARes) (d : SDst) : Iss := .res (wrS d (clean r.w)) (r.w != 0) r.fl none
/-- A word that raises no flag. -/
def wordRes (d : SDst) (w : Word) : Iss := .res (wrS d (clean w)) (w != 0) 0 none
/-- A predicate result, which is its own condition (R120, R125). -/
def predRes (d : PReg) (b : Bool) (fl : Fl) : Iss := .res [.p d b] b fl none
/-- A floating-point result of a format; its condition is that it is not a zero (R114). -/
def FRes.res (r : FRes) (d : SDst) (f : FFmt) (v : FEnv) : Iss :=
  .res (wrS d (clean (BitVec.ofNat 64 r.bits))) (!zeroF f (BitVec.ofNat 64 r.bits)) r.fl (v.out r.srng)
/-- An integer or FX64 result of a conversion. -/
def WRes.res (r : WRes) (d : SDst) (v : FEnv) : Iss := .res (wrS d (clean r.w)) (r.w != 0) r.fl (v.out r.srng)
/-- A vector result of elements of `w` bits. -/
def VOut.res (o : VOut) (d : VDst) (w : Nat) (srng : Option (BitVec 32)) : Iss := .res (wrV d (clean (joinV w o.xs))) o.nz o.fl srng
/-- A mask result. -/
def maskRes (d : KDst) (x : KWord) (rc : Bool) (fl : Fl) : Iss := .res (wrK d (clean x)) rc fl none

/-- A memory access that goes out: its space, operation, address, size and physical bytes, with the order and the scope of its rule. -/
def accRes (m : MAddr) (sp : Space) (op : MemOp) (addr : Int) (n : Nat) (pa : List Nat) : Iss :=
  { Iss.zero with
    act := .mem { sp := sp, op := op, addr := addr, size := n, ord := m.ord, scope := m.scope, label := none, pa := pa, sent := false, home := 0 } }
/-- A request that goes out with its operands, and the predicate that it clears (R374, R443, R503). -/
def reqRes (i : Instr) (vals : List Word) (now : List Wr) : Iss := { Iss.zero with act := .req i vals, now := now }
/-- An operation that stays outstanding, its predicate cleared now and set when it ends. -/
def waitRes (a : Act) (d : PReg) : Iss := { Iss.zero with act := a, wr := [.p d true], rc := some true, now := [.p d false] }

/-! ## Elements of vectors -/

/-- Element `k` of a vector source at `w` bits. -/
def State.lane (s : State) (w : Nat) (a : VSrc) (k : Nat) : Word := nthW (s.el w a) k
/-- Element `k` of `2048 / w` is active under the mask (R186). -/
def State.laneOn (s : State) (m : Msk) (w k : Nat) : Bool := (s.act m (2048 / w)).getD k false
/-- What a masked-off element holds afterwards: its old value, or zero. -/
def State.laneOld (s : State) (m : Msk) (d : VDst) (w k : Nat) : Word := nthW (s.oldV m d w) k
/-- The lowest `w` bits, as an element holds them. -/
def cutW (w : Nat) (x : Word) : Word := BitVec.ofNat 64 (low w x)

end Sys2Proof.Machine
end

