-- ==== Sys2Proof/Certificates/Slice0/Obligations.lean ====
section
/-! DEFINITION. The statements for the provers. Each says what the spec's rules give; those that rest on a choice of the model say so. -/

open Sys2Proof Sys2Proof.Machine

/-! ## Scalar results -/

/-- R116 on unpoisoned sources, with no raised flag trapping: each instruction fires with the exact result fitted to its type.

R116: division and remainder round toward zero when the divisor is not zero. -/
def Obligations.IntegerArithmeticCompletes : Prop :=
  (∀ (s : State) (d : SDst) (a b : SSrc), unpoisoned [(s.ss a).payload, (s.ss b).payload] →
     let x := (s.ss a).bits
     let y := (s.ss b).bits
     (∀ t sat, s.opReady (.add t sat d a b) = true → s.quiet (fit (IxTy.base t) sat (ixVal t x + ixVal t y)).fl →
       exec (.add t sat d a b) s = .next (s.issue (.add t sat d a b) ((fit (IxTy.base t) sat (ixVal t x + ixVal t y)).res d)))
     ∧ (∀ t sat, s.opReady (.sub t sat d a b) = true → s.quiet (fit (IxTy.base t) sat (ixVal t x - ixVal t y)).fl →
       exec (.sub t sat d a b) s = .next (s.issue (.sub t sat d a b) ((fit (IxTy.base t) sat (ixVal t x - ixVal t y)).res d)))
     ∧ (∀ t sat, s.opReady (.mul (.i t) sat d a b) = true → s.quiet (fit t sat (srcVal t x * srcVal t y)).fl →
       exec (.mul (.i t) sat d a b) s = .next (s.issue (.mul (.i t) sat d a b) ((fit t sat (srcVal t x * srcVal t y)).res d)))
     ∧ (∀ (f : Fin 64) sat, s.opReady (.mul (.fx f) sat d a b) = true →
       s.quiet (fit .i64 sat ((srcVal .i64 x * srcVal .i64 y).fdiv (2 ^ f.val))).fl →
       exec (.mul (.fx f) sat d a b) s
         = .next (s.issue (.mul (.fx f) sat d a b) ((fit .i64 sat ((srcVal .i64 x * srcVal .i64 y).fdiv (2 ^ f.val))).res d)))
     ∧ (∀ t, s.opReady (.mulh t d a b) = true →
       exec (.mulh t d a b) s
         = .next (s.issue (.mulh t d a b) (wordRes d (wrapTo t ((srcVal t x * srcVal t y).fdiv (2 ^ t.width))))))
     ∧ (∀ t, s.opReady (.min t d a b) = true →
       exec (.min t d a b) s = .next (s.issue (.min t d a b) (wordRes d (wrapTo (IxTy.base t) (min (ixVal t x) (ixVal t y))))))
     ∧ (∀ t, s.opReady (.max t d a b) = true →
       exec (.max t d a b) s = .next (s.issue (.max t d a b) (wordRes d (wrapTo (IxTy.base t) (max (ixVal t x) (ixVal t y)))))))
  ∧ (∀ (s : State) (d : SDst) (a b : SSrc), unpoisoned [(s.ss a).payload, (s.ss b).payload] →
       let x := (s.ss a).bits
       let y := (s.ss b).bits
       (∀ t sat, s.opReady (.div (.i t) sat d a b) = true → srcVal t y ≠ 0 → s.quiet (fit t sat ((srcVal t x).tdiv (srcVal t y))).fl →
         exec (.div (.i t) sat d a b) s = .next (s.issue (.div (.i t) sat d a b) ((fit t sat ((srcVal t x).tdiv (srcVal t y))).res d)))
       ∧ (∀ (f : Fin 64) sat, s.opReady (.div (.fx f) sat d a b) = true → srcVal .i64 y ≠ 0 →
         s.quiet (fit .i64 sat ((srcVal .i64 x * 2 ^ f.val).tdiv (srcVal .i64 y))).fl →
         exec (.div (.fx f) sat d a b) s
           = .next (s.issue (.div (.fx f) sat d a b) ((fit .i64 sat ((srcVal .i64 x * 2 ^ f.val).tdiv (srcVal .i64 y))).res d)))
       ∧ (∀ t, s.opReady (.rem t d a b) = true → srcVal t y ≠ 0 →
         exec (.rem t d a b) s
           = .next (s.issue (.rem t d a b) (wordRes d (wrapTo t (srcVal t x - srcVal t y * (srcVal t x).tdiv (srcVal t y)))))))

/-- R116, R105: division by zero gives poison with cause 0x07, whatever TEN holds, and raises no flag.

R113 item 1: a poisoned source makes the result poison with its payload, A before B; no flag is raised.

R105: a raised flag that TEN enables replaces the result by poison whose cause is the highest such flag; the flag is raised. -/
def Obligations.PoisonRules : Prop :=
  (∀ (s : State) (d : SDst) (a b : SSrc), unpoisoned [(s.ss a).payload, (s.ss b).payload] →
     let pl := mkPayload 0x07#8 s.fire.slot.toNat s.fire.ctx s.env s.clock
     (∀ t sat, s.opReady (.div t sat d a b) = true → ixVal t (s.ss b).bits = 0 →
       exec (.div t sat d a b) s = .next (s.issue (.div t sat d a b) (.bad (wrS d ⟨pl, true⟩) pl (sdHard d) 0)))
     ∧ (∀ t, s.opReady (.rem t d a b) = true → srcVal t (s.ss b).bits = 0 →
       exec (.rem t d a b) s = .next (s.issue (.rem t d a b) (.bad (wrS d ⟨pl, true⟩) pl (sdHard d) 0))))
  ∧ (∀ (s : State) (d : SDst) (a b : SSrc) (t : ITy) (x : IxTy) (f : FTy) (rm : Rm) (sat : Bool) (k : Fin 8) (c : PReg) (pl : Word),
       ((s.ss a).payload = some pl ∨ ((s.ss a).payload = none ∧ (s.ss b).payload = some pl)) →
       ∀ i ∈ [Instr.add x sat d a b, .sub x sat d a b, .mul x sat d a b, .div x sat d a b, .mulh t d a b, .rem t d a b, .min x d a b,
              .max x d a b, .and t d a b, .or t d a b, .xor t d a b, .andn t d a b, .shl t d a b, .shr t d a b, .sra t d a b, .rol t d a b,
              .ror t d a b, .sel d a b c, .lea d a b k, .fadd f rm d a b, .fsub f rm d a b, .fmul f rm d a b, .fdiv f rm d a b,
              .fmin f d a b, .fmax f d a b, .fcpsgn f d a b],
         s.opReady i = true → exec i s = .next (s.issue i (.bad (wrS d ⟨pl, true⟩) pl (sdHard d) 0)))
  ∧ (∀ (s : State) (t : IxTy) (d : SDst) (a b : SSrc), unpoisoned [(s.ss a).payload, (s.ss b).payload] →
       s.opReady (.add t true d a b) = true →
       (fit (IxTy.base t) true (ixVal t (s.ss a).bits + ixVal t (s.ss b).bits)).fl = 32#6 → s.amode.ten.getLsbD 5 = true →
       let pl := mkPayload 0x06#8 s.fire.slot.toNat s.fire.ctx s.env s.clock
       exec (.add t true d a b) s = .next (s.issue (.add t true d a b) (.bad (wrS d ⟨pl, true⟩) pl (sdHard d) 32#6)))

/-- R111, R116: bitwise operations, shifts and rotations at the width of the type, with the count taken from the low bits of the second source. -/
def Obligations.LogicAndShiftCompletes : Prop :=
  ∀ (s : State) (t : ITy) (d : SDst) (a b : SSrc), unpoisoned [(s.ss a).payload, (s.ss b).payload] →
    let x := (s.ss a).bits
    let y := (s.ss b).bits
    let w := t.width
    let n := y.toNat % w
    let u := x.toNat % 2 ^ w
    (s.opReady (.and t d a b) = true → exec (.and t d a b) s = .next (s.issue (.and t d a b) (wordRes d (wrapTo t ((x &&& y).toNat : Int)))))
    ∧ (s.opReady (.or t d a b) = true → exec (.or t d a b) s = .next (s.issue (.or t d a b) (wordRes d (wrapTo t ((x ||| y).toNat : Int)))))
    ∧ (s.opReady (.xor t d a b) = true → exec (.xor t d a b) s = .next (s.issue (.xor t d a b) (wordRes d (wrapTo t ((x ^^^ y).toNat : Int)))))
    ∧ (s.opReady (.andn t d a b) = true →
      exec (.andn t d a b) s = .next (s.issue (.andn t d a b) (wordRes d (wrapTo t ((x &&& ~~~y).toNat : Int)))))
    ∧ (s.opReady (.shl t d a b) = true → exec (.shl t d a b) s = .next (s.issue (.shl t d a b) (wordRes d (wrapTo t (u * 2 ^ n : Nat)))))
    ∧ (s.opReady (.shr t d a b) = true → exec (.shr t d a b) s = .next (s.issue (.shr t d a b) (wordRes d (wrapTo t (u / 2 ^ n : Nat)))))
    ∧ (s.opReady (.sra t d a b) = true →
      exec (.sra t d a b) s = .next (s.issue (.sra t d a b) (wordRes d (wrapTo t ((signedOf w u).fdiv (2 ^ n))))))
    ∧ (s.opReady (.rol t d a b) = true →
      exec (.rol t d a b) s = .next (s.issue (.rol t d a b) (wordRes d (wrapTo t (u * 2 ^ n + u / 2 ^ (w - n) : Nat)))))
    ∧ (s.opReady (.ror t d a b) = true →
      exec (.ror t d a b) s = .next (s.issue (.ror t d a b) (wordRes d (wrapTo t (u / 2 ^ n + u * 2 ^ (w - n) : Nat)))))

/-- R117, R118: counts of bits and bit fields. -/
def Obligations.BitCountsAndFieldsComplete : Prop :=
  ∀ (s : State) (d : SDst) (a b c : SSrc), unpoisoned [(s.ss a).payload, (s.ss b).payload, (s.ss c).payload] →
    let x := (s.ss a).bits
    let pos := (s.ss b).bits.toNat % 64
    let len := min ((s.ss c).bits.toNat % 128) (64 - pos)
    (∀ t : ITy, s.opReady (.clz t d a) = true → ∃ n, n ≤ t.width ∧ low t.width x < 2 ^ (t.width - n) ∧ (n < t.width → 2 ^ (t.width - n - 1) ≤ low t.width x)
      ∧ exec (.clz t d a) s = .next (s.issue (.clz t d a) (wordRes d (BitVec.ofNat 64 n))))
    ∧ (∀ t : ITy, s.opReady (.ctz t d a) = true → ∃ n, n ≤ t.width ∧ (∀ k < n, x.getLsbD k = false) ∧ (n < t.width → x.getLsbD n = true)
      ∧ exec (.ctz t d a) s = .next (s.issue (.ctz t d a) (wordRes d (BitVec.ofNat 64 n))))
    ∧ (∀ t : ITy, s.opReady (.popc t d a) = true →
      exec (.popc t d a) s
        = .next (s.issue (.popc t d a) (wordRes d (BitVec.ofNat 64 (((List.range t.width).filter fun k => x.getLsbD k).length)))))
    ∧ (s.opReady (.bext false d a b c) = true →
      exec (.bext false d a b c) s = .next (s.issue (.bext false d a b c) (wordRes d (BitVec.ofNat 64 (x.toNat / 2 ^ pos % 2 ^ len)))))
    ∧ (s.opReady (.bext true d a b c) = true → 0 < len →
      exec (.bext true d a b c) s
        = .next (s.issue (.bext true d a b c) (wordRes d (BitVec.ofInt 64 (signedOf len (x.toNat / 2 ^ pos % 2 ^ len))))))
    ∧ (s.opReady (.bext true d a b c) = true → len = 0 →
      exec (.bext true d a b c) s = .next (s.issue (.bext true d a b c) (wordRes d 0)))
    ∧ (∀ r : SReg, s.opReady (.bins r a b c) = true → (s.fctx.s r).payload = none →
      ∃ z : Word, (∀ k < 64, z.getLsbD k = if pos ≤ k ∧ k < pos + len then x.getLsbD (k - pos) else (s.fctx.s r).bits.getLsbD k)
        ∧ exec (.bins r a b c) s = .next (s.issue (.bins r a b c) (wordRes (.reg r) z)))

/-- R119, R120: selection and comparison; the comparison's condition is the predicate it writes. -/
def Obligations.SelectAndCompareComplete : Prop :=
  ∀ (s : State) (d : SDst) (p c : PReg) (a b : SSrc), unpoisoned [(s.ss a).payload, (s.ss b).payload] →
    (s.opReady (.sel d a b c) = true →
      exec (.sel d a b c) s = .next (s.issue (.sel d a b c) (wordRes d (if s.fctx.p c then (s.ss a).bits else (s.ss b).bits))))
    ∧ (∀ (t : IxTy) (cc : Cc), s.opReady (.cmp cc t p a b) = true →
      ∃ r : Bool, (r = true ↔ match cc with
          | .eq => ixVal t (s.ss a).bits = ixVal t (s.ss b).bits | .ne => ixVal t (s.ss a).bits ≠ ixVal t (s.ss b).bits
          | .lt => ixVal t (s.ss a).bits < ixVal t (s.ss b).bits | .le => ixVal t (s.ss a).bits ≤ ixVal t (s.ss b).bits
          | .gt => ixVal t (s.ss b).bits < ixVal t (s.ss a).bits | .ge => ixVal t (s.ss b).bits ≤ ixVal t (s.ss a).bits)
        ∧ exec (.cmp cc t p a b) s = .next (s.issue (.cmp cc t p a b) (predRes p r 0)))

/-- R121 to R124: immediates, addresses, extensions and moves over all 64 bits. -/
def Obligations.ImmediateAndMoveCompletes : Prop :=
  ∀ (s : State) (d : SDst) (a b : SSrc), unpoisoned [(s.ss a).payload, (s.ss b).payload] →
    let x := (s.ss a).bits
    (∀ imm, s.opReady (.addi d a imm) = true → exec (.addi d a imm) s = .next (s.issue (.addi d a imm) (wordRes d (x + imm.signExtend 64))))
    ∧ (∀ imm, s.opReady (.andi d a imm) = true → exec (.andi d a imm) s = .next (s.issue (.andi d a imm) (wordRes d (x &&& imm.signExtend 64))))
    ∧ (∀ imm, s.opReady (.ori d a imm) = true → exec (.ori d a imm) s = .next (s.issue (.ori d a imm) (wordRes d (x ||| imm.signExtend 64))))
    ∧ (∀ imm, s.opReady (.xori d a imm) = true → exec (.xori d a imm) s = .next (s.issue (.xori d a imm) (wordRes d (x ^^^ imm.signExtend 64))))
    ∧ (∀ n : Fin 64, s.opReady (.shli d a n) = true → exec (.shli d a n) s = .next (s.issue (.shli d a n) (wordRes d (x <<< n.val))))
    ∧ (∀ n : Fin 64, s.opReady (.shri d a n) = true → exec (.shri d a n) s = .next (s.issue (.shri d a n) (wordRes d (x >>> n.val))))
    ∧ (∀ n : Fin 64, s.opReady (.srai d a n) = true → exec (.srai d a n) s = .next (s.issue (.srai d a n) (wordRes d (x.sshiftRight n.val))))
    ∧ (∀ n : Fin 64, s.opReady (.roli d a n) = true → exec (.roli d a n) s = .next (s.issue (.roli d a n) (wordRes d (x.rotateLeft n.val))))
    ∧ (∀ (cc : Cc) (t : IxTy0) (p : PReg) (imm : BitVec 28), s.opReady (.cmpi cc t p a imm) = true →
      exec (.cmpi cc t p a imm) s
        = .next (s.issue (.cmpi cc t p a imm) (predRes p (ccHolds cc (ixVal (IxTy0.ty t) x) (ixVal (IxTy0.ty t) (cmpiImm t imm))) 0)))
    ∧ (∀ imm, s.opReady (.li d imm) = true → exec (.li d imm) s = .next (s.issue (.li d imm) (wordRes d (imm.signExtend 64))))
    ∧ (∀ (r : SReg) (imm : BitVec 40), s.opReady (.lih r imm) = true → (s.fctx.s r).payload = none →
      exec (.lih r imm) s
        = .next (s.issue (.lih r imm) (wordRes (.reg r) (BitVec.ofNat 64 ((s.fctx.s r).bits.toNat % 2 ^ 24 + imm.toNat * 2 ^ 24)))))
    ∧ (∀ k : Fin 8, s.opReady (.lea d a b k) = true →
      exec (.lea d a b k) s = .next (s.issue (.lea d a b k) (wordRes d (BitVec.ofNat 64 (x.toNat + (s.ss b).bits.toNat * 2 ^ k.val)))))
    ∧ (∀ t : ExtTy, s.opReady (.sext t d a) = true →
      exec (.sext t d a) s
        = .next (s.issue (.sext t d a) (wordRes d (BitVec.ofInt 64 (signedOf (ExtTy.width t) (x.toNat % 2 ^ ExtTy.width t))))))
    ∧ (∀ t : ExtTy, s.opReady (.zext t d a) = true →
      exec (.zext t d a) s = .next (s.issue (.zext t d a) (wordRes d (BitVec.ofNat 64 (x.toNat % 2 ^ ExtTy.width t)))))
    ∧ (s.opReady (.mov d a) = true → exec (.mov d a) s = .next (s.issue (.mov d a) (wordRes d x)))

/-- R125: predicate logic on the predicates as they stand at the fire. -/
def Obligations.PredicateLogicCompletes : Prop :=
  ∀ (s : State) (d a b : PReg),
    let x := s.fctx.p a
    let y := s.fctx.p b
    (s.opReady (.pand d a b) = true → exec (.pand d a b) s = .next (s.issue (.pand d a b) (predRes d (x && y) 0)))
    ∧ (s.opReady (.por d a b) = true → exec (.por d a b) s = .next (s.issue (.por d a b) (predRes d (x || y) 0)))
    ∧ (s.opReady (.pxor d a b) = true → exec (.pxor d a b) s = .next (s.issue (.pxor d a b) (predRes d (x ^^ y) 0)))
    ∧ (s.opReady (.pandn d a b) = true → exec (.pandn d a b) s = .next (s.issue (.pandn d a b) (predRes d (x && !y) 0)))
    ∧ (s.opReady (.pnot d a) = true → exec (.pnot d a) s = .next (s.issue (.pnot d a) (predRes d (!x) 0)))
    ∧ (s.opReady (.pmov d a) = true → exec (.pmov d a) s = .next (s.issue (.pmov d a) (predRes d x 0)))

/-! ## Scalar floating point -/

/-- R126, R127: floating-point arithmetic on the operands read in their format, rounded under RM with the modes of AMODE at the fire. -/
def Obligations.FloatArithmeticCompletes : Prop :=
  ∀ (s : State) (t : FTy) (d : SDst) (a b c : SSrc), unpoisoned [(s.ss a).payload, (s.ss b).payload, (s.ss c).payload] →
    let f := fmtOf t
    let x := fun v : FEnv => f.readZ v.fz ((s.ss a).bits.toNat % 2 ^ t.width)
    let y := fun v : FEnv => f.readZ v.fz ((s.ss b).bits.toNat % 2 ^ t.width)
    let z := fun v : FEnv => f.readZ v.fz ((s.ss c).bits.toNat % 2 ^ t.width)
    (∀ rm, let v := s.fenv rm; s.opReady (.fadd t rm d a b) = true → s.quiet (f.add v (x v) (y v)).fl →
      exec (.fadd t rm d a b) s = .next (s.issue (.fadd t rm d a b) ((f.add v (x v) (y v)).res d f v)))
    ∧ (∀ rm, let v := s.fenv rm; s.opReady (.fsub t rm d a b) = true → s.quiet (f.sub v (x v) (y v)).fl →
      exec (.fsub t rm d a b) s = .next (s.issue (.fsub t rm d a b) ((f.sub v (x v) (y v)).res d f v)))
    ∧ (∀ rm, let v := s.fenv rm; s.opReady (.fmul t rm d a b) = true → s.quiet (f.mul v (x v) (y v)).fl →
      exec (.fmul t rm d a b) s = .next (s.issue (.fmul t rm d a b) ((f.mul v (x v) (y v)).res d f v)))
    ∧ (∀ rm, let v := s.fenv rm; s.opReady (.fdiv t rm d a b) = true → s.quiet (f.div v (x v) (y v)).fl →
      exec (.fdiv t rm d a b) s = .next (s.issue (.fdiv t rm d a b) ((f.div v (x v) (y v)).res d f v)))
    ∧ (∀ rm, let v := s.fenv rm; s.opReady (.fsqrt t rm d a) = true → s.quiet (f.sqrt v (x v)).fl →
      exec (.fsqrt t rm d a) s = .next (s.issue (.fsqrt t rm d a) ((f.sqrt v (x v)).res d f v)))
    ∧ (∀ rm, let v := s.fenv rm; s.opReady (.ffma .fma t rm d a b c) = true → s.quiet (f.fma v (x v) (y v) (z v)).fl →
      exec (.ffma .fma t rm d a b c) s = .next (s.issue (.ffma .fma t rm d a b c) ((f.fma v (x v) (y v) (z v)).res d f v)))
    ∧ (∀ rm, let v := s.fenv rm; s.opReady (.ffma .fms t rm d a b c) = true → s.quiet (f.fma v (x v) (y v) (z v).neg).fl →
      exec (.ffma .fms t rm d a b c) s = .next (s.issue (.ffma .fms t rm d a b c) ((f.fma v (x v) (y v) (z v).neg).res d f v)))
    ∧ (∀ rm, let v := s.fenv rm; s.opReady (.ffma .fnma t rm d a b c) = true → s.quiet (f.fma v (x v).neg (y v) (z v)).fl →
      exec (.ffma .fnma t rm d a b c) s = .next (s.issue (.ffma .fnma t rm d a b c) ((f.fma v (x v).neg (y v) (z v)).res d f v)))
    ∧ (∀ rm, let v := s.fenv rm; s.opReady (.ffma .fnms t rm d a b c) = true → s.quiet (f.fma v (x v).neg (y v) (z v).neg).fl →
      exec (.ffma .fnms t rm d a b c) s = .next (s.issue (.ffma .fnms t rm d a b c) ((f.fma v (x v).neg (y v) (z v).neg).res d f v)))

/-- R127 to R129, R131: minimum and maximum, the sign operations, comparison into a predicate and classification.

R132: reading FLAGS, and reading them while clearing the flags of a mask. -/
def Obligations.FloatCompareAndFlagsComplete : Prop :=
  (∀ (s : State) (t : FTy) (d : SDst) (p : PReg) (a b : SSrc), unpoisoned [(s.ss a).payload, (s.ss b).payload] →
     let f := fmtOf t
     let v := s.fenv .rn
     let x := (s.ss a).bits.toNat % 2 ^ t.width
     let y := (s.ss b).bits.toNat % 2 ^ t.width
     let neg := fun n : Nat => decide (f.signBit true ≤ n)
     (s.opReady (.fmin t d a b) = true → s.quiet (fminmax f v false x y).fl →
       exec (.fmin t d a b) s = .next (s.issue (.fmin t d a b) ((fminmax f v false x y).res d f v)))
     ∧ (s.opReady (.fmax t d a b) = true → s.quiet (fminmax f v true x y).fl →
       exec (.fmax t d a b) s = .next (s.issue (.fmax t d a b) ((fminmax f v true x y).res d f v)))
     ∧ (s.opReady (.fneg t d a) = true → s.quiet (signOp f v (!neg x) x).fl →
       exec (.fneg t d a) s = .next (s.issue (.fneg t d a) ((signOp f v (!neg x) x).res d f v)))
     ∧ (s.opReady (.fabs t d a) = true → s.quiet (signOp f v false x).fl →
       exec (.fabs t d a) s = .next (s.issue (.fabs t d a) ((signOp f v false x).res d f v)))
     ∧ (s.opReady (.fcpsgn t d a b) = true → s.quiet (signOp f v (neg y) x).fl →
       exec (.fcpsgn t d a b) s = .next (s.issue (.fcpsgn t d a b) ((signOp f v (neg y) x).res d f v)))
     ∧ (∀ cc, let r := fcmpVal cc (f.readZ s.amode.fz x) (f.readZ s.amode.fz y)
       s.opReady (.fcmp cc t p a b) = true → s.quiet r.2 →
       exec (.fcmp cc t p a b) s = .next (s.issue (.fcmp cc t p a b) (predRes p r.1 r.2)))
     ∧ (∀ u : FcTy, let k := (fmtOfC u).class ((s.ss a).bits.toNat % 2 ^ u.width)
       s.opReady (.fclass u d a) = true →
       exec (.fclass u d a) s
         = .next (s.issue (.fclass u d a) (.res (wrS d (clean (BitVec.ofNat 64 (2 ^ k)))) (decide (8 ≤ k)) 0 none))))
  ∧ (∀ (s : State) (d : SDst) (a : SSrc), unpoisoned [(s.ss a).payload] →
       let f : Word := s.fctx.regs.flags.setWidth 64
       let m := (s.ss a).bits
       (s.opReady (.fflag d a) = true →
         exec (.fflag d a) s = .next (s.issue (.fflag d a) (.res (wrS d (clean f)) (f &&& m != 0) 0 none)))
       ∧ (s.opReady (.fflagClr d a) = true →
         exec (.fflagClr d a) s
           = .next (s.issue (.fflagClr d a) (.res (wrS d (clean f) ++ [.clr (m.setWidth 6)]) (f &&& m != 0) 0 none))))

/-- R130: conversions between formats, integers and FX64. -/
def Obligations.ConversionCompletes : Prop :=
  ∀ (s : State) (d : SDst) (a : SSrc), unpoisoned [(s.ss a).payload] →
    let x := (s.ss a).bits
    (∀ dt st rm, let v := s.fenv rm; let r := (fmtOfC dt).conv v ((fmtOfC st).readZ v.fz (low st.width x))
      s.opReady (.fcvt dt st rm d a) = true → s.quiet r.fl →
      exec (.fcvt dt st rm d a) s = .next (s.issue (.fcvt dt st rm d a) (r.res d (fmtOfC dt) v)))
    ∧ (∀ dt (st : ITy) rm, let v := s.fenv rm; let r := (fmtOfC dt).conv v (ofInt (srcVal st x) 0)
      s.opReady (.icvtf dt st rm d a) = true → s.quiet r.fl →
      exec (.icvtf dt st rm d a) s = .next (s.issue (.icvtf dt st rm d a) (r.res d (fmtOfC dt) v)))
    ∧ (∀ (dt : ITy) st, let v := s.fenv .dyn; let r := cvtFI dt st v x
      s.opReady (.fcvti dt st d a) = true → s.quiet r.fl →
      exec (.fcvti dt st d a) s = .next (s.issue (.fcvti dt st d a) (r.res d v)))
    ∧ (∀ (f : Fin 64) (t : FTy), let v := s.fenv .dyn; let r := cvtFX f.val (.f t) v x
      s.opReady (.fxcvt (.ofFp f t) d a) = true → s.quiet r.fl →
      exec (.fxcvt (.ofFp f t) d a) s = .next (s.issue (.fxcvt (.ofFp f t) d a) (r.res d v)))
    ∧ (∀ (f : Fin 64) (t : ITy) sat, let r := fit .i64 sat (srcVal t x * 2 ^ f.val)
      s.opReady (.fxcvt (.ofInt f t sat) d a) = true → s.quiet r.fl →
      exec (.fxcvt (.ofInt f t sat) d a) s = .next (s.issue (.fxcvt (.ofInt f t sat) d a) (r.res d)))
    ∧ (∀ (t : FTy) (f : Fin 64) rm, let v := s.fenv rm; let r := (fmtOf t).conv v (ofInt (srcVal .i64 x) (-(f.val : Int)))
      s.opReady (.fxcvt (.toFp t f rm) d a) = true → s.quiet r.fl →
      exec (.fxcvt (.toFp t f rm) d a) s = .next (s.issue (.fxcvt (.toFp t f rm) d a) (r.res d (fmtOf t) v)))
    ∧ (∀ (t : ITy) (f : Fin 64) sat, let r := fit t sat ((srcVal .i64 x).fdiv (2 ^ f.val))
      s.opReady (.fxcvt (.toInt t f sat) d a) = true → s.quiet r.fl →
      exec (.fxcvt (.toInt t f sat) d a) s = .next (s.issue (.fxcvt (.toInt t f sat) d a) (r.res d)))

/-! ## Vectors -/

/-- R185, R186, R191, R194: integer element operations act on each active element alone; masked-off elements are kept or zeroed; the
condition is that an active element is not zero, and the flags are those of the active elements. -/
def Obligations.VectorIntegerLanes : Prop :=
  ∀ (s : State) (t : ITy) (sat : Bool) (m : Msk) (d : VDst) (a b : VSrc),
    unpoisoned [(s.vs a).payload, (s.vs b).payload, s.mskPl m, s.oldVPl m d] →
    let w := t.width
    let x := s.lane w a
    let y := s.lane w b
    ∀ p ∈ [(Instr.vadd (.int t sat) m d a b, fun u v => fit t sat (srcVal t u + srcVal t v)),
           (Instr.vsub (.int t sat) m d a b, fun u v => fit t sat (srcVal t u - srcVal t v)),
           (Instr.vmul (.int t sat) m d a b, fun u v => fit t sat (srcVal t u * srcVal t v)),
           (Instr.vmin (.int t) m d a b, fun u v => aval (wrapTo t (min (srcVal t u) (srcVal t v)))),
           (Instr.vmax (.int t) m d a b, fun u v => aval (wrapTo t (max (srcVal t u) (srcVal t v)))),
           (Instr.vand t m d a b, fun u v => aval (u &&& v)), (Instr.vor t m d a b, fun u v => aval (u ||| v)),
           (Instr.vxor t m d a b, fun u v => aval (u ^^^ v)), (Instr.vshl t m d a b, iShl t), (Instr.vshr t m d a b, iShr t),
           (Instr.vsra t m d a b, iSra t)],
      s.opReady p.1 = true → (∀ k < 2048 / w, s.laneOn m w k = true → s.quiet (p.2 (x k) (y k)).fl) →
      ∃ (r : VWord) (rc : Bool) (fl : Fl),
        exec p.1 s = .next (s.issue p.1 (.res (wrV d (clean r)) rc fl none))
        ∧ (∀ k < 2048 / w, nthW (splitV w r) k = if s.laneOn m w k then cutW w (p.2 (x k) (y k)).w else cutW w (s.laneOld m d w k))
        ∧ (rc = true ↔ ∃ k < 2048 / w, s.laneOn m w k = true ∧ cutW w (p.2 (x k) (y k)).w ≠ 0)
        ∧ ∀ j, fl.getLsbD j = true ↔ ∃ k < 2048 / w, s.laneOn m w k = true ∧ (p.2 (x k) (y k)).fl.getLsbD j = true

/-- R191 to R193: element-wise arithmetic of every type, in element order, with SRNG passed from element to element. -/
def Obligations.VectorArithmeticCompletes : Prop :=
  ∀ (s : State) (m : Msk) (d : VDst) (a b : VSrc) (z : SSrc),
    let on := fun w => s.act m (2048 / w)
    (∀ t : VArith, let w := VArith.width t; let v := s.fenv (VArith.rm t)
      unpoisoned [(s.vs a).payload, (s.vs b).payload, s.mskPl m, s.oldVPl m d] →
      ∀ p ∈ [(Instr.vadd t m d a b, VArith.addOp t), (.vsub t m d a b, VArith.subOp t), (.vmul t m d a b, VArith.mulOp t),
             (.vdiv t m d a b, VArith.divOp t)],
        let o := emap p.2 (VArith.isZ t) v (on w) (s.oldV m d w) (s.el w a) (s.el w b) (zerosOf w)
        s.opReady p.1 = true → o.div0 = false → s.quiet o.fl →
        exec p.1 s = .next (s.issue p.1 (o.res d w (v.out o.srng))))
    ∧ (∀ t : VArith, let w := VArith.width t; let v := s.fenv (VArith.rm t)
      unpoisoned [(s.vs a).payload, (s.ss z).payload, s.mskPl m, s.oldVPl m d] →
      ∀ p ∈ [(Instr.vadds t m d a z, VArith.addOp t), (.vsubs t m d a z, VArith.subOp t)],
        let o := emap p.2 (VArith.isZ t) v (on w) (s.oldV m d w) (s.el w a) (List.replicate (2048 / w) (s.ss z).bits) (zerosOf w)
        s.opReady p.1 = true → o.div0 = false → s.quiet o.fl →
        exec p.1 s = .next (s.issue p.1 (o.res d w (v.out o.srng))))
    ∧ (∀ t : VPlain, let w := VPlain.width t; let v := s.fenv .rn
      unpoisoned [(s.vs a).payload, (s.vs b).payload, s.mskPl m, s.oldVPl m d] →
      ∀ p ∈ [(Instr.vmin t m d a b, VPlain.minOp t), (.vmax t m d a b, VPlain.maxOp t)],
        let o := emap p.2 (VPlain.isZ t) v (on w) (s.oldV m d w) (s.el w a) (s.el w b) (zerosOf w)
        s.opReady p.1 = true → o.div0 = false → s.quiet o.fl → exec p.1 s = .next (s.issue p.1 (o.res d w none)))
    ∧ (∀ t : VSgn, let w := VSgn.width t; let v := s.fenv .rn
      unpoisoned [(s.vs a).payload, s.mskPl m, s.oldVPl m d] →
      ∀ p ∈ [(Instr.vabs t m d a, VSgn.absOp t), (.vneg t m d a, VSgn.negOp t)],
        let o := emap p.2 (VSgn.isZ t) v (on w) (s.oldV m d w) (s.el w a) (zerosOf w) (zerosOf w)
        s.opReady p.1 = true → o.div0 = false → s.quiet o.fl → exec p.1 s = .next (s.issue p.1 (o.res d w none)))
    ∧ (∀ (op : FmaOp) (t : FTy) (rm : Rm) (c : VSrc), let w := t.width; let v := s.fenv rm
      unpoisoned [(s.vs a).payload, (s.vs b).payload, (s.vs c).payload, s.mskPl m, s.oldVPl m d] →
      let o := emap (fun v x y z => (fFma op t v x y z).toE) (zeroF (fmtOf t)) v (on w) (s.oldV m d w) (s.el w a) (s.el w b) (s.el w c)
      s.opReady (.vfma op t rm m d a b c) = true → o.div0 = false → s.quiet o.fl →
      exec (.vfma op t rm m d a b c) s = .next (s.issue (.vfma op t rm m d a b c) (o.res d w (v.out o.srng))))

/-- R196 to R198: moves and rearrangements place the elements that the rule names under the mask. -/
def Obligations.VectorMoveLanes : Prop :=
  ∀ (s : State) (t : ETy) (ti : ITy) (m : Msk) (d : VDst) (a b : VSrc) (c : SSrc),
    unpoisoned [(s.vs a).payload, (s.vs b).payload, (s.ss c).payload, s.mskPl m, s.oldVPl m d] →
    let n := 2048 / t.width
    ∀ p ∈ [(Instr.vmov t m d a, t.width, s.lane t.width a),
           (.vbcast t m d c, t.width, fun _ => (s.ss c).bits),
           (.viota ti m d c, ti.width, fun k => (s.ss c).bits + BitVec.ofNat 64 k),
           (.vperm t m d a b, t.width, fun k => s.lane t.width a ((s.lane t.width b k).toNat % n)),
           (.vrot t m d a c, t.width, fun k => s.lane t.width a ((k + (s.ss c).bits.toNat) % n))],
      s.opReady p.1 = true →
      ∃ (r : VWord) (rc : Bool),
        exec p.1 s = .next (s.issue p.1 (.res (wrV d (clean r)) rc 0 none))
        ∧ (∀ k < 2048 / p.2.1, nthW (splitV p.2.1 r) k
            = if s.laneOn m p.2.1 k then cutW p.2.1 (p.2.2 k) else cutW p.2.1 (s.laneOld m d p.2.1 k))
        ∧ (rc = true ↔ ∃ k < 2048 / p.2.1, s.laneOn m p.2.1 k = true ∧ cutW p.2.1 (p.2.2 k) ≠ 0)

/-- R196, R199: selection by a mask, compression and expansion.

R197 to R200: extraction, insertion, narrowing of two vectors and widening of a half. -/
def Obligations.VectorSelectAndPackCompletes : Prop :=
  (∀ (s : State) (t : ETy) (d : VDst) (a b : VSrc) (c : KSrc), unpoisoned [(s.vs a).payload, (s.vs b).payload, (s.ks c).payload] →
     let w := t.width
     let n := 2048 / w
     let bit := fun k => (s.ks c).bits.getLsbD k
     (s.opReady (.vsel t d a b c) = true → ∃ (r : VWord) (rc : Bool),
       exec (.vsel t d a b c) s = .next (s.issue (.vsel t d a b c) (.res (wrV d (clean r)) rc 0 none))
       ∧ ∀ k < n, nthW (splitV w r) k = if bit k then s.lane w a k else s.lane w b k)
     ∧ (s.opReady (.vcompress t d a c) = true → ∃ (r : VWord) (rc : Bool),
       exec (.vcompress t d a c) s = .next (s.issue (.vcompress t d a c) (.res (wrV d (clean r)) rc 0 none))
       ∧ let js := (List.range n).filter bit
         ∀ k < n, nthW (splitV w r) k = if h : k < js.length then s.lane w a js[k] else 0)
     ∧ (s.opReady (.vexpand t d a c) = true → ∃ (r : VWord) (rc : Bool),
       exec (.vexpand t d a c) s = .next (s.issue (.vexpand t d a c) (.res (wrV d (clean r)) rc 0 none))
       ∧ ∀ k < n, nthW (splitV w r) k = if bit k then s.lane w a ((List.range k).filter bit).length else 0))
  ∧ (∀ (s : State) (m : Msk) (d : VDst) (e : SDst) (r : VReg) (a b : VSrc) (c z : SSrc),
       (∀ t : ETy, let n := 2048 / t.width; let x := ETy.ext t (s.lane t.width a ((s.ss c).bits.toNat % n))
         unpoisoned [(s.vs a).payload, (s.ss c).payload] → s.opReady (.vext t e a c) = true →
         exec (.vext t e a c) s = .next (s.issue (.vext t e a c) (.res (wrS e (clean x)) (!ETy.isZ t x) 0 none)))
       ∧ (∀ t : ETy, let n := 2048 / t.width
         unpoisoned [(s.ss z).payload, (s.ss c).payload, (s.fctx.v r).payload] → s.opReady (.vins t r z c) = true →
         ∃ (x : VWord) (rc : Bool), exec (.vins t r z c) s = .next (s.issue (.vins t r z c) (.res (wrV (.reg r) (clean x)) rc 0 none))
           ∧ (rc = true ↔ cutW t.width (s.ss z).bits ≠ 0)
           ∧ ∀ k < n, nthW (splitV t.width x) k
               = if k = (s.ss c).bits.toNat % n then cutW t.width (s.ss z).bits else s.lane t.width (.reg r) k)
       ∧ (∀ (t : HTy) (sat : Bool), let w := (HTy.narrow t).width; let u := (HTy.wide t).width
         unpoisoned [(s.vs a).payload, (s.vs b).payload, s.mskPl m, s.oldVPl m d] →
         let o := emap (fun v x _ _ => (fit (HTy.narrow t) sat (srcVal (HTy.wide t) x)).toE v) (zeroW w) (s.fenv .rn) (s.act m (2048 / w))
           (s.oldV m d w) (s.el u a ++ s.el u b) (zerosOf w) (zerosOf w)
         s.opReady (.vpack t sat m d a b) = true → s.quiet o.fl → o.div0 = false →
         exec (.vpack t sat m d a b) s = .next (s.issue (.vpack t sat m d a b) (o.res d w none)))
       ∧ (∀ t : HTy, let w := (HTy.narrow t).width; let u := (HTy.wide t).width
         unpoisoned [(s.vs a).payload, (s.ss c).payload, s.mskPl m, s.oldVPl m d] → s.opReady (.vunpk t m d a c) = true →
         ∃ (x : VWord) (rc : Bool), exec (.vunpk t m d a c) s = .next (s.issue (.vunpk t m d a c) (.res (wrV d (clean x)) rc 0 none))
           ∧ ∀ k < 2048 / u, nthW (splitV u x) k
               = if s.laneOn m u k then cutW u (wrapTo (HTy.wide t) (srcVal (HTy.narrow t) (s.lane w a (2048 / u * ((s.ss c).bits.toNat % 2) + k))))
                 else cutW u (s.laneOld m d u k)))

/-- R194, R195: comparisons and class tests set one mask bit an element; masked-off bits are kept or cleared.

R201: mask logic, the number of set bits and the first set bit. -/
def Obligations.VectorCompareCompletes : Prop :=
  (∀ (s : State) (m : Msk) (d : KDst) (a b : VSrc) (z : SSrc),
     (∀ c : VCmp, let w := VCmp.width c; let n := 2048 / w
       let r := fun k => VCmp.test c s.amode.fz (s.lane w a k) (s.lane w b k)
       unpoisoned [(s.vs a).payload, (s.vs b).payload, s.mskPl m, s.oldKPl m d] →
       (∀ k < n, s.laneOn m w k = true → s.quiet (r k).2) → s.opReady (.vcmp c m d a b) = true →
       ∃ (x : KWord) (rc : Bool) (fl : Fl), exec (.vcmp c m d a b) s = .next (s.issue (.vcmp c m d a b) (maskRes d x rc fl))
         ∧ (∀ k < 256, x.getLsbD k = if k < n then (if s.laneOn m w k then (r k).1 else (s.oldK m d n).getD k false) else false)
         ∧ (rc = true ↔ ∃ k < n, s.laneOn m w k = true ∧ (r k).1 = true)
         ∧ ∀ j, fl.getLsbD j = true ↔ ∃ k < n, s.laneOn m w k = true ∧ (r k).2.getLsbD j = true)
     ∧ (∀ t : FcTy, let w := t.width; let n := 2048 / w
       let r := fun k => (s.ss z).bits.getLsbD ((fmtOfC t).class (low w (s.lane w a k)))
       unpoisoned [(s.vs a).payload, (s.ss z).payload, s.mskPl m, s.oldKPl m d] → s.opReady (.vclass t m d a z) = true →
       ∃ (x : KWord) (rc : Bool), exec (.vclass t m d a z) s = .next (s.issue (.vclass t m d a z) (maskRes d x rc 0))
         ∧ (∀ k < 256, x.getLsbD k = if k < n then (if s.laneOn m w k then r k else (s.oldK m d n).getD k false) else false)
         ∧ (rc = true ↔ ∃ k < n, s.laneOn m w k = true ∧ r k = true)))
  ∧ (∀ (s : State) (d : KDst) (e : SDst) (a b : KSrc), unpoisoned [(s.ks a).payload, (s.ks b).payload] →
       let x := (s.ks a).bits
       let y := (s.ks b).bits
       (∀ p ∈ [(Instr.kand d a b, x &&& y), (.kor d a b, x ||| y), (.kxor d a b, x ^^^ y), (.kandn d a b, x &&& ~~~y), (.knot d a, ~~~x),
               (.kmov d a, x)],
         s.opReady p.1 = true → exec p.1 s = .next (s.issue p.1 (maskRes d p.2 (p.2 != 0) 0)))
       ∧ (s.opReady (.kpop e a) = true →
         exec (.kpop e a) s = .next (s.issue (.kpop e a) (wordRes e (BitVec.ofNat 64 ((List.range 256).filter fun k => x.getLsbD k).length))))
       ∧ (s.opReady (.kfind e a) = true → ∃ n, n ≤ 256 ∧ (∀ k < n, x.getLsbD k = false) ∧ (n < 256 → x.getLsbD n = true)
         ∧ exec (.kfind e a) s = .next (s.issue (.kfind e a) (.res (wrS e (clean (BitVec.ofNat 64 n))) (x != 0) 0 none))))

/-- R202 to R205: sums and dot products of integers are exact and fitted once to 64 bits; floating-point ones run in the group steps of
R203; the other reductions and the scan run in element order over the active elements. -/
def Obligations.ReductionCompletes : Prop :=
  ∀ (s : State) (m : Msk) (d : SDst) (e : VDst) (a b : VSrc) (c : SSrc), unpoisoned [(s.vs a).payload, (s.ss c).payload, s.mskPl m] →
    let on := fun w => s.act m (2048 / w)
    (∀ (t : ITy) (sat : Bool), let w := t.width
      let r := fit (wide64 t) sat (srcVal t (s.ss c).bits
        + ((List.range (2048 / w)).map fun k => if s.laneOn m w k then srcVal t (s.lane w a k) else 0).sum)
      s.opReady (.vredsum (.int t sat) m d a c) = true → s.quiet r.fl →
      exec (.vredsum (.int t sat) m d a c) s = .next (s.issue (.vredsum (.int t sat) m d a c) (r.res d)))
    ∧ (∀ (f : Fin 64) (sat : Bool)
      (_ : s.opReady (.vredsum (.fx f sat) m d a c) = true),
      let r := fit .i64 sat (srcVal .i64 (s.ss c).bits
        + ((List.range 32).map fun k => if s.laneOn m 64 k then srcVal .i64 (s.lane 64 a k) else 0).sum)
      s.quiet r.fl →
      exec (.vredsum (.fx f sat) m d a c) s = .next (s.issue (.vredsum (.fx f sat) m d a c) (r.res d)))
    ∧ (∀ (t : FTy) (rm : Rm), let v := s.fenv rm; let r := redsumF t v (on t.width) (s.el t.width a) (s.ss c).bits
      s.opReady (.vredsum (.fp t rm) m d a c) = true → s.quiet r.fl →
      exec (.vredsum (.fp t rm) m d a c) s = .next (s.issue (.vredsum (.fp t rm) m d a c)
        (.res (wrS d (clean (BitVec.ofNat 64 r.bits))) (!zeroF (fmtOf (accFmt t)) (BitVec.ofNat 64 r.bits)) r.fl (v.out r.srng))))
    ∧ (unpoisoned [(s.vs b).payload] → ∀ (t : ITy) (sat : Bool), let w := t.width
      let r := fit (wide64 t) sat (srcVal t (s.ss c).bits
        + ((List.range (2048 / w)).map fun k => if s.laneOn m w k then srcVal t (s.lane w a k) * srcVal t (s.lane w b k) else 0).sum)
      s.opReady (.vdot (.int t sat) m d a b c) = true → s.quiet r.fl →
      exec (.vdot (.int t sat) m d a b c) s = .next (s.issue (.vdot (.int t sat) m d a b c) (r.res d)))
    ∧ (unpoisoned [(s.vs b).payload] → ∀ (t : FTy) (rm : Rm), let v := s.fenv rm
      let r := dotF t v (on t.width) (s.el t.width a) (s.el t.width b) (s.ss c).bits
      s.opReady (.vdot (.fp t rm) m d a b c) = true → s.quiet r.fl →
      exec (.vdot (.fp t rm) m d a b c) s = .next (s.issue (.vdot (.fp t rm) m d a b c)
        (.res (wrS d (clean (BitVec.ofNat 64 r.bits))) (!zeroF (fmtOf (accFmt t)) (BitVec.ofNat 64 r.bits)) r.fl (v.out r.srng))))
    ∧ (∀ (t : VPlain), let w := VPlain.width t
      ∀ p ∈ [(Instr.vredmin t m d a c, VPlain.minOp t), (.vredmax t m d a c, VPlain.maxOp t)],
        let r := redGo (fun v x y => p.2 v x y 0#64) (s.fenv .rn) (on w) (s.el w a) (VPlain.init t (s.ss c).bits)
        s.opReady p.1 = true → r.div0 = false → s.quiet r.fl →
        exec p.1 s = .next (s.issue p.1 (.res (wrS d (clean r.w)) (match t with | .fp t => !zeroF (fmtOf t) r.w | _ => r.w != 0) r.fl none)))
    ∧ (∀ (t : ITy), let w := t.width
      ∀ p ∈ [(Instr.vredand t m d a c, iAnd t), (.vredor t m d a c, iOr t), (.vredxor t m d a c, iXor t)],
        s.opReady p.1 = true →
        exec p.1 s = .next (s.issue p.1 (wordRes d
          (((List.range (2048 / w)).filter fun k => s.laneOn m w k).foldl (fun z k => (p.2 z (s.lane w a k)).w) (wrapTo t (srcVal t (s.ss c).bits))))))
    ∧ (∀ (t : VArith), let w := VArith.width t; let v := s.fenv (VArith.rm t)
      let o := scanGo (VArith.addOp t) (VArith.isZ t) v (on w) (s.oldV m e w) (s.el w a) (s.ss c).bits
      unpoisoned [s.oldVPl m e] → s.opReady (.vscan t m e a c) = true → o.div0 = false → s.quiet o.fl →
      exec (.vscan t m e a c) s = .next (s.issue (.vscan t m e a c) (o.res e w (v.out o.srng))))

/-- R206 to R208: vector conversions, and MX blocks packed and unpacked. -/
def Obligations.VectorConversionCompletes : Prop :=
  ∀ (s : State) (m : Msk) (d : VDst) (a : VSrc) (b : SSrc) (y : SReg),
    (∀ c : VCvt, let ws := c.sw; let wd := c.dw; let n := 2048 / max ws wd; let v := s.fenv (VCvt.rm c)
      let h := if ws < wd then (s.ss b).bits.toNat % (wd / ws) else 0
      let o := emap (VCvt.elem c) (VCvt.isZ c) v (s.act m n) ((s.oldV m d wd).take n) ((s.el ws a).drop (h * n)) (List.replicate n 0#64)
        (List.replicate n 0#64)
      unpoisoned [(s.vs a).payload, s.mskPl m, s.oldVPl m d] → (ws < wd → unpoisoned [(s.ss b).payload]) →
      s.opReady (.vcvt c m d a b) = true → o.div0 = false → s.quiet o.fl →
      exec (.vcvt c m d a b) s = .next (s.issue (.vcvt c m d a b) (o.res d wd (if VCvt.rounds c then v.out o.srng else none))))
    ∧ (∀ (f : MxF) (t : MxT) (rm : Rm), let v := s.fenv rm; let r := mxqGo f t v (MxT.blocks t) (s.el (MxT.fty t).width a)
      unpoisoned [(s.vs a).payload] → s.opReady (.vmxq f t rm d a y) = true → s.quiet r.2.2.1 →
      exec (.vmxq f t rm d a y) s
        = .next (s.issue (.vmxq f t rm d a y)
            (.res (wrV d (clean (BitVec.ofNat 2048 r.1)) ++ [.s y (BitVec.ofNat 64 r.2.1) false]) r.2.2.2.2 r.2.2.1 (v.out r.2.2.2.1))))
    ∧ (∀ (f : MxF) (t : MxT) (rm : Rm), let v := s.fenv rm
      let o := roundAll (fmtOf (MxT.fty t)) v (mxdVals f (MxT.blocks t) (s.vs a).bits.toNat (s.ss b).bits.toNat)
      unpoisoned [(s.vs a).payload, (s.ss b).payload] → s.opReady (.vmxd f t rm d a b) = true → o.div0 = false → s.quiet o.fl →
      exec (.vmxd f t rm d a b) s = .next (s.issue (.vmxd f t rm d a b) (o.res d (MxT.fty t).width (v.out o.srng))))

/-- R209: the special functions act on the 64 binary32 elements; `sfsincospi` writes the sine and then the cosine. -/
def Obligations.SpecialFunctionCompletes : Prop :=
  ∀ (s : State) (m : Msk) (a : VSrc),
    let on := s.act m 64
    let f := fun (g : Sf) (d : VDst) =>
      emap (fun v x _ _ => ⟨BitVec.ofNat 64 (sfEval g v.fz x.toNat).bits, (sfEval g v.fz x.toNat).fl, v.srng, false⟩) (zeroF fmt32) (s.fenv .rn) on
        (s.oldV m d 32) (s.el 32 a) (zerosOf 32) (zerosOf 32)
    (∀ d : VDst, unpoisoned [(s.vs a).payload, s.mskPl m, s.oldVPl m d] →
      ∀ p ∈ [(Instr.sfrcp m d a, Sf.rcp), (.sfrsqrt m d a, .rsqrt), (.sfsqrt m d a, .sqrt), (.sfexp2 m d a, .exp2), (.sflog2 m d a, .log2),
             (.sfsinpi m d a, .sinpi), (.sfcospi m d a, .cospi)],
        s.opReady p.1 = true → (f p.2 d).div0 = false → s.quiet (f p.2 d).fl → exec p.1 s = .next (s.issue p.1 ((f p.2 d).res d 32 none)))
    ∧ (∀ d : Fin 8, let lo : VReg := ⟨2 * d.val, by omega⟩; let hi : VReg := ⟨2 * d.val + 1, by omega⟩
      let x := f .sinpi (.reg lo)
      let y := f .cospi (.reg hi)
      unpoisoned [(s.vs a).payload, s.mskPl m, s.oldVPl m (.reg lo), s.oldVPl m (.reg hi)] →
      s.opReady (.sfsincospi m d a) = true → s.quiet (x.fl ||| y.fl) →
      exec (.sfsincospi m d a) s
        = .next (s.issue (.sfsincospi m d a)
            (.res (wrV (.reg lo) (clean (joinV 32 x.xs)) ++ wrV (.reg hi) (clean (joinV 32 y.xs))) (x.nz || y.nz) (x.fl ||| y.fl) none)))

/-! ## Channels and presence -/

/-- R21, R22, R136, R153: a receive or a peek of entries that are not poisoned writes their value in every form of destination (four entries make a vector); a receive
removes them; the condition is that the value is not zero. A twin reports 1, or, where the channel holds too few entries, clears its status and does nothing else. -/
def Obligations.ReceiveCompletes : Prop :=
  (∀ (s : State) (ch : Chan) (x : XDst) (e e1 e2 e3 : Entry) (rest : List Entry),
    let es := if XDst.n x = 4 then [e, e1, e2, e3] else [e]
    s.fctx.inb[ch] = es ++ rest → (∀ y ∈ es, y.p = false) →
    let n := match x with | .s _ => 64 | .pair _ => 128 | .k _ => 256 | .v _ => 512
    let fwd := fun (c : Chan) (w : BitVec 2) => [Wr.eg c (es.map fun y => { data := (y.data.setWidth n).setWidth 512, tag := y.tag, w := w, p := false })]
    let wr : List Wr := match x with
      | .s (.reg r) => [.s r (e.data.setWidth 64) false] | .s (.chan c) => fwd c 0 | .s (.sys q) => [.sys q (e.data.setWidth 64)]
      | .pair (.pair m) => [.s (pairLo m) (e.data.setWidth 64) false, .s (pairHi m) (e.data.extractLsb' 64 64) false] | .pair (.chan c) => fwd c 1
      | .k (.reg r) => [.k r (e.data.setWidth 256) false] | .k (.chan c) => fwd c 2
      | .v (.reg r) => [.v r (e3.data ++ e2.data ++ e1.data ++ e.data) false] | .v (.chan c) => fwd c 3
    let hard := match x with | .s (.sys _) => true | _ => false
    let rc := es.any fun y => y.data.setWidth n != 0
    let drop := fun t : State => t.dequeue s.fire.ctx ch es.length
    (s.opReady (.recv x ch) = true →
      exec (.recv x ch) s = .next (s.issue (.recv x ch) { Iss.res wr rc 0 none with hard := hard, edit := drop }))
    ∧ (s.opReady (.peek x ch) = true → exec (.peek x ch) s = .next (s.issue (.peek x ch) { Iss.res wr rc 0 none with hard := hard }))
    ∧ ∀ pc : PReg,
      (s.opReady (.tryrecv x ch pc) = true →
        exec (.tryrecv x ch pc) s = .next (s.issue (.tryrecv x ch pc) { Iss.res (wr ++ [.p pc true]) true 0 none with edit := drop }))
      ∧ (s.opReady (.trypeek x ch pc) = true →
        exec (.trypeek x ch pc) s = .next (s.issue (.trypeek x ch pc) (.res (wr ++ [.p pc true]) true 0 none))))
  ∧ ∀ (s : State) (ch : Chan) (x : XDst) (pc : PReg), (s.fctx.inb[ch]).length < XDst.n x →
    (s.opReady (.tryrecv x ch pc) = true → exec (.tryrecv x ch pc) s = .next (s.issue (.tryrecv x ch pc) (.res [.p pc false] false 0 none)))
    ∧ (s.opReady (.trypeek x ch pc) = true → exec (.trypeek x ch pc) s = .next (s.issue (.trypeek x ch pc) (.res [.p pc false] false 0 none)))

/-- R23, R137: a send appends its value with its tag, one entry for a scalar, a pair or a mask and four for a vector; the condition of a send is 1,
and a twin without room reports 0 and appends nothing. -/
def Obligations.SendCompletes : Prop :=
  ∀ (s : State) (d : Chan) (a : XSrc) (g : TagSrc),
    let tag : BitVec 8 := match g with | .imm t => t | .reg b => (s.ss b).bits.setWidth 8
    let pt := match g with | .imm _ => none | .reg b => (s.ss b).payload
    let pa := match a with | .s x => (s.ss x).payload | .pair x => (s.ps x).payload | .k x => (s.ks x).payload | .v x => (s.vs x).payload
    unpoisoned [pa, pt] →
    let es : List Entry := match a with
      | .s x => [{ data := (s.ss x).bits.setWidth 512, tag := tag, w := 0, p := false }]
      | .pair x => [{ data := (s.ps x).bits.setWidth 512, tag := tag, w := 1, p := false }]
      | .k x => [{ data := (s.ks x).bits.setWidth 512, tag := tag, w := 2, p := false }]
      | .v x => (List.range 4).map fun i => { data := (s.vs x).bits.extractLsb' (512 * i) 512, tag := tag, w := 3, p := false }
    (s.opReady (.send d a g) = true → exec (.send d a g) s = .next (s.issue (.send d a g) (.res [.eg d es] true 0 none)))
    ∧ ∀ pc : PReg, s.opReady (.trysend d a g pc) = true →
      exec (.trysend d a g pc) s = .next (s.issue (.trysend d a g pc)
        (if s.tile.egFree s.fire.ctx d < es.length then .res [.p pc false] false 0 none
         else { Iss.res [.eg d es, .p pc true] true 0 none with room := [(d, es.length)] }))

/-- R139 to R142: tags, counts, presence and the reset of a channel. -/
def Obligations.ChannelStateCompletes : Prop :=
  ∀ (s : State) (d : SDst) (ch : Chan) (r : PresReg),
    let regs := (s.tile.ctx s.fire.ctx).regs
    (∀ (e : Entry) (l : List Entry), s.fctx.inb[ch] = e :: l → s.opReady (.tagh d ch) = true →
      exec (.tagh d ch) s
        = .next (s.issue (.tagh d ch)
            (.res (wrS d (clean (BitVec.ofNat 64 (e.tag.toNat + 256 * (if e.p then 1 else 0) + 512 * (s.fctx.ib[ch]).gen.toNat)))) (e.tag != 0) 0 none)))
    ∧ (s.opReady (.chcount d ch) = true →
      exec (.chcount d ch) s = .next (s.issue (.chcount d ch)
        (.res (wrS d (clean (BitVec.ofNat 64 (s.fctx.inb[ch]).length))) ((s.fctx.inb[ch]).length != 0) 0 none)))
    ∧ (s.opReady (.chfree d ch) = true →
      exec (.chfree d ch) s = .next (s.issue (.chfree d ch)
        (.res (wrS d (clean (BitVec.ofNat 64 (s.tile.egFree s.fire.ctx ch)))) (s.tile.egFree s.fire.ctx ch != 0) 0 none)))
    ∧ (s.opReady (.chreset ch) = true →
      ∃ t, exec (.chreset ch) s = .next t ∧ (t.tile.ctx s.fire.ctx).inb[ch] = []
        ∧ ((t.tile.ctx s.fire.ctx).ib[ch]).gen = (s.fctx.ib[ch]).gen + 1)
    ∧ (s.fire.clr = none → s.opReady (.pset r) = true →
      ∃ t, exec (.pset r) s = .next t ∧ (t.tile.ctx s.fire.ctx).regs = (applyPws s.fire.pws (regs.full r) regs).setFull r true)
    ∧ (s.fire.clr = none → s.opReady (.pclr r) = true →
      ∃ t, exec (.pclr r) s = .next t ∧ (t.tile.ctx s.fire.ctx).regs = (applyPws s.fire.pws (regs.full r) regs).setFull r false)

/-! ## Control -/

/-- R60, R143 to R147, R152: a `nop` does nothing of its own; the others set why or how the context goes on, and no register changes but by
the rule's predicate writes.

R145, R34: a handover whose successor is another context, enabled and without a clash, is taken; otherwise the context stops with cause
0x10 and hands nothing over.

R148 to R150: a legal watch clears its predicate and stands armed in place of the one on that predicate; an illegal address stops with
cause 0x13; `unwatch` disarms. -/
def Obligations.ControlCompletes : Prop :=
  (∀ (s : State), s.fctx.ctl.ending = .none →
     let next := fun (t : State) => t.tile.ctx s.fire.ctx
     let regs := applyPws s.fire.pws false (s.tile.ctx s.fire.ctx).regs
     (s.opReady .nop = true → ∃ t, exec .nop s = .next t ∧ (next t).regs = regs ∧ (next t).ctl = s.fctx.ctl)
     ∧ (∀ code, s.opReady (.done code) = true → ∃ t, exec (.done code) s = .next t ∧ (next t).regs = regs ∧ (next t).ctl.ending = .done code)
     ∧ (s.opReady .yield = true → ∃ t, exec .yield s = .next t ∧ (next t).regs = regs ∧ (next t).ctl = { s.fctx.ctl with yielded := true })
     ∧ (∀ n, s.opReady (.sleep n) = true → ∃ t w, exec (.sleep n) s = .next t ∧ (next t).regs = regs ∧ (next t).ctl.asleep = some w
         ∧ w = ⟨if n = 0 then none else some (s.clock + n.toNat)⟩)
     ∧ (∀ a code, s.opReady (.trap a code) = true → ∃ t i, exec (.trap a code) s = .next t ∧ (next t).regs = regs ∧ (next t).ctl.ending = .stop i
         ∧ i.cause = 0x11#8 ∧ i.code = code ∧ i.payload = (s.ss a).bits ∧ i.pmark = (s.ss a).pois)
     ∧ (∀ code, s.opReady (.bkpt code) = true → (∀ k, s.tile.taskOf s.fctx = some k → k.debug = false) →
       ∃ t, exec (.bkpt code) s = .next t ∧ (next t).regs = regs ∧ (next t).ctl = s.fctx.ctl))
  ∧ (∀ (s : State), s.opReady .handover = true → s.fctx.ctl.ending = .none →
       let ok := s.fctx.cfg.hen && s.fctx.succ != s.fire.ctx && !s.fctx.carryClash (s.tile.ctx s.fctx.succ)
       ∃ t, exec .handover s = .next t
         ∧ (ok = true → (t.tile.ctx s.fire.ctx).ctl.ending = .hand)
         ∧ (ok = false → ∃ i, (t.tile.ctx s.fire.ctx).ctl.ending = .stop i ∧ i.cause = 0x10#8))
  ∧ (∀ (s : State) (w : WatchF) (d : PReg) (a b : SSrc), unpoisoned [(s.ss a).payload, (s.ss b).payload] →
       (s.opReady (.watch w d a b) = true → s.watchOk w (s.ss a).bits = true →
         ∃ t k, exec (.watch w d a b) s = .next t
           ∧ (t.tile.ctx s.fire.ctx).watches
             = (s.fctx.watches.filter fun x => x.pred != d)
               ++ [{ pred := d, f := w, addr := (s.ss a).bits, val := (s.ss b).bits, sent := false, due := s.clock + k, note := none }]
           ∧ (t.tile.ctx s.fire.ctx).p d = (applyPws s.fire.pws false (s.fctx.regs.setP d false)).p.getLsbD d.val)
       ∧ (s.opReady (.watch w d a b) = true → s.watchOk w (s.ss a).bits = false →
         exec (.watch w d a b) s = .next (s.issue (.watch w d a b) (.trap { StopInfo.mk0 0x13#8 s.fire.slot.toNat s.clock with loc := (s.ss a).bits })))
       ∧ (s.opReady (.unwatch d) = true →
         ∃ t, exec (.unwatch d) s = .next t ∧ (t.tile.ctx s.fire.ctx).watches = s.fctx.watches.filter fun x => x.pred != d))

/-! ## Memory -/

/-- R237 to R240, R277, R278: an access whose base and data are not poisoned, aligned and inside its space, goes out with the physical
address that the base and the offset give, and with the bytes that a store writes.

R239: a gather or scatter whose 64 elements are all aligned and inside the context's TCM goes out. -/
def Obligations.LocalAccessCompletes : Prop :=
  (∀ (s : State) (m : MAddr), unpoisoned [s.basePl m] →
     let a := s.maddr m
     let acc := fun (sp : Space) (op : MemOp) (n : Nat) => accRes m sp op (s.physBase sp a) n [(s.physBase sp a).toNat]
     let ok := fun (sp : Space) (n align : Nat) => a % (align : Int) = 0 ∧ (match sp with
       | .tcm => 0 ≤ a ∧ a + n ≤ s.fctx.tlen.toNat | .csp => s.cspOk s.cur s.fire.ctx a n = true | .glb => False)
     (∀ d, let n := LdDst.bytes d
       (s.opReady (.ld m d) = true → ok .tcm n n → exec (.ld m d) s = .next (s.issue (.ld m d) (acc .tcm (.ld d) n)))
       ∧ (s.opReady (.cld m d) = true → ok .csp n n → exec (.cld m d) s = .next (s.issue (.cld m d) (acc .csp (.ld d) n))))
     ∧ (∀ x, let n := StSrc.bytes x
       unpoisoned [(s.stVal x).2] →
       (s.opReady (.st m x) = true → ok .tcm n n → exec (.st m x) s = .next (s.issue (.st m x) (acc .tcm (.st (s.stVal x).1) n)))
       ∧ (s.opReady (.cst m x) = true → ok .csp n n → exec (.cst m x) s = .next (s.issue (.cst m x) (acc .csp (.st (s.stVal x).1) n))))
     ∧ (∀ d,
       (s.opReady (.vld m d) = true → ok .tcm 256 16 → exec (.vld m d) s = .next (s.issue (.vld m d) (acc .tcm (.vld d) 256)))
       ∧ (s.opReady (.cvld m d) = true → ok .csp 256 16 → exec (.cvld m d) s = .next (s.issue (.cvld m d) (acc .csp (.vld d) 256))))
     ∧ (∀ v, unpoisoned [(s.vs v).payload] →
       (s.opReady (.vst m v) = true → ok .tcm 256 16 →
         exec (.vst m v) s = .next (s.issue (.vst m v) (acc .tcm (.st (leBytes 256 (s.vs v).bits.toNat)) 256)))
       ∧ (s.opReady (.cvst m v) = true → ok .csp 256 16 →
         exec (.cvst m v) s = .next (s.issue (.cvst m v) (acc .csp (.st (leBytes 256 (s.vs v).bits.toNat)) 256))))
     ∧ (∀ d (o : RmwOp) x, unpoisoned [(s.ss x).payload] →
       (s.opReady (.tamo m d (.rmw o x)) = true → ok .tcm 8 8 →
         exec (.tamo m d (.rmw o x)) s = .next (s.issue (.tamo m d (.rmw o x)) (acc .tcm (.atom d o (s.ss x).bits) 8)))
       ∧ (s.opReady (.camo m d (.rmw o x)) = true → ok .csp 8 8 →
         exec (.camo m d (.rmw o x)) s = .next (s.issue (.camo m d (.rmw o x)) (acc .csp (.atom d o (s.ss x).bits) 8)))
       ∧ (s.opReady (.tamo m d (.binc x)) = true → ok .tcm 8 8 →
         exec (.tamo m d (.binc x)) s = .next (s.issue (.tamo m d (.binc x)) (acc .tcm (.binc d (s.ss x).bits) 8)))
       ∧ (s.opReady (.camo m d (.binc x)) = true → ok .csp 8 8 →
         exec (.camo m d (.binc x)) s = .next (s.issue (.camo m d (.binc x)) (acc .csp (.binc d (s.ss x).bits) 8))))
     ∧ (∀ d x, unpoisoned [(s.ps x).payload] →
       let op := MemOp.cas d ((s.ps x).bits.setWidth 64) ((s.ps x).bits.extractLsb' 64 64)
       (s.opReady (.tamo m d (.cas x)) = true → ok .tcm 8 8 → exec (.tamo m d (.cas x)) s = .next (s.issue (.tamo m d (.cas x)) (acc .tcm op 8)))
       ∧ (s.opReady (.camo m d (.cas x)) = true → ok .csp 8 8 → exec (.camo m d (.cas x)) s = .next (s.issue (.camo m d (.cas x)) (acc .csp op 8)))))
  ∧ (∀ (s : State) (m : MAddr) (ix : VSrc), unpoisoned [s.basePl m, (s.vs ix).payload] →
       let a := s.maddr m
       let off := fun k : Nat => (s.lane 32 ix k).toNat
       (∀ k < 64, (a + off k) % 4 = 0 ∧ 0 ≤ a + off k ∧ a + off k + 4 ≤ s.fctx.tlen.toNat) →
       let acc := fun (op : MemOp) => accRes m .tcm op ((s.fctx.tbase.toNat : Int) + a) 4 []
       (∀ d, s.opReady (.vgath m d ix) = true → exec (.vgath m d ix) s = .next (s.issue (.vgath m d ix) (acc (.gath d (s.vs ix).bits))))
       ∧ (∀ v, unpoisoned [(s.vs v).payload] → s.opReady (.vscat m ix v) = true →
         exec (.vscat m ix v) s = .next (s.issue (.vscat m ix v) (acc (.scat (s.vs ix).bits (s.vs v).bits)))))

/-- R237, R159, R173: a misaligned access stops its context with cause 0x18, one outside the allocation with 0x15, one with a poisoned base or
data with 0x01; the fire then has no other effect on memory or registers than the rule's own plain predicate writes.

R309, R363: a global address with a bit of [63:48] set, or misaligned, stops its context with cause 0x18 and nothing goes out. -/
def Obligations.IllegalAccessesTrap : Prop :=
  (∀ (s : State) (m : MAddr) (z : StSz) (x : SSrc) (w : Sz) (d : SDst),
     let a := s.maddr m
     let stop := fun (c : BitVec 8) => { StopInfo.mk0 c s.fire.slot.toNat s.clock with loc := BitVec.ofInt 64 a }
     (s.opReady (.st m (.w z x)) = true → unpoisoned [s.basePl m, (s.ss x).payload] → a % (StSz.bytes z : Int) ≠ 0 →
       exec (.st m (.w z x)) s = .next (s.issue (.st m (.w z x)) (.trap (stop 0x18#8))))
     ∧ (s.opReady (.st m (.w z x)) = true → unpoisoned [s.basePl m, (s.ss x).payload] → a % (StSz.bytes z : Int) = 0 →
       ¬(0 ≤ a ∧ a + StSz.bytes z ≤ s.fctx.tlen.toNat) →
       exec (.st m (.w z x)) s = .next (s.issue (.st m (.w z x)) (.trap (stop 0x15#8))))
     ∧ (∀ pl, s.opReady (.st m (.w z x)) = true → unpoisoned [s.basePl m] → (s.ss x).payload = some pl →
       exec (.st m (.w z x)) s
         = .next (s.issue (.st m (.w z x)) (.trap { StopInfo.poison s.fire.slot.toNat pl s.clock with loc := BitVec.ofInt 64 a })))
     ∧ (∀ pl, s.opReady (.ld m (.w w d)) = true → s.basePl m = some pl →
       exec (.ld m (.w w d)) s = .next (s.issue (.ld m (.w w d)) (.trap (StopInfo.poison s.fire.slot.toNat pl s.clock))))
     ∧ (s.opReady (.ld m (.w w d)) = true → unpoisoned [s.basePl m] → a % (Sz.bytes w : Int) ≠ 0 →
       exec (.ld m (.w w d)) s = .next (s.issue (.ld m (.w w d)) (.trap (stop 0x18#8)))))
  ∧ (∀ (s : State) (m : MAddr) (z : Sz) (d : SDst), unpoisoned [s.basePl m] →
       let a := s.maddr m
       s.opReady (.ldg m (.w z d)) = true → (a < 0 ∨ 2 ^ 48 ≤ a ∨ a % (Sz.bytes z : Int) ≠ 0) →
       exec (.ldg m (.w z d)) s
         = .next (s.issue (.ldg m (.w z d)) (.trap { StopInfo.mk0 0x18#8 s.fire.slot.toNat s.clock with loc := BitVec.ofInt 64 a })))

/-- R231 to R235: `gcfg` writes the descriptor of a stream that does not run; `gstart` runs a configured one on a free channel; `gstop` reports
the elements not issued and stops; `gbar` clears its predicate until the streams end, or sets it at once.

R241 to R244: a copy of a legal size stands in the copy queue behind the others; a drain sets its predicate at once when no copy of its
kind is outstanding, and else waits for those that are. -/
def Obligations.StreamAndCopyComplete : Prop :=
  (∀ (s : State) (g : Fin 8),
     let i := s.fctx.strmOf g
     let x := s.tile.strm[i]
     (∀ a b, s.opReady (.gcfg g a b) = true → unpoisoned [(s.ps (.pair a)).payload, (s.ps (.pair b)).payload] → x.st ≠ .run →
       ∃ t, exec (.gcfg g a b) s = .next t
         ∧ t.tile.strm[i] = { Strm.zero with st := .conf, desc := (s.ps (.pair b)).bits ++ (s.ps (.pair a)).bits })
     ∧ (s.opReady (.gstart g) = true → x.st = .conf → x.legal = true → s.tile.chanFor s.fire.ctx x = true →
       ∃ t, exec (.gstart g) s = .next t
         ∧ (t.tile.strm[i]).st = .run ∧ (t.tile.strm[i]).desc = x.desc ∧ (t.tile.strm[i]).next = 0
         ∧ (t.tile.strm[i]).start = s.clock + 1 ∧ (t.tile.strm[i]).ctx = s.fire.ctx)
     ∧ (s.opReady (.gstart g) = true → ¬(x.st = .conf ∧ x.legal = true ∧ s.tile.chanFor s.fire.ctx x = true) →
       exec (.gstart g) s = .next (s.issue (.gstart g) (.trap (StopInfo.mk0 0x19#8 s.fire.slot.toNat s.clock))))
     ∧ (∀ d, s.opReady (.gstop d g) = true →
       exec (.gstop d g) s = .next (s.issue (.gstop d g)
         { wordRes d (BitVec.ofNat 64 x.left) with edit := fun t => t.putStrm i x.stopIssue }))
     ∧ (∀ d mask fin, s.opReady (.gbar d mask fin) = true →
       exec (.gbar d mask fin) s = .next (s.issue (.gbar d mask fin)
         (if (s.fctx.maskStrms mask).any (fun g => (s.tile.strm[g]).st == .run) then
            waitRes (.gbar d mask fin) d
          else .res [.p d true] true 0 none))))
  ∧ (∀ (s : State) (f : CpyF) (p : PReg),
       let d := s.fctx.s f.sd
       let a := s.fctx.s f.ss
       let l := s.fctx.s f.sl
       let h := s.fctx.s (Fin.ofNat 32 (f.sl.val + 1))
       (s.opReady (.cpy f) = true → unpoisoned [d.payload, a.payload, l.payload] → l.bits.toNat < 2 ^ 32 →
         ∃ t c, exec (.cpy f) s = .next t ∧ t.tile.copies = s.tile.copies ++ [c] ∧ c.f = f ∧ c.da = d.bits ∧ c.sa = a.bits ∧ c.rows = 1
           ∧ c.len = l.bits.toNat ∧ c.row = 0 ∧ c.off = 0 ∧ c.ctx = s.fire.ctx)
       ∧ (s.opReady (.cpy2d f) = true → unpoisoned [d.payload, a.payload, l.payload, h.payload] → l.bits.toNat / 2 ^ 32 < 2 ^ 16 →
         ∃ t c, exec (.cpy2d f) s = .next t ∧ t.tile.copies = s.tile.copies ++ [c] ∧ c.f = f ∧ c.da = d.bits ∧ c.sa = a.bits
           ∧ c.rows = l.bits.toNat / 2 ^ 32 ∧ c.len = l.bits.toNat % 2 ^ 32 ∧ c.row = 0 ∧ c.off = 0
           ∧ c.sstr = signedOf 32 (h.bits.toNat % 2 ^ 32) ∧ c.dstr = signedOf 32 (h.bits.toNat / 2 ^ 32))
       ∧ (∀ q ∈ [(Instr.drainTcm p, [DSpace.tcm, DSpace.win]), (.drainCsp p, [.csp]), (.drainGlb p, [.glb])],
         let ids := (s.tile.copies.filter fun c => q.2.contains c.f.dsp).map (·.id)
         s.opReady q.1 = true →
         exec q.1 s = .next (s.issue q.1
           (if ids = [] then .res [.p p true] true 0 none
            else waitRes (.drain p ids) p))))

/-! ## Matrix unit -/

/-- R213, R215, R226, R286: a product, a load or a store of a block with unpoisoned addresses, all its ranges inside their spaces, stands
outstanding with its operands and the order token that it waits for. -/
def Obligations.MatrixOperationFires : Prop :=
  ∀ (s : State),
    let fits := fun (csp : Bool) (a : Word) (n : Nat) => if csp then s.cspOk s.cur s.fire.ctx a.toNat n = true else s.fctx.tcmOk a.toNat n = true
    let fire := fun (i : Instr) (vals : List Word) (quad : List (Reg 2048)) =>
      { Iss.zero with act := .mat i vals quad i.waitTok (s.tile.tokFired s.fctx i.waitTok) }
    (∀ f : MmaF, let a := s.fctx.s f.sa; let b := s.fctx.s f.sb
      unpoisoned [a.payload, b.payload] → s.opReady (.mma f) = true → fits f.asp a.bits f.bytesA → fits f.bsp b.bits (f.bytesB f.k) →
      exec (.mma f) s = .next (s.issue (.mma f) (fire (.mma f) [a.bits, b.bits] [])))
    ∧ (∀ (f : MmaF) sm msp, let a := s.fctx.s f.sa; let b := s.fctx.s f.sb; let m := s.fctx.s sm
      unpoisoned [a.payload, b.payload, m.payload] → s.opReady (.mmas f sm msp) = true →
      fits f.asp a.bits f.bytesSp → fits f.bsp b.bits (f.bytesB f.k) → fits msp m.bits f.bytesMeta →
      exec (.mmas f sm msp) s = .next (s.issue (.mmas f sm msp) (fire (.mmas f sm msp) [a.bits, b.bits, m.bits] [])))
    ∧ (∀ f : MmaF, let b := s.fctx.s f.sb
      unpoisoned [b.payload] → s.opReady (.mmv f) = true → fits f.bsp b.bits (f.bytesB f.fmt.kv) →
      exec (.mmv f) s = .next (s.issue (.mmv f) (fire (.mmv f) [b.bits] (quadRegs s.fctx f.sa))))
    ∧ (∀ f : AccMemF, let a := s.fctx.s f.sa
      unpoisoned [a.payload] → fits f.asp a.bits f.bytes →
      (s.opReady (.aload f) = true → exec (.aload f) s = .next (s.issue (.aload f) (fire (.aload f) [a.bits] [])))
      ∧ ((s.tile.accN (s.fctx.accOf f.blk.acc)).pois = false → s.opReady (.astore f) = true →
        exec (.astore f) s = .next (s.issue (.astore f) (fire (.astore f) [a.bits] []))))
    ∧ (∀ f : MmaF, let a0 := s.fctx.s f.sa; let a1 := s.fctx.s (Fin.ofNat 32 (f.sa.val + 1))
      let b0 := s.fctx.s f.sb; let b1 := s.fctx.s (Fin.ofNat 32 (f.sb.val + 1))
      unpoisoned [a0.payload, a1.payload, b0.payload, b1.payload] → s.opReady (.mmr f true) = true →
      fits false a0.bits f.bytesA → fits false a1.bits f.bytesA → fits false b0.bits (f.bytesB f.k) → fits false b1.bits (f.bytesB f.k) →
      ∃ j, exec (.mmr f true) s = .next (s.issue (.mmr f true) (fire (.mmr f true) [a0.bits, a1.bits, b0.bits, b1.bits, j] [])))

/-- R227 to R229: the format-A instructions on an unpoisoned accumulator: zero, read of a row, write of a row, transposition. -/
def Obligations.AccumulatorCompletes : Prop :=
  ∀ (s : State) (d : AReg),
    let i := s.fctx.accOf d
    let acc := s.tile.acc[i]
    (s.opReady (.azero d) = true → ∃ t, exec (.azero d) s = .next t ∧ t.tile.acc[i] = Acc.zero)
    ∧ (∀ (v : AView) (e : VDst) (b : SSrc), acc.pois = false → unpoisoned [(s.ss b).payload] → s.opReady (.aget v e d b) = true →
      ∃ rc, exec (.aget v e d b) s = .next (s.issue (.aget v e d b) (.res (wrV e (clean (acc.row ((s.ss b).bits.toNat % 64)))) rc 0 none)))
    ∧ (∀ (v : AView) (a : VSrc) (b : SSrc), acc.pois = false → unpoisoned [(s.vs a).payload, (s.ss b).payload] →
      s.opReady (.aput v none d a b) = true → ∃ t, exec (.aput v none d a b) s = .next t
        ∧ t.tile.acc[i] = acc.setRow ((s.ss b).bits.toNat % 64) (joinV (AView.w v) (s.el (AView.w v) a)))
    ∧ (∀ a : AReg, acc.pois = false → (s.tile.acc[s.fctx.accOf a]).pois = false → s.opReady (.atrans d a) = true →
      ∃ t, exec (.atrans d a) s = .next t ∧ t.tile.acc[i] = { acc with rows := transposed (s.tile.acc[s.fctx.accOf a]) })
    ∧ (∀ (t : AArith) (a : VSrc) (b : SSrc), let v := s.menv (AArith.rm t); let w := AArith.w t
      let j := (s.ss b).bits.toNat % 64
      let o := accRow t (AArith.addOp t) v (acc.row j) (s.el w a)
      acc.pois = false → unpoisoned [(s.vs a).payload, (s.ss b).payload] → s.quiet o.fl → s.opReady (.aadd t d a b) = true →
      ∃ u, exec (.aadd t d a b) s = .next u ∧ u.tile.acc[i] = acc.setRow j (joinV w o.xs))
    ∧ (∀ (t : AArith) (a : SSrc), let v := s.menv (AArith.rm t)
      let r := scaleRows t (s.ss a).bits acc v (List.range 64)
      acc.pois = false → unpoisoned [(s.ss a).payload] → s.quiet r.2.1 → s.opReady (.ascale t d a) = true →
      ∃ u, exec (.ascale t d a) s = .next u ∧ u.tile.acc[i] = { acc with rows := r.1.rows })
    ∧ (∀ (c : ACvt) (e : VDst) (b : SSrc), let n := 2048 / ACvt.ws c; let nd := 2048 / ACvt.wd c; let v := s.menv (ACvt.rm c)
      let h := if nd < n then (s.ss b).bits.toNat / 64 % 2 else 0
      let o := emap (ACvt.elem c) (ACvt.isZ c) v (List.replicate (min n nd) true) (List.replicate (min n nd) 0#64)
        ((splitV (ACvt.ws c) (acc.row ((s.ss b).bits.toNat % 64))).drop (h * nd)) (List.replicate (min n nd) 0#64) (List.replicate (min n nd) 0#64)
      acc.pois = false → unpoisoned [(s.ss b).payload] → o.div0 = false → s.quiet o.fl → s.opReady (.acvt c e d b) = true →
      exec (.acvt c e d b) s = .next (s.issue (.acvt c e d b) (o.res e (ACvt.wd c) (if ACvt.rounds c then v.out o.srng else none))))

/-! ## Cluster -/

/-- R281 to R283, R288: a buffer operation with a legal descriptor, an unpoisoned operand and a readable TCM range stands outstanding, and
its request reaches the controller three cycles later; the predicate of a TCM form is cleared until then. -/
def Obligations.BufferOperationFires : Prop :=
  ∀ (s : State) (d : PReg) (n : Fin 8),
    let b := s.bufOf n
    let k := s.fclus.bufd b
    let pa := fun a : SSrc => s.fctx.tcmPa (s.ss a).bits.toNat
    let legal := fun vec : Bool => s.bufOk k vec = true
    let free := fun (tw : Option PReg) (put : Bool) (t : State) => if tw.isSome && !s.slotFree (clusOf s.cur) b put
      then t.onTile fun u => { u with units := { u.units with mem := s.clock + 1 } } else t
    let ask := fun (tw : Option PReg) (put : Bool) (x : Iss) =>
      { x with edit := fun t => (free tw put t).later 3 (.bufferRequest s.cur s.tile.nextId) }
    (∀ (tw : Option PReg) (i : BSrc → Instr), (tw = none ∧ i = fun x => .bput d n x) ∨ (∃ pc, tw = some pc ∧ i = fun x => .trybput d n x pc) →
      (∀ v, s.opReady (i (.vec v)) = true → unpoisoned [(s.vs v).payload] → legal true →
        exec (i (.vec v)) s = .next (s.issue (i (.vec v))
          (ask tw true { Iss.zero with act := .bput d b true (some (leBytes 256 (s.vs v).bits.toNat)) 0 256 tw, now := [.p d false] })))
      ∧ (∀ a, s.opReady (i (.tcm a)) = true → unpoisoned [(s.ss a).payload] → legal false → s.fctx.tcmOk (s.ss a).bits.toNat (bufLen k) = true →
        s.spBad s.cur .tcm (pa a) (bufLen k) = false →
        exec (i (.tcm a)) s = .next (s.issue (i (.tcm a))
          (ask tw true { Iss.zero with act := .bput d b false none (pa a) (bufLen k) tw, now := [.p d false] }))))
    ∧ (∀ (tw : Option PReg) (i : BDst → Instr), (tw = none ∧ i = fun x => .bget x n) ∨ (∃ pc, tw = some pc ∧ i = fun x => .trybget x n pc) →
      (∀ v, s.opReady (i (.vec v)) = true → legal true →
        exec (i (.vec v)) s = .next (s.issue (i (.vec v)) (ask tw false { Iss.zero with act := .bget (.vec v) b 0 256 tw })))
      ∧ (∀ a, s.opReady (i (.tcm d a)) = true → unpoisoned [(s.ss a).payload] → legal false → s.fctx.tcmOk (s.ss a).bits.toNat (bufLen k) = true →
        exec (i (.tcm d a)) s = .next (s.issue (i (.tcm d a))
          (ask tw false { Iss.zero with act := .bget (.tcm d a) b (pa a) (bufLen k) tw, now := [.p d false] }))))
    ∧ (∀ empty, s.opReady (.bwait d n empty) = true →
      exec (.bwait d n empty) s = .next (s.issue (.bwait d n empty)
        { waitRes (.bwait d b empty) d with edit := fun t => t.atEnd (.bufferRequest s.cur s.tile.nextId) }))
    ∧ (s.opReady (.cbar d) = true →
      exec (.cbar d) s = .next (s.issue (.cbar d) (waitRes (.cbar d (nfld (s.bmap s.cur s.fire.ctx).toNat 57 3) false false) d)))

/-- R284, R285: an entry sent to a neighbour takes a link credit and is on its way; one received leaves its queue and its credit returns. A twin
without a credit or an entry changes nothing but its status. -/
def Obligations.NeighbourLinkCompletes : Prop :=
  (∀ (s : State) (dir : Fin 4) (a : XSrc) (g : TagSrc),
     let tag : BitVec 8 := match g with | .imm t => t | .reg b => (s.ss b).bits.setWidth 8
     let pt := match g with | .imm _ => none | .reg b => (s.ss b).payload
     let pa := match a with | .s x => (s.ss x).payload | .pair x => (s.ps x).payload | .k x => (s.ks x).payload | .v x => (s.vs x).payload
     unpoisoned [pa, pt] →
     let es : List Entry := match a with
       | .s x => [{ data := (s.ss x).bits.setWidth 512, tag := tag, w := 0, p := false }]
       | .pair x => [{ data := (s.ps x).bits.setWidth 512, tag := tag, w := 1, p := false }]
       | .k x => [{ data := (s.ks x).bits.setWidth 512, tag := tag, w := 2, p := false }]
       | .v x => (List.range 4).map fun i => { data := (s.vs x).bits.extractLsb' (512 * i) 512, tag := tag, w := 3, p := false }
     let go := fun t : State => t.linkSend s.fire.ctx dir (s.tile.holdIds s.fire.ctx) ((XSrc.time a).2 - 1) es
     (s.opReady (.nsend dir a g) = true →
       exec (.nsend dir a g) s = .next (s.issue (.nsend dir a g) { Iss.res [] true 0 none with edit := go }))
     ∧ ∀ pc : PReg, s.opReady (.trynsend dir a g pc) = true →
       exec (.trynsend dir a g pc) s = .next (s.issue (.trynsend dir a g pc)
         (if s.tile.ncred[dir] < es.length then .res [.p pc false] false 0 none else { Iss.res [.p pc true] true 0 none with edit := go })))
  ∧ (∀ (s : State) (dir : Fin 4) (x : XDst) (e e1 e2 e3 : Entry) (rest : List Entry),
       let es := if XDst.n x = 4 then [e, e1, e2, e3] else [e]
       s.tile.nq[dir] = es ++ rest → (∀ y ∈ es, y.p = false) → (∀ y ∈ s.tile.nqBad, y.1 = dir → es.length ≤ y.2) →
       let n := match x with | .s _ => 64 | .pair _ => 128 | .k _ => 256 | .v _ => 512
       let fwd := fun (c : Chan) (w : BitVec 2) =>
         [Wr.eg c (es.map fun y => { data := (y.data.setWidth n).setWidth 512, tag := y.tag, w := w, p := false })]
       let wr : List Wr := match x with
         | .s (.reg r) => [.s r (e.data.setWidth 64) false] | .s (.chan c) => fwd c 0 | .s (.sys q) => [.sys q (e.data.setWidth 64)]
         | .pair (.pair m) => [.s (pairLo m) (e.data.setWidth 64) false, .s (pairHi m) (e.data.extractLsb' 64 64) false] | .pair (.chan c) => fwd c 1
         | .k (.reg r) => [.k r (e.data.setWidth 256) false] | .k (.chan c) => fwd c 2
         | .v (.reg r) => [.v r (e3.data ++ e2.data ++ e1.data ++ e.data) false] | .v (.chan c) => fwd c 3
       let rc := es.any fun y => y.data.setWidth n != 0
       let take := fun t : State => t.linkTake dir es.length
       (s.opReady (.nrecv x dir) = true →
         exec (.nrecv x dir) s = .next (s.issue (.nrecv x dir)
           { Iss.res wr rc 0 none with hard := (match x with | .s (.sys _) => true | _ => false), edit := take }))
       ∧ ∀ pc : PReg, s.opReady (.trynrecv x dir pc) = true →
         exec (.trynrecv x dir pc) s = .next (s.issue (.trynrecv x dir pc) { Iss.res (wr ++ [.p pc true]) true 0 none with edit := take }))
  ∧ ∀ (s : State) (dir : Fin 4) (x : XDst) (pc : PReg), (s.tile.nq[dir]).length < XDst.n x → s.opReady (.trynrecv x dir pc) = true →
      exec (.trynrecv x dir pc) s = .next (s.issue (.trynrecv x dir pc) (.res [.p pc false] false 0 none))

/-! ## Global accesses and order -/

/-- R362 to R367: a global access with an unpoisoned base and data and a canonical, aligned address goes out to its home. -/
def Obligations.GlobalAccessFires : Prop :=
  ∀ (s : State) (m : MAddr), unpoisoned [s.basePl m] →
    let a := s.maddr m
    let ok := fun (align : Nat) => 0 ≤ a ∧ a < 2 ^ 48 ∧ a % (align : Int) = 0
    let acc := fun (op : MemOp) (n : Nat) => accRes m .glb op a n []
    (∀ d, s.opReady (.ldg m d) = true → ok (LdDst.bytes d) → exec (.ldg m d) s = .next (s.issue (.ldg m d) (acc (.ld d) (LdDst.bytes d))))
    ∧ (∀ x, unpoisoned [(s.stVal x).2] → s.opReady (.stg m x) = true → ok (StSrc.bytes x) →
      exec (.stg m x) s = .next (s.issue (.stg m x) (acc (.st (s.stVal x).1) (StSrc.bytes x))))
    ∧ (∀ d, s.opReady (.vldg m d) = true → ok 16 → exec (.vldg m d) s = .next (s.issue (.vldg m d) (acc (.vld d) 256)))
    ∧ (∀ v, unpoisoned [(s.vs v).payload] → s.opReady (.vstg m v) = true → ok 16 →
      exec (.vstg m v) s = .next (s.issue (.vstg m v) (acc (.st (leBytes 256 (s.vs v).bits.toNat)) 256)))
    ∧ (∀ o d x, unpoisoned [(s.ss x).payload] → s.opReady (.amo m o d x) = true → ok 8 →
      exec (.amo m o d x) s = .next (s.issue (.amo m o d x) (acc (.atom d o (s.ss x).bits) 8)))
    ∧ (∀ d x, unpoisoned [(s.ps x).payload] → s.opReady (.cas m d x) = true → ok 8 →
      exec (.cas m d x) s
        = .next (s.issue (.cas m d x) (acc (.cas d ((s.ps x).bits.setWidth 64) ((s.ps x).bits.extractLsb' 64 64)) 8)))
    ∧ (∀ d x, unpoisoned [(s.ss x).payload] → s.opReady (.aincBound m d x) = true → ok 8 →
      exec (.aincBound m d x) s = .next (s.issue (.aincBound m d x) (acc (.binc d (s.ss x).bits) 8)))

/-- R331, R369 to R373: fences, order tokens, joins and prefetches. A fence at ctx scope ends at once; a wait for a token whose publications are
complete sets its predicate at once. -/
def Obligations.OrderingCompletes : Prop :=
  ∀ (s : State) (d : PReg),
    (∀ sc, s.opReady (.fence sc) = true →
      exec (.fence sc) s = .next (s.issue (.fence sc) (if sc = .ctx then .zero else { Iss.zero with act := .fence sc })))
    ∧ (∀ n, s.opReady (.otpub n) = true → exec (.otpub n) s = .next (s.issue (.otpub n) { Iss.zero with act := .otpub n.val }))
    ∧ (∀ l k, s.opReady (.otpubCirc l k) = true →
      exec (.otpubCirc l k) s = .next (s.issue (.otpubCirc l k)
        (if s.tile.route l % 4 = 1 ∨ s.tile.route l % 4 = 2 then { Iss.zero with act := .circ l k }
         else .trap { StopInfo.mk0 0x17#8 s.fire.slot.toNat s.clock with chlab := l.setWidth 8 })))
    ∧ (∀ n : Fin 16, let k := s.tile.tokFired s.fctx n.val
      s.opReady (.otwait d n) = true →
      (∀ t, s.tile.taskOf s.fctx = some t → t.met n.val k = true) →
      exec (.otwait d n) s = .next (s.issue (.otwait d n) (.res [.p d true] true 0 none)))
    ∧ (∀ (n : Fin 16) t, let k := s.tile.tokFired s.fctx n.val
      s.opReady (.otwait d n) = true → s.tile.taskOf s.fctx = some t → t.met n.val k = false →
      exec (.otwait d n) s = .next (s.issue (.otwait d n) (waitRes (.otwait d n.val k) d)))
    ∧ (∀ mask, s.opReady (.join d mask) = true → exec (.join d mask) s = .next (s.issue (.join d mask) (waitRes (.join d mask) d)))
    ∧ (∀ b off a, unpoisoned [(s.fctx.s b).payload, (s.ss a).payload] → s.opReady (.pfg b off a) = true →
      exec (.pfg b off a) s = .next (s.issue (.pfg b off a) (reqRes (.pfg b off a) [(s.fctx.s b).bits, (s.ss a).bits] [])))

/-! ## Requests -/

/-- R374 to R384: a task request with unpoisoned operands goes out with them; one with a predicate result clears the predicate until the
answer.

R504 to R510: the fabric forms. A count of 0 sends nothing; a wrong route kind stops with cause 0x17, a group number out of range with
cause 0x23.

R443 to R453: a system form with unpoisoned operands inside their ranges goes out with them; an operand with a bit above its range, a
reserved configuration address or an absent physical word stops the context with cause 0x22 and that operand. -/
def Obligations.RequestsFire : Prop :=
  (∀ (s : State) (d : SDst) (r : SReg) (p pc : PReg) (a b c : SSrc),
     unpoisoned [(s.ss a).payload, (s.ss b).payload, (s.ss c).payload] →
     let x := (s.ss a).bits
     let y := (s.ss b).bits
     let z := (s.ss c).bits
     (∀ q ∈ [(Instr.tspawn r a b c, [x, y, z], ([] : List Wr)), (.trytspawn r a b c pc, [x, y, z], []), (.tdec a, [x], []),
             (.tinc p a b, [x, y], [.p p false]), (.tstatus d a, [x], []), (.tcancel p a b, [x, y], [.p p false]), (.tparam d a, [x], []),
             (.tbound d, [], [])],
       s.opReady q.1 = true → exec q.1 s = .next (s.issue q.1 (reqRes q.1 q.2.1 q.2.2)))
     ∧ (x.toNat % 64 = 0 → s.fctx.tcmOk x.toNat 64 = true → s.spBad s.cur .tcm (s.fctx.tcmPa x.toNat) 64 = false →
       let ws := (List.range 8).map fun k => BitVec.ofNat 64 (leNat (s.spBytes s.cur .tcm (s.fctx.tcmPa x.toNat + 8 * k) 8))
       ∀ i ∈ [Instr.tenq d a, .trytenq d a pc], s.opReady i = true →
         exec i s = .next (s.issue i { reqRes i ws [] with edit := fun t => t.spFix s.cur .tcm (s.fctx.tcmPa x.toNat) 64 })))
  ∧ (∀ (s : State) (d : SDst) (p pc : PReg) (a b : SSrc), unpoisoned [(s.ss a).payload, (s.ss b).payload] →
       let x := (s.ss a).bits
       let y := (s.ss b).bits
       let stop := fun (c : BitVec 8) => StopInfo.mk0 c s.fire.slot.toNat s.clock
       let grp := fun (i : Instr) (vals : List Word) (now : List Wr) => { Iss.zero with act := .group i vals, now := now }
       (∀ (l : BitVec 7) (tag : BitVec 8), let e : Entry := { data := x.setWidth 512, tag := tag, w := 0, p := false }
         (s.opReady (.rsend l (.s a) (.imm tag)) = true → exec (.rsend l (.s a) (.imm tag)) s = .next (s.issue (.rsend l (.s a) (.imm tag))
           (if s.tile.route l % 4 = 1 then { Iss.zero with act := .rsend l [e] none false, rc := some true } else .trap { stop 0x17#8 with chlab := l.setWidth 8 })))
         ∧ (s.opReady (.tryrsend l (.s a) (.imm tag) pc) = true → exec (.tryrsend l (.s a) (.imm tag) pc) s = .next (s.issue (.tryrsend l (.s a) (.imm tag) pc)
           (if s.tile.route l % 4 = 1 then { Iss.zero with act := .rsend l [e] (some pc) false, rc := some true } else .trap { stop 0x17#8 with chlab := l.setWidth 8 }))))
       ∧ (∀ (l : BitVec 7) (m : MAddr), unpoisoned [s.basePl m] → s.opReady (.rstore l m a) = true →
         exec (.rstore l m a) s = .next (s.issue (.rstore l m a)
           (if ¬(s.tile.route l % 4 = 2 ∨ s.tile.route l % 4 = 3) then .trap { stop 0x17#8 with chlab := l.setWidth 8 }
            else if s.maddr m % 8 ≠ 0 then .trap { stop 0x18#8 with loc := BitVec.ofInt 64 (s.maddr m) }
            else { Iss.zero with act := .mem { sp := .glb, op := .st (leBytes 8 x.toNat), addr := s.maddr m, size := 8, ord := m.ord, scope := m.scope, label := some l, pa := [], sent := false, home := 0 } })))
       ∧ (s.opReady (.rdec a b) = true → exec (.rdec a b) s = .next (s.issue (.rdec a b)
           (if 65536 ≤ y.toNat then .trap { stop 0x18#8 with loc := y } else if y = 0 then .zero else reqRes (.rdec a b) [x, y] [])))
       ∧ (s.opReady (.pbar p b) = true → exec (.pbar p b) s = .next (s.issue (.pbar p b)
           (if y.toNat < 256 then grp (.pbar p b) [y] [.p p false] else .trap (stop 0x23#8))))
       ∧ (∀ o, s.opReady (.pcomb o d a b) = true → exec (.pcomb o d a b) s = .next (s.issue (.pcomb o d a b)
           (if y.toNat < 256 then grp (.pcomb o d a b) [y, x] [] else .trap (stop 0x23#8))))
       ∧ (s.opReady (.pbcast d a b) = true → exec (.pbcast d a b) s = .next (s.issue (.pbcast d a b)
           (if y.toNat < 512 then grp (.pbcast d a b) [y, x] [] else .trap (stop 0x23#8))))
       ∧ (s.opReady (.pabort b) = true → exec (.pabort b) s = .next (s.issue (.pabort b)
           (if y.toNat < 256 then
              .ed fun t => t.atEnd (.abortMarker (y.setWidth 8) s.cur (s.fire.ctx.val + 8 * tileIn s.cur + 2048 * dieOf s.cur))
            else .trap (stop 0x23#8)))))
  ∧ (∀ (s : State) (d : SDst) (p : PReg) (v : VReg) (a b c : SSrc) (n : Fin 4) (g : Fin 3),
       unpoisoned [(s.ss a).payload, (s.ss b).payload, (s.ss c).payload] →
       let x := (s.ss a).bits
       let y := (s.ss b).bits
       let z := (s.ss c).bits
       let bad := fun w : Word => Iss.trap { StopInfo.mk0 0x22#8 s.fire.slot.toNat s.clock with loc := w }
       let phys := x.toNat < 2 ^ 48 ∧ x.toNat % 8 = 0 ∧ (memHome x.toNat).isSome = true
       (∀ q ∈ [(Instr.cfgr d a, [x], ([] : List Wr)), (.cfgw p a b, [x, y], [.p p false])], s.opReady q.1 = true →
         exec q.1 s = .next (s.issue q.1 (if (cfgReg x.toNat).isSome then reqRes q.1 q.2.1 q.2.2 else bad x)))
       ∧ (∀ i ∈ [Instr.vfsetEnable d a b, .vfsetTeardown d a b], s.opReady i = true →
         exec i s = .next (s.issue i (if 32 ≤ x.toNat then bad x else if 2 ≤ y.toNat then bad y else reqRes i [x, y] [])))
       ∧ (s.opReady (.quota d a b) = true → exec (.quota d a b) s = .next (s.issue (.quota d a b) (if 64 ≤ x.toNat then bad x else reqRes (.quota d a b) [x, y] [])))
       ∧ (∀ i ∈ [Instr.wtouch d a b, .wresMobile d a b, .wresFixed d a b, .wresUp d a b, .wresDown d a b, .wresQuery n d a b],
         s.opReady i = true → exec i s = .next (s.issue i (if 16 ≤ x.toNat then bad x else reqRes i [x, y] [])))
       ∧ (s.opReady (.csave d a b) = true → exec (.csave d a b) s = .next (s.issue (.csave d a b) (if 2 ≤ y.toNat then bad y else reqRes (.csave d a b) [x, y] [])))
       ∧ (s.opReady (.crest d a) = true → exec (.crest d a) s = .next (s.issue (.crest d a) (reqRes (.crest d a) [x] [])))
       ∧ (s.opReady (.ctxw d a b c) = true → exec (.ctxw d a b c) s = .next (s.issue (.ctxw d a b c) (reqRes (.ctxw d a b c) [x, y, z] [])))
       ∧ (s.opReady (.xinv g p a b c) = true → exec (.xinv g p a b c) s = .next (s.issue (.xinv g p a b c)
           (if 16 ≤ x.toNat then bad x else if 512 ≤ z.toNat then bad z else reqRes (.xinv g p a b c) [x, y, z] [.p p false])))
       ∧ (s.opReady (.fqpop v a) = true → exec (.fqpop v a) s = .next (s.issue (.fqpop v a) (if 16 ≤ x.toNat then bad x else reqRes (.fqpop v a) [x] [])))
       ∧ (s.opReady (.mtret d a b) = true → exec (.mtret d a b) s = .next (s.issue (.mtret d a b) (reqRes (.mtret d a b) [x, y] [])))
       ∧ (phys → (s.opReady (.srd d a) = true → exec (.srd d a) s = .next (s.issue (.srd d a) (reqRes (.srd d a) [x] [])))
         ∧ (s.opReady (.swr p a b) = true → exec (.swr p a b) s = .next (s.issue (.swr p a b) (reqRes (.swr p a b) [x, y] [.p p false]))))
       ∧ (¬phys → (s.opReady (.srd d a) = true → exec (.srd d a) s = .next (s.issue (.srd d a) (bad x)))
         ∧ (s.opReady (.swr p a b) = true → exec (.swr p a b) s = .next (s.issue (.swr p a b) (bad x)))))

/-! ## The machine -/

/-- R12, R40, R32: right after reset every slot of every rule store is zero, so that no rule fires; every context is FREE, the rotation point and CYCLE are 0.
That memory reads as zero is the model's choice (log entry 5). -/
def Obligations.ResetState : Prop :=
  State.reset.memWf ∧ State.reset.pick = none ∧ State.reset.clock = 0
  ∧ ∀ n, (∀ k, mget 0 (State.reset.tileN n).store k = 0) ∧ (State.reset.tileN n).r.crot = 0
    ∧ ∀ c, ((State.reset.tileN n).ctx c).st = .free

/-- R40 to R62: worked slots of the spec are read as the rules they stand for (an `add` with its whole guard, a `trysend`, a `vfma`, an `mma`, a `cpy`, a
`camo`, a `handover`, an `ainc.bound`, a `join`, a `pcomb` and a `cfgw`); a slot whose V is 0 holds no rule. -/
def Obligations.DecodedWords : Prop :=
  decodeSlot 0xb22dc023018402000100090c48000000#128 = .ok (some
    { pri := 3, t0 := some ⟨false, 2⟩, t1 := some ⟨true, 7⟩, t2 := none, cond := .count 3 0, pw0 := some ⟨.clear, 2⟩, pw1 := none,
      dq := true, ho := false, clr := false, op := .add (.i .i64) false (.reg 4) (.chan 3) (.reg 9) })
  ∧ decodeOp 0x3201a61806902100#64 = .ok (.trysend 3 (.s (.reg 6)) (.imm 0x21#8) 9)
  ∧ decodeOp 0x430049092a690001#64 = .ok (.vfma .fma .f32 .rn .all (.reg 4) (.chan 2) (.reg 5) (.reg 6))
  ∧ decodeOp 0x8003400010c00000#64 = .ok (.mma
      { fmt := .bf16, blk := { acc := 1, mt := 0, nt := 0, ro := 0, co := 0 }, kt := 0, sa := 2, sb := 3, asp := false, bsp := false, rm := .dyn,
        za := false, wt := 0, pt := 0 })
  ∧ decodeOp 0x99004310a0000200#64 = .ok (.cpy { dsp := .csp, ssp := .tcm, sd := 6, ss := 4, sl := 5, label := 0, wt := 0, pt := 2 })
  ∧ decodeOp 0xa40912102a000040#64 = .ok (.camo { base := 4, off := 0x40#22, scope := .clus, ord := .none } (.reg 9) (.binc (.reg 5)))
  ∧ decodeOp 0x3a00000000000000#64 = .ok .handover
  ∧ decodeOp 0xb6000e081b000008#64 = .ok (.aincBound { base := 2, off := 8#22, scope := .die, ord := .none } (.reg 7) (.reg 3))
  ∧ decodeOp 0xba00c20000000001#64 = .ok (.join 1 0x01#8)
  ∧ decodeOp 0xcc04101448000000#64 = .ok (.pcomb .fadd (.reg 8) (.reg 5) (.reg 9))
  ∧ decodeOp 0xd100ca1030000000#64 = .ok (.cfgw 5 (.reg 4) (.reg 6))
  ∧ decodeSlot 0#128 = .ok none ∧ ∀ x : SlotWord, x.getLsbD 127 = false → x ≠ 0 → decodeSlot x = .bad 1

/-- R40 to R62: a slot that holds the encoding of a well-formed rule is read back as that rule, with every field. -/
def Obligations.RuleSlotRoundTrip : Prop :=
  ∀ (r : Rule) (x : SlotWord), r.wf = true → encodeRule r = some x → decodeSlot x = .ok (some r)

/-- R41, R43: the layouts of a predicate term and of a predicate write; one that is not enabled must be zero. -/
def Obligations.PredicateFieldLayouts : Prop :=
  (∀ x : BitVec 6, dTerm x = if x.getLsbD 5 then .ok (some ⟨x.getLsbD 4, Fin.ofNat 16 (x.toNat % 16)⟩) else if x = 0 then .ok none else .bad 1)
  ∧ ∀ x : BitVec 7, dPw x = if x.getLsbD 6
      then .ok (some ⟨match x.toNat / 16 % 4 with | 0 => .clear | 1 => .set | 2 => .rc | _ => .toggle, Fin.ofNat 16 (x.toNat % 16)⟩)
      else if x = 0 then .ok none else .bad 1

/-- R13: the guard holds when every enabled term matches and the resource condition holds; polarity 0 asks for a predicate that is set, 1 for one that is clear. -/
def Obligations.GuardHolds : Prop :=
  ∀ (r : Rule) (t : Tile) (c : Fin 8), guardHolds r t c = true ↔
    (∀ x ∈ [r.t0, r.t1, r.t2], ∀ y, x = some y → (t.ctx c).p y.p = !y.pol) ∧ condHolds r.cond t c = true

/-- R12, R15, R31: what the picker chooses is a rule of a RUNNING context, from a slot in its range whose V is 1 (a rule trapped on
another tile apart), eligible; no eligible rule ranks above it under keys 1 and 2. -/
def Obligations.PickerChoosesEligibleRule : Prop :=
  ∀ (s : State) (c : Cand), s.pick = some c →
    (s.tile.ctx c.ctx).st = .running
    ∧ slotRule (mget 0 s.tile.store c.slot) = some c.rule ∧ (mget 0 s.tile.store c.slot).getLsbD 127 = true
    ∧ ((s.tile.ctx c.ctx).ctl.first = none →
        (s.tile.ctx c.ctx).cfg.rbase.toNat ≤ c.slot ∧ c.slot ≤ (s.tile.ctx c.ctx).cfg.rlast.toNat)
    ∧ s.eligible c.rule c.ctx c.slot = true
    ∧ ∀ (q : Fin 8) (n : Nat) (r : Rule), (s.tile.ctx q).picks = true → (s.tile.ctx q).ctl.first = none →
        (s.tile.ctx q).cfg.rbase.toNat ≤ n → n ≤ (s.tile.ctx q).cfg.rlast.toNat → slotRule (mget 0 s.tile.store n) = some r →
        s.eligible r q n = true → (if (s.tile.ctx q).left != 0 && !(s.tile.ctx q).ctl.yielded then 8 else 0) + r.pri.val ≤ c.key

/-- A step at a fire runs the rule the picker has chosen: the operation that its slot decodes to is executed after CLR, and answers a next
state; DQ, HO, the draw weight and the rotation follow (R28, R32, R168). A step with an event at the head of the agenda runs the agent's
instruction on it. -/
def Obligations.StepRunsDecodedRule : Prop :=
  (∀ (s : State) (c : Cand), s.agenda = [] → s.stage = .fire → s.pick = some c → s.tile.marks.contains c.slot = false →
    slotRule (mget 0 s.tile.store c.slot) = some c.rule
    ∧ ∃ t, exec c.rule.op (s.atFire c) = .next t ∧ step s = .next (s.fired t c))
  ∧ ∀ (s : State) (e : Ev) (l : List Ev), s.agenda = e :: l → step s = exec e.instr { s with agenda := l, ev := e }

/-- The machine never stops: every state has a next one. -/
def Obligations.StepNeverStops : Prop := ∀ s : State, ∃ t, step s = .next t

/-- R28, R113: a fire keeps all of memory: physical memory, the TCM of its tile and every CSP; the tile in focus stays, and so do the other
tiles of the module. -/
def Obligations.FireKeepsMemory : Prop :=
  ∀ (i : Instr) (s t : State), i.isEvent = false → exec i s = .next t →
    t.mem = s.mem ∧ t.tile.tcm = s.tile.tcm ∧ t.clusters = s.clusters ∧ t.cur = s.cur
    ∧ t.others = s.others

/-- Every step that is not an agent's event (a fire, an idle cycle, the passage to the next tile or the next cycle) keeps the canonical form of
every memory of the machine. -/
def Obligations.RuleStepKeepsMemoryForm : Prop :=
  ∀ s t : State, s.agenda = [] → s.memWf → step s = .next t → t.memWf

/-- The frame of every rule operation at its fire: registers and predicates that are no destination and that no predicate write of the
rule names are unchanged, presence included; FLAGS only gains flags unless it is a destination (R103), and the other contexts' registers and the
accumulators that the operation does not use stay. -/
def Obligations.FireKeepsOtherRegisters : Prop :=
  ∀ (i : Instr) (s t : State), i.isEvent = false → exec i s = .next t →
    let f := i.footOf s.fctx.regs.amode
    let a := (s.tile.ctx s.fire.ctx).regs
    let b := (t.tile.ctx s.fire.ctx).regs
    (∀ n : SReg, Res.s n ∉ f.wr → b.s[n] = a.s[n]) ∧ (∀ n : VReg, Res.v n ∉ f.wr → b.v[n] = a.v[n])
    ∧ (∀ n : KReg, Res.k n ∉ f.wr → b.k[n] = a.k[n])
    ∧ (∀ n : PReg, Res.p n ∉ f.wr → (∀ w ∈ s.fire.pws, w.p ≠ n) → b.p.getLsbD n.val = a.p.getLsbD n.val)
    ∧ (Res.flags ∉ f.wr → ∃ x, b.flags = a.flags ||| x) ∧ (Res.amode ∉ f.wr → b.amode = a.amode)
    ∧ (Res.srng ∉ f.wr → b.srng = a.srng)
    ∧ (∀ c, c ≠ s.fire.ctx → (t.tile.ctx c).regs = (s.tile.ctx c).regs)
    ∧ ∀ n : Fin 4, (∀ x ∈ i.accUse, s.fctx.accOf x ≠ n) → t.tile.acc[n] = s.tile.acc[n]

/-- R28, R29, R112, R103: a result of a one-cycle operation is in its register, with presence set, at the end of the fire cycle; its flags are ORed in, and
the rule's predicate writes follow it; every other register, memory and the other contexts stay. -/
def Obligations.OneCycleResultIsWritten : Prop :=
  ∀ (s : State) (i : Instr) (r : SReg) (v : Word) (rc : Bool) (fl : Fl), i.lat ≤ 1 →
    let t := s.issue i (.res (wrS (.reg r) (clean v)) rc fl none)
    let a := s.fctx.regs
    let b := t.fctx.regs
    b.s[r] = { bits := v, full := true, pois := false } ∧ (∀ q, q ≠ r → b.s[q] = a.s[q]) ∧ b.v = a.v ∧ b.k = a.k
    ∧ b.flags = a.flags ||| fl ∧ b.amode = a.amode ∧ b.srng = a.srng
    ∧ b.p = (applyPws s.fire.pws rc a).p
    ∧ (∀ c, c ≠ s.fire.ctx → t.tile.ctx c = s.tile.ctx c) ∧ t.tile.ops = s.tile.ops ∧ t.mem = s.mem ∧ t.tile.tcm = s.tile.tcm

/-- R15, R28, R133: an operation of more than one cycle leaves its destination as it was, writes it L − 1 cycles later, and keeps the
destination under the operand interlock until then. -/
def Obligations.LongOperationWaits : Prop :=
  ∀ (s : State) (i : Instr) (r : SReg) (v : Word) (rc : Bool) (fl : Fl), 1 < i.lat →
    let x := Iss.res (wrS (.reg r) (clean v)) rc fl none
    let t := s.issue i x
    t.fctx.regs.s = s.fctx.regs.s ∧ t.fctx.regs.flags = s.fctx.regs.flags
    ∧ (∃ o, t.tile.ops = s.tile.ops ++ [o] ∧ o.id = s.tile.nextId ∧ o.ctx = s.fire.ctx ∧ o.act = .plain ∧ o.due = some (s.clock + i.lat - 1)
        ∧ o.wr = [.s r v false] ∧ o.fl = fl ∧ o.poison = none)
    ∧ (Res.s r ∈ (i.footOf s.fctx.regs.amode).wr → t.tile.locked s.fire.ctx (.s r) = true)
    ∧ t.mem = s.mem ∧ t.tile.tcm = s.tile.tcm

/-- R28, R69, R103, R112, R113 item 5: at its writeback an operation writes its result, its source-10 predicate writes and its flags; one whose poisoned result
would reach a predicate or a short system register writes none of them and stops its context with cause 0x01 and the payload; it is then outstanding no longer.
One that would set stochastic rounding in AMODE on a Bisque tile (`State.rsHeld`) writes nothing: its context takes the migrate trap at the end of the cycle. -/
def Obligations.OperationWritesBack : Prop :=
  ∀ (s : State) (o : Op) (d : Nat), s.ev = .operationWriteback s.cur o.id → s.tile.opN o.id = some o → o.act = .plain → o.due = some d →
    d ≤ s.clock → s.tile.matTurn o = true →
    let a := s.tile.ctx o.ctx
    (s.rsHeld o = true → a.ctl.ending = .none → ∃ t, exec .operationWriteback s = .next t ∧ t.tile.ctx o.ctx = a
      ∧ (s.clock, Ev.lateMigrateTrap s.cur o.ctx o.slot) ∈ t.queue) ∧ (s.rsHeld o = false → ∃ t, exec .operationWriteback s = .next t ∧ (∀ q ∈ t.tile.ops, q.id ≠ o.id)
      ∧ (∀ r v p, o.wr = [.s r v p] → o.trapped = none → o.srng = none →
          let b := t.tile.ctx o.ctx
          b.regs.s[r] = { bits := v, full := true, pois := p } ∧ (∀ q, q ≠ r → b.regs.s[q] = a.regs.s[q]) ∧ b.regs.v = a.regs.v
          ∧ b.regs.k = a.regs.k ∧ b.regs.p = (applyPws o.pws (o.rc.getD false) a.regs).p ∧ b.regs.flags = a.regs.flags ||| o.fl
          ∧ b.regs.amode = a.regs.amode ∧ b.regs.srng = a.regs.srng)
      ∧ (∀ pl, o.trapped = some pl → (∀ w ∈ o.wr, Wr.isFlags w = false) → (∀ w ∈ o.pws, pwIsRc w = true) →
          let b := t.tile.ctx o.ctx
          b.regs = { a.regs with flags := a.regs.flags ||| o.fl }
          ∧ (a.ctl.ending = .none → b.ctl.ending = .stop (StopInfo.poison o.slot.toNat pl s.clock)))
      ∧ t.mem = s.mem ∧ t.tile.tcm = s.tile.tcm ∧ t.clusters = s.clusters)

/-- R237, R240: when a load or a store of TCM is performed, a load's register takes the bytes at its physical address, extended as its type says, and no
byte changes; a store changes exactly its own bytes. -/
def Obligations.TcmAccessIsPerformed : Prop :=
  ∀ (s : State) (o : Op) (m : MemAcc) (p : Nat), s.ev = .operationWriteback s.cur o.id → s.tile.opN o.id = some o → o.act = .mem m →
    m.sp = .tcm → m.pa = [p] → m.part = [] → s.ready o = true → Memory.wf s.tile.tcm = true →
    (∀ bs, m.op = .st bs → m.size = bs.length → (s.tile.ctx o.ctx).ctl.trapped = false →
      ∃ t, exec .operationWriteback s = .next t ∧ t.mem = s.mem ∧ t.clusters = s.clusters
        ∧ ∀ a, byteAt t.tile.tcm a = if p ≤ a ∧ a < p + bs.length then bs.getD (a - p) 0 else byteAt s.tile.tcm a)
    ∧ (∀ z r, m.op = .ld (.w z (.reg r)) → m.size = Sz.bytes z → hitsWord s.tile.tcmBad p (Sz.bytes z) = false →
      ∃ t, exec .operationWriteback s = .next t ∧ t.mem = s.mem ∧ t.clusters = s.clusters ∧ t.tile.tcm = s.tile.tcm
        ∧ (t.tile.ctx o.ctx).regs.s[r]
          = { bits := wrapTo (Sz.ity z) (leNat (readBytes s.tile.tcm p (Sz.bytes z))), full := true, pois := false })

/-- R87: an integer type is two's complement or plain binary; a result that does not fit wraps, or, with SAT, is clamped and raises SA if clamping changed it. -/
def Obligations.IntegerResultWrapsOrSaturates : Prop :=
  (∀ (t : ITy) (x : Word), srcVal t x = if ITy.signed t = true ∧ 2 ^ (t.width - 1) ≤ x.toNat % 2 ^ t.width
      then ((x.toNat % 2 ^ t.width : Nat) : Int) - 2 ^ t.width else ((x.toNat % 2 ^ t.width : Nat) : Int))
  ∧ ∀ (t : ITy) (x : Int),
    let lo : Int := if ITy.signed t then -2 ^ (t.width - 1) else 0
    let hi : Int := if ITy.signed t then 2 ^ (t.width - 1) - 1 else 2 ^ t.width - 1
    ((srcVal t (fit t false x).w - x) % 2 ^ t.width = 0 ∧ (fit t false x).fl = 0)
    ∧ srcVal t (fit t true x).w = max lo (min hi x) ∧ (fit t true x).fl = if lo ≤ x ∧ x ≤ hi then 0 else 32#6

/-- R255, R256: the tile at column X and row Y of a die lies at position 4·(Y mod 4) + X mod 4 of cluster 4·⌊Y / 4⌋ + ⌊X / 4⌋, and its
neighbours are one step away in its cluster's torus. -/
def Obligations.TorusNeighbours : Prop :=
  ∀ d x y : Nat, x < 16 → y < 12 →
    let n := 192 * d + 16 * y + x
    let at' := fun (i j : Nat) => 192 * d + 16 * (4 * (y / 4) + j % 4) + 4 * (x / 4) + i % 4
    clusOf n = 12 * d + 4 * (y / 4) + x / 4 ∧ posOf n = 4 * (y % 4) + x % 4
    ∧ neighbour n 0 = at' (x % 4) (y % 4 + 3) ∧ neighbour n 1 = at' (x % 4 + 1) (y % 4)
    ∧ neighbour n 2 = at' (x % 4) (y % 4 + 1) ∧ neighbour n 3 = at' (x % 4 + 3) (y % 4)

/-! ## Events of the agents -/

/-- R178, R180, R302, R307, R333, R504: what reaches a tile, and what leaves it. An accepted entry is appended and a stale one dropped and counted; a credit is
counted back; the head of a channel is transmitted for one credit, or its context stops for its label; an admitted window write changes exactly its bytes, and
a refused one none; an answer ends its operation. -/
def Obligations.TrafficEventsComplete : Prop :=
  ∀ s : State, s.winder.migs = [] → s.tile.fwd = [] →
    (∀ c ch gen h es, s.ev = .channelEntryArrival s.cur c ch gen h es none → s.badHdr (dieOf s.cur) h = false →
      let x := s.tile.ctx c
      (x.ib[ch]).bv = true → (s.tile.recent s.clock c).reset = none →
      ((x.ib[ch]).gen = gen → (x.inb[ch]).length + s.tile.takenNow s.clock c ch + es.length ≤ 8 →
        ∃ t, exec .channelEntryArrival s = .next t ∧ (t.tile.ctx c).inb[ch] = x.inb[ch] ++ es ∧ (t.tile.ctx c).regs = x.regs
          ∧ ∀ k : Chan, k ≠ ch → (t.tile.ctx c).inb[k] = x.inb[k])
      ∧ ((x.ib[ch]).gen ≠ gen →
        ∃ t, exec .channelEntryArrival s = .next t ∧ t.tile.ctx c = x ∧ t.tile.r.dropcnt = satInc s.tile.r.dropcnt es.length))
    ∧ (∀ c ch k, s.ev = .creditArrival s.cur c ch k → ((s.tile.ctx c).eb[ch]).bv = true →
      ∃ t, exec .creditArrival s = .next t
        ∧ ((t.tile.ctx c).eb[ch]).cred = BitVec.ofNat 4 (min 8 (((s.tile.ctx c).eb[ch]).cred.toNat + k)))
    ∧ (∀ dir k, s.ev = .linkCredit s.cur dir k → ∃ t, exec .creditArrival s = .next t ∧ t.tile.ncred[dir] = s.tile.ncred[dir] + k)
    ∧ (∀ c ch e es, s.ev = .egressTransmit c ch → s.egressMay c ch = true → (s.tile.ctx c).egr[ch] = e :: es →
      let b := (s.tile.ctx c).eb[ch]
      let dead := s.tile.dead.contains b.label.toNat
      (s.badLabel c b.label = false → (dead || rMod (s.tile.route b.label) == s.own || !s.tile.numberUsed s.tile.nextId) = true →
        ∃ t, exec .egressTransmit s = .next t ∧ (t.tile.ctx c).egr[ch] = es
          ∧ ((t.tile.ctx c).eb[ch]).cred = (if dead then b.cred else b.cred - 1) ∧ (t.tile.ctx c).regs = (s.tile.ctx c).regs
          ∧ (dead = true → t.tile.r.dropcnt = satInc s.tile.r.dropcnt 1))
      ∧ (s.badLabel c b.label = true → ∃ t, exec .egressTransmit s = .next t
        ∧ (t.tile.ctx c).ctl.ending = .stop { StopInfo.mk0 0x17#8 0 s.clock with chlab := b.label.setWidth 8 }))
    ∧ (∀ w h off bs who, s.ev = .windowWriteArrival s.cur w h off bs who → s.badHdr (dieOf s.cur) h = false → Memory.wf s.tile.tcm = true →
      let e := (reg s.tile.r.win w.val).toNat
      let p := (s.tile.ctx (Fin.ofNat 8 (nfld e 1 3))).tbase.toNat + nfld e 8 12 * 64 + off
      (winOk e h.tenant off bs.length = true → ∃ t, exec .windowWriteArrival s = .next t
        ∧ ∀ a, byteAt t.tile.tcm a = if p ≤ a ∧ a < p + bs.length then bs.getD (a - p) 0 else byteAt s.tile.tcm a)
      ∧ (winOk e h.tenant off bs.length = false → ∃ t, exec .windowWriteArrival s = .next t ∧ t.tile.tcm = s.tile.tcm
        ∧ t.tile.r.nackcnt = satInc s.tile.r.nackcnt 1 ∧ t.agenda = s.agenda ++ [.windowRefusal who (s.labelOf who) off bs.length]))
    ∧ (∀ id o label off n, s.ev = .windowRefusal (.op s.cur id) label off n → s.tile.opN id = some o → (s.tile.ctx o.ctx).ctl.ending = .none →
      ∃ t, exec .windowRefusal s = .next t ∧ (∀ q ∈ t.tile.ops, q.id ≠ id)
        ∧ (t.tile.ctx o.ctx).ctl.ending
          = .stop { StopInfo.mk0 0x16#8 o.slot.toNat s.clock with chlab := label.setWidth 8, loc := BitVec.ofNat 64 off, bytes := BitVec.ofNat 32 n })
    ∧ (∀ id o m, s.ev = .acknowledgementArrival (.op s.cur id) none false → s.tile.opN id = some o → o.act = .mem m → o.setsRs = false →
      ∃ t, exec .acknowledgementArrival s = .next t ∧ ∀ q ∈ t.tile.ops, q.id ≠ id)
    ∧ (∀ id o l es tw b, s.ev = .rsendRetry s.cur id → s.tile.opN id = some o → o.act = .rsend l es tw b → s.rsendMay o = true →
      rKind (s.tile.route l) = 1 → s.routeFailed o.ctx (s.tile.route l) = false →
      ∃ t, exec .rsendRetry s = .next t
        ∧ (s.tile.dead.contains l.toNat = false → t.tile.opN id = some { o with act := .rsend l es tw true })
        ∧ (s.tile.dead.contains l.toNat = true → t.tile.r.dropcnt = satInc s.tile.r.dropcnt es.length ∧ ∀ q ∈ t.tile.ops, q.id ≠ id))
    ∧ (∀ c idx h, s.ev = .circuitToken s.cur c idx h → s.badHdr (dieOf s.cur) h = false → (s.tile.ctx c).st ≠ .free → (s.tile.ctx c).arr[idx] < 65535 →
      ∃ t, exec .circuitToken s = .next t ∧ (t.tile.ctx c).arr[idx] = (s.tile.ctx c).arr[idx] + 1)

/-- R147, R149 to R151, R169, R235, R331, R357: what ends a wait. A watch is armed at the home of its word and, notified, sets its predicate and writes the observed
word; a sleep ends when its time has come; budgets are refilled; a task whose bound has run out is stopped with cause 0x20; `otpub` and `gbar` complete. -/
def Obligations.WaitEventsComplete : Prop :=
  ∀ s : State,
    (∀ c p w v, s.ev = .watchArm s.cur c p →
      (s.tile.ctx c).watches.find? (fun w => w.pred == p && !w.sent && decide (w.due ≤ s.clock)) = some w → s.watchWord s.cur c w = some v →
      w.sat v = false → ∃ t, exec .watchArm s = .next t ∧ (t.tile.ctx c).regs = (s.tile.ctx c).regs
        ∧ (t.tile.ctx c).watches = (s.tile.ctx c).watches.map fun y => if y.pred = p then { w with sent := true } else y)
    ∧ (∀ c p dst v w, s.ev = .watchNotify s.cur c p dst v →
      ((s.tile.recent s.clock c).off.toList ++ (s.tile.ctx c).watches).find?
        (fun w => w.pred == p && w.note.isSome && decide (w.due ≤ s.clock)) = some w →
      ((s.tile.ctx c).st = .running → (s.tile.ctx c).ctl.ending = .none → (s.tile.ctx c).ctl.first = none →
        ∃ t, exec .watchNotify s = .next t ∧ (w.f.dst ≠ none ∨ (t.tile.ctx c).regs.s = (s.tile.ctx c).regs.s)
          ∧ (t.tile.ctx c).p w.pred = true ∧ (t.tile.ctx c).ctl.asleep = none
          ∧ (∀ r, w.f.dst = some r → (t.tile.ctx c).regs.s[r] = { bits := v, full := true, pois := false })
          ∧ (t.tile.ctx c).watches = (s.tile.ctx c).watches.filter fun w => w.pred != p)
      ∧ ((s.tile.ctx c).st = .migrating →
        ∃ t, exec .watchNotify s = .next t ∧ (t.tile.ctx c).regs = (s.tile.ctx c).regs
          ∧ (t.tile.ctx c).ctl.held = (s.tile.ctx c).ctl.held ++ [⟨w, v⟩]))
    ∧ (∀ c p, s.ev = .watchDisarm s.cur c p →
      ∃ t, exec .watchDisarm s = .next t ∧ (t.tile.ctx c).watches = (s.tile.ctx c).watches.filter fun w => w.pred != p)
    ∧ (∀ c n, s.ev = .sleepTimerExpiry c → (s.tile.ctx c).ctl.asleep = some ⟨some n⟩ → n ≤ s.clock →
      ∃ t, exec .sleepTimerExpiry s = .next t ∧ (t.tile.ctx c).ctl.asleep = none)
    ∧ (s.ev = .drawRefill → ∃ t, exec .drawRefill s = .next t ∧ ∀ c, (s.tile.ctx c).st ≠ .free →
        (t.tile.ctx c).left = BitVec.ofNat 20 ((s.tile.ctx c).quota.toNat * s.capOf (dieOf s.cur) / 16) ∧ (t.tile.ctx c).ctl.yielded = false)
    ∧ (∀ r c, s.ev = .overrun r.die r.idx → r ∈ s.tile.overruns → (s.tile.ctx c).task = some r → (s.tile.ctx c).st = .running →
      (s.tile.ctx c).ctl.ending = .none →
      ∃ t, exec .overrun s = .next t ∧ (t.tile.ctx c).ctl.ending = .stop (StopInfo.mk0 0x20#8 0 s.clock))
    ∧ (∀ id o n, s.ev = .orderTokenComplete id → s.tile.opN id = some o → o.act = .otpub n → s.tile.settled o = true → o.setsRs = false →
      ∃ t, exec .orderTokenComplete s = .next t ∧ ∀ q ∈ t.tile.ops, q.id ≠ id)
    ∧ (∀ id o, s.ev = .gbarRelease id → s.tile.opN id = some o → s.gbarMet o = true → o.setsRs = false →
      ∃ t, exec .gbarRelease s = .next t ∧ ∀ q ∈ t.tile.ops, q.id ≠ id)

/-- R19, R33 to R35, R67, R143, R165, R348: a context that has ended stops: STOPPED with its code, SAVED, or FAULTED with what waits for ever dropped and its
task failed; a handover moves the channels, each bound egress channel with its marker, and the successor runs; a trapped rule starts a migration; a task whose
contexts have all stopped is RETIRING, and its contexts are released. R394 to R401: a migration whose contexts are quiet is given its destination, its stub opens
and closes, each flush token opens its label again, and the task runs on at its destination. -/
def Obligations.ContextEventsComplete : Prop :=
  ∀ s : State,
    (∀ c, s.ev = .contextStop c → s.stopMay c = true →
      (∀ code, (s.tile.ctx c).ctl.ending = .done code →
        ∃ t, exec .contextStop s = .next t ∧ (t.tile.ctx c).st = .stopped ∧ (t.tile.ctx c).code = code ∧ (t.tile.ctx c).regs = (s.tile.ctx c).regs)
      ∧ ((s.tile.ctx c).ctl.ending = .save → ∃ t, exec .contextStop s = .next t ∧ (t.tile.ctx c).st = .saved)
      ∧ (∀ i, (s.tile.ctx c).ctl.ending = .stop i → i.cause ≠ 0x12#8 →
        ∃ u : State, exec .contextStop s = .next (u.taskFault s.cur c i) ∧ (u.tile.ctx c).st = .faulted ∧ ∀ o ∈ u.tile.ops, o.ctx = c → o.act.isTok = true))
    ∧ (∀ c, s.ev = .handoverStep c → s.handMay c = true → (s.tile.ctx c).succ ≠ c →
      let x := s.tile.ctx c
      ∃ t, exec .handoverStep s = .next t ∧ (t.tile.ctx x.succ).st = .running ∧ (t.tile.ctx c).st = .stopped
        ∧ (∀ ch : Chan, (x.eb[ch]).bv = true → (t.tile.ctx x.succ).egr[ch] = x.egr[ch] ++ [markEntry] ∧ (t.tile.ctx x.succ).eb[ch] = x.eb[ch])
        ∧ ∀ ch : Chan, x.cfg.hmask.getLsbD ch.val = false → (x.ib[ch]).bv = true →
            (t.tile.ctx x.succ).inb[ch] = x.inb[ch] ∧ (t.tile.ctx x.succ).ib[ch] = x.ib[ch])
    ∧ (∀ c slot rf, s.ev = .migrateTrap c slot → (s.tile.ctx c).ctl.ending = .none → (s.tile.ctx c).task = some rf → (s.trec rf.die rf.idx).st = .running →
      (s.trec rf.die rf.idx).sv = 0 → ∃ t m, exec .migrateTrap s = .next t ∧ t.winder.migs = s.winder.migs ++ [m] ∧ m.die = rf.die ∧ m.idx = rf.idx
        ∧ m.slot = slot.toNat ∧ m.ctx = c.val)
    ∧ (∀ d i, s.ev = .taskRetirement d i → mapWf Die.zero s.dies = true → mapWf TRec.zero (s.die d).recs = true → (s.trec d i).st = .running →
      (s.trec d i).sv = 0 → s.allStopped (s.trec d i) = true →
      ∃ t, exec .taskRetirement s = .next t ∧ (t.trec d i).st = .retiring ∧ (t.trec d i).code = maxCode ((s.ctxsOfRec (s.trec d i)).map (·.2)))
    ∧ (∀ d i, s.ev = .contextRelease d i → s.releaseMay d i = true → exec .contextRelease s = .next (s.releaseRec d i))
    ∧ (∀ n l m, s.ev = .flushToken n l → s.winder.migs.find? (fun m => m.stage == 3 && m.gates.contains (n, l.toNat)) = some m →
      ∃ u, exec .flushToken s = .next u ∧ u.agenda = s.agenda ++ [.stubClose m.die m.idx]
        ∧ (n = s.cur → u.tile = s.tile.ungate l.toNat)
        ∧ u.winder.migs = s.winder.migs.map fun x =>
          if x.die == m.die && x.idx == m.idx then { m with gates := m.gates.filter fun g => g != (n, l.toNat) } else x)
    ∧ (s.ev = .migrationDestinationFree →
      exec .migrationDestinationFree s = .next ((s.winder.migs.filter fun m => m.stage != 3).foldl (fun s m => s.migStep m) s))
    ∧ (∀ m dst, s.ev = .migrationDestinationFree → s.winder.migs = [m] → m.stage = 1 → (s.trec m.die m.idx).st = .migrating → s.migQuiet m = true →
      s.sharesClus m = false → ((s.trec m.die m.idx).twin && (s.migCtxs m).any fun x => x.2.2.st == .faulted) = false →
      ((migDies (dieOf ((m.src.map (·.tile)).headD 0))).findSome? fun d => s.migSeat m (s.trec m.die m.idx) d) = some dst →
      exec .migrationDestinationFree s = .next (s.reserve m (s.trec m.die m.idx) dst))
    ∧ (∀ d i m, s.ev = .stubOpen d i → s.winder.migs.find? (fun m => m.die == d && m.idx == i && m.stage == 2) = some m →
      (s.trec d i).st = .migrating → m.start + 598 + ceilDiv m.bytes 128 ≤ s.clock → s.dstLoaded m = true → exec .stubOpen s = .next (s.openStub m) ∧ ∃ c, (c, Ev.migrationResume d i) ∈ (s.openStub m).queue)
    ∧ (∀ d i m, s.ev = .stubClose d i → s.winder.migs.find? (fun m => m.die == d && m.idx == i && m.stage == 3) = some m → m.gates = [] →
      exec .stubClose s = .next (s.closeStub m) ∧ ∀ x ∈ (s.closeStub m).winder.migs, (x.die == d && x.idx == i) = false)
    ∧ (∀ d i, s.ev = .migrationResume d i → (s.trec d i).st = .migrating → (s.trec d i).sv = 0 →
      let on := (s.winder.migs.filter fun m => m.die == d && m.idx == i && m.stage == 3).flatMap (·.dst)
      on ≠ [] → exec .migrationResume s = .next ((((on.foldl State.resumeSeat s).hearNow on).modRec d i fun r => r.setSt .running).bumpWreg 0x400 1))

/-- R20, R61, R71, R175, R213, R233, R242, R263: the loader places slots and refuses what it must; scrubs find and count errors; a stream appends the element it reads
to its channel; a copy moves its chunk and ends; a matrix operation starts. -/
def Obligations.EngineEventsComplete : Prop :=
  ∀ s : State,
    (∀ slot c, s.ev = .ruleStoreScrub slot true → (mget 0 s.tile.store slot.val).getLsbD 127 = true → (s.tile.ctx c).st ≠ .free →
      (s.tile.ctx c).cfg.rbase.toNat ≤ slot.val → slot.val ≤ (s.tile.ctx c).cfg.rlast.toNat → (s.tile.ctx c).ctl.ending = .none →
      ∃ t, exec .ruleStoreScrub s = .next t ∧ (t.tile.ctx c).ctl.ending = .stop (StopInfo.mk0 0x14#8 slot.val s.clock))
    ∧ (∀ w, s.ev = .tcmScrub w true → ∃ t, exec .tcmScrub s = .next t ∧ t.tile.tcmBad = sinsert s.tile.tcmBad w ∧ t.tile.tcm = s.tile.tcm)
    ∧ (∀ w, s.ev = .tcmScrub w false → ∃ t, exec .tcmScrub s = .next t ∧ t.tile.tcmSoft = sremove s.tile.tcmSoft w
        ∧ t.tile.r.ecccnt = satInc s.tile.r.ecccnt 1 ∧ t.tile.tcm = s.tile.tcm)
    ∧ (∀ k w, s.ev = .cspScrub k w true → mapWf Cluster.zero s.clusters = true →
      ∃ t, exec .cspScrub s = .next t ∧ (t.clus k).cspBad = sinsert (s.clus k).cspBad w ∧ (t.clus k).csp = (s.clus k).csp)
    ∧ (∀ c first room slots profile priv mh bad, s.ev = .ruleImageLoad s.cur c first room slots profile priv mh bad → (s.tile.ctx c).st = .free →
      s.recAt s.cur c = none →
      (loadRefusal (s.loadEnv s.cur c priv mh profile) (isBisque (dieOf s.cur)) room profile bad slots = none → mapWf 0 s.tile.store = true →
        ∃ t, exec .ruleImageLoad s = .next t
          ∧ (∀ k, mget 0 t.tile.store k = if first ≤ k ∧ k < first + max room slots.length then slots.getD (k - first) 0 else mget 0 s.tile.store k))
      ∧ (∀ x, loadRefusal (s.loadEnv s.cur c priv mh profile) (isBisque (dieOf s.cur)) room profile bad slots = some x → mapWf 0 s.tile.store = true →
        ∃ t, exec .ruleImageLoad s = .next t ∧ ∀ k, mget 0 t.tile.store k = if first ≤ k ∧ k < first + room then 0 else mget 0 s.tile.store k))
    ∧ (∀ g, s.ev = .streamElement g → s.strmMay g = true →
      let x := s.tile.strm[g]
      x.isWr = false → x.sp = .tcm → x.addr x.next % ((min x.eb 16 : Nat) : Int) = 0 → (s.tile.ctx x.ctx).tcmOk (x.addr x.next) x.eb = true →
      let p := (s.tile.ctx x.ctx).tcmPa (x.addr x.next).toNat
      hitsWord s.tile.tcmBad p x.eb = false →
      ∃ t, exec .streamElement s = .next t ∧ t.tile.tcm = s.tile.tcm
        ∧ (t.tile.ctx x.ctx).inb[x.chan] = (s.tile.ctx x.ctx).inb[x.chan] ++ if x.lose then [] else
          [mkEntry (leNat (readBytes s.tile.tcm p x.eb)) (BitVec.ofNat 2 x.ew) (BitVec.ofNat 8 (if x.next + 1 = x.total then x.fld 81 8 else x.fld 73 8)) false])
    ∧ (∀ id c p q, s.ev = .copyChunk id → s.tile.copyN id = some c → s.copyMay c = true → c.moved = false → s.copyBad c = none →
      c.f.ssp = .tcm → c.f.dsp = .tcm → c.off < c.len →
      let n := min 64 (c.len - c.off)
      s.reach (2, c.id) c.ctx .tcm (c.src c.row c.off) n 0 = .ok [(p, n)] → s.reach (2, c.id) c.ctx .tcm (c.dst c.row c.off) n 1 = .ok [(q, n)] →
      (s.badBytes .tcm [(p, n)]).all (fun b => !b) = true →
      ∃ t, exec .copyChunk s = .next t ∧ t.tile.tcm = writeBytes s.tile.tcm q (readBytes s.tile.tcm p n) ∧ t.mem = s.mem)
    ∧ (∀ id c, s.ev = .copyComplete id → s.tile.copyN id = some c → c.moved = true → c.outs = [] →
      ∃ t, exec .copyComplete s = .next t ∧ ∀ q ∈ t.tile.copies, q.id ≠ id)
    ∧ (∀ id o, s.ev = .matrixOperationStart id → s.tile.opN id = some o → s.matMay o = true → exec .matrixOperationStart s = .next (s.matStart o))

/-- R222, R223: a dense product of an integer format adds to each cell, modulo 2^32, the exact sum of the products of its row of A and its row of B. -/
def Obligations.MatrixIntegerProductIsExact : Prop :=
  ∀ (f : MmFmt) (p : Panels) (v : FEnv) (cs : List (List Nat)) (m n c : Nat), MmFmt.isInt f = true → p.md = none → 0 < p.kk →
    p.kk % MmFmt.grp f = 0 → (cs[m]?.bind fun r => r[n]?) = some c →
    ((mmaCells f p v cs).cells[m]?.bind fun r => r[n]?)
      = some (((List.range p.kk).foldl (fun z k => z + MmFmt.elemI f p.a p.ka m k * MmFmt.elemI f p.b p.kk n k) (c : Int)) % 2 ^ 32).toNat
    ∧ (mmaCells f p v cs).fl = 0

/-- R265, R268, R273, R287, R288: a neighbour's entry is queued, and a failed send counted; a buffer request reaches its controller, which serves the first that it can
answer; an arrival is counted at its barrier, the last one releases the phase four cycles later, and the release ends every arrival that is due. -/
def Obligations.ClusterEventsComplete : Prop :=
  ∀ s : State, mapWf Cluster.zero s.clusters = true →
    (∀ n dir x l, s.ev = .neighbourEntryArrival n dir → n ≠ s.cur → neighbour n dir = s.cur → (s.tileN n).nlink[dir] = x :: l → x.due ≤ s.clock →
      (s.tileN n).pendingIds x.hold = false →
      ∃ t, exec .neighbourEntryArrival s = .next t ∧ t.tile.nq[opp dir] = s.tile.nq[opp dir] ++ [x.e])
    ∧ (∀ dir x l, s.ev = .neighbourRetry s.cur dir → s.tile.nlink[dir] = x :: l → x.fails < 7 → mapWf 0 (s.clus (clusOf s.cur)).regs = true →
      ∃ t, exec .neighbourRetry s = .next t
        ∧ reg (t.clus (clusOf s.cur)).regs 0xac8 = satInc (reg (s.clus (clusOf s.cur)).regs 0xac8) 1
        ∧ t.tile = { s.tile with nlink := s.tile.nlink.set dir ({ x with due := s.clock + 4, fails := x.fails + 1 } :: l) })
    ∧ (∀ id o b, s.ev = .bufferRequest s.cur id → s.tile.opN id = some o →
      ((∃ p vec data pa len tw, o.act = .bput p b vec (some data) pa len tw) ∨ ∃ d pa len tw, o.act = .bget d b pa len tw) →
      (s.tile.ctx o.ctx).st = .running → s.bufMay s.cur o b = true →
      ∃ t, exec .bufferRequest s = .next t ∧ (t.clus (clusOf s.cur)).wait
          = insertReq (mget 0 (s.clus (clusOf s.cur)).last b) ⟨b, s.cur, id, s.clock, false⟩ (s.clus (clusOf s.cur)).wait
        ∧ t.queue = qinsert s.clock (.fullBitChange (clusOf s.cur) (Fin.ofNat 64 b)) s.queue)
    ∧ (∀ k b, s.ev = .fullBitChange k b →
      let first := (s.clus k).wait.find? fun r => r.buf == b.val && s.reqCan k r
      (first = none → exec .fullBitChange s = .next (s.wakeBwaits k b.val))
      ∧ (∀ r, first = some r → mget 0 (s.clus k).served b.val ≠ s.clock + 1 → ∃ q,
        exec .fullBitChange s = .next { (((s.bufServe k r).wakeBwaits k b.val).modClus k fun c =>
          { c with served := mset 0 c.served b.val (((s.bufServe k r).wakeBwaits k b.val).clock + 1) }) with queue := q })
      ∧ (∀ r, first = some r → mget 0 (s.clus k).served b.val = s.clock + 1 → ∃ q, exec .fullBitChange s = .next { s with queue := q }))
    ∧ (∀ id o d b x, s.ev = .barrierArrival s.cur id → s.tile.opN id = some o → o.act = .cbar d b false x → s.tile.mayArrive o = true →
      mapWf 0 (s.clus (clusOf s.cur)).regs = true → b < 8 →
      let w := (s.clus (clusOf s.cur)).bar b
      (nfld w 13 8 + 1 < nfld w 5 8 → ∃ t, exec .barrierArrival s = .next t ∧ nfld ((t.clus (clusOf s.cur)).bar b) 13 8 = nfld w 13 8 + 1
        ∧ t.tile.opN id = some { o with act := .cbar d b true (nfld w 21 1 == 1) })
      ∧ (nfld w 5 8 ≤ nfld w 13 8 + 1 → ∃ t, exec .barrierArrival s = .next t ∧ nfld ((t.clus (clusOf s.cur)).bar b) 13 8 = 0
        ∧ t.queue = qinsert (s.clock + 4) (.barrierRelease (clusOf s.cur) (Fin.ofNat 8 b)) s.queue))
    ∧ (∀ b, s.ev = .barrierRelease (clusOf s.cur) b → s.cur < 1536 → ∃ t, exec .barrierRelease s = .next t
        ∧ ∀ q ∈ t.tile.ops, q.isDue s.clock = true → ∀ d x, q.act ≠ .cbar d b.val true x)
    ∧ (∀ n id, s.ev = .mmrPanelArrival n id → exec .mmrPanelArrival s
        = .next ((((s.givePanel n true).givePanel n false).takePanel n true).takePanel n false))

/-- R312 to R318, R362 to R368, R385: an access to global memory is performed at its home: a load gives the bytes of its physical address, a store changes exactly its
own bytes, an atomic writes the new word and gives the old one; walks end, merge entries close, pages move. -/
def Obligations.GlobalEventsComplete : Prop :=
  ∀ s : State, Memory.wf s.mem = true → mapWf Die.zero s.dies = true → s.cur < 1536 →
    (∀ id o m p z r, s.ev = .globalRead s.cur id → s.tile.opN id = some o → o.act = .mem m → m.sp = .glb → m.op = .ld (.w z (.reg r)) →
      m.pa = [p] → m.part = [] → m.size = Sz.bytes z → hitsWord s.hearth.memBad p (Sz.bytes z) = false →
      let v := leNat (readBytes s.mem p (Sz.bytes z))
      ∃ t, exec .globalRead s = .next t ∧ t.mem = s.mem ∧ t.agenda = s.agenda ++ [.acknowledgementArrival (.op s.cur id) none false]
        ∧ t.tile.opN id = some { o with act := .plain, wr := [.s r (wrapTo (Sz.ity z) v) false], poison := none, hard := false, rc := some (v != 0) })
    ∧ (∀ id o m p bs, s.ev = .globalWrite s.cur id → s.tile.opN id = some o → o.act = .mem m → m.sp = .glb → m.op = .st bs → m.pa = [p] → m.part = [] →
      m.size = bs.length → (s.tile.ctx o.ctx).ctl.trapped = false →
      ∃ t, exec .globalWrite s = .next t ∧ t.tile.tcm = s.tile.tcm
        ∧ ∀ a, byteAt t.mem a = if p ≤ a ∧ a < p + bs.length then bs.getD (a - p) 0 else byteAt s.mem a)
    ∧ (∀ id o m p d op x, s.ev = .globalAtomic s.cur id → s.tile.opN id = some o → o.act = .mem m → m.sp = .glb → m.op = .atom d op x → m.pa = [p] → m.part = [] →
      m.size = 8 → hitsWord s.hearth.memBad p 8 = false → (s.tile.ctx o.ctx).ctl.trapped = false →
      let w : Word := BitVec.ofNat 64 (leNat (readBytes s.mem p 8))
      ∃ t, exec .globalAtomic s = .next t ∧ t.mem = writeBytes s.mem p (leBytes 8 (RmwOp.new op w x).toNat)
        ∧ ∃ q, t.tile.opN id = some q ∧ q.wr = wrS d (clean w))
    ∧ (∀ id o m, s.ev = .translationWalk s.cur id → s.tile.opN id = some o → o.glbWaits = some m → s.tile.held o m = false → m.label = none →
      exec .translationWalk s = .next (s.glbStep o m))
    ∧ (∀ d t vpn w, s.ev = .walkComplete d t vpn → (s.die d).walks.find? (walkIs t vpn) = some w → w.wait = false → w.ends ≤ s.clock → w.resid = false →
      exec .walkComplete s = .next (s.walkEnd d t vpn w))
    ∧ (∀ die pa e, die < 8 → s.ev = .mergeEntryClose die pa → (s.merges die).find? (fun e => e.pa == pa && e.opened?) = some e →
      s.viaHearth die pa = false → e.opened + 16 ≤ s.clock →
      ∃ t, exec .mergeEntryClose s = .next t ∧ (s.clock + s.hop die pa, Ev.mergedAtomic die pa) ∈ t.queue
        ∧ ∀ x ∈ t.merges die, x.pa = pa → x.opened? = false)
    ∧ (∀ die pa e d x, die < 8 → s.ev = .mergedAtomic die pa → (s.merges die).find? (MergeE.ripe pa s.clock) = some e → e.op = .atom d .add x →
      hitsWord s.hearth.memBad pa 8 = false → (∀ p ∈ e.parts, p.tile < 1536) →
      let n := leNat (readBytes s.mem pa 8) + (e.parts.map fun p => (s.mergeLive p).a.toNat).sum
      ∃ t, exec .globalAtomic s = .next t ∧ ∀ a, byteAt t.mem a = if pa ≤ a ∧ a < pa + 8 then (leBytes 8 n).getD (a - pa) 0 else byteAt s.mem a)
    ∧ (∀ id, s.ev = .linkCross 4096 id → exec .mergeEntryClose s = .next (s.crossLink 4096 id))
    ∧ (∀ t vpn m p f, s.ev = .pageMove t vpn → s.moveOf t vpn = some m → s.mpage t vpn = some p → m.ends = none → m.up = false →
      p.frame = some f → s.moveCount < 16 →
      ∃ u, exec .pageMove s = .next u
        ∧ u.winder.moves = s.winder.moves.map fun x => if isMove t vpn x then { x with ends := some (s.clock + 364) } else x)
    ∧ (∀ t vpn m p f v, s.ev = .pageMove t vpn → s.moveOf t vpn = some m → s.mpage t vpn = some p → m.ends = none → m.up = true →
      p.frame = none → s.moveCount < 16 → s.nearRoom t = true → s.pickFrame m.die = (v, some f) →
      ∃ u, exec .pageMove s = .next u
        ∧ u.winder.moves = v.winder.moves.map fun x => if isMove t vpn x then { x with ends := some (v.clock + 364) } else x)
    ∧ (∀ t vpn, s.ev = .pageMoveComplete t vpn → (∀ m ∈ s.winder.moves, ∀ e, m.ends = some e → e ≤ s.clock) →
      ∃ u, exec .pageMoveComplete s = .next u ∧ ∀ m ∈ u.winder.moves, isMove t vpn m = false)

/-- R22, R339 to R361, R434: tasks and instances at their Kiln and their coordinator: a decrement is counted, requests are answered, a staged task becomes READY when
its gate opens, places are decided, saves advance, templates are registered. -/
def Obligations.TaskEventsComplete : Prop :=
  ∀ s : State, mapWf Die.zero s.dies = true →
    (∀ d i n t inst, s.ev = .decrementArrival d i n t inst → mapWf TRec.zero (s.die d).recs = true → s.retires t = false →
      (s.trec d i).st = .waiting → (s.trec d i).tenant = t → (s.trec d i).inst = inst → n < (s.trec d i).cnt →
      ∃ u, exec .decrementArrival s = .next u ∧ (u.trec d i).cnt = (s.trec d i).cnt - n ∧ (u.trec d i).st = .waiting)
    ∧ (∀ id o i v, s.cur < 1536 → s.ev = .taskRequest s.cur id → s.tile.opN id = some o → o.act = .req i v → s.reqDue o = true → s.refAway i v = false →
      exec .taskRequest s = .next (s.request o i v).wake)
    ∧ (s.ev = .waitingRequestApply → exec .waitingRequestApply s = .next s.applyWaiting)
    ∧ (∀ d i, mapWf TRec.zero (s.die d).recs = true → (s.trec d i).st = .staging → s.mayRun (s.trec d i).tenant = true →
      (s.trec d i).cspBufs = [] → (s.trec d i).csp = [] → s.gateOpen d (s.trec d i) = true →
      (s.ev = .stagingGateOpen d i → ∃ u, exec .stagingGateOpen s = .next u ∧ (u.trec d i).st = .ready)
      ∧ (s.ev = .stagingAllowanceExpiry d i → ∃ u, exec .stagingAllowanceExpiry s = .next u ∧ (u.trec d i).st = .ready))
    ∧ (∀ d i k x, s.ev = .cspStagingCopy d i k → (s.trec d i).st = .staging → (s.trec d i).csp.find? (fun x => x.1 == k.val) = some x →
      let r := s.trec d i
      (s.hostAt r.tenant (r.baddr k) (r.bsize k * 1024) 0 == .transit) = false →
      (∀ y, (s.die d).stagedAt x.2.1 x.2.2 = some y → y.ends ≤ s.clock ∧ y.done = false) →
      exec .cspStagingCopy s
        = .next ((((match (s.die d).stagedAt x.2.1 x.2.2 with | some z => if z.got then s else s.fetchStaged r z k | none => s).modDie d fun e =>
            e.modStaged x.2.1 x.2.2 fun y => { y with done := true }).modRec d i fun r => { r with copies := r.copies - 1 }).stage1 d i))
    ∧ (∀ d, s.ev = .placementDecision d → exec .placementDecision s = .next ((s.dropDefs d).tryPrio d [0, 1, 2, 3]))
    ∧ (∀ i, s.ev = .instanceCompletion i → s.instDone i = true → exec .instanceCompletion s = .next (s.completeInst i))
    ∧ (∀ fn t r, s.ev = .launch fn t r →
      (∀ u j, s.instantiate t r false s.clock = .made u j → exec .launch s = .next u)
      ∧ (∀ k v, s.instantiate t r false s.clock = .refused k → s.vfOf t = some v →
        ∃ u, exec .launch s = .next u ∧ u.host.waiting = s.host.waiting
          ++ [{ fn := v, w0 := BitVec.ofNat 64 (r.ctag.toNat + at_ 32 (BitVec.ofNat 8 (0x80 + k)).toNat), w1 := 0 }]))
    ∧ (∀ d v, s.ev = .class0Preemption d → (s.die d).pre = none → s.victim d = some v →
      exec .class0Preemption s = .next ((s.beginSave d v 1 false).modDie d fun x => { x with pre := some (v, 0, s.roomless d) }))
    ∧ (∀ d i, mapWf TRec.zero (s.die d).recs = true → (s.trec d i).st ≠ .faulted → (s.trec d i).sv = 1 → s.saveReady (s.trec d i) = true →
      (s.ev = .victimSaveComplete d i → ∃ u, exec .victimSaveComplete s = .next u ∧ (u.trec d i).sv = 2
        ∧ (u.trec d i).svEnd = s.clock + s.saveCycles (s.trec d i))
      ∧ (s.ev = .taskSaveComplete d i → ∃ u, exec .taskSaveComplete s = .next u ∧ (u.trec d i).sv = 2
        ∧ (u.trec d i).svEnd = s.clock + s.saveCycles (s.trec d i)))
    ∧ (∀ d i, s.ev = .taskRestoreComplete d i → (s.trec d i).st = .placed → (s.trec d i).saved ≠ [] → (s.trec d i).sv = 0 → (s.trec d i).svEnd = s.clock →
      (∀ x ∈ s.ctxsOfRec (s.trec d i), x.2.st = .saved) → exec .taskRestoreComplete s = .next (s.restoreRec d i))
    ∧ (∀ h t es bs is, s.ev = .templateRegistration h t es bs is → s.tmplOf h = none → s.started = true →
      ((s.checkTmpl es bs is).1 ≠ 0 → exec .templateRegistration s = .next (s.emit (.registration h (s.checkTmpl es bs is).1)))
      ∧ ((s.checkTmpl es bs is).1 = 0 → s.graphRoom { handle := h, tenant := t, entries := es, bufs := bs, images := is.map (·.1) : Template }.units = true →
        ∃ u, exec .templateRegistration s = .next u ∧ u.out = .registration h 0 :: s.out
        ∧ u.coord.tmpls = s.coord.tmpls ++ [{ handle := h, tenant := t, entries := es, bufs := bs, images := is.map (·.1) }]))
    ∧ (∀ h, s.ev = .templateUnregistration h →
      ∃ u, exec .templateUnregistration s = .next u ∧ u.coord.tmpls = s.coord.tmpls.filter fun t => t.handle != h)

/-- R424 to R446, R505 to R512: slices, tenants and groups: round and sweep markers are counted, a torn-down tenant's tag retires until every module has echoed
its sweep, slices begin and end, an abort and a contribution reach their group. -/
def Obligations.TenancyEventsComplete : Prop :=
  ∀ s : State,
    (∀ n t, s.ev = .roundMarker n t → mapWf 0 s.coord.rounds = true →
      ∃ u, exec .roundMarker s = .next u ∧ mget 0 u.coord.rounds n = mget 0 s.coord.rounds n + 1)
    ∧ (∀ m t, s.ev = .sweepMarker m t → m.toNat = s.own → exec .sweepMarker s = .next (s.beginSweep t))
    ∧ (∀ m t, s.ev = .sweepMarker m t → m.toNat ≠ s.own → exec .sweepMarker s = .next (s.sendPkt 0 none (markPkt 5 0 (s.vnOf t) 2 t m.toNat 0 0 (agentSrc s.own 0 0xf8))))
    ∧ (∀ m t k n ms, s.ev = .sweepEcho m t → s.coord.sweeps.find? (fun x => x.1 == t.toNat) = some (k, n, ms) →
      ((ms.filter fun x => x != m.toNat) = [] → exec .sweepEcho s = .next (s.endSweep k n)
        ∧ (s.endSweep k n).coord.retiring = sremove s.coord.retiring k ∧ ∀ x ∈ (s.endSweep k n).coord.sweeps, x.1 ≠ k)
      ∧ ((ms.filter fun x => x != m.toNat) ≠ [] → ∃ u, exec .sweepEcho s = .next u
        ∧ u.coord.sweeps = s.coord.sweeps.map fun x => if x.1 == k then (k, n, ms.filter fun x => x != m.toNat) else x))
    ∧ (s.ev = .packageTick →
      let k := s.clock / Config.msCycles
      exec .packageTick s = .next ((List.range 8).foldl (fun s d => s.domTick d k) { s with coord := { s.coord with tick := k } }))
    ∧ (s.ev = .packageTick → (∀ d < 8, ((s.dom d).out.isSome || (s.dom d).inn.isSome) = true) →
      exec .packageTick s = .next { s with coord := { s.coord with tick := s.clock / Config.msCycles } })
    ∧ (∀ k d t c, s.ev = .switchSave k d → (s.dom d).out = some (t, c) → (s.die k).recs = [] → s.unsaved d (tnt t) = [] → s.dirtyNear (tnt t) = [] →
      s.coord.downs = [] → s.clock < c + 3 * Config.msCycles / 2 → mapWf Dom.zero s.coord.doms = true →
      ∃ u, exec .switchSave s = .next u ∧ (u.dom d).out = none ∧ (u.dom d).cur = (s.dom d).cur ∧ (u.dom d).inn = (s.dom d).inn
        ∧ ((s.dom d).inn.isSome = true → (s.clock + 1, Ev.switchIn d) ∈ u.queue))
    ∧ (∀ k d, s.ev = .switchSave k d → (s.dom d).out = none → exec .switchSave s = .next s)
    ∧ (∀ k d t c x, s.ev = .saveDeadlineKill k d → (s.dom d).out = some (t, c) → c + 4 * Config.msCycles ≤ s.clock → s.winder.migs = [] →
      ((s.unsaved d (tnt t)).filter fun x => x.1 == k && x.2.2.st != .retiring) = [x] →
      exec .saveDeadlineKill s = .next (s.killTask x.1 x.2.1))
    ∧ (∀ k d t c, s.ev = .saveDeadlineKill k d → (s.dom d).out = some (t, c) → s.clock < c + 4 * Config.msCycles → exec .saveDeadlineKill s = .next s)
    ∧ (∀ d t, s.ev = .switchIn d → (s.dom d).inn = some t → mapWf Dom.zero s.coord.doms = true →
      let v := s.setDom d { s.dom d with cur := some t, inn := none }
      let u := ((v.setVfState t 1).takeMap (tnt t)).restoreAll (tnt t)
      (v.dom d).cur = some t
        ∧ exec .switchIn s = .next ((u.recsAll.filter fun x => x.2.2.tenant == tnt t && x.2.2.st == .staging).foldl
          (fun s x => s.runStaging x.1 x.2.1 x.2.2.since) u))
    ∧ (∀ g n c, s.ev = .abortMarker g n c → exec .abortMarker s = .next (s.groupAbort g.toNat n c)
        ∧ (s.pgV g.toNat = true → s.pgLocal g.toNat ≠ 0 → exec .abortMarker s
          = .next (s.addPart (s.grp g.toNat) { tile := n, op := 0, ctxid := c, gop := 0, val := 0, root := false, abort := true })))
    ∧ (∀ m g gop root phase val n ab fl, s.ev = .podGroupPacket m g gop root phase val n ab fl →
      ((s.grp g.toNat).mods.any fun y => y.mod == m.toNat && y.phase == phase) = false →
      exec .podGroupPacket s = .next ((s.setGrp { s.grp g.toNat with mods := (s.grp g.toNat).mods
        ++ [{ mod := m.toNat, phase := phase, gop := gop.val, val := val, n := n, root := root, aborted := ab, fl := fl }] }).groupCheck g.toNat))

/-- R409 to R421, R439, R441, R452 to R469: what the host and the controller do: register writes, launches, completion entries, reads and writes of memory, starts and
samples, the enabling and the teardown of a virtual function, whose tag is retiring from then on. -/
def Obligations.HostEventsComplete : Prop :=
  ∀ s : State,
    (∀ a w r t, s.ev = .configRegisterWrite a w → cfgReg a.toNat = some r → s.cfgWrite r w = some t → exec .configRegisterWrite s = .next t)
    ∧ (∀ fn off bs, s.ev = .launchWrite fn off bs → s.offered fn = true → bs.length = 64 → off % 64 = 0 → off < 0x1000 → s.fnOn fn = true →
      s.coord.retiring.contains (s.fnTag fn) = false → s.cqEn fn = true → s.cqWait fn ≠ 4096 →
      exec .launchWrite s = .next ((s.bumpBar fn 0x1020).push [.launch fn (BitVec.ofNat 4 (s.fnTag fn)) (launchRec (wordsOf bs))]))
    ∧ (∀ fn e, s.ev = .completionEntryWrite fn → s.host.waiting.find? (fun e => e.fn == fn) = some e → s.cqEn fn = true → s.cqFull fn = false →
      ∃ u, exec .completionEntryWrite s = .next u ∧ u.host.waiting = dropFirst (fun e => e.fn == fn) s.host.waiting)
    ∧ (∀ fn v, s.ev = .cqheadWrite fn v → s.offered fn = true →
      exec .cqheadWrite s
        = .next (((s.setBar fn 0x1018 (BitVec.ofNat 64 (v.toNat % 65536 % s.cqN fn))).acknowledge fn).push [.completionEntryWrite fn]))
    ∧ (∀ fn, s.ev = .msixCoalesceTimer fn → s.cqIe fn = true → mget 0 s.host.unsig fn ≠ 0 → mget 0 s.host.since fn + Config.twoUs ≤ s.clock →
      exec .msixCoalesceTimer s = .next ((s.setUnsig fn 0).msix fn 0))
    ∧ (∀ t va n, s.ev = .hostRead t va n → s.started = true →
      (∀ l, s.hostAt t va n 0 = .ok l → s.hostBehind l = false → exec .hostRead s = .next ((s.hostTouch t va n 0).emit (.hostData (s.physBytes l))))
      ∧ (s.hostAt t va n 0 = .no → exec .hostRead s = .next s))
    ∧ (∀ t va bs, s.ev = .hostWrite t va bs → s.started = true →
      (∀ l, s.hostAt t va bs.length 1 = .ok l → s.hostBehind l = false → exec .hostWrite s = .next ((s.hostTouch t va bs.length 1).physWrite l bs))
      ∧ (s.hostAt t va bs.length 1 = .no → exec .hostWrite s = .next s))
    ∧ (∀ w, s.ev = .pcapWrite w →
      ∃ u, exec .pcapWrite s = .next u ∧ u.saloc.pcap = BitVec.ofNat 64 (min (w.toNat % 2 ^ 12) s.saloc.cfg.maxPcap))
    ∧ (∀ i, s.ev = .coldStart i → warmWhy i.why = false → exec .coldStart s = .next (s.start i))
    ∧ (∀ i, s.ev = .warmStart i → warmWhy i.why = true → exec .warmStart s = .next (s.start i))
    ∧ (∀ i b k, s.ev = .startTimeout → s.saloc.run = some (i, b, k) → (k + stepLimit (s.stGet 0 4) ≤ s.clock ∨ b + startLimit ≤ s.clock) → exec .startTimeout s = .next (s.failStart 6))
    ∧ (∀ x, s.ev = .attestationReport x → s.saloc.leaf < 2 ^ 30 → s.started = true →
      ∃ u e l, exec .attestationReport s = .next u ∧ u.saloc = { s.saloc with leaf := s.saloc.leaf + 1 }
        ∧ u.out = .report x s.saloc.meas s.saloc.startst s.saloc.cfgHash (s.saloc.leaf + 1) e l :: s.out)
    ∧ (∀ w, s.ev = .telemetrySample w → s.saloc.pcap.toNat < w →
      ∃ u, exec .telemetrySample s = .next u ∧ u.saloc.capF = max 4 (s.saloc.capF - 1))
    ∧ (∀ d c, s.ev = .thermalSample d c → mapWf Die.zero s.dies = true → 100 ≤ c → c < 115 → (s.die d).throttle = false →
      ∃ u, exec .thermalSample s = .next u ∧ (u.die d).throttle = true)
    ∧ (∀ n, n ≠ 0 → s.vfEn n = true →
      (s.ev = .teardown n → ∃ u, exec .teardown s = .next u ∧ s.vfTag n ∈ u.coord.retiring)
      ∧ (s.ev = .vfFunctionLevelReset n → ∃ u, exec .vfFunctionLevelReset s = .next u ∧ s.vfTag n ∈ u.coord.retiring)
      ∧ (s.ev = .vfctlTeardown n → ∃ u, exec .vfctlTeardown s = .next u ∧ s.vfTag n ∈ u.coord.retiring))
    ∧ (∀ n t d, s.ev = .vfctlEnable n t d → s.vfEn n = false → exec .vfctlEnable s = .next (s.vfEnable n t d))
    ∧ (∀ fn v, s.ev = .bar0RegisterWrite fn 0x1028 v → s.offered fn = true → exec .bar0RegisterWrite s = .next (s.setBar fn 0x1028 v))
    ∧ (∀ fn off, s.ev = .bar0RegisterRead fn off →
      ∃ u, exec .bar0RegisterWrite s = .next u ∧ u.out = .barData fn off (s.barRead fn off) :: s.out)

/-- R470 to R503: what happens on the links: flits are taken in sequence and answered, lost ones sent again, links are trained, retired and flushed. -/
def Obligations.LinkEventsComplete : Prop :=
  ∀ s : State,
    (∀ l f t, s.ev = .linkDataFlit l f t → s.portsUp = true → s.linkSt l ≠ 1 → s.linkSt l ≠ 3 → flitCrc f (t.toNat % 2 ^ 16) ≠ t.extractLsb' 16 16 →
      (s.link l).naked = true → exec .linkDataFlit s = .next (s.linkBump l 0x18 1))
    ∧ (∀ l f t, s.ev = .linkDataFlit l f t → s.portsUp = true → s.linkSt l ≠ 1 → s.linkSt l ≠ 3 → flitCrc f (t.toNat % 2 ^ 16) = t.extractLsb' 16 16 →
      t.toNat / 2 ^ 10 % 4 = 0 → t.toNat % 2 ^ 10 = ((s.link l).lgseq + 1).toNat →
      let u := (s.setLink l { s.link l with lgseq := (s.link l).lgseq + 1, naked := false, fresh := (s.link l).fresh + 1 }).acceptFlit l f
      exec .linkDataFlit s = .next (if 64 ≤ (u.link l).fresh then u.sendControl l false else u))
    ∧ (∀ l f, s.ev = .controlFlit l f → s.portsUp = true → s.linkSt l ≠ 3 → f.getLsbD 10 = false → (s.link l).buf = [] →
      let v := s.setLink l { (s.link l).acked (f.toNat % 2 ^ 10) with
        cred := (List.range 24).foldl (fun m v => mset 0 m v (f.toNat / 2 ^ (16 + 8 * v) % 2 ^ 8)) [] }
      exec .controlFlit s = .next (v.pump l))
    ∧ (∀ l f r, s.ev = .replayTimeout l → (s.link l).buf = f :: r → f.2 + Config.twoUs ≤ s.clock → exec .replayTimeout s = .next (s.replay l))
    ∧ (∀ l lanes peer, s.ev = .linkRetrain l lanes peer → s.linkSt l = 1 → lanes < 28 → exec .linkRetrain s = .next (s.attemptFails l))
    ∧ (∀ l lanes peer, s.ev = .linkRetrain l lanes peer → s.linkSt l = 1 → 28 ≤ lanes →
      let u := ((s.setLink l { (s.link l).acked peer.toNat with replays := 0, tries := 0 }).setLinkReg l 0
        (putFld (s.linkReg l 0) 2 6 (min lanes 32))).resend l
      (u.linkReg l 8).toNat % 16 < 9 → exec .linkRetrain s = .next ((u.setLinkSt l 0).pump l))
    ∧ (∀ l, s.ev = .retrainAttemptTimeout l → s.linkSt l = 1 → (s.link l).since + 105000 ≤ s.clock →
      exec .retrainAttemptTimeout s = .next (s.attemptFails l))
    ∧ (∀ l, s.ev = .rtcntDecay l →
      exec .rtcntDecay s = .next (s.setLinkReg l 8 (BitVec.ofNat 64 (nfld (s.linkReg l 8).toNat 0 4 - 1))))
    ∧ (∀ d e, s.ev = .d2dLinkFailure d e → mapWf Die.zero s.dies = true →
      ∃ u, exec .d2dLinkFailure s = .next u ∧ (u.die d).failed = sinsert (s.die d).failed e.val)
    ∧ (∀ d e, s.ev = .d2dLinkRetraining d e → exec .d2dLinkRetraining s = .next s)
    ∧ (∀ l, s.ev = .linkControlFlitInterval l → s.linkSt l ≠ 1 → s.linkSt l ≠ 3 → (s.link l).told + 105 ≤ s.clock →
      exec .linkControlFlitInterval s = .next (s.sendControl l false))
    ∧ (∀ p, s.ev = .ualinkPortFailure p →
      ∃ u, exec .ualinkPortFailure s = .next u ∧ u.fab.uaFailed = sinsert s.fab.uaFailed p.val)
    ∧ (∀ m sd dd c, s.ev = .linkFlushMarker m sd dd c →
      exec .linkFlushMarker s = .next (s.sendPkt dd (some (circPort (s.circE dd sd c.toNat)))
        (markPkt 7 0 0 2 0 m.toNat sd c.toNat (agentSrc s.own dd 0xf8))))
    ∧ (∀ m sd dd c, s.ev = .linkFlushEcho m sd dd c → s.fab.held = [] →
      ∃ u, exec .linkFlushEcho s = .next u ∧ u.fab.gated = sremove s.fab.gated (circKey sd m.toNat dd c.toNat))
    ∧ (∀ m l, s.ev = .linkRetirementNotice m l → exec .linkRetirementNotice s = .next (s.retireLink m.toNat l))
    ∧ (∀ m seq p, s.ev = .apertureWrite m seq p →
      ∃ u, exec .apertureWrite s = .next u
        ∧ u = State.uaRun (s.fab.uaEarly.length + 1)
          { s with fab := { s.fab with uaEarly := s.fab.uaEarly ++ [(64 * m.toNat + p.circ % 64, seq.toNat, p)] } } (64 * m.toNat + p.circ % 64))
end

