-- ==== Sys2Proof/Laws/Codes.lean ====
section
/-! SUPPORT. Decoding undoes encoding, field by field: the formats, operand specifiers, types, modifiers and masks. -/

namespace Sys2Proof

/-! ## Formats -/

theorem ext_hi {m n : Nat} {x : BitVec m} {y : BitVec n} {lo k : Nat} {z : BitVec k} (h : n ≤ lo) (e : x.extractLsb' (lo - n) k = z) :
    (x ++ y).extractLsb' lo k = z := by
  rw [← e]
  apply BitVec.eq_of_getLsbD_eq
  intro i hi
  simp only [BitVec.getLsbD_extractLsb', BitVec.getLsbD_append]
  have h1 : ¬ (lo + i < n) := by omega
  have h2 : lo + i - n = lo - n + i := by omega
  simp [h1, h2]
theorem ext_lo {m n : Nat} {x : BitVec m} {y : BitVec n} {lo k : Nat} {z : BitVec k} (h : lo + k ≤ n) (e : y.extractLsb' lo k = z) :
    (x ++ y).extractLsb' lo k = z := by
  rw [← e]
  apply BitVec.eq_of_getLsbD_eq
  intro i hi
  simp only [BitVec.getLsbD_extractLsb', BitVec.getLsbD_append]
  have : lo + i < n := by omega
  simp [this]

theorem FA.ofWord_toWord (maj : BitVec 8) (f : FA) : FA.ofWord (f.toWord maj) = f := by
  cases f
  simp only [FA.ofWord, FA.toWord, fld]
  congr 1 <;> repeat first | exact BitVec.extractLsb'_eq_self | refine ext_hi (by decide) ?_ | refine ext_lo (by decide) ?_
theorem FA.toWord_maj (maj : BitVec 8) (f : FA) : fld (f.toWord maj) 56 8 = maj := ext_hi (by decide) BitVec.extractLsb'_eq_self
theorem FA.toWord_mn (maj : BitVec 8) (f : FA) : fld (f.toWord maj) 48 8 = f.mn :=
  ext_lo (by decide) (ext_hi (by decide) BitVec.extractLsb'_eq_self)
theorem FI.ofWord_toWord (maj : BitVec 8) (f : FI) : FI.ofWord (f.toWord maj) = f := by
  cases f
  simp only [FI.ofWord, FI.toWord, fld]
  congr 1 <;> repeat first | exact BitVec.extractLsb'_eq_self | refine ext_hi (by decide) ?_ | refine ext_lo (by decide) ?_
theorem FI.toWord_maj (maj : BitVec 8) (f : FI) : fld (f.toWord maj) 56 8 = maj := ext_hi (by decide) BitVec.extractLsb'_eq_self
theorem FI.toWord_mn (maj : BitVec 8) (f : FI) : fld (f.toWord maj) 48 8 = f.mn :=
  ext_lo (by decide) (ext_hi (by decide) BitVec.extractLsb'_eq_self)
theorem FM.ofWord_toWord (maj : BitVec 8) (f : FM) : FM.ofWord (f.toWord maj) = f := by
  cases f
  simp only [FM.ofWord, FM.toWord, fld]
  congr 1 <;> repeat first | exact BitVec.extractLsb'_eq_self | refine ext_hi (by decide) ?_ | refine ext_lo (by decide) ?_
theorem FM.toWord_maj (maj : BitVec 8) (f : FM) : fld (f.toWord maj) 56 8 = maj := ext_hi (by decide) BitVec.extractLsb'_eq_self
theorem FM.toWord_mn (maj : BitVec 8) (f : FM) : fld (f.toWord maj) 48 8 = f.mn :=
  ext_lo (by decide) (ext_hi (by decide) BitVec.extractLsb'_eq_self)
theorem FL.ofWord_toWord (maj : BitVec 8) (f : FL) : FL.ofWord (f.toWord maj) = f := by
  cases f
  simp only [FL.ofWord, FL.toWord, fld]
  congr 1 <;> repeat first | exact BitVec.extractLsb'_eq_self | refine ext_hi (by decide) ?_ | refine ext_lo (by decide) ?_
theorem FL.toWord_maj (maj : BitVec 8) (f : FL) : fld (f.toWord maj) 56 8 = maj := ext_hi (by decide) BitVec.extractLsb'_eq_self
theorem FL.toWord_mn (maj : BitVec 8) (f : FL) : fld (f.toWord maj) 48 8 = f.mn :=
  ext_lo (by decide) (ext_hi (by decide) BitVec.extractLsb'_eq_self)
theorem FXm.ofWord_toWord (maj : BitVec 8) (f : FXm) : FXm.ofWord (f.toWord maj) = f := by
  cases f
  simp only [FXm.ofWord, FXm.toWord, fld]
  congr 1 <;> repeat first | exact BitVec.extractLsb'_eq_self | refine ext_hi (by decide) ?_ | refine ext_lo (by decide) ?_
theorem FXm.toWord_maj (maj : BitVec 8) (f : FXm) : fld (f.toWord maj) 56 8 = maj := ext_hi (by decide) BitVec.extractLsb'_eq_self
theorem FXm.toWord_mn (maj : BitVec 8) (f : FXm) : fld (f.toWord maj) 48 8 = f.mn :=
  ext_lo (by decide) (ext_hi (by decide) BitVec.extractLsb'_eq_self)
theorem FXa.ofWord_toWord (maj : BitVec 8) (f : FXa) : FXa.ofWord (f.toWord maj) = f := by
  cases f
  simp only [FXa.ofWord, FXa.toWord, fld]
  congr 1 <;> repeat first | exact BitVec.extractLsb'_eq_self | refine ext_hi (by decide) ?_ | refine ext_lo (by decide) ?_
theorem FXa.toWord_maj (maj : BitVec 8) (f : FXa) : fld (f.toWord maj) 56 8 = maj := ext_hi (by decide) BitVec.extractLsb'_eq_self
theorem FXa.toWord_mn (maj : BitVec 8) (f : FXa) : fld (f.toWord maj) 48 8 = f.mn :=
  ext_lo (by decide) (ext_hi (by decide) BitVec.extractLsb'_eq_self)
theorem FXc.ofWord_toWord (maj : BitVec 8) (f : FXc) : FXc.ofWord (f.toWord maj) = f := by
  cases f
  simp only [FXc.ofWord, FXc.toWord, fld]
  congr 1 <;> repeat first | exact BitVec.extractLsb'_eq_self | refine ext_hi (by decide) ?_ | refine ext_lo (by decide) ?_
theorem FXc.toWord_maj (maj : BitVec 8) (f : FXc) : fld (f.toWord maj) 56 8 = maj := ext_hi (by decide) BitVec.extractLsb'_eq_self
theorem FXc.toWord_mn (maj : BitVec 8) (f : FXc) : fld (f.toWord maj) 48 8 = f.mn :=
  ext_lo (by decide) (ext_hi (by decide) BitVec.extractLsb'_eq_self)
theorem FMod.ofWord_toWord (f : FMod) : FMod.ofWord f.toWord = f := by
  cases f
  simp only [FMod.ofWord, FMod.toWord, fld]
  congr 1 <;> repeat first | exact BitVec.extractLsb'_eq_self | refine ext_hi (by decide) ?_ | refine ext_lo (by decide) ?_
theorem FSlot.ofWord_toWord (f : FSlot) : FSlot.ofWord f.toWord = f := by
  cases f
  simp only [FSlot.ofWord, FSlot.toWord, fld]
  congr 1 <;> repeat first | exact BitVec.extractLsb'_eq_self | refine ext_hi (by decide) ?_ | refine ext_lo (by decide) ?_

/-! ## Checks -/

theorem Chk.ap_ok {α β : Type} (f : α → β) (a : α) : (Chk.ok f).ap (Chk.ok a) = Chk.ok (f a) := rfl
theorem Chk.map_ok {α β : Type} (f : α → β) (a : α) : (Chk.ok a).map f = Chk.ok (f a) := rfl
theorem Chk.req_true {α : Type} (x : Chk α) (n : Nat) : x.req n true = x := rfl

/-! ## Operands -/


theorem dSysR_eSysR (x : SysR) : dSysR (eSysR x) = .ok x := by cases x <;> rfl
theorem dSysW_eSysW (x : SysW) : dSysW (eSysW x) = .ok x := by cases x <;> rfl
theorem dSR_eSR : ∀ x : SReg, dSR (eSR x) = .ok x := by decide
theorem dP_eP : ∀ x : PReg, dP (eP x) = .ok x := by decide
theorem dVR_eVR : ∀ x : VReg, dVR (eVR x) = .ok x := by decide
theorem dAR_eAR : ∀ x : AReg, dAR (eAR x) = .ok x := by decide
theorem dCI_eCI : ∀ x : Chan, dCI (eCI x) = .ok x := by decide
theorem dCO_eCO : ∀ x : Chan, dCO (eCO x) = .ok x := by decide
theorem dPair_ePair : ∀ x : Fin 16, dPair (ePair x) = .ok x := by decide
theorem dVPair_eVPair : ∀ x : Fin 8, dVPair (eVPair x) = .ok x := by decide
theorem dSS_eSS (x : SSrc) : dSS (eSS x) = .ok x := by
  cases x with
  | reg r => revert r; decide
  | chan r => revert r; decide
  | sys r => cases r <;> rfl
theorem dSD_eSD (x : SDst) : dSD (eSD x) = .ok x := by
  cases x with
  | reg r => revert r; decide
  | chan r => revert r; decide
  | sys r => cases r <;> rfl
theorem dVS_eVS (x : VSrc) : dVS (eVS x) = .ok x := by
  cases x with
  | reg r => revert r; decide
  | chan r => revert r; decide
theorem dVD_eVD (x : VDst) : dVD (eVD x) = .ok x := by
  cases x with
  | reg r => revert r; decide
  | chan r => revert r; decide
theorem dKS_eKS (x : KSrc) : dKS (eKS x) = .ok x := by
  cases x with
  | reg r => revert r; decide
  | chan r => revert r; decide
theorem dKD_eKD (x : KDst) : dKD (eKD x) = .ok x := by
  cases x with
  | reg r => revert r; decide
  | chan r => revert r; decide
theorem dPS_ePS (x : PSrc) : dPS (ePS x) = .ok x := by
  cases x with
  | pair r => revert r; decide
  | chan r => revert r; decide
theorem dPD_ePD (x : PDst) : dPD (ePD x) = .ok x := by
  cases x with
  | pair r => revert r; decide
  | chan r => revert r; decide
theorem dPres_ePres (x : PresReg) : dPres (ePres x) = .ok x := by
  cases x with
  | s r => revert r; decide
  | v r => revert r; decide
  | k r => revert r; decide
theorem dXD_eXD (x : XDst) : dXD x.wid (eXD x) = .ok x := by
  cases x with
  | s d => simp only [dXD, XDst.wid, eXD, dSD_eSD]; rfl
  | pair d => simp only [dXD, XDst.wid, eXD, dPD_ePD]; rfl
  | k d => simp only [dXD, XDst.wid, eXD, dKD_eKD]; rfl
  | v d => simp only [dXD, XDst.wid, eXD, dVD_eVD]; rfl
theorem dXS_eXS (x : XSrc) : dXS x.wid (eXS x) = .ok x := by
  cases x with
  | s d => simp only [dXS, XSrc.wid, eXS, dSS_eSS]; rfl
  | pair d => simp only [dXS, XSrc.wid, eXS, dPS_ePS]; rfl
  | k d => simp only [dXS, XSrc.wid, eXS, dKS_eKS]; rfl
  | v d => simp only [dXS, XSrc.wid, eXS, dVS_eVS]; rfl

/-! ## Types and modifiers -/


theorem dScope_eScope (x : Scope) : dScope (eScope x) = .ok x := by cases x <;> rfl
theorem dOrd_eOrd (x : Ordr) : dOrd (eOrd x) = .ok x := by cases x <;> rfl
theorem dWSp_eWSp (x : WSpace) : dWSp (eWSp x) = .ok x := by cases x <;> rfl
theorem dWTy_eWTy (x : WTy) : dWTy (eWTy x) = .ok x := by cases x <;> rfl
theorem dDSp_eDSp (x : DSpace) : dDSp (eDSp x) = .ok x := by cases x <;> rfl
theorem dSSp_eSSp (x : SSpace) : dSSp (eSSp x) = .ok x := by cases x <;> rfl
theorem FMod.tm_mkMod (t : TyMod) (m : Msk) : (mkMod t m).tm t.ty = t := by cases m <;> rfl
theorem FMod.noMask_all {α : Type} (t : TyMod) (x : Chk α) : (mkMod t .all).noMask x = x := rfl
theorem fin8_b3 : ∀ k : Fin 8, fin 8 (b3 k).toNat = k := by decide
theorem fin16_b4 : ∀ k : Fin 16, fin 16 (b4 k).toNat = k := by decide
theorem fin16_nP : ∀ k : Fin 16, fin 16 (nP k).toNat = k := by decide
theorem fin4_n2 : ∀ k : Fin 4, fin 4 (n2 k).toNat = k := by decide
theorem fin32_n5 : ∀ k : Fin 32, fin 32 (n5 k).toNat = k := by decide
theorem fin64_b6 : ∀ k : Fin 64, fin 64 (b6 k).toNat = k := by decide
theorem bit1_ofB : ∀ b : Bool, bit1 (ofB b) = b := by decide
theorem FMod.mask_mkMod (t : TyMod) (m : Msk) : (mkMod t m).mask = .ok m := by
  cases m with
  | all => rfl
  | keep k => exact congrArg (fun x => Chk.ok (Msk.keep x)) (fin8_b3 k)
  | zero k => exact congrArg (fun x => Chk.ok (Msk.zero x)) (fin8_b3 k)
theorem FMod.keepOnly_mkMod (t : TyMod) (m : Option KReg) : (mkMod t (keepMsk m)).keepOnly = .ok m := by
  cases m with
  | none => rfl
  | some k => exact congrArg (fun x => Chk.ok (some x)) (fin8_b3 k)
theorem cls_eVD_reg : ∀ r : VReg, (cls (eVD (.reg r)) == 2) = false := by decide
theorem cls_eKD_reg : ∀ r : KReg, (cls (eKD (.reg r)) == 2) = false := by decide
theorem keepReg_eVD {α : Type} {t : TyMod} {m : Msk} {d : VDst} {x : Chk α} (h : m.okV d = true) : keepReg (mkMod t m) (eVD d) x = x := by
  cases m with
  | all => rfl
  | zero k => rfl
  | keep k =>
    cases d with
    | reg r => simp only [keepReg, cls_eVD_reg, Bool.and_false, Bool.not_false, Chk.req_true]
    | chan c => cases h
theorem cls_eSD_reg : ∀ r : SReg, (cls (eSD (.reg r)) == 2) = false := by decide
theorem cls_eSD_sys : ∀ r : SysW, (cls (eSD (.sys r)) == 2) = false := by intro r; cases r <;> rfl
theorem keepReg_eSD {α : Type} {t : TyMod} {m : Msk} {d : SDst} {x : Chk α} (h : m.okS d = true) : keepReg (mkMod t m) (eSD d) x = x := by
  cases m with
  | all => rfl
  | zero k => rfl
  | keep k =>
    cases d with
    | reg r => simp only [keepReg, cls_eSD_reg, Bool.and_false, Bool.not_false, Chk.req_true]
    | sys r => simp only [keepReg, cls_eSD_sys, Bool.and_false, Bool.not_false, Chk.req_true]
    | chan c => cases h
theorem keepReg_eKD {α : Type} {t : TyMod} {m : Msk} {d : KDst} {x : Chk α} (h : m.okK d = true) : keepReg (mkMod t m) (eKD d) x = x := by
  cases m with
  | all => rfl
  | zero k => rfl
  | keep k =>
    cases d with
    | reg r => simp only [keepReg, cls_eKD_reg, Bool.and_false, Bool.not_false, Chk.req_true]
    | chan c => cases h

theorem tmNone_tmOf : tmNone (tmOf 0) = .ok () := rfl
theorem tmSF_tmOf : tmSF (tmOf 9) = .ok () := rfl
theorem tmI_eITy (t : ITy) : tmI (tmOf (eITy t)) = .ok t := by cases t <;> rfl
theorem tmF_eFTy (t : FTy) : tmF (tmOf (eFTy t)) = .ok t := by cases t <;> rfl
theorem tmFc_eFcTy (t : FcTy) : tmFc (tmOf (eFcTy t)) = .ok t := by cases t with
  | f t => cases t <;> rfl
  | e4m3 => rfl
  | e5m2 => rfl
theorem tmE_eETy (t : ETy) : tmE (tmOf (eETy t)) = .ok t := by cases t with
  | i t => cases t <;> rfl
  | f t => cases t with
    | f t => cases t <;> rfl
    | e4m3 => rfl
    | e5m2 => rfl
theorem tmIx_eIx (x : IxTy) : tmIx (eIx x) = .ok x := by cases x with
  | i t => cases t <;> rfl
  | fx f => exact congrArg (fun g => Chk.ok (IxTy.fx g)) (fin64_b6 f)
theorem tmIxS_eIxS (x : IxTy) (s : Bool) : tmIxS (eIxS x s) = .ok (x, s) := by cases x with
  | i t => cases t <;> cases s <;> rfl
  | fx f => cases s <;> exact congrArg (fun g => Chk.ok (IxTy.fx g, _)) (fin64_b6 f)
theorem tmFR_eFR (t : FTy) (r : Rm) : tmFR (eFR t r) = .ok (t, r) := by cases t <;> cases r <;> rfl
theorem tmExt64_eExt64 (s : Bool) : tmExt64 (eExt64 s) = .ok s := by cases s <;> rfl
theorem tmExtS_eExtS (s : ExtTy) : tmExtS (eExtS s) = .ok s := by cases s <;> rfl
theorem tmExtN_eExtN (s : ExtTy) : tmExtN (eExtN s) = .ok s := by cases s <;> rfl
theorem tmVA_eVA (x : VArith) : tmVA (eVA x) = .ok x := by cases x with
  | int t s => cases t <;> cases s <;> rfl
  | fx f s => cases s <;> exact congrArg (fun g => Chk.ok (VArith.fx g _)) (fin64_b6 f)
  | fp t r => cases t <;> cases r <;> rfl
theorem tmVP_eVP (x : VPlain) : tmVP (eVP x) = .ok x := by cases x with
  | int t => cases t <;> rfl
  | fx f => exact congrArg (fun g => Chk.ok (VPlain.fx g)) (fin64_b6 f)
  | fp t => cases t <;> rfl
theorem tmVS_eVSg (x : VSgn) : tmVS (eVSg x) = .ok x := by cases x with
  | i64 s => cases s <;> rfl
  | i32 s => cases s <;> rfl
  | i16 s => cases s <;> rfl
  | i8 s => cases s <;> rfl
  | fx f s => cases s <;> exact congrArg (fun g => Chk.ok (VSgn.fx g _)) (fin64_b6 f)
  | fp t => cases t <;> rfl
theorem tmPk_ePk (h : HTy) (s : Bool) : tmPk (ePk h s) = .ok (h, s) := by cases h with
  | mk g l => revert g l s; decide
theorem tmUn_eUn (h : HTy) : tmUn (eUn h) = .ok h := by cases h with
  | mk g l => revert g l; decide
theorem tmFcvt_eFcvt (d s : FcTy) (r : Rm) : tmFcvt (eFcvt d r) (c7 (eFcTy s)) = .ok (d, s, r) := by cases d with
  | f d => cases s with
    | f s => cases d <;> cases s <;> cases r <;> rfl
    | e4m3 => cases d <;> cases r <;> rfl
    | e5m2 => cases d <;> cases r <;> rfl
  | e4m3 => cases s with
    | f s => cases s <;> cases r <;> rfl
    | e4m3 => cases r <;> rfl
    | e5m2 => cases r <;> rfl
  | e5m2 => cases s with
    | f s => cases s <;> cases r <;> rfl
    | e4m3 => cases r <;> rfl
    | e5m2 => cases r <;> rfl
theorem tmFcvti_eITy (d : ITy) (s : FcTy) : tmFcvti (tmOf (eITy d)) (c7 (eFcTy s)) = .ok (d, s) := by cases s with
  | f s => cases d <;> cases s <;> rfl
  | e4m3 => cases d <;> rfl
  | e5m2 => cases d <;> rfl
theorem tmIcvtf_eFcvt (d : FcTy) (s : ITy) (r : Rm) : tmIcvtf (eFcvt d r) (c7 (eITy s)) = .ok (d, s, r) := by cases d with
  | f d => cases d <;> cases s <;> cases r <;> rfl
  | e4m3 => cases s <;> cases r <;> rfl
  | e5m2 => cases s <;> cases r <;> rfl
theorem tmFxcvt_eFxcvt (x : FxCvt) : tmFxcvt (eFxcvt x).1 (eFxcvt x).2 = .ok x := by cases x with
  | ofFp f s => cases s <;> exact congrArg (fun g => Chk.ok (FxCvt.ofFp g _)) (fin64_b6 f)
  | ofInt f s t => cases s <;> cases t <;> exact congrArg (fun g => Chk.ok (FxCvt.ofInt g _ _)) (fin64_b6 f)
  | toFp d f r => cases d <;> cases r <;> exact congrArg (fun g => Chk.ok (FxCvt.toFp _ g _)) (fin64_b6 f)
  | toInt d f t => cases d <;> cases t <;> exact congrArg (fun g => Chk.ok (FxCvt.toInt _ g _)) (fin64_b6 f)
theorem tmMx_eMx (x : MxF) (t : MxT) (r : Rm) : tmMx (eMx x r) (c7 (eMxT t)) = .ok (x, t, r) := by cases x <;> cases t <;> cases r <;> rfl
theorem tmAA_eAA (x : AArith) : tmAA (eAA x) = .ok x := by cases x with
  | f32 r => cases r <;> rfl
  | f64 r => cases r <;> rfl
  | i32 s => cases s <;> rfl
theorem tmAV_eAV (x : AView) : tmAV (eAV x) = .ok x := by cases x <;> rfl
theorem tmAcvt_eAcvt (x : ACvt) (h : x.ok = true) : tmAcvt (eAcvt x).1 (eAcvt x).2 = .ok x := by cases x with
  | ff d s r =>
    cases d with
    | f d => revert h; cases d <;> cases s <;> cases r <;> decide
    | e4m3 => revert h; cases s <;> cases r <;> decide
    | e5m2 => revert h; cases s <;> cases r <;> decide
  | fi d s r =>
    cases d with
    | mk g l => revert h g l; cases s <;> cases r <;> decide
  | itof d r =>
    cases d with
    | f d => cases d <;> cases r <;> rfl
    | e4m3 => cases r <;> rfl
    | e5m2 => cases r <;> rfl
  | ii d s =>
    cases d with
    | mk g l => revert h g l s; decide
theorem tmVCmp_eVCmp (x : VCmp) : tmVCmp (eVCmp x).1 (BitVec.ofNat 8 (eVCmp x).2) = .ok x := by cases x with
  | int t c => cases t <;> cases c <;> rfl
  | fx f c => cases c <;> exact congrArg (fun g => Chk.ok (VCmp.fx g _)) (fin64_b6 f)
  | fp t c => cases c with
    | c c => cases t <;> cases c <;> rfl
    | un => cases t <;> rfl
theorem tmVcvt_eVcvt (x : VCvt) (h : (match x with | .ff d s _ => d != s | _ => true) = true) : tmVcvt (eVcvt x).1 (eVcvt x).2 = .ok x := by cases x with
  | ff d s r =>
    revert h
    cases d with
    | f d => cases s with
      | f s => cases d <;> cases s <;> cases r <;> decide
      | e4m3 => cases d <;> cases r <;> decide
      | e5m2 => cases d <;> cases r <;> decide
    | e4m3 => cases s with
      | f s => cases s <;> cases r <;> decide
      | e4m3 => cases r <;> decide
      | e5m2 => cases r <;> decide
    | e5m2 => cases s with
      | f s => cases s <;> cases r <;> decide
      | e4m3 => cases r <;> decide
      | e5m2 => cases r <;> decide
  | fi d s r => cases s with
    | f s => cases d <;> cases s <;> cases r <;> rfl
    | e4m3 => cases d <;> cases r <;> rfl
    | e5m2 => cases d <;> cases r <;> rfl
  | ffx f s r => cases s with
    | f s => cases s <;> cases r <;> exact congrArg (fun g => Chk.ok (VCvt.ffx g _ _)) (fin64_b6 f)
    | e4m3 => cases r <;> exact congrArg (fun g => Chk.ok (VCvt.ffx g _ _)) (fin64_b6 f)
    | e5m2 => cases r <;> exact congrArg (fun g => Chk.ok (VCvt.ffx g _ _)) (fin64_b6 f)
  | itof d s r => cases d with
    | f d => cases d <;> cases s <;> cases r <;> rfl
    | e4m3 => cases s <;> cases r <;> rfl
    | e5m2 => cases s <;> cases r <;> rfl
  | fxf d f r => cases d with
    | f d => cases d <;> cases r <;> exact congrArg (fun g => Chk.ok (VCvt.fxf _ g _)) (fin64_b6 f)
    | e4m3 => cases r <;> exact congrArg (fun g => Chk.ok (VCvt.fxf _ g _)) (fin64_b6 f)
    | e5m2 => cases r <;> exact congrArg (fun g => Chk.ok (VCvt.fxf _ g _)) (fin64_b6 f)
  | ifx f s t r => cases s <;> cases t <;> cases r <;> exact congrArg (fun g => Chk.ok (VCvt.ifx g _ _ _)) (fin64_b6 f)
  | fxi d f r => cases d <;> cases r <;> exact congrArg (fun g => Chk.ok (VCvt.fxi _ g _)) (fin64_b6 f)
/-! ## Condition codes, fused forms, small tables -/

theorem dCc_eCc (c : Cc) : dCc (BitVec.ofNat 8 (eCc c)).toNat = .ok c := by cases c <;> rfl
theorem dFcc_eFcc (c : Fcc) : dFcc (BitVec.ofNat 8 (eFcc c)).toNat = .ok c := by
  cases c with
  | c c => cases c <;> rfl
  | un => rfl
theorem dFma_eFma (c : FmaOp) : dFma (BitVec.ofNat 8 (eFma c)).toNat = .ok c := by cases c <;> rfl
theorem dRmw_eRmw (o : RmwOp) : dRmw (BitVec.ofNat 8 (eRmw o)).toNat = .ok o := by cases o <;> rfl
theorem dComb_eComb (o : CombOp) : dComb (BitVec.ofNat 8 (eComb o)).toNat = .ok o := by cases o <;> rfl
theorem dIx0_eIx0 (t : IxTy0) (x : BitVec 28) : dIx0 (fld (b4 (eIx0 t) ++ x) 28 4).toNat = .ok t := by
  have h : fld (b4 (eIx0 t) ++ x) 28 4 = b4 (eIx0 t) := ext_hi (by decide) BitVec.extractLsb'_eq_self
  rw [h]
  cases t with
  | i t => cases t <;> rfl
  | fx => rfl
theorem fld_cmpi (t : IxTy0) (x : BitVec 28) : fld (b4 (eIx0 t) ++ x) 0 28 = x := ext_lo (by decide) BitVec.extractLsb'_eq_self
theorem dMmFmt_eMmFmt (x : MmFmt) : dMmFmt (BitVec.ofNat 8 (eMmFmt x)).toNat = .ok x := by
  cases x with
  | mx m => cases m <;> rfl
  | _ => rfl
theorem dRm_eRm (r : Rm) : dRm (b3 (eRm r)).toNat = .ok r := by cases r <;> rfl

/-! ## MOD outside R52 -/

theorem fld_eWid (w : BitVec 2) : fld (eWid w) 0 2 = w := ext_lo (by decide) BitVec.extractLsb'_eq_self
theorem eWid_lt : ∀ w : BitVec 2, decide ((eWid w).toNat < 4) = true := by decide
theorem fld_eSend_w (w : BitVec 2) (t : BitVec 7 × BitVec 8 × Bool) : fld (eSend w t) 0 2 = w :=
  ext_lo (by decide) (ext_lo (by decide) (ext_lo (by decide) BitVec.extractLsb'_eq_self))
theorem fld_eSend_ts (w : BitVec 2) (t : BitVec 7 × BitVec 8 × Bool) : fld (eSend w t) 2 1 = ofB t.2.2 :=
  ext_lo (by decide) (ext_lo (by decide) (ext_hi (by decide) BitVec.extractLsb'_eq_self))
theorem fld_eSend_z (w : BitVec 2) (t : BitVec 7 × BitVec 8 × Bool) : fld (eSend w t) 3 5 = 0#5 :=
  ext_lo (by decide) (ext_hi (by decide) BitVec.extractLsb'_eq_self)
theorem fld_eSend_tag (w : BitVec 2) (t : BitVec 7 × BitVec 8 × Bool) : fld (eSend w t) 8 8 = t.2.1 :=
  ext_hi (by decide) BitVec.extractLsb'_eq_self
theorem fld_eNb_w (w : BitVec 2) (d : Fin 4) (t : BitVec 7 × BitVec 8 × Bool) : fld (eNb w d t) 0 2 = w :=
  ext_lo (by decide) (ext_lo (by decide) (ext_lo (by decide) (ext_lo (by decide) BitVec.extractLsb'_eq_self)))
theorem fld_eNb_ts (w : BitVec 2) (d : Fin 4) (t : BitVec 7 × BitVec 8 × Bool) : fld (eNb w d t) 2 1 = ofB t.2.2 :=
  ext_lo (by decide) (ext_lo (by decide) (ext_lo (by decide) (ext_hi (by decide) BitVec.extractLsb'_eq_self)))
theorem fld_eNb_dir (w : BitVec 2) (d : Fin 4) (t : BitVec 7 × BitVec 8 × Bool) : fld (eNb w d t) 3 2 = BitVec.ofNat 2 d :=
  ext_lo (by decide) (ext_lo (by decide) (ext_hi (by decide) BitVec.extractLsb'_eq_self))
theorem fld_eNb_z (w : BitVec 2) (d : Fin 4) (t : BitVec 7 × BitVec 8 × Bool) : fld (eNb w d t) 5 3 = 0#3 :=
  ext_lo (by decide) (ext_hi (by decide) BitVec.extractLsb'_eq_self)
theorem fld_eNb_tag (w : BitVec 2) (d : Fin 4) (t : BitVec 7 × BitVec 8 × Bool) : fld (eNb w d t) 8 8 = t.2.1 :=
  ext_hi (by decide) BitVec.extractLsb'_eq_self
theorem eNb_lt : ∀ (w : BitVec 2) (d : Fin 4), decide ((eNb w d (0#7, 0#8, false)).toNat < 32) = true := by decide
theorem eNb_2 : ∀ (w : BitVec 2) (d : Fin 4), (fld (eNb w d (0#7, 0#8, false)) 2 1 == 0#1) = true := by decide
theorem fin4_ofNat : ∀ d : Fin 4, fin 4 (BitVec.ofNat 2 d).toNat = d := by decide
theorem dTag_eTag {mn : BitVec 8} {d a c : BitVec 7} {ty : BitVec 4} {md : BitVec 16} (t : TagSrc) (h1 : fld md 2 1 = ofB (eTag t).2.2) (h2 : fld md 8 8 = (eTag t).2.1) :
    dTag { mn := mn, d := d, a := a, b := (eTag t).1, c := c, ty := ty, md := md } = .ok t := by
  unfold dTag
  simp only [h1, h2]
  cases t with
  | imm x => rfl
  | reg b => simp only [eTag, dSS_eSS]; rfl
theorem dTag_eSend {mn : BitVec 8} {d a c : BitVec 7} {ty : BitVec 4} (w : BitVec 2) (t : TagSrc) :
    dTag { mn := mn, d := d, a := a, b := (eTag t).1, c := c, ty := ty, md := eSend w (eTag t) } = .ok t :=
  dTag_eTag t (fld_eSend_ts _ _) (fld_eSend_tag _ _)
theorem dTag_eNb {mn : BitVec 8} {d a c : BitVec 7} {ty : BitVec 4} (w : BitVec 2) (x : Fin 4) (t : TagSrc) :
    dTag { mn := mn, d := d, a := a, b := (eTag t).1, c := c, ty := ty, md := eNb w x (eTag t) } = .ok t :=
  dTag_eTag t (fld_eNb_ts _ _ _) (fld_eNb_tag _ _ _)

theorem fld_code (c : BitVec 8) : fld (0#8 ++ c) 0 8 = c := ext_lo (by decide) BitVec.extractLsb'_eq_self
theorem code_lt : ∀ c : BitVec 8, decide ((0#8 ++ c).toNat < 256) = true := by decide
theorem code_ne (c : BitVec 8) (h : (c != 0#8) = true) : (fld (0#8 ++ c) 0 8 != 0#8) = true := by rw [fld_code]; exact h
theorem fin8_m16 : ∀ g : Fin 8, fin 8 (m16 g).toNat = g := by decide
theorem m16_lt8 : ∀ g : Fin 8, decide ((m16 g).toNat < 8) = true := by decide
theorem fin16_m16 : ∀ g : Fin 16, fin 16 (m16 g).toNat = g := by decide
theorem m16_lt16 : ∀ g : Fin 16, decide ((m16 g).toNat < 16) = true := by decide
theorem m16_ne : ∀ g : Fin 16, (g != 0) = true → (fld (m16 g) 0 4 != 0#4) = true := by decide
theorem fin3_m16 : ∀ g : Fin 3, fin 3 (m16 g).toNat = g := by decide
theorem m16_lt3 : ∀ g : Fin 3, decide ((m16 g).toNat < 3) = true := by decide
theorem fin8_c7 : ∀ k : Fin 8, fin 8 (c7 k).toNat = k := by decide
theorem c7_lt8 : ∀ k : Fin 8, decide ((c7 k).toNat < 8) = true := by decide
theorem gbar_mask (e : Bool) (m : BitVec 8) : fld (0#7 ++ (ofB e ++ m)) 0 8 = m :=
  ext_lo (by decide) (ext_lo (by decide) BitVec.extractLsb'_eq_self)
theorem gbar_end (e : Bool) (m : BitVec 8) : fld (0#7 ++ (ofB e ++ m)) 8 1 = ofB e :=
  ext_lo (by decide) (ext_hi (by decide) BitVec.extractLsb'_eq_self)
theorem gbar_lt : ∀ (e : Bool) (m : BitVec 8), decide ((0#7 ++ (ofB e ++ m)).toNat < 512) = true := by decide
theorem eBuf_lt : ∀ (n : Fin 8) (x : BitVec 1), decide ((eBuf n x).toNat < 16) = true := by decide
theorem fld_eBuf_n (n : Fin 8) (x : BitVec 1) : fld (eBuf n x) 0 3 = b3 n :=
  ext_lo (by decide) (ext_lo (by decide) BitVec.extractLsb'_eq_self)
theorem fld_eBuf_f (n : Fin 8) (x : BitVec 1) : fld (eBuf n x) 3 1 = x :=
  ext_lo (by decide) (ext_hi (by decide) BitVec.extractLsb'_eq_self)
theorem dBS_eBS {mn : BitVec 8} {d b c : BitVec 7} {ty : BitVec 4} (n : Fin 8) (x : BSrc) :
    dBS { mn := mn, d := d, a := (eBS x).1, b := b, c := c, ty := ty, md := eBuf n (eBS x).2 } = .ok x := by
  unfold dBS
  simp only [fld_eBuf_f]
  cases x with
  | tcm a => simp only [eBS, dSS_eSS]; rfl
  | vec a => simp only [eBS, dVS_eVS]; rfl
theorem dBD_eBD {mn : BitVec 8} {b c : BitVec 7} {ty : BitVec 4} (n : Fin 8) (x : BDst) :
    dBD { mn := mn, d := (eBD x).1, a := (eBD x).2.1, b := b, c := c, ty := ty, md := eBuf n (eBD x).2.2 } = .ok x := by
  unfold dBD
  simp only [fld_eBuf_f]
  cases x with
  | tcm d a => simp only [eBD, dSS_eSS, dP_eP]; rfl
  | vec d => simp only [eBD, dVD_eVD]; rfl
theorem otpub_n (n : Fin 16) : fin 16 (fld (0#11 ++ (b4 n ++ 0#1)) 1 4).toNat = n := by revert n; decide
theorem otpub_0 (n : Fin 16) : fld (0#11 ++ (b4 n ++ 0#1)) 0 1 = 0#1 := by revert n; decide
theorem otpub_z (n : Fin 16) : (fld (0#11 ++ (b4 n ++ 0#1)) 5 11 == 0#11) = true := by revert n; decide
theorem otpub_ne : ∀ n : Fin 16, (n != 0) = true → (fld (0#11 ++ (b4 n ++ 0#1)) 1 4 != 0#4) = true := by decide
theorem circ_0 (l : BitVec 7) (x : Fin 8) : fld (0#4 ++ (l ++ (0#1 ++ (b3 x ++ 1#1)))) 0 1 = 1#1 :=
  ext_lo (by decide) (ext_lo (by decide) (ext_lo (by decide) (ext_lo (by decide) BitVec.extractLsb'_eq_self)))
theorem circ_x (l : BitVec 7) (x : Fin 8) : fld (0#4 ++ (l ++ (0#1 ++ (b3 x ++ 1#1)))) 1 3 = b3 x :=
  ext_lo (by decide) (ext_lo (by decide) (ext_lo (by decide) (ext_hi (by decide) BitVec.extractLsb'_eq_self)))
theorem circ_z (l : BitVec 7) (x : Fin 8) : fld (0#4 ++ (l ++ (0#1 ++ (b3 x ++ 1#1)))) 4 1 = 0#1 :=
  ext_lo (by decide) (ext_lo (by decide) (ext_hi (by decide) BitVec.extractLsb'_eq_self))
theorem circ_l (l : BitVec 7) (x : Fin 8) : fld (0#4 ++ (l ++ (0#1 ++ (b3 x ++ 1#1)))) 5 7 = l :=
  ext_lo (by decide) (ext_hi (by decide) BitVec.extractLsb'_eq_self)
theorem circ_t (l : BitVec 7) (x : Fin 8) : fld (0#4 ++ (l ++ (0#1 ++ (b3 x ++ 1#1)))) 12 4 = 0#4 :=
  ext_hi (by decide) BitVec.extractLsb'_eq_self
theorem dWCc_eCc (c : Cc) : dWCc (b3 (eCc c)) = .ok c := by cases c <;> rfl
theorem eWatch_cc (w : WatchF) : fld (eWatch w).2 0 3 = b3 (eCc w.cc) :=
  ext_lo (by decide) (ext_lo (by decide) (ext_lo (by decide) (ext_lo (by decide) BitVec.extractLsb'_eq_self)))
theorem eWatch_sp (w : WatchF) : fld (eWatch w).2 3 2 = eWSp w.space :=
  ext_lo (by decide) (ext_lo (by decide) (ext_lo (by decide) (ext_hi (by decide) BitVec.extractLsb'_eq_self)))
theorem eWatch_sc (w : WatchF) : fld (eWatch w).2 5 3 = eScope w.scope :=
  ext_lo (by decide) (ext_lo (by decide) (ext_hi (by decide) BitVec.extractLsb'_eq_self))
theorem eWatch_val (w : WatchF) : fld (eWatch w).2 8 1 = ofB w.dst.isSome :=
  ext_lo (by decide) (ext_hi (by decide) BitVec.extractLsb'_eq_self)
theorem eWatch_z (w : WatchF) : fld (eWatch w).2 9 7 = 0#7 := ext_hi (by decide) BitVec.extractLsb'_eq_self
theorem dWatch_eWatch {mn : BitVec 8} {d a b : BitVec 7} (w : WatchF) (h : w.ok = true) :
    dWatch { mn := mn, d := d, a := a, b := b, c := (eWatch w).1, ty := eWTy w.ty, md := (eWatch w).2 } = .ok w := by
  unfold dWatch
  simp only [eWatch_cc, eWatch_sp, eWatch_sc, eWatch_val, eWatch_z, dWCc_eCc, dWTy_eWTy, dWSp_eWSp, dScope_eScope]
  obtain ⟨cc, ty, sp, sc, dst⟩ := w
  cases dst with
  | none => cases sp <;> cases sc <;> first | rfl | cases h
  | some r => simp only [eWatch, dSR_eSR]; cases sp <;> cases sc <;> first | rfl | cases h

/-! ## Format M -/

theorem dMAddr_eM (m : MAddr) (mn : BitVec 8) (d x : BitVec 7) : dMAddr { eM m d x with mn := mn } = .ok m := by
  unfold dMAddr eM
  simp only [dSR_eSR, dScope_eScope, dOrd_eOrd, Chk.map_ok, Chk.ap_ok]
theorem mOk_ld {α : Type} {m : MAddr} {d x : BitVec 7} {y : Chk α} {p : Scope → Bool} {top : Nat} (h : m.ld p = true)
    (hp : ∀ sc, p sc = true → (eScope sc).toNat ≤ top) : mOk (eM m d x) top true false y = y := by
  obtain ⟨b, o, sc, od⟩ := m
  simp only [MAddr.ld, Bool.and_eq_true] at h
  have h1 := hp sc h.1
  have h2 := h.2
  unfold mOk eM
  simp only [h1]
  cases od <;> first | rfl | cases h2
theorem mOk_st {α : Type} {m : MAddr} {d x : BitVec 7} {y : Chk α} {p : Scope → Bool} {top : Nat} (h : m.st p = true)
    (hp : ∀ sc, p sc = true → (eScope sc).toNat ≤ top) : mOk (eM m d x) top false true y = y := by
  obtain ⟨b, o, sc, od⟩ := m
  simp only [MAddr.st, Bool.and_eq_true] at h
  have h1 := hp sc h.1
  have h2 := h.2
  unfold mOk eM
  simp only [h1]
  cases od <;> first | rfl | cases h2
theorem mOk_at {α : Type} {m : MAddr} {mn : BitVec 8} {d x : BitVec 7} {y : Chk α} {p : Scope → Bool} {top : Nat} (h : p m.scope = true)
    (hp : ∀ sc, p sc = true → (eScope sc).toNat ≤ top) : mOk { eM m d x with mn := mn } top true true y = y := by
  obtain ⟨b, o, sc, od⟩ := m
  have h1 := hp sc h
  unfold mOk eM
  simp only [h1]
  rfl
theorem mOk_none {α : Type} {m : MAddr} {d x : BitVec 7} {y : Chk α} {p : Scope → Bool} {top : Nat} (h : (p m.scope && m.ord == .none) = true)
    (hp : ∀ sc, p sc = true → (eScope sc).toNat ≤ top) : mOk (eM m d x) top false false y = y := by
  obtain ⟨b, o, sc, od⟩ := m
  simp only [Bool.and_eq_true] at h
  have h1 := hp sc h.1
  have h2 := h.2
  unfold mOk eM
  simp only [h1]
  cases od <;> first | rfl | cases h2
theorem tcm_le : ∀ sc : Scope, sc.tcm = true → (eScope sc).toNat ≤ 1 := by intro sc; cases sc <;> decide
theorem csp_le : ∀ sc : Scope, sc.csp = true → (eScope sc).toNat ≤ 2 := by intro sc; cases sc <;> decide
theorem any_le : ∀ sc : Scope, sc.any = true → (eScope sc).toNat ≤ 5 := by intro sc; cases sc <;> decide
theorem dLd_eLd (m : MAddr) (d : LdDst) : dLd (eLd m d) = .ok d := by
  cases d with
  | w z d =>
    unfold dLd eLd eM
    simp only [dSD_eSD]
    cases z <;> rfl
  | p d =>
    unfold dLd eLd eM
    simp only [dPD_ePD]
    rfl
theorem dSt_eSt (m : MAddr) (d : StSrc) : dSt (eSt m d) = .ok d := by
  cases d with
  | w z d =>
    unfold dSt eSt eM
    simp only [dSS_eSS]
    cases z <;> rfl
  | p d =>
    unfold dSt eSt eM
    simp only [dPS_ePS]
    rfl
theorem eLd_form (m : MAddr) (d : LdDst) : ∃ x y, eLd m d = eM m x y := by cases d <;> exact ⟨_, _, rfl⟩
theorem eSt_form (m : MAddr) (d : StSrc) : ∃ x y, eSt m d = eM m x y := by cases d <;> exact ⟨_, _, rfl⟩
theorem dLAt_eLAt (m : MAddr) (d : BitVec 7) (o : LAtomic) : dLAt { eM m d (eLAt o).2 with mn := (eLAt o).1 } = .ok o := by
  cases o with
  | rmw o a => cases o <;> (unfold dLAt eM; simp only [eLAt, dSS_eSS]; rfl)
  | cas a => unfold dLAt eM; simp only [eLAt, dPS_ePS]; rfl
  | binc a => unfold dLAt eM; simp only [eLAt, dSS_eSS]; rfl

/-! ## Format X -/

theorem dBlk_n2 (b : Blk) : dBlk (n2 b.acc) (n2 b.mt) (n2 b.nt) (n2 b.ro) (n2 b.co) = b := by
  unfold dBlk
  simp only [fin4_n2]
theorem fin64_ofNat6 : ∀ k : Fin 64, fin 64 (BitVec.ofNat 6 k).toNat = k := by decide
theorem eMmFmt_wide (x : MmFmt) : (BitVec.ofNat 8 (eMmFmt x) == 0#8) = (x == .f64) := by
  cases x with
  | mx m => cases m <;> rfl
  | _ => rfl
theorem eMmFmt_rm (x : MmFmt) (r : Rm) : (b3 (eRm r) == 0#3 || decide ((BitVec.ofNat 8 (eMmFmt x)).toNat < 2)) = (r == .dyn || x == .f64 || x == .f32) := by
  cases r <;> cases x with
  | mx m => cases m <;> rfl
  | _ => rfl
theorem dMma_eMma (f : MmaF) (sm : BitVec 5) (msp : BitVec 1) (h1 : f.rmOk = true) (h2 : f.blkOk = true) : dMma (eMma f sm msp 0#2) = .ok f := by
  obtain ⟨fmt, b, kt, sa, sb, asp, bsp, rm, za, wt, pt⟩ := f
  simp only [MmaF.rmOk] at h1
  simp only [MmaF.blkOk] at h2
  unfold dMma eMma
  simp only [dMmFmt_eMmFmt, dRm_eRm, dBlk_n2, fin64_ofNat6, fin32_n5, fin16_b4, bit1_ofB, eMmFmt_wide, eMmFmt_rm, h1, h2, Chk.map_ok, Chk.ap_ok,
    Chk.req_true, beq_self_eq_true]
theorem dAccMem_eAccMem (f : AccMemF) (h : f.blk.ok f.ew = true) : dAccMem (eAccMem f) = .ok f := by
  obtain ⟨b, ew, sa, asp, wt, pt⟩ := f
  unfold dAccMem eAccMem
  simp only at h
  simp only [dBlk_n2, fin32_n5, fin16_b4, bit1_ofB, h, Chk.req_true, beq_self_eq_true, Bool.and_self]
theorem dCpy_eCpy (f : CpyF) (h : f.ok = true) : dCpy (eCpy f) = .ok f := by
  obtain ⟨dsp, ssp, sd, ss, sl, label, wt, pt⟩ := f
  have h' : (eDSp dsp == 3#2 || label == 0#7) = true := by
    cases dsp <;> first | rfl | (simpa [CpyF.ok, eDSp] using h)
  unfold dCpy eCpy
  simp only [dDSp_eDSp, dSSp_eSSp, fin32_n5, fin16_b4, h', Chk.map_ok, Chk.ap_ok, Chk.req_true, beq_self_eq_true, Bool.and_self]

/-! ## Which decoder reads a word -/

theorem decodeOp_scalar {maj : BitVec 8} {f : FA} {m : Nat} (e : maj.toNat = m) (h1 : majOk m = true) (h2 : minOk m f.mn.toNat = true) (h3 : m ≠ 0)
    (h4 : m < 0x18 ∨ (0x1c < m ∧ m < 0x30)) : decodeOp (encA maj f) = decScalar m f := by
  simp only [encA, decodeOp, FA.toWord_maj, FA.toWord_mn, FA.ofWord_toWord, e, h1, h2]
  refine (if_neg (by decide)).trans ((if_neg (by decide)).trans ?_)
  rcases h4 with h4 | h4 <;>
  repeat first | rfl | refine (if_pos (by omega)).trans ?_ | refine (if_neg (by omega)).trans ?_
theorem decodeOp_channel {maj : BitVec 8} {f : FA} {m : Nat} (e : maj.toNat = m) (h1 : majOk m = true) (h2 : minOk m f.mn.toNat = true)
    (h4 : 0x30 ≤ m ∧ m < 0x40) : decodeOp (encA maj f) = decChannel m f := by
  simp only [encA, decodeOp, FA.toWord_maj, FA.toWord_mn, FA.ofWord_toWord, e, h1, h2]
  refine (if_neg (by decide)).trans ((if_neg (by decide)).trans ?_)
  repeat first | rfl | refine (if_pos (by omega)).trans ?_ | refine (if_neg (by omega)).trans ?_
theorem decodeOp_vector {maj : BitVec 8} {f : FA} {m : Nat} (e : maj.toNat = m) (h1 : majOk m = true) (h2 : minOk m f.mn.toNat = true)
    (h4 : 0x40 ≤ m ∧ m < 0x78) : decodeOp (encA maj f) = decVector m f := by
  simp only [encA, decodeOp, FA.toWord_maj, FA.toWord_mn, FA.ofWord_toWord, e, h1, h2]
  refine (if_neg (by decide)).trans ((if_neg (by decide)).trans ?_)
  repeat first | rfl | refine (if_pos (by omega)).trans ?_ | refine (if_neg (by omega)).trans ?_
theorem decodeOp_matrix {maj : BitVec 8} {f : FA} {m : Nat} (e : maj.toNat = m) (h1 : majOk m = true) (h2 : minOk m f.mn.toNat = true)
    (h4 : m = 0x83 ∨ (0x86 ≤ m ∧ m < 0x8c)) : decodeOp (encA maj f) = decMatrix m f := by
  simp only [encA, decodeOp, FA.toWord_maj, FA.toWord_mn, FA.ofWord_toWord, e, h1, h2]
  refine (if_neg (by decide)).trans ((if_neg (by decide)).trans ?_)
  repeat first | rfl | refine (if_pos (by omega)).trans ?_ | refine (if_neg (by omega)).trans ?_
theorem decodeOp_memA {maj : BitVec 8} {f : FA} {m : Nat} (e : maj.toNat = m) (h1 : majOk m = true) (h2 : minOk m f.mn.toNat = true)
    (h4 : (0x90 ≤ m ∧ m < 0x94) ∨ m = 0x9b ∨ (0xa5 ≤ m ∧ m < 0xaa) ∨ m = 0xab ∨ (0xb8 ≤ m ∧ m < 0xbb) ∨ (0xc0 ≤ m ∧ m < 0xc9) ∨
      (0xca ≤ m ∧ m < 0xcf)) : decodeOp (encA maj f) = decMemA m f := by
  simp only [encA, decodeOp, FA.toWord_maj, FA.toWord_mn, FA.ofWord_toWord, e, h1, h2]
  refine (if_neg (by decide)).trans ((if_neg (by decide)).trans ?_)
  repeat first | rfl | refine (if_pos (by omega)).trans ?_ | refine (if_neg (by omega)).trans ?_
theorem decodeOp_system {maj : BitVec 8} {f : FA} {m : Nat} (e : maj.toNat = m) (h1 : majOk m = true) (h2 : minOk m f.mn.toNat = true)
    (h4 : 0xd0 ≤ m) : decodeOp (encA maj f) = decSystem m f := by
  simp only [encA, decodeOp, FA.toWord_maj, FA.toWord_mn, FA.ofWord_toWord, e, h1, h2]
  refine (if_neg (by decide)).trans ((if_neg (by decide)).trans ?_)
  repeat first | rfl | refine (if_pos (by omega)).trans ?_ | refine (if_neg (by omega)).trans ?_
theorem decodeOp_i {maj : BitVec 8} {f : FI} {m : Nat} (e : maj.toNat = m) (h1 : majOk m = true) (h2 : minOk m f.mn.toNat = true)
    (h4 : 0x18 ≤ m ∧ m < 0x1c) : decodeOp (encI maj f) = decI m f := by
  simp only [encI, decodeOp, FI.toWord_maj, FI.toWord_mn, FI.ofWord_toWord, e, h1, h2]
  refine (if_neg (by decide)).trans ((if_neg (by decide)).trans ?_)
  repeat first | rfl | refine (if_pos (by omega)).trans ?_ | refine (if_neg (by omega)).trans ?_
theorem decodeOp_l {f : FL} (h2 : minOk 0x1c f.mn.toNat = true) : decodeOp (encL 0x1c#8 f) = decL f := by
  simp only [encL, decodeOp, FL.toWord_maj, FL.toWord_mn, FL.ofWord_toWord, show (0x1c#8).toNat = 0x1c from rfl, h2]
  rfl
theorem decodeOp_m {maj : BitVec 8} {f : FM} {m : Nat} (e : maj.toNat = m) (h1 : majOk m = true) (h2 : minOk m f.mn.toNat = true)
    (h4 : (0x94 ≤ m ∧ m ≤ 0x98) ∨ m = 0x9c ∨ m = 0x9d ∨ (0xa0 ≤ m ∧ m ≤ 0xa4) ∨ (0xb0 ≤ m ∧ m ≤ 0xb7) ∨ m = 0xbb ∨ m = 0xc9) :
    decodeOp (encM maj f) = decM m f := by
  simp only [encM, decodeOp, FM.toWord_maj, FM.toWord_mn, FM.ofWord_toWord, e, h1, h2]
  refine (if_neg (by decide)).trans ((if_neg (by decide)).trans ?_)
  repeat first | rfl | refine (if_pos (by omega)).trans ?_ | refine (if_neg (by omega)).trans ?_
theorem decodeOp_xm {maj : BitVec 8} {f : FXm} {m : Nat} (e : maj.toNat = m) (h1 : majOk m = true) (h2 : minOk m f.mn.toNat = true)
    (h4 : (0x80 ≤ m ∧ m ≤ 0x82) ∨ m = 0xaa) : decodeOp (encXm maj f) = decX m (encXm maj f) := by
  simp only [encXm, decodeOp, FXm.toWord_maj, FXm.toWord_mn, e, h1, h2]
  refine (if_neg (by decide)).trans ((if_neg (by decide)).trans ?_)
  repeat first | rfl | refine (if_pos (by omega)).trans ?_ | refine (if_neg (by omega)).trans ?_
theorem decodeOp_xa {maj : BitVec 8} {f : FXa} {m : Nat} (e : maj.toNat = m) (h1 : majOk m = true) (h2 : minOk m f.mn.toNat = true)
    (h4 : m = 0x84 ∨ m = 0x85) : decodeOp (encXa maj f) = decX m (encXa maj f) := by
  simp only [encXa, decodeOp, FXa.toWord_maj, FXa.toWord_mn, e, h1, h2]
  refine (if_neg (by decide)).trans ((if_neg (by decide)).trans ?_)
  repeat first | rfl | refine (if_pos (by omega)).trans ?_ | refine (if_neg (by omega)).trans ?_
theorem decodeOp_xc {maj : BitVec 8} {f : FXc} {m : Nat} (e : maj.toNat = m) (h1 : majOk m = true) (h2 : minOk m f.mn.toNat = true)
    (h4 : m = 0x99 ∨ m = 0x9a) : decodeOp (encXc maj f) = decX m (encXc maj f) := by
  simp only [encXc, decodeOp, FXc.toWord_maj, FXc.toWord_mn, e, h1, h2]
  refine (if_neg (by decide)).trans ((if_neg (by decide)).trans ?_)
  repeat first | rfl | refine (if_pos (by omega)).trans ?_ | refine (if_neg (by omega)).trans ?_


/-! ## Odds and ends -/

theorem fin64_ofNat32 : ∀ n : Fin 64, fin 64 (BitVec.ofNat 32 n).toNat = n := by decide
theorem ofNat32_lt64 : ∀ n : Fin 64, decide ((BitVec.ofNat 32 n).toNat < 64) = true := by decide
theorem FMod.ofWord_zero : FMod.ofWord 0#16 = mkMod (tmOf 0) .all := by decide
theorem FMod.tm_zero (n : Nat) : (mkMod (tmOf 0) .all).tm (b4 n) = tmOf n := rfl
theorem eVA_notFx (t : VArith) (h : t.notFx = true) : ((eVA t).ty != 14#4) = true := by
  cases t with
  | int t s => cases t <;> rfl
  | fx f s => cases h
  | fp t r => cases t <;> rfl
theorem eVA_isF (t : VArith) (h : t.isF = true) : ((eVA t).ty != 10#4 && (eVA t).ty != 11#4) = true := by
  cases t with
  | int t s => cases t <;> rfl
  | fx f s => rfl
  | fp t r => cases t <;> first | rfl | cases h
theorem tyLv_eVcvt (c : VCvt) : (tyLv (srcTy (eVcvt c).2) < tyLv (eVcvt c).1.ty.toNat) ↔ c.sw < c.dw := by
  cases c with
  | ff d s r => cases d with
    | f d => cases s with
      | f s => cases d <;> cases s <;> exact decide_eq_decide.mp rfl
      | _ => cases d <;> exact decide_eq_decide.mp rfl
    | _ => cases s with
      | f s => cases s <;> exact decide_eq_decide.mp rfl
      | _ => exact decide_eq_decide.mp rfl
  | fi d s r => cases s with
    | f s => cases d <;> cases s <;> exact decide_eq_decide.mp rfl
    | _ => cases d <;> exact decide_eq_decide.mp rfl
  | itof d s r => cases d with
    | f d => cases d <;> cases s <;> exact decide_eq_decide.mp rfl
    | _ => cases s <;> exact decide_eq_decide.mp rfl
  | ffx f s r => cases s with
    | f s => cases s <;> exact decide_eq_decide.mp rfl
    | _ => exact decide_eq_decide.mp rfl
  | fxf d f r => cases d with
    | f d => cases d <;> exact decide_eq_decide.mp rfl
    | _ => exact decide_eq_decide.mp rfl
  | ifx f s t r => cases s <;> exact decide_eq_decide.mp rfl
  | fxi d f r => cases d <;> exact decide_eq_decide.mp rfl
theorem dVcvtB_ok (c : VCvt) (b : SSrc) (mn : BitVec 8) (d a : BitVec 7) (md : BitVec 16) (h : c.ok b = true) :
    dVcvtB { mn := mn, d := d, a := a, b := eSS b, c := (eVcvt c).2, ty := (eVcvt c).1.ty, md := md } = .ok b := by
  have h2 := (Bool.and_eq_true_iff.mp h).2
  by_cases hw : c.sw < c.dw
  · rw [dVcvtB, if_pos ((tyLv_eVcvt c).mpr hw), dSS_eSS]
  · have e : b = .reg 0 := by simpa [hw] using h2
    subst e
    rw [dVcvtB, if_neg (fun x => hw ((tyLv_eVcvt c).mp x))]; rfl
theorem minOk_mma (x : MmFmt) : minOk 0x80 (BitVec.ofNat 8 (eMmFmt x)).toNat = true ∧ minOk 0xaa (BitVec.ofNat 8 (eMmFmt x)).toNat = true := by
  cases x with
  | mx m => cases m <;> exact ⟨rfl, rfl⟩
  | _ => exact ⟨rfl, rfl⟩
theorem minOk_mmas (x : MmFmt) (h : x.sparse = true) : minOk 0x81 (BitVec.ofNat 8 (eMmFmt x)).toNat = true ∧
    decide (2 ≤ (BitVec.ofNat 8 (eMmFmt x)).toNat ∧ (BitVec.ofNat 8 (eMmFmt x)).toNat < 8) = true := by
  cases x with
  | mx m => cases h
  | f64 => cases h
  | f32 => cases h
  | _ => exact ⟨rfl, rfl⟩
theorem minOk_mmv (x : MmFmt) (h : x.isMx = false) : minOk 0x82 (BitVec.ofNat 8 (eMmFmt x)).toNat = true ∧
    decide ((BitVec.ofNat 8 (eMmFmt x)).toNat < 16) = true := by
  cases x with
  | mx m => cases h
  | _ => exact ⟨rfl, rfl⟩
theorem n5_even (r : SReg) (h : even r = true) : (fld (n5 r) 0 1 == 0#1) = true := by revert r; decide
theorem n5_quad (r : SReg) (h : (r.val % 4 == 0 && decide (r.val < 16)) = true) :
    (decide ((n5 r).toNat < 16) && fld (n5 r) 0 2 == 0#2) = true := by revert r; decide
theorem fin32_n5f : ∀ k : Fin 32, fin 32 (BitVec.ofNat 5 k).toNat = k := by decide
theorem dMAddr_eM_self (m : MAddr) (d x : BitVec 7) : dMAddr (eM m d x) = .ok m := dMAddr_eM m 0#8 d x

end Sys2Proof
end

