-- ==== Sys2Proof/Laws/State.lean ====
section
/-! SUPPORT. What each update of the state leaves: one lemma per field and update, so that no proof unfolds a record update. -/

namespace Sys2Proof.Machine
open Sys2Proof


/-! ## `State.onTile` -/

@[simp] theorem State.onTile_clock (s : State) (f : Tile → Tile) : (s.onTile f).clock = s.clock := rfl
@[simp] theorem State.onTile_cur (s : State) (f : Tile → Tile) : (s.onTile f).cur = s.cur := rfl
@[simp] theorem State.onTile_tile (s : State) (f : Tile → Tile) : (s.onTile f).tile = f s.tile := rfl
@[simp] theorem State.onTile_others (s : State) (f : Tile → Tile) : (s.onTile f).others = s.others := rfl
@[simp] theorem State.onTile_clusters (s : State) (f : Tile → Tile) : (s.onTile f).clusters = s.clusters := rfl
@[simp] theorem State.onTile_dies (s : State) (f : Tile → Tile) : (s.onTile f).dies = s.dies := rfl
@[simp] theorem State.onTile_mem (s : State) (f : Tile → Tile) : (s.onTile f).mem = s.mem := rfl
@[simp] theorem State.onTile_hearth (s : State) (f : Tile → Tile) : (s.onTile f).hearth = s.hearth := rfl
@[simp] theorem State.onTile_coord (s : State) (f : Tile → Tile) : (s.onTile f).coord = s.coord := rfl
@[simp] theorem State.onTile_winder (s : State) (f : Tile → Tile) : (s.onTile f).winder = s.winder := rfl
@[simp] theorem State.onTile_host (s : State) (f : Tile → Tile) : (s.onTile f).host = s.host := rfl
@[simp] theorem State.onTile_saloc (s : State) (f : Tile → Tile) : (s.onTile f).saloc = s.saloc := rfl
@[simp] theorem State.onTile_fab (s : State) (f : Tile → Tile) : (s.onTile f).fab = s.fab := rfl
@[simp] theorem State.onTile_stage (s : State) (f : Tile → Tile) : (s.onTile f).stage = s.stage := rfl
@[simp] theorem State.onTile_fire (s : State) (f : Tile → Tile) : (s.onTile f).fire = s.fire := rfl
@[simp] theorem State.onTile_todo (s : State) (f : Tile → Tile) : (s.onTile f).todo = s.todo := rfl
@[simp] theorem State.onTile_agenda (s : State) (f : Tile → Tile) : (s.onTile f).agenda = s.agenda := rfl
@[simp] theorem State.onTile_ev (s : State) (f : Tile → Tile) : (s.onTile f).ev = s.ev := rfl
@[simp] theorem State.onTile_queue (s : State) (f : Tile → Tile) : (s.onTile f).queue = s.queue := rfl
@[simp] theorem State.onTile_out (s : State) (f : Tile → Tile) : (s.onTile f).out = s.out := rfl
@[simp] theorem State.onTile_free (s : State) (f : Tile → Tile) : (s.onTile f).free = s.free := rfl

/-! ## `State.push` -/

@[simp] theorem State.push_clock (s : State) (l : List Ev) : (s.push l).clock = s.clock := rfl
@[simp] theorem State.push_cur (s : State) (l : List Ev) : (s.push l).cur = s.cur := rfl
@[simp] theorem State.push_tile (s : State) (l : List Ev) : (s.push l).tile = s.tile := rfl
@[simp] theorem State.push_others (s : State) (l : List Ev) : (s.push l).others = s.others := rfl
@[simp] theorem State.push_clusters (s : State) (l : List Ev) : (s.push l).clusters = s.clusters := rfl
@[simp] theorem State.push_dies (s : State) (l : List Ev) : (s.push l).dies = s.dies := rfl
@[simp] theorem State.push_mem (s : State) (l : List Ev) : (s.push l).mem = s.mem := rfl
@[simp] theorem State.push_hearth (s : State) (l : List Ev) : (s.push l).hearth = s.hearth := rfl
@[simp] theorem State.push_coord (s : State) (l : List Ev) : (s.push l).coord = s.coord := rfl
@[simp] theorem State.push_winder (s : State) (l : List Ev) : (s.push l).winder = s.winder := rfl
@[simp] theorem State.push_host (s : State) (l : List Ev) : (s.push l).host = s.host := rfl
@[simp] theorem State.push_saloc (s : State) (l : List Ev) : (s.push l).saloc = s.saloc := rfl
@[simp] theorem State.push_fab (s : State) (l : List Ev) : (s.push l).fab = s.fab := rfl
@[simp] theorem State.push_stage (s : State) (l : List Ev) : (s.push l).stage = s.stage := rfl
@[simp] theorem State.push_fire (s : State) (l : List Ev) : (s.push l).fire = s.fire := rfl
@[simp] theorem State.push_todo (s : State) (l : List Ev) : (s.push l).todo = s.todo := rfl
@[simp] theorem State.push_agenda (s : State) (l : List Ev) : (s.push l).agenda = s.agenda ++ l := rfl
@[simp] theorem State.push_ev (s : State) (l : List Ev) : (s.push l).ev = s.ev := rfl
@[simp] theorem State.push_queue (s : State) (l : List Ev) : (s.push l).queue = s.queue := rfl
@[simp] theorem State.push_out (s : State) (l : List Ev) : (s.push l).out = s.out := rfl
@[simp] theorem State.push_free (s : State) (l : List Ev) : (s.push l).free = s.free := rfl

/-! ## `State.atEnd` -/

@[simp] theorem State.atEnd_clock (s : State) (e : Ev) : (s.atEnd e).clock = s.clock := rfl
@[simp] theorem State.atEnd_cur (s : State) (e : Ev) : (s.atEnd e).cur = s.cur := rfl
@[simp] theorem State.atEnd_tile (s : State) (e : Ev) : (s.atEnd e).tile = s.tile := rfl
@[simp] theorem State.atEnd_others (s : State) (e : Ev) : (s.atEnd e).others = s.others := rfl
@[simp] theorem State.atEnd_clusters (s : State) (e : Ev) : (s.atEnd e).clusters = s.clusters := rfl
@[simp] theorem State.atEnd_dies (s : State) (e : Ev) : (s.atEnd e).dies = s.dies := rfl
@[simp] theorem State.atEnd_mem (s : State) (e : Ev) : (s.atEnd e).mem = s.mem := rfl
@[simp] theorem State.atEnd_hearth (s : State) (e : Ev) : (s.atEnd e).hearth = s.hearth := rfl
@[simp] theorem State.atEnd_coord (s : State) (e : Ev) : (s.atEnd e).coord = s.coord := rfl
@[simp] theorem State.atEnd_winder (s : State) (e : Ev) : (s.atEnd e).winder = s.winder := rfl
@[simp] theorem State.atEnd_host (s : State) (e : Ev) : (s.atEnd e).host = s.host := rfl
@[simp] theorem State.atEnd_saloc (s : State) (e : Ev) : (s.atEnd e).saloc = s.saloc := rfl
@[simp] theorem State.atEnd_fab (s : State) (e : Ev) : (s.atEnd e).fab = s.fab := rfl
@[simp] theorem State.atEnd_stage (s : State) (e : Ev) : (s.atEnd e).stage = s.stage := rfl
@[simp] theorem State.atEnd_fire (s : State) (e : Ev) : (s.atEnd e).fire = s.fire := rfl
@[simp] theorem State.atEnd_todo (s : State) (e : Ev) : (s.atEnd e).todo = s.todo := rfl
@[simp] theorem State.atEnd_agenda (s : State) (e : Ev) : (s.atEnd e).agenda = s.agenda := rfl
@[simp] theorem State.atEnd_ev (s : State) (e : Ev) : (s.atEnd e).ev = s.ev := rfl
@[simp] theorem State.atEnd_queue (s : State) (e : Ev) : (s.atEnd e).queue = qinsert s.clock e s.queue := rfl
@[simp] theorem State.atEnd_out (s : State) (e : Ev) : (s.atEnd e).out = s.out := rfl
@[simp] theorem State.atEnd_free (s : State) (e : Ev) : (s.atEnd e).free = s.free := rfl

/-! ## `State.emit` -/

@[simp] theorem State.emit_clock (s : State) (x : Out) : (s.emit x).clock = s.clock := rfl
@[simp] theorem State.emit_cur (s : State) (x : Out) : (s.emit x).cur = s.cur := rfl
@[simp] theorem State.emit_tile (s : State) (x : Out) : (s.emit x).tile = s.tile := rfl
@[simp] theorem State.emit_others (s : State) (x : Out) : (s.emit x).others = s.others := rfl
@[simp] theorem State.emit_clusters (s : State) (x : Out) : (s.emit x).clusters = s.clusters := rfl
@[simp] theorem State.emit_dies (s : State) (x : Out) : (s.emit x).dies = s.dies := rfl
@[simp] theorem State.emit_mem (s : State) (x : Out) : (s.emit x).mem = s.mem := rfl
@[simp] theorem State.emit_hearth (s : State) (x : Out) : (s.emit x).hearth = s.hearth := rfl
@[simp] theorem State.emit_coord (s : State) (x : Out) : (s.emit x).coord = s.coord := rfl
@[simp] theorem State.emit_winder (s : State) (x : Out) : (s.emit x).winder = s.winder := rfl
@[simp] theorem State.emit_host (s : State) (x : Out) : (s.emit x).host = s.host := rfl
@[simp] theorem State.emit_saloc (s : State) (x : Out) : (s.emit x).saloc = s.saloc := rfl
@[simp] theorem State.emit_fab (s : State) (x : Out) : (s.emit x).fab = s.fab := rfl
@[simp] theorem State.emit_stage (s : State) (x : Out) : (s.emit x).stage = s.stage := rfl
@[simp] theorem State.emit_fire (s : State) (x : Out) : (s.emit x).fire = s.fire := rfl
@[simp] theorem State.emit_todo (s : State) (x : Out) : (s.emit x).todo = s.todo := rfl
@[simp] theorem State.emit_agenda (s : State) (x : Out) : (s.emit x).agenda = s.agenda := rfl
@[simp] theorem State.emit_ev (s : State) (x : Out) : (s.emit x).ev = s.ev := rfl
@[simp] theorem State.emit_queue (s : State) (x : Out) : (s.emit x).queue = s.queue := rfl
@[simp] theorem State.emit_out (s : State) (x : Out) : (s.emit x).out = x :: s.out := rfl
@[simp] theorem State.emit_free (s : State) (x : Out) : (s.emit x).free = s.free := rfl

/-! ## `State.setClus` -/

@[simp] theorem State.setClus_clock (s : State) (k : Nat) (c : Cluster) : (s.setClus k c).clock = s.clock := rfl
@[simp] theorem State.setClus_cur (s : State) (k : Nat) (c : Cluster) : (s.setClus k c).cur = s.cur := rfl
@[simp] theorem State.setClus_tile (s : State) (k : Nat) (c : Cluster) : (s.setClus k c).tile = s.tile := rfl
@[simp] theorem State.setClus_others (s : State) (k : Nat) (c : Cluster) : (s.setClus k c).others = s.others := rfl
@[simp] theorem State.setClus_clusters (s : State) (k : Nat) (c : Cluster) : (s.setClus k c).clusters = mset Cluster.zero s.clusters k c := rfl
@[simp] theorem State.setClus_dies (s : State) (k : Nat) (c : Cluster) : (s.setClus k c).dies = s.dies := rfl
@[simp] theorem State.setClus_mem (s : State) (k : Nat) (c : Cluster) : (s.setClus k c).mem = s.mem := rfl
@[simp] theorem State.setClus_hearth (s : State) (k : Nat) (c : Cluster) : (s.setClus k c).hearth = s.hearth := rfl
@[simp] theorem State.setClus_coord (s : State) (k : Nat) (c : Cluster) : (s.setClus k c).coord = s.coord := rfl
@[simp] theorem State.setClus_winder (s : State) (k : Nat) (c : Cluster) : (s.setClus k c).winder = s.winder := rfl
@[simp] theorem State.setClus_host (s : State) (k : Nat) (c : Cluster) : (s.setClus k c).host = s.host := rfl
@[simp] theorem State.setClus_saloc (s : State) (k : Nat) (c : Cluster) : (s.setClus k c).saloc = s.saloc := rfl
@[simp] theorem State.setClus_fab (s : State) (k : Nat) (c : Cluster) : (s.setClus k c).fab = s.fab := rfl
@[simp] theorem State.setClus_stage (s : State) (k : Nat) (c : Cluster) : (s.setClus k c).stage = s.stage := rfl
@[simp] theorem State.setClus_fire (s : State) (k : Nat) (c : Cluster) : (s.setClus k c).fire = s.fire := rfl
@[simp] theorem State.setClus_todo (s : State) (k : Nat) (c : Cluster) : (s.setClus k c).todo = s.todo := rfl
@[simp] theorem State.setClus_agenda (s : State) (k : Nat) (c : Cluster) : (s.setClus k c).agenda = s.agenda := rfl
@[simp] theorem State.setClus_ev (s : State) (k : Nat) (c : Cluster) : (s.setClus k c).ev = s.ev := rfl
@[simp] theorem State.setClus_queue (s : State) (k : Nat) (c : Cluster) : (s.setClus k c).queue = s.queue := rfl
@[simp] theorem State.setClus_out (s : State) (k : Nat) (c : Cluster) : (s.setClus k c).out = s.out := rfl
@[simp] theorem State.setClus_free (s : State) (k : Nat) (c : Cluster) : (s.setClus k c).free = s.free := rfl

/-! ## `State.modClus` -/

@[simp] theorem State.modClus_clock (s : State) (k : Nat) (f : Cluster → Cluster) : (s.modClus k f).clock = s.clock := rfl
@[simp] theorem State.modClus_cur (s : State) (k : Nat) (f : Cluster → Cluster) : (s.modClus k f).cur = s.cur := rfl
@[simp] theorem State.modClus_tile (s : State) (k : Nat) (f : Cluster → Cluster) : (s.modClus k f).tile = s.tile := rfl
@[simp] theorem State.modClus_others (s : State) (k : Nat) (f : Cluster → Cluster) : (s.modClus k f).others = s.others := rfl
@[simp] theorem State.modClus_clusters (s : State) (k : Nat) (f : Cluster → Cluster) : (s.modClus k f).clusters = mset Cluster.zero s.clusters k (f (s.clus k)) := rfl
@[simp] theorem State.modClus_dies (s : State) (k : Nat) (f : Cluster → Cluster) : (s.modClus k f).dies = s.dies := rfl
@[simp] theorem State.modClus_mem (s : State) (k : Nat) (f : Cluster → Cluster) : (s.modClus k f).mem = s.mem := rfl
@[simp] theorem State.modClus_hearth (s : State) (k : Nat) (f : Cluster → Cluster) : (s.modClus k f).hearth = s.hearth := rfl
@[simp] theorem State.modClus_coord (s : State) (k : Nat) (f : Cluster → Cluster) : (s.modClus k f).coord = s.coord := rfl
@[simp] theorem State.modClus_winder (s : State) (k : Nat) (f : Cluster → Cluster) : (s.modClus k f).winder = s.winder := rfl
@[simp] theorem State.modClus_host (s : State) (k : Nat) (f : Cluster → Cluster) : (s.modClus k f).host = s.host := rfl
@[simp] theorem State.modClus_saloc (s : State) (k : Nat) (f : Cluster → Cluster) : (s.modClus k f).saloc = s.saloc := rfl
@[simp] theorem State.modClus_fab (s : State) (k : Nat) (f : Cluster → Cluster) : (s.modClus k f).fab = s.fab := rfl
@[simp] theorem State.modClus_stage (s : State) (k : Nat) (f : Cluster → Cluster) : (s.modClus k f).stage = s.stage := rfl
@[simp] theorem State.modClus_fire (s : State) (k : Nat) (f : Cluster → Cluster) : (s.modClus k f).fire = s.fire := rfl
@[simp] theorem State.modClus_todo (s : State) (k : Nat) (f : Cluster → Cluster) : (s.modClus k f).todo = s.todo := rfl
@[simp] theorem State.modClus_agenda (s : State) (k : Nat) (f : Cluster → Cluster) : (s.modClus k f).agenda = s.agenda := rfl
@[simp] theorem State.modClus_ev (s : State) (k : Nat) (f : Cluster → Cluster) : (s.modClus k f).ev = s.ev := rfl
@[simp] theorem State.modClus_queue (s : State) (k : Nat) (f : Cluster → Cluster) : (s.modClus k f).queue = s.queue := rfl
@[simp] theorem State.modClus_out (s : State) (k : Nat) (f : Cluster → Cluster) : (s.modClus k f).out = s.out := rfl
@[simp] theorem State.modClus_free (s : State) (k : Nat) (f : Cluster → Cluster) : (s.modClus k f).free = s.free := rfl

/-! ## `State.setDie` -/

@[simp] theorem State.setDie_clock (s : State) (d : Nat) (x : Die) : (s.setDie d x).clock = s.clock := rfl
@[simp] theorem State.setDie_cur (s : State) (d : Nat) (x : Die) : (s.setDie d x).cur = s.cur := rfl
@[simp] theorem State.setDie_tile (s : State) (d : Nat) (x : Die) : (s.setDie d x).tile = s.tile := rfl
@[simp] theorem State.setDie_others (s : State) (d : Nat) (x : Die) : (s.setDie d x).others = s.others := rfl
@[simp] theorem State.setDie_clusters (s : State) (d : Nat) (x : Die) : (s.setDie d x).clusters = s.clusters := rfl
@[simp] theorem State.setDie_dies (s : State) (d : Nat) (x : Die) : (s.setDie d x).dies = mset Die.zero s.dies d x := rfl
@[simp] theorem State.setDie_mem (s : State) (d : Nat) (x : Die) : (s.setDie d x).mem = s.mem := rfl
@[simp] theorem State.setDie_hearth (s : State) (d : Nat) (x : Die) : (s.setDie d x).hearth = s.hearth := rfl
@[simp] theorem State.setDie_coord (s : State) (d : Nat) (x : Die) : (s.setDie d x).coord = s.coord := rfl
@[simp] theorem State.setDie_winder (s : State) (d : Nat) (x : Die) : (s.setDie d x).winder = s.winder := rfl
@[simp] theorem State.setDie_host (s : State) (d : Nat) (x : Die) : (s.setDie d x).host = s.host := rfl
@[simp] theorem State.setDie_saloc (s : State) (d : Nat) (x : Die) : (s.setDie d x).saloc = s.saloc := rfl
@[simp] theorem State.setDie_fab (s : State) (d : Nat) (x : Die) : (s.setDie d x).fab = s.fab := rfl
@[simp] theorem State.setDie_stage (s : State) (d : Nat) (x : Die) : (s.setDie d x).stage = s.stage := rfl
@[simp] theorem State.setDie_fire (s : State) (d : Nat) (x : Die) : (s.setDie d x).fire = s.fire := rfl
@[simp] theorem State.setDie_todo (s : State) (d : Nat) (x : Die) : (s.setDie d x).todo = s.todo := rfl
@[simp] theorem State.setDie_agenda (s : State) (d : Nat) (x : Die) : (s.setDie d x).agenda = s.agenda := rfl
@[simp] theorem State.setDie_ev (s : State) (d : Nat) (x : Die) : (s.setDie d x).ev = s.ev := rfl
@[simp] theorem State.setDie_queue (s : State) (d : Nat) (x : Die) : (s.setDie d x).queue = s.queue := rfl
@[simp] theorem State.setDie_out (s : State) (d : Nat) (x : Die) : (s.setDie d x).out = s.out := rfl
@[simp] theorem State.setDie_free (s : State) (d : Nat) (x : Die) : (s.setDie d x).free = s.free := rfl

/-! ## `State.modDie` -/

@[simp] theorem State.modDie_clock (s : State) (d : Nat) (f : Die → Die) : (s.modDie d f).clock = s.clock := rfl
@[simp] theorem State.modDie_cur (s : State) (d : Nat) (f : Die → Die) : (s.modDie d f).cur = s.cur := rfl
@[simp] theorem State.modDie_tile (s : State) (d : Nat) (f : Die → Die) : (s.modDie d f).tile = s.tile := rfl
@[simp] theorem State.modDie_others (s : State) (d : Nat) (f : Die → Die) : (s.modDie d f).others = s.others := rfl
@[simp] theorem State.modDie_clusters (s : State) (d : Nat) (f : Die → Die) : (s.modDie d f).clusters = s.clusters := rfl
@[simp] theorem State.modDie_dies (s : State) (d : Nat) (f : Die → Die) : (s.modDie d f).dies = mset Die.zero s.dies d (f (s.die d)) := rfl
@[simp] theorem State.modDie_mem (s : State) (d : Nat) (f : Die → Die) : (s.modDie d f).mem = s.mem := rfl
@[simp] theorem State.modDie_hearth (s : State) (d : Nat) (f : Die → Die) : (s.modDie d f).hearth = s.hearth := rfl
@[simp] theorem State.modDie_coord (s : State) (d : Nat) (f : Die → Die) : (s.modDie d f).coord = s.coord := rfl
@[simp] theorem State.modDie_winder (s : State) (d : Nat) (f : Die → Die) : (s.modDie d f).winder = s.winder := rfl
@[simp] theorem State.modDie_host (s : State) (d : Nat) (f : Die → Die) : (s.modDie d f).host = s.host := rfl
@[simp] theorem State.modDie_saloc (s : State) (d : Nat) (f : Die → Die) : (s.modDie d f).saloc = s.saloc := rfl
@[simp] theorem State.modDie_fab (s : State) (d : Nat) (f : Die → Die) : (s.modDie d f).fab = s.fab := rfl
@[simp] theorem State.modDie_stage (s : State) (d : Nat) (f : Die → Die) : (s.modDie d f).stage = s.stage := rfl
@[simp] theorem State.modDie_fire (s : State) (d : Nat) (f : Die → Die) : (s.modDie d f).fire = s.fire := rfl
@[simp] theorem State.modDie_todo (s : State) (d : Nat) (f : Die → Die) : (s.modDie d f).todo = s.todo := rfl
@[simp] theorem State.modDie_agenda (s : State) (d : Nat) (f : Die → Die) : (s.modDie d f).agenda = s.agenda := rfl
@[simp] theorem State.modDie_ev (s : State) (d : Nat) (f : Die → Die) : (s.modDie d f).ev = s.ev := rfl
@[simp] theorem State.modDie_queue (s : State) (d : Nat) (f : Die → Die) : (s.modDie d f).queue = s.queue := rfl
@[simp] theorem State.modDie_out (s : State) (d : Nat) (f : Die → Die) : (s.modDie d f).out = s.out := rfl
@[simp] theorem State.modDie_free (s : State) (d : Nat) (f : Die → Die) : (s.modDie d f).free = s.free := rfl

/-! ## `State.setRec` -/

@[simp] theorem State.setRec_clock (s : State) (d i : Nat) (r : TRec) : (s.setRec d i r).clock = s.clock := rfl
@[simp] theorem State.setRec_cur (s : State) (d i : Nat) (r : TRec) : (s.setRec d i r).cur = s.cur := rfl
@[simp] theorem State.setRec_tile (s : State) (d i : Nat) (r : TRec) : (s.setRec d i r).tile = s.tile := rfl
@[simp] theorem State.setRec_others (s : State) (d i : Nat) (r : TRec) : (s.setRec d i r).others = s.others := rfl
@[simp] theorem State.setRec_clusters (s : State) (d i : Nat) (r : TRec) : (s.setRec d i r).clusters = s.clusters := rfl
@[simp] theorem State.setRec_mem (s : State) (d i : Nat) (r : TRec) : (s.setRec d i r).mem = s.mem := rfl
@[simp] theorem State.setRec_hearth (s : State) (d i : Nat) (r : TRec) : (s.setRec d i r).hearth = s.hearth := rfl
@[simp] theorem State.setRec_coord (s : State) (d i : Nat) (r : TRec) : (s.setRec d i r).coord = s.coord := rfl
@[simp] theorem State.setRec_winder (s : State) (d i : Nat) (r : TRec) : (s.setRec d i r).winder = s.winder := rfl
@[simp] theorem State.setRec_host (s : State) (d i : Nat) (r : TRec) : (s.setRec d i r).host = s.host := rfl
@[simp] theorem State.setRec_saloc (s : State) (d i : Nat) (r : TRec) : (s.setRec d i r).saloc = s.saloc := rfl
@[simp] theorem State.setRec_fab (s : State) (d i : Nat) (r : TRec) : (s.setRec d i r).fab = s.fab := rfl
@[simp] theorem State.setRec_stage (s : State) (d i : Nat) (r : TRec) : (s.setRec d i r).stage = s.stage := rfl
@[simp] theorem State.setRec_fire (s : State) (d i : Nat) (r : TRec) : (s.setRec d i r).fire = s.fire := rfl
@[simp] theorem State.setRec_todo (s : State) (d i : Nat) (r : TRec) : (s.setRec d i r).todo = s.todo := rfl
@[simp] theorem State.setRec_agenda (s : State) (d i : Nat) (r : TRec) : (s.setRec d i r).agenda = s.agenda := rfl
@[simp] theorem State.setRec_ev (s : State) (d i : Nat) (r : TRec) : (s.setRec d i r).ev = s.ev := rfl
@[simp] theorem State.setRec_queue (s : State) (d i : Nat) (r : TRec) : (s.setRec d i r).queue = s.queue := rfl
@[simp] theorem State.setRec_out (s : State) (d i : Nat) (r : TRec) : (s.setRec d i r).out = s.out := rfl
@[simp] theorem State.setRec_free (s : State) (d i : Nat) (r : TRec) : (s.setRec d i r).free = s.free := rfl

/-! ## `State.modRec` -/

@[simp] theorem State.modRec_clock (s : State) (d i : Nat) (f : TRec → TRec) : (s.modRec d i f).clock = s.clock := rfl
@[simp] theorem State.modRec_cur (s : State) (d i : Nat) (f : TRec → TRec) : (s.modRec d i f).cur = s.cur := rfl
@[simp] theorem State.modRec_tile (s : State) (d i : Nat) (f : TRec → TRec) : (s.modRec d i f).tile = s.tile := rfl
@[simp] theorem State.modRec_others (s : State) (d i : Nat) (f : TRec → TRec) : (s.modRec d i f).others = s.others := rfl
@[simp] theorem State.modRec_clusters (s : State) (d i : Nat) (f : TRec → TRec) : (s.modRec d i f).clusters = s.clusters := rfl
@[simp] theorem State.modRec_mem (s : State) (d i : Nat) (f : TRec → TRec) : (s.modRec d i f).mem = s.mem := rfl
@[simp] theorem State.modRec_hearth (s : State) (d i : Nat) (f : TRec → TRec) : (s.modRec d i f).hearth = s.hearth := rfl
@[simp] theorem State.modRec_coord (s : State) (d i : Nat) (f : TRec → TRec) : (s.modRec d i f).coord = s.coord := rfl
@[simp] theorem State.modRec_winder (s : State) (d i : Nat) (f : TRec → TRec) : (s.modRec d i f).winder = s.winder := rfl
@[simp] theorem State.modRec_host (s : State) (d i : Nat) (f : TRec → TRec) : (s.modRec d i f).host = s.host := rfl
@[simp] theorem State.modRec_saloc (s : State) (d i : Nat) (f : TRec → TRec) : (s.modRec d i f).saloc = s.saloc := rfl
@[simp] theorem State.modRec_fab (s : State) (d i : Nat) (f : TRec → TRec) : (s.modRec d i f).fab = s.fab := rfl
@[simp] theorem State.modRec_stage (s : State) (d i : Nat) (f : TRec → TRec) : (s.modRec d i f).stage = s.stage := rfl
@[simp] theorem State.modRec_fire (s : State) (d i : Nat) (f : TRec → TRec) : (s.modRec d i f).fire = s.fire := rfl
@[simp] theorem State.modRec_todo (s : State) (d i : Nat) (f : TRec → TRec) : (s.modRec d i f).todo = s.todo := rfl
@[simp] theorem State.modRec_agenda (s : State) (d i : Nat) (f : TRec → TRec) : (s.modRec d i f).agenda = s.agenda := rfl
@[simp] theorem State.modRec_ev (s : State) (d i : Nat) (f : TRec → TRec) : (s.modRec d i f).ev = s.ev := rfl
@[simp] theorem State.modRec_queue (s : State) (d i : Nat) (f : TRec → TRec) : (s.modRec d i f).queue = s.queue := rfl
@[simp] theorem State.modRec_out (s : State) (d i : Nat) (f : TRec → TRec) : (s.modRec d i f).out = s.out := rfl
@[simp] theorem State.modRec_free (s : State) (d i : Nat) (f : TRec → TRec) : (s.modRec d i f).free = s.free := rfl

/-! ## `State.setInst` -/

@[simp] theorem State.setInst_clock (s : State) (i : Nat) (x : Inst) : (s.setInst i x).clock = s.clock := rfl
@[simp] theorem State.setInst_cur (s : State) (i : Nat) (x : Inst) : (s.setInst i x).cur = s.cur := rfl
@[simp] theorem State.setInst_tile (s : State) (i : Nat) (x : Inst) : (s.setInst i x).tile = s.tile := rfl
@[simp] theorem State.setInst_others (s : State) (i : Nat) (x : Inst) : (s.setInst i x).others = s.others := rfl
@[simp] theorem State.setInst_clusters (s : State) (i : Nat) (x : Inst) : (s.setInst i x).clusters = s.clusters := rfl
@[simp] theorem State.setInst_dies (s : State) (i : Nat) (x : Inst) : (s.setInst i x).dies = s.dies := rfl
@[simp] theorem State.setInst_mem (s : State) (i : Nat) (x : Inst) : (s.setInst i x).mem = s.mem := rfl
@[simp] theorem State.setInst_hearth (s : State) (i : Nat) (x : Inst) : (s.setInst i x).hearth = s.hearth := rfl
@[simp] theorem State.setInst_coord (s : State) (i : Nat) (x : Inst) : (s.setInst i x).coord = { s.coord with insts := mset Inst.zero s.coord.insts i x } := rfl
@[simp] theorem State.setInst_winder (s : State) (i : Nat) (x : Inst) : (s.setInst i x).winder = s.winder := rfl
@[simp] theorem State.setInst_host (s : State) (i : Nat) (x : Inst) : (s.setInst i x).host = s.host := rfl
@[simp] theorem State.setInst_saloc (s : State) (i : Nat) (x : Inst) : (s.setInst i x).saloc = s.saloc := rfl
@[simp] theorem State.setInst_fab (s : State) (i : Nat) (x : Inst) : (s.setInst i x).fab = s.fab := rfl
@[simp] theorem State.setInst_stage (s : State) (i : Nat) (x : Inst) : (s.setInst i x).stage = s.stage := rfl
@[simp] theorem State.setInst_fire (s : State) (i : Nat) (x : Inst) : (s.setInst i x).fire = s.fire := rfl
@[simp] theorem State.setInst_todo (s : State) (i : Nat) (x : Inst) : (s.setInst i x).todo = s.todo := rfl
@[simp] theorem State.setInst_agenda (s : State) (i : Nat) (x : Inst) : (s.setInst i x).agenda = s.agenda := rfl
@[simp] theorem State.setInst_ev (s : State) (i : Nat) (x : Inst) : (s.setInst i x).ev = s.ev := rfl
@[simp] theorem State.setInst_queue (s : State) (i : Nat) (x : Inst) : (s.setInst i x).queue = s.queue := rfl
@[simp] theorem State.setInst_out (s : State) (i : Nat) (x : Inst) : (s.setInst i x).out = s.out := rfl
@[simp] theorem State.setInst_free (s : State) (i : Nat) (x : Inst) : (s.setInst i x).free = s.free := rfl

/-! ## `State.modInst` -/

@[simp] theorem State.modInst_clock (s : State) (i : Nat) (f : Inst → Inst) : (s.modInst i f).clock = s.clock := rfl
@[simp] theorem State.modInst_cur (s : State) (i : Nat) (f : Inst → Inst) : (s.modInst i f).cur = s.cur := rfl
@[simp] theorem State.modInst_tile (s : State) (i : Nat) (f : Inst → Inst) : (s.modInst i f).tile = s.tile := rfl
@[simp] theorem State.modInst_others (s : State) (i : Nat) (f : Inst → Inst) : (s.modInst i f).others = s.others := rfl
@[simp] theorem State.modInst_clusters (s : State) (i : Nat) (f : Inst → Inst) : (s.modInst i f).clusters = s.clusters := rfl
@[simp] theorem State.modInst_dies (s : State) (i : Nat) (f : Inst → Inst) : (s.modInst i f).dies = s.dies := rfl
@[simp] theorem State.modInst_mem (s : State) (i : Nat) (f : Inst → Inst) : (s.modInst i f).mem = s.mem := rfl
@[simp] theorem State.modInst_hearth (s : State) (i : Nat) (f : Inst → Inst) : (s.modInst i f).hearth = s.hearth := rfl
@[simp] theorem State.modInst_coord (s : State) (i : Nat) (f : Inst → Inst) : (s.modInst i f).coord = { s.coord with insts := mset Inst.zero s.coord.insts i (f (s.inst i)) } := rfl
@[simp] theorem State.modInst_winder (s : State) (i : Nat) (f : Inst → Inst) : (s.modInst i f).winder = s.winder := rfl
@[simp] theorem State.modInst_host (s : State) (i : Nat) (f : Inst → Inst) : (s.modInst i f).host = s.host := rfl
@[simp] theorem State.modInst_saloc (s : State) (i : Nat) (f : Inst → Inst) : (s.modInst i f).saloc = s.saloc := rfl
@[simp] theorem State.modInst_fab (s : State) (i : Nat) (f : Inst → Inst) : (s.modInst i f).fab = s.fab := rfl
@[simp] theorem State.modInst_stage (s : State) (i : Nat) (f : Inst → Inst) : (s.modInst i f).stage = s.stage := rfl
@[simp] theorem State.modInst_fire (s : State) (i : Nat) (f : Inst → Inst) : (s.modInst i f).fire = s.fire := rfl
@[simp] theorem State.modInst_todo (s : State) (i : Nat) (f : Inst → Inst) : (s.modInst i f).todo = s.todo := rfl
@[simp] theorem State.modInst_agenda (s : State) (i : Nat) (f : Inst → Inst) : (s.modInst i f).agenda = s.agenda := rfl
@[simp] theorem State.modInst_ev (s : State) (i : Nat) (f : Inst → Inst) : (s.modInst i f).ev = s.ev := rfl
@[simp] theorem State.modInst_queue (s : State) (i : Nat) (f : Inst → Inst) : (s.modInst i f).queue = s.queue := rfl
@[simp] theorem State.modInst_out (s : State) (i : Nat) (f : Inst → Inst) : (s.modInst i f).out = s.out := rfl
@[simp] theorem State.modInst_free (s : State) (i : Nat) (f : Inst → Inst) : (s.modInst i f).free = s.free := rfl

/-! ## `State.memWr` -/

@[simp] theorem State.memWr_clock (s : State) (a : Nat) (l : List Byte) : (s.memWr a l).clock = s.clock := rfl
@[simp] theorem State.memWr_cur (s : State) (a : Nat) (l : List Byte) : (s.memWr a l).cur = s.cur := rfl
@[simp] theorem State.memWr_tile (s : State) (a : Nat) (l : List Byte) : (s.memWr a l).tile = s.tile := rfl
@[simp] theorem State.memWr_others (s : State) (a : Nat) (l : List Byte) : (s.memWr a l).others = s.others := rfl
@[simp] theorem State.memWr_clusters (s : State) (a : Nat) (l : List Byte) : (s.memWr a l).clusters = s.clusters := rfl
@[simp] theorem State.memWr_dies (s : State) (a : Nat) (l : List Byte) : (s.memWr a l).dies = s.dies := rfl
@[simp] theorem State.memWr_mem (s : State) (a : Nat) (l : List Byte) : (s.memWr a l).mem = writeBytes s.mem a l := rfl
@[simp] theorem State.memWr_coord (s : State) (a : Nat) (l : List Byte) : (s.memWr a l).coord = s.coord := rfl
@[simp] theorem State.memWr_winder (s : State) (a : Nat) (l : List Byte) : (s.memWr a l).winder = s.winder := rfl
@[simp] theorem State.memWr_host (s : State) (a : Nat) (l : List Byte) : (s.memWr a l).host = s.host := rfl
@[simp] theorem State.memWr_saloc (s : State) (a : Nat) (l : List Byte) : (s.memWr a l).saloc = s.saloc := rfl
@[simp] theorem State.memWr_fab (s : State) (a : Nat) (l : List Byte) : (s.memWr a l).fab = s.fab := rfl
@[simp] theorem State.memWr_stage (s : State) (a : Nat) (l : List Byte) : (s.memWr a l).stage = s.stage := rfl
@[simp] theorem State.memWr_fire (s : State) (a : Nat) (l : List Byte) : (s.memWr a l).fire = s.fire := rfl
@[simp] theorem State.memWr_todo (s : State) (a : Nat) (l : List Byte) : (s.memWr a l).todo = s.todo := rfl
@[simp] theorem State.memWr_agenda (s : State) (a : Nat) (l : List Byte) : (s.memWr a l).agenda = s.agenda := rfl
@[simp] theorem State.memWr_ev (s : State) (a : Nat) (l : List Byte) : (s.memWr a l).ev = s.ev := rfl
@[simp] theorem State.memWr_queue (s : State) (a : Nat) (l : List Byte) : (s.memWr a l).queue = s.queue := rfl
@[simp] theorem State.memWr_out (s : State) (a : Nat) (l : List Byte) : (s.memWr a l).out = s.out := rfl
@[simp] theorem State.memWr_free (s : State) (a : Nat) (l : List Byte) : (s.memWr a l).free = s.free := rfl

/-! ## `State.setTile` -/

@[simp] theorem State.setTile_clock (s : State) (n : Nat) (t : Tile) : (s.setTile n t).clock = s.clock := by unfold State.setTile; split <;> rfl
@[simp] theorem State.setTile_cur (s : State) (n : Nat) (t : Tile) : (s.setTile n t).cur = s.cur := by unfold State.setTile; split <;> rfl
@[simp] theorem State.setTile_clusters (s : State) (n : Nat) (t : Tile) : (s.setTile n t).clusters = s.clusters := by unfold State.setTile; split <;> rfl
@[simp] theorem State.setTile_dies (s : State) (n : Nat) (t : Tile) : (s.setTile n t).dies = s.dies := by unfold State.setTile; split <;> rfl
@[simp] theorem State.setTile_mem (s : State) (n : Nat) (t : Tile) : (s.setTile n t).mem = s.mem := by unfold State.setTile; split <;> rfl
@[simp] theorem State.setTile_hearth (s : State) (n : Nat) (t : Tile) : (s.setTile n t).hearth = s.hearth := by unfold State.setTile; split <;> rfl
@[simp] theorem State.setTile_coord (s : State) (n : Nat) (t : Tile) : (s.setTile n t).coord = s.coord := by unfold State.setTile; split <;> rfl
@[simp] theorem State.setTile_winder (s : State) (n : Nat) (t : Tile) : (s.setTile n t).winder = s.winder := by unfold State.setTile; split <;> rfl
@[simp] theorem State.setTile_host (s : State) (n : Nat) (t : Tile) : (s.setTile n t).host = s.host := by unfold State.setTile; split <;> rfl
@[simp] theorem State.setTile_saloc (s : State) (n : Nat) (t : Tile) : (s.setTile n t).saloc = s.saloc := by unfold State.setTile; split <;> rfl
@[simp] theorem State.setTile_fab (s : State) (n : Nat) (t : Tile) : (s.setTile n t).fab = s.fab := by unfold State.setTile; split <;> rfl
@[simp] theorem State.setTile_stage (s : State) (n : Nat) (t : Tile) : (s.setTile n t).stage = s.stage := by unfold State.setTile; split <;> rfl
@[simp] theorem State.setTile_fire (s : State) (n : Nat) (t : Tile) : (s.setTile n t).fire = s.fire := by unfold State.setTile; split <;> rfl
@[simp] theorem State.setTile_todo (s : State) (n : Nat) (t : Tile) : (s.setTile n t).todo = s.todo := by unfold State.setTile; split <;> rfl
@[simp] theorem State.setTile_agenda (s : State) (n : Nat) (t : Tile) : (s.setTile n t).agenda = s.agenda := by unfold State.setTile; split <;> rfl
@[simp] theorem State.setTile_ev (s : State) (n : Nat) (t : Tile) : (s.setTile n t).ev = s.ev := by unfold State.setTile; split <;> rfl
@[simp] theorem State.setTile_queue (s : State) (n : Nat) (t : Tile) : (s.setTile n t).queue = s.queue := by unfold State.setTile; split <;> rfl
@[simp] theorem State.setTile_out (s : State) (n : Nat) (t : Tile) : (s.setTile n t).out = s.out := by unfold State.setTile; split <;> rfl
@[simp] theorem State.setTile_free (s : State) (n : Nat) (t : Tile) : (s.setTile n t).free = s.free := by unfold State.setTile; split <;> rfl

/-! ## `State.modTile` -/

@[simp] theorem State.modTile_clock (s : State) (n : Nat) (f : Tile → Tile) : (s.modTile n f).clock = s.clock := by unfold State.modTile State.setTile; split <;> rfl
@[simp] theorem State.modTile_cur (s : State) (n : Nat) (f : Tile → Tile) : (s.modTile n f).cur = s.cur := by unfold State.modTile State.setTile; split <;> rfl
@[simp] theorem State.modTile_clusters (s : State) (n : Nat) (f : Tile → Tile) : (s.modTile n f).clusters = s.clusters := by unfold State.modTile State.setTile; split <;> rfl
@[simp] theorem State.modTile_dies (s : State) (n : Nat) (f : Tile → Tile) : (s.modTile n f).dies = s.dies := by unfold State.modTile State.setTile; split <;> rfl
@[simp] theorem State.modTile_mem (s : State) (n : Nat) (f : Tile → Tile) : (s.modTile n f).mem = s.mem := by unfold State.modTile State.setTile; split <;> rfl
@[simp] theorem State.modTile_hearth (s : State) (n : Nat) (f : Tile → Tile) : (s.modTile n f).hearth = s.hearth := by unfold State.modTile State.setTile; split <;> rfl
@[simp] theorem State.modTile_coord (s : State) (n : Nat) (f : Tile → Tile) : (s.modTile n f).coord = s.coord := by unfold State.modTile State.setTile; split <;> rfl
@[simp] theorem State.modTile_winder (s : State) (n : Nat) (f : Tile → Tile) : (s.modTile n f).winder = s.winder := by unfold State.modTile State.setTile; split <;> rfl
@[simp] theorem State.modTile_host (s : State) (n : Nat) (f : Tile → Tile) : (s.modTile n f).host = s.host := by unfold State.modTile State.setTile; split <;> rfl
@[simp] theorem State.modTile_saloc (s : State) (n : Nat) (f : Tile → Tile) : (s.modTile n f).saloc = s.saloc := by unfold State.modTile State.setTile; split <;> rfl
@[simp] theorem State.modTile_fab (s : State) (n : Nat) (f : Tile → Tile) : (s.modTile n f).fab = s.fab := by unfold State.modTile State.setTile; split <;> rfl
@[simp] theorem State.modTile_stage (s : State) (n : Nat) (f : Tile → Tile) : (s.modTile n f).stage = s.stage := by unfold State.modTile State.setTile; split <;> rfl
@[simp] theorem State.modTile_fire (s : State) (n : Nat) (f : Tile → Tile) : (s.modTile n f).fire = s.fire := by unfold State.modTile State.setTile; split <;> rfl
@[simp] theorem State.modTile_todo (s : State) (n : Nat) (f : Tile → Tile) : (s.modTile n f).todo = s.todo := by unfold State.modTile State.setTile; split <;> rfl
@[simp] theorem State.modTile_agenda (s : State) (n : Nat) (f : Tile → Tile) : (s.modTile n f).agenda = s.agenda := by unfold State.modTile State.setTile; split <;> rfl
@[simp] theorem State.modTile_ev (s : State) (n : Nat) (f : Tile → Tile) : (s.modTile n f).ev = s.ev := by unfold State.modTile State.setTile; split <;> rfl
@[simp] theorem State.modTile_queue (s : State) (n : Nat) (f : Tile → Tile) : (s.modTile n f).queue = s.queue := by unfold State.modTile State.setTile; split <;> rfl
@[simp] theorem State.modTile_out (s : State) (n : Nat) (f : Tile → Tile) : (s.modTile n f).out = s.out := by unfold State.modTile State.setTile; split <;> rfl
@[simp] theorem State.modTile_free (s : State) (n : Nat) (f : Tile → Tile) : (s.modTile n f).free = s.free := by unfold State.modTile State.setTile; split <;> rfl

/-! ## `State.later` -/

@[simp] theorem State.later_clock (s : State) (n : Nat) (e : Ev) : (s.later n e).clock = s.clock := by unfold State.later; split <;> rfl
@[simp] theorem State.later_cur (s : State) (n : Nat) (e : Ev) : (s.later n e).cur = s.cur := by unfold State.later; split <;> rfl
@[simp] theorem State.later_tile (s : State) (n : Nat) (e : Ev) : (s.later n e).tile = s.tile := by unfold State.later; split <;> rfl
@[simp] theorem State.later_others (s : State) (n : Nat) (e : Ev) : (s.later n e).others = s.others := by unfold State.later; split <;> rfl
@[simp] theorem State.later_clusters (s : State) (n : Nat) (e : Ev) : (s.later n e).clusters = s.clusters := by unfold State.later; split <;> rfl
@[simp] theorem State.later_dies (s : State) (n : Nat) (e : Ev) : (s.later n e).dies = s.dies := by unfold State.later; split <;> rfl
@[simp] theorem State.later_mem (s : State) (n : Nat) (e : Ev) : (s.later n e).mem = s.mem := by unfold State.later; split <;> rfl
@[simp] theorem State.later_hearth (s : State) (n : Nat) (e : Ev) : (s.later n e).hearth = s.hearth := by unfold State.later; split <;> rfl
@[simp] theorem State.later_coord (s : State) (n : Nat) (e : Ev) : (s.later n e).coord = s.coord := by unfold State.later; split <;> rfl
@[simp] theorem State.later_winder (s : State) (n : Nat) (e : Ev) : (s.later n e).winder = s.winder := by unfold State.later; split <;> rfl
@[simp] theorem State.later_host (s : State) (n : Nat) (e : Ev) : (s.later n e).host = s.host := by unfold State.later; split <;> rfl
@[simp] theorem State.later_saloc (s : State) (n : Nat) (e : Ev) : (s.later n e).saloc = s.saloc := by unfold State.later; split <;> rfl
@[simp] theorem State.later_fab (s : State) (n : Nat) (e : Ev) : (s.later n e).fab = s.fab := by unfold State.later; split <;> rfl
@[simp] theorem State.later_stage (s : State) (n : Nat) (e : Ev) : (s.later n e).stage = s.stage := by unfold State.later; split <;> rfl
@[simp] theorem State.later_fire (s : State) (n : Nat) (e : Ev) : (s.later n e).fire = s.fire := by unfold State.later; split <;> rfl
@[simp] theorem State.later_todo (s : State) (n : Nat) (e : Ev) : (s.later n e).todo = s.todo := by unfold State.later; split <;> rfl
@[simp] theorem State.later_ev (s : State) (n : Nat) (e : Ev) : (s.later n e).ev = s.ev := by unfold State.later; split <;> rfl
@[simp] theorem State.later_out (s : State) (n : Nat) (e : Ev) : (s.later n e).out = s.out := by unfold State.later; split <;> rfl
@[simp] theorem State.later_free (s : State) (n : Nat) (e : Ev) : (s.later n e).free = s.free := by unfold State.later; split <;> rfl

/-! ## `State.focus` -/

@[simp] theorem State.focus_clock (s : State) (n : Nat) : (s.focus n).clock = s.clock := by unfold State.focus; split <;> rfl
@[simp] theorem State.focus_clusters (s : State) (n : Nat) : (s.focus n).clusters = s.clusters := by unfold State.focus; split <;> rfl
@[simp] theorem State.focus_dies (s : State) (n : Nat) : (s.focus n).dies = s.dies := by unfold State.focus; split <;> rfl
@[simp] theorem State.focus_mem (s : State) (n : Nat) : (s.focus n).mem = s.mem := by unfold State.focus; split <;> rfl
@[simp] theorem State.focus_hearth (s : State) (n : Nat) : (s.focus n).hearth = s.hearth := by unfold State.focus; split <;> rfl
@[simp] theorem State.focus_coord (s : State) (n : Nat) : (s.focus n).coord = s.coord := by unfold State.focus; split <;> rfl
@[simp] theorem State.focus_winder (s : State) (n : Nat) : (s.focus n).winder = s.winder := by unfold State.focus; split <;> rfl
@[simp] theorem State.focus_host (s : State) (n : Nat) : (s.focus n).host = s.host := by unfold State.focus; split <;> rfl
@[simp] theorem State.focus_saloc (s : State) (n : Nat) : (s.focus n).saloc = s.saloc := by unfold State.focus; split <;> rfl
@[simp] theorem State.focus_fab (s : State) (n : Nat) : (s.focus n).fab = s.fab := by unfold State.focus; split <;> rfl
@[simp] theorem State.focus_stage (s : State) (n : Nat) : (s.focus n).stage = s.stage := by unfold State.focus; split <;> rfl
@[simp] theorem State.focus_fire (s : State) (n : Nat) : (s.focus n).fire = s.fire := by unfold State.focus; split <;> rfl
@[simp] theorem State.focus_todo (s : State) (n : Nat) : (s.focus n).todo = s.todo := by unfold State.focus; split <;> rfl
@[simp] theorem State.focus_agenda (s : State) (n : Nat) : (s.focus n).agenda = s.agenda := by unfold State.focus; split <;> rfl
@[simp] theorem State.focus_ev (s : State) (n : Nat) : (s.focus n).ev = s.ev := by unfold State.focus; split <;> rfl
@[simp] theorem State.focus_queue (s : State) (n : Nat) : (s.focus n).queue = s.queue := by unfold State.focus; split <;> rfl
@[simp] theorem State.focus_out (s : State) (n : Nat) : (s.focus n).out = s.out := by unfold State.focus; split <;> rfl
@[simp] theorem State.focus_free (s : State) (n : Nat) : (s.focus n).free = s.free := by unfold State.focus; split <;> rfl

/-! ## Tiles -/

@[simp] theorem Tile.setCtx_store (t : Tile) (c : Fin 8) (x : Ctx) : (t.setCtx c x).store = t.store := rfl
@[simp] theorem Tile.setCtx_marks (t : Tile) (c : Fin 8) (x : Ctx) : (t.setCtx c x).marks = t.marks := rfl
@[simp] theorem Tile.setCtx_badslots (t : Tile) (c : Fin 8) (x : Ctx) : (t.setCtx c x).badslots = t.badslots := rfl
@[simp] theorem Tile.setCtx_ctxs (t : Tile) (c : Fin 8) (x : Ctx) : (t.setCtx c x).ctxs = t.ctxs.set c x := rfl
@[simp] theorem Tile.setCtx_acc (t : Tile) (c : Fin 8) (x : Ctx) : (t.setCtx c x).acc = t.acc := rfl
@[simp] theorem Tile.setCtx_strm (t : Tile) (c : Fin 8) (x : Ctx) : (t.setCtx c x).strm = t.strm := rfl
@[simp] theorem Tile.setCtx_tcm (t : Tile) (c : Fin 8) (x : Ctx) : (t.setCtx c x).tcm = t.tcm := rfl
@[simp] theorem Tile.setCtx_dead (t : Tile) (c : Fin 8) (x : Ctx) : (t.setCtx c x).dead = t.dead := rfl
@[simp] theorem Tile.setCtx_panels (t : Tile) (c : Fin 8) (x : Ctx) : (t.setCtx c x).panels = t.panels := rfl
@[simp] theorem Tile.setCtx_away (t : Tile) (c : Fin 8) (x : Ctx) : (t.setCtx c x).away = t.away := rfl
@[simp] theorem Tile.setCtx_tcmBad (t : Tile) (c : Fin 8) (x : Ctx) : (t.setCtx c x).tcmBad = t.tcmBad := rfl
@[simp] theorem Tile.setCtx_tcmSoft (t : Tile) (c : Fin 8) (x : Ctx) : (t.setCtx c x).tcmSoft = t.tcmSoft := rfl
@[simp] theorem Tile.setCtx_copies (t : Tile) (c : Fin 8) (x : Ctx) : (t.setCtx c x).copies = t.copies := rfl
@[simp] theorem Tile.setCtx_ops (t : Tile) (c : Fin 8) (x : Ctx) : (t.setCtx c x).ops = t.ops := rfl
@[simp] theorem Tile.setCtx_nextId (t : Tile) (c : Fin 8) (x : Ctx) : (t.setCtx c x).nextId = t.nextId := rfl
@[simp] theorem Tile.setCtx_units (t : Tile) (c : Fin 8) (x : Ctx) : (t.setCtx c x).units = t.units := rfl
@[simp] theorem Tile.setCtx_r (t : Tile) (c : Fin 8) (x : Ctx) : (t.setCtx c x).r = t.r := rfl
@[simp] theorem Tile.setCtx_tasks (t : Tile) (c : Fin 8) (x : Ctx) : (t.setCtx c x).tasks = t.tasks := rfl
@[simp] theorem Tile.setCtx_nq (t : Tile) (c : Fin 8) (x : Ctx) : (t.setCtx c x).nq = t.nq := rfl
@[simp] theorem Tile.setCtx_ncred (t : Tile) (c : Fin 8) (x : Ctx) : (t.setCtx c x).ncred = t.ncred := rfl
@[simp] theorem Tile.setCtx_gates (t : Tile) (c : Fin 8) (x : Ctx) : (t.setCtx c x).gates = t.gates := rfl
@[simp] theorem Tile.setCtx_fwd (t : Tile) (c : Fin 8) (x : Ctx) : (t.setCtx c x).fwd = t.fwd := rfl
@[simp] theorem Tile.setCtx_last (t : Tile) (c : Fin 8) (x : Ctx) : (t.setCtx c x).last = t.last := rfl
@[simp] theorem Tile.setCtx_nqBad (t : Tile) (c : Fin 8) (x : Ctx) : (t.setCtx c x).nqBad = t.nqBad := rfl
@[simp] theorem Tile.setCtx_husks (t : Tile) (c : Fin 8) (x : Ctx) : (t.setCtx c x).husks = t.husks := rfl
@[simp] theorem Tile.setCtx_nlink (t : Tile) (c : Fin 8) (x : Ctx) : (t.setCtx c x).nlink = t.nlink := rfl
@[simp] theorem Tile.setCtx_nout (t : Tile) (c : Fin 8) (x : Ctx) : (t.setCtx c x).nout = t.nout := rfl
@[simp] theorem Tile.setCtx_banks (t : Tile) (c : Fin 8) (x : Ctx) : (t.setCtx c x).banks = t.banks := rfl
@[simp] theorem Tile.setCtx_handed (t : Tile) (c : Fin 8) (x : Ctx) : (t.setCtx c x).handed = t.handed := rfl
@[simp] theorem Tile.modCtx_store (t : Tile) (c : Fin 8) (f : Ctx → Ctx) : (t.modCtx c f).store = t.store := rfl
@[simp] theorem Tile.modCtx_marks (t : Tile) (c : Fin 8) (f : Ctx → Ctx) : (t.modCtx c f).marks = t.marks := rfl
@[simp] theorem Tile.modCtx_badslots (t : Tile) (c : Fin 8) (f : Ctx → Ctx) : (t.modCtx c f).badslots = t.badslots := rfl
@[simp] theorem Tile.modCtx_ctxs (t : Tile) (c : Fin 8) (f : Ctx → Ctx) : (t.modCtx c f).ctxs = t.ctxs.set c (f (t.ctx c)) := rfl
@[simp] theorem Tile.modCtx_acc (t : Tile) (c : Fin 8) (f : Ctx → Ctx) : (t.modCtx c f).acc = t.acc := rfl
@[simp] theorem Tile.modCtx_strm (t : Tile) (c : Fin 8) (f : Ctx → Ctx) : (t.modCtx c f).strm = t.strm := rfl
@[simp] theorem Tile.modCtx_tcm (t : Tile) (c : Fin 8) (f : Ctx → Ctx) : (t.modCtx c f).tcm = t.tcm := rfl
@[simp] theorem Tile.modCtx_dead (t : Tile) (c : Fin 8) (f : Ctx → Ctx) : (t.modCtx c f).dead = t.dead := rfl
@[simp] theorem Tile.modCtx_panels (t : Tile) (c : Fin 8) (f : Ctx → Ctx) : (t.modCtx c f).panels = t.panels := rfl
@[simp] theorem Tile.modCtx_away (t : Tile) (c : Fin 8) (f : Ctx → Ctx) : (t.modCtx c f).away = t.away := rfl
@[simp] theorem Tile.modCtx_tcmBad (t : Tile) (c : Fin 8) (f : Ctx → Ctx) : (t.modCtx c f).tcmBad = t.tcmBad := rfl
@[simp] theorem Tile.modCtx_tcmSoft (t : Tile) (c : Fin 8) (f : Ctx → Ctx) : (t.modCtx c f).tcmSoft = t.tcmSoft := rfl
@[simp] theorem Tile.modCtx_copies (t : Tile) (c : Fin 8) (f : Ctx → Ctx) : (t.modCtx c f).copies = t.copies := rfl
@[simp] theorem Tile.modCtx_ops (t : Tile) (c : Fin 8) (f : Ctx → Ctx) : (t.modCtx c f).ops = t.ops := rfl
@[simp] theorem Tile.modCtx_nextId (t : Tile) (c : Fin 8) (f : Ctx → Ctx) : (t.modCtx c f).nextId = t.nextId := rfl
@[simp] theorem Tile.modCtx_units (t : Tile) (c : Fin 8) (f : Ctx → Ctx) : (t.modCtx c f).units = t.units := rfl
@[simp] theorem Tile.modCtx_r (t : Tile) (c : Fin 8) (f : Ctx → Ctx) : (t.modCtx c f).r = t.r := rfl
@[simp] theorem Tile.modCtx_tasks (t : Tile) (c : Fin 8) (f : Ctx → Ctx) : (t.modCtx c f).tasks = t.tasks := rfl
@[simp] theorem Tile.modCtx_nq (t : Tile) (c : Fin 8) (f : Ctx → Ctx) : (t.modCtx c f).nq = t.nq := rfl
@[simp] theorem Tile.modCtx_ncred (t : Tile) (c : Fin 8) (f : Ctx → Ctx) : (t.modCtx c f).ncred = t.ncred := rfl
@[simp] theorem Tile.modCtx_gates (t : Tile) (c : Fin 8) (f : Ctx → Ctx) : (t.modCtx c f).gates = t.gates := rfl
@[simp] theorem Tile.modCtx_fwd (t : Tile) (c : Fin 8) (f : Ctx → Ctx) : (t.modCtx c f).fwd = t.fwd := rfl
@[simp] theorem Tile.modCtx_last (t : Tile) (c : Fin 8) (f : Ctx → Ctx) : (t.modCtx c f).last = t.last := rfl
@[simp] theorem Tile.modCtx_nqBad (t : Tile) (c : Fin 8) (f : Ctx → Ctx) : (t.modCtx c f).nqBad = t.nqBad := rfl
@[simp] theorem Tile.modCtx_husks (t : Tile) (c : Fin 8) (f : Ctx → Ctx) : (t.modCtx c f).husks = t.husks := rfl
@[simp] theorem Tile.modCtx_nlink (t : Tile) (c : Fin 8) (f : Ctx → Ctx) : (t.modCtx c f).nlink = t.nlink := rfl
@[simp] theorem Tile.modCtx_nout (t : Tile) (c : Fin 8) (f : Ctx → Ctx) : (t.modCtx c f).nout = t.nout := rfl
@[simp] theorem Tile.modCtx_banks (t : Tile) (c : Fin 8) (f : Ctx → Ctx) : (t.modCtx c f).banks = t.banks := rfl
@[simp] theorem Tile.modCtx_handed (t : Tile) (c : Fin 8) (f : Ctx → Ctx) : (t.modCtx c f).handed = t.handed := rfl
@[simp] theorem Tile.setAcc_store (t : Tile) (a : Fin 4) (x : Acc) : (t.setAcc a x).store = t.store := rfl
@[simp] theorem Tile.setAcc_marks (t : Tile) (a : Fin 4) (x : Acc) : (t.setAcc a x).marks = t.marks := rfl
@[simp] theorem Tile.setAcc_badslots (t : Tile) (a : Fin 4) (x : Acc) : (t.setAcc a x).badslots = t.badslots := rfl
@[simp] theorem Tile.setAcc_ctxs (t : Tile) (a : Fin 4) (x : Acc) : (t.setAcc a x).ctxs = t.ctxs := rfl
@[simp] theorem Tile.setAcc_acc (t : Tile) (a : Fin 4) (x : Acc) : (t.setAcc a x).acc = t.acc.set a x := rfl
@[simp] theorem Tile.setAcc_strm (t : Tile) (a : Fin 4) (x : Acc) : (t.setAcc a x).strm = t.strm := rfl
@[simp] theorem Tile.setAcc_tcm (t : Tile) (a : Fin 4) (x : Acc) : (t.setAcc a x).tcm = t.tcm := rfl
@[simp] theorem Tile.setAcc_dead (t : Tile) (a : Fin 4) (x : Acc) : (t.setAcc a x).dead = t.dead := rfl
@[simp] theorem Tile.setAcc_panels (t : Tile) (a : Fin 4) (x : Acc) : (t.setAcc a x).panels = t.panels := rfl
@[simp] theorem Tile.setAcc_away (t : Tile) (a : Fin 4) (x : Acc) : (t.setAcc a x).away = t.away := rfl
@[simp] theorem Tile.setAcc_tcmBad (t : Tile) (a : Fin 4) (x : Acc) : (t.setAcc a x).tcmBad = t.tcmBad := rfl
@[simp] theorem Tile.setAcc_tcmSoft (t : Tile) (a : Fin 4) (x : Acc) : (t.setAcc a x).tcmSoft = t.tcmSoft := rfl
@[simp] theorem Tile.setAcc_copies (t : Tile) (a : Fin 4) (x : Acc) : (t.setAcc a x).copies = t.copies := rfl
@[simp] theorem Tile.setAcc_ops (t : Tile) (a : Fin 4) (x : Acc) : (t.setAcc a x).ops = t.ops := rfl
@[simp] theorem Tile.setAcc_nextId (t : Tile) (a : Fin 4) (x : Acc) : (t.setAcc a x).nextId = t.nextId := rfl
@[simp] theorem Tile.setAcc_units (t : Tile) (a : Fin 4) (x : Acc) : (t.setAcc a x).units = t.units := rfl
@[simp] theorem Tile.setAcc_r (t : Tile) (a : Fin 4) (x : Acc) : (t.setAcc a x).r = t.r := rfl
@[simp] theorem Tile.setAcc_tasks (t : Tile) (a : Fin 4) (x : Acc) : (t.setAcc a x).tasks = t.tasks := rfl
@[simp] theorem Tile.setAcc_nq (t : Tile) (a : Fin 4) (x : Acc) : (t.setAcc a x).nq = t.nq := rfl
@[simp] theorem Tile.setAcc_ncred (t : Tile) (a : Fin 4) (x : Acc) : (t.setAcc a x).ncred = t.ncred := rfl
@[simp] theorem Tile.setAcc_gates (t : Tile) (a : Fin 4) (x : Acc) : (t.setAcc a x).gates = t.gates := rfl
@[simp] theorem Tile.setAcc_fwd (t : Tile) (a : Fin 4) (x : Acc) : (t.setAcc a x).fwd = t.fwd := rfl
@[simp] theorem Tile.setAcc_last (t : Tile) (a : Fin 4) (x : Acc) : (t.setAcc a x).last = t.last := rfl
@[simp] theorem Tile.setAcc_nqBad (t : Tile) (a : Fin 4) (x : Acc) : (t.setAcc a x).nqBad = t.nqBad := rfl
@[simp] theorem Tile.setAcc_husks (t : Tile) (a : Fin 4) (x : Acc) : (t.setAcc a x).husks = t.husks := rfl
@[simp] theorem Tile.setAcc_nlink (t : Tile) (a : Fin 4) (x : Acc) : (t.setAcc a x).nlink = t.nlink := rfl
@[simp] theorem Tile.setAcc_nout (t : Tile) (a : Fin 4) (x : Acc) : (t.setAcc a x).nout = t.nout := rfl
@[simp] theorem Tile.setAcc_banks (t : Tile) (a : Fin 4) (x : Acc) : (t.setAcc a x).banks = t.banks := rfl
@[simp] theorem Tile.setAcc_handed (t : Tile) (a : Fin 4) (x : Acc) : (t.setAcc a x).handed = t.handed := rfl
@[simp] theorem Tile.setStrm_store (t : Tile) (g : Fin 8) (x : Strm) : (t.setStrm g x).store = t.store := rfl
@[simp] theorem Tile.setStrm_marks (t : Tile) (g : Fin 8) (x : Strm) : (t.setStrm g x).marks = t.marks := rfl
@[simp] theorem Tile.setStrm_badslots (t : Tile) (g : Fin 8) (x : Strm) : (t.setStrm g x).badslots = t.badslots := rfl
@[simp] theorem Tile.setStrm_ctxs (t : Tile) (g : Fin 8) (x : Strm) : (t.setStrm g x).ctxs = t.ctxs := rfl
@[simp] theorem Tile.setStrm_acc (t : Tile) (g : Fin 8) (x : Strm) : (t.setStrm g x).acc = t.acc := rfl
@[simp] theorem Tile.setStrm_strm (t : Tile) (g : Fin 8) (x : Strm) : (t.setStrm g x).strm = t.strm.set g x := rfl
@[simp] theorem Tile.setStrm_tcm (t : Tile) (g : Fin 8) (x : Strm) : (t.setStrm g x).tcm = t.tcm := rfl
@[simp] theorem Tile.setStrm_dead (t : Tile) (g : Fin 8) (x : Strm) : (t.setStrm g x).dead = t.dead := rfl
@[simp] theorem Tile.setStrm_panels (t : Tile) (g : Fin 8) (x : Strm) : (t.setStrm g x).panels = t.panels := rfl
@[simp] theorem Tile.setStrm_away (t : Tile) (g : Fin 8) (x : Strm) : (t.setStrm g x).away = t.away := rfl
@[simp] theorem Tile.setStrm_tcmBad (t : Tile) (g : Fin 8) (x : Strm) : (t.setStrm g x).tcmBad = t.tcmBad := rfl
@[simp] theorem Tile.setStrm_tcmSoft (t : Tile) (g : Fin 8) (x : Strm) : (t.setStrm g x).tcmSoft = t.tcmSoft := rfl
@[simp] theorem Tile.setStrm_copies (t : Tile) (g : Fin 8) (x : Strm) : (t.setStrm g x).copies = t.copies := rfl
@[simp] theorem Tile.setStrm_ops (t : Tile) (g : Fin 8) (x : Strm) : (t.setStrm g x).ops = t.ops := rfl
@[simp] theorem Tile.setStrm_nextId (t : Tile) (g : Fin 8) (x : Strm) : (t.setStrm g x).nextId = t.nextId := rfl
@[simp] theorem Tile.setStrm_units (t : Tile) (g : Fin 8) (x : Strm) : (t.setStrm g x).units = t.units := rfl
@[simp] theorem Tile.setStrm_r (t : Tile) (g : Fin 8) (x : Strm) : (t.setStrm g x).r = t.r := rfl
@[simp] theorem Tile.setStrm_tasks (t : Tile) (g : Fin 8) (x : Strm) : (t.setStrm g x).tasks = t.tasks := rfl
@[simp] theorem Tile.setStrm_nq (t : Tile) (g : Fin 8) (x : Strm) : (t.setStrm g x).nq = t.nq := rfl
@[simp] theorem Tile.setStrm_ncred (t : Tile) (g : Fin 8) (x : Strm) : (t.setStrm g x).ncred = t.ncred := rfl
@[simp] theorem Tile.setStrm_gates (t : Tile) (g : Fin 8) (x : Strm) : (t.setStrm g x).gates = t.gates := rfl
@[simp] theorem Tile.setStrm_fwd (t : Tile) (g : Fin 8) (x : Strm) : (t.setStrm g x).fwd = t.fwd := rfl
@[simp] theorem Tile.setStrm_last (t : Tile) (g : Fin 8) (x : Strm) : (t.setStrm g x).last = t.last := rfl
@[simp] theorem Tile.setStrm_nqBad (t : Tile) (g : Fin 8) (x : Strm) : (t.setStrm g x).nqBad = t.nqBad := rfl
@[simp] theorem Tile.setStrm_husks (t : Tile) (g : Fin 8) (x : Strm) : (t.setStrm g x).husks = t.husks := rfl
@[simp] theorem Tile.setStrm_nlink (t : Tile) (g : Fin 8) (x : Strm) : (t.setStrm g x).nlink = t.nlink := rfl
@[simp] theorem Tile.setStrm_nout (t : Tile) (g : Fin 8) (x : Strm) : (t.setStrm g x).nout = t.nout := rfl
@[simp] theorem Tile.setStrm_banks (t : Tile) (g : Fin 8) (x : Strm) : (t.setStrm g x).banks = t.banks := rfl
@[simp] theorem Tile.setStrm_handed (t : Tile) (g : Fin 8) (x : Strm) : (t.setStrm g x).handed = t.handed := rfl
@[simp] theorem Tile.modTask_store (t : Tile) (r : TRef) (f : TTask → TTask) : (t.modTask r f).store = t.store := rfl
@[simp] theorem Tile.modTask_marks (t : Tile) (r : TRef) (f : TTask → TTask) : (t.modTask r f).marks = t.marks := rfl
@[simp] theorem Tile.modTask_badslots (t : Tile) (r : TRef) (f : TTask → TTask) : (t.modTask r f).badslots = t.badslots := rfl
@[simp] theorem Tile.modTask_ctxs (t : Tile) (r : TRef) (f : TTask → TTask) : (t.modTask r f).ctxs = t.ctxs := rfl
@[simp] theorem Tile.modTask_acc (t : Tile) (r : TRef) (f : TTask → TTask) : (t.modTask r f).acc = t.acc := rfl
@[simp] theorem Tile.modTask_strm (t : Tile) (r : TRef) (f : TTask → TTask) : (t.modTask r f).strm = t.strm := rfl
@[simp] theorem Tile.modTask_tcm (t : Tile) (r : TRef) (f : TTask → TTask) : (t.modTask r f).tcm = t.tcm := rfl
@[simp] theorem Tile.modTask_dead (t : Tile) (r : TRef) (f : TTask → TTask) : (t.modTask r f).dead = t.dead := rfl
@[simp] theorem Tile.modTask_panels (t : Tile) (r : TRef) (f : TTask → TTask) : (t.modTask r f).panels = t.panels := rfl
@[simp] theorem Tile.modTask_away (t : Tile) (r : TRef) (f : TTask → TTask) : (t.modTask r f).away = t.away := rfl
@[simp] theorem Tile.modTask_tcmBad (t : Tile) (r : TRef) (f : TTask → TTask) : (t.modTask r f).tcmBad = t.tcmBad := rfl
@[simp] theorem Tile.modTask_tcmSoft (t : Tile) (r : TRef) (f : TTask → TTask) : (t.modTask r f).tcmSoft = t.tcmSoft := rfl
@[simp] theorem Tile.modTask_copies (t : Tile) (r : TRef) (f : TTask → TTask) : (t.modTask r f).copies = t.copies := rfl
@[simp] theorem Tile.modTask_ops (t : Tile) (r : TRef) (f : TTask → TTask) : (t.modTask r f).ops = t.ops := rfl
@[simp] theorem Tile.modTask_nextId (t : Tile) (r : TRef) (f : TTask → TTask) : (t.modTask r f).nextId = t.nextId := rfl
@[simp] theorem Tile.modTask_units (t : Tile) (r : TRef) (f : TTask → TTask) : (t.modTask r f).units = t.units := rfl
@[simp] theorem Tile.modTask_r (t : Tile) (r : TRef) (f : TTask → TTask) : (t.modTask r f).r = t.r := rfl
@[simp] theorem Tile.modTask_tasks (t : Tile) (r : TRef) (f : TTask → TTask) : (t.modTask r f).tasks = t.tasks.map fun x => if x.ref == r then f x else x := rfl
@[simp] theorem Tile.modTask_nq (t : Tile) (r : TRef) (f : TTask → TTask) : (t.modTask r f).nq = t.nq := rfl
@[simp] theorem Tile.modTask_ncred (t : Tile) (r : TRef) (f : TTask → TTask) : (t.modTask r f).ncred = t.ncred := rfl
@[simp] theorem Tile.modTask_gates (t : Tile) (r : TRef) (f : TTask → TTask) : (t.modTask r f).gates = t.gates := rfl
@[simp] theorem Tile.modTask_fwd (t : Tile) (r : TRef) (f : TTask → TTask) : (t.modTask r f).fwd = t.fwd := rfl
@[simp] theorem Tile.modTask_last (t : Tile) (r : TRef) (f : TTask → TTask) : (t.modTask r f).last = t.last := rfl
@[simp] theorem Tile.modTask_nqBad (t : Tile) (r : TRef) (f : TTask → TTask) : (t.modTask r f).nqBad = t.nqBad := rfl
@[simp] theorem Tile.modTask_husks (t : Tile) (r : TRef) (f : TTask → TTask) : (t.modTask r f).husks = t.husks := rfl
@[simp] theorem Tile.modTask_nlink (t : Tile) (r : TRef) (f : TTask → TTask) : (t.modTask r f).nlink = t.nlink := rfl
@[simp] theorem Tile.modTask_nout (t : Tile) (r : TRef) (f : TTask → TTask) : (t.modTask r f).nout = t.nout := rfl
@[simp] theorem Tile.modTask_banks (t : Tile) (r : TRef) (f : TTask → TTask) : (t.modTask r f).banks = t.banks := rfl
@[simp] theorem Tile.modTask_handed (t : Tile) (r : TRef) (f : TTask → TTask) : (t.modTask r f).handed = t.handed := rfl
@[simp] theorem Tile.occupy_store (t : Tile) (i : Instr) (n : Nat) : (t.occupy i n).store = t.store := rfl
@[simp] theorem Tile.occupy_marks (t : Tile) (i : Instr) (n : Nat) : (t.occupy i n).marks = t.marks := rfl
@[simp] theorem Tile.occupy_badslots (t : Tile) (i : Instr) (n : Nat) : (t.occupy i n).badslots = t.badslots := rfl
@[simp] theorem Tile.occupy_ctxs (t : Tile) (i : Instr) (n : Nat) : (t.occupy i n).ctxs = t.ctxs := rfl
@[simp] theorem Tile.occupy_acc (t : Tile) (i : Instr) (n : Nat) : (t.occupy i n).acc = t.acc := rfl
@[simp] theorem Tile.occupy_strm (t : Tile) (i : Instr) (n : Nat) : (t.occupy i n).strm = t.strm := rfl
@[simp] theorem Tile.occupy_tcm (t : Tile) (i : Instr) (n : Nat) : (t.occupy i n).tcm = t.tcm := rfl
@[simp] theorem Tile.occupy_dead (t : Tile) (i : Instr) (n : Nat) : (t.occupy i n).dead = t.dead := rfl
@[simp] theorem Tile.occupy_panels (t : Tile) (i : Instr) (n : Nat) : (t.occupy i n).panels = t.panels := rfl
@[simp] theorem Tile.occupy_away (t : Tile) (i : Instr) (n : Nat) : (t.occupy i n).away = t.away := rfl
@[simp] theorem Tile.occupy_tcmBad (t : Tile) (i : Instr) (n : Nat) : (t.occupy i n).tcmBad = t.tcmBad := rfl
@[simp] theorem Tile.occupy_tcmSoft (t : Tile) (i : Instr) (n : Nat) : (t.occupy i n).tcmSoft = t.tcmSoft := rfl
@[simp] theorem Tile.occupy_copies (t : Tile) (i : Instr) (n : Nat) : (t.occupy i n).copies = t.copies := rfl
@[simp] theorem Tile.occupy_ops (t : Tile) (i : Instr) (n : Nat) : (t.occupy i n).ops = t.ops := rfl
@[simp] theorem Tile.occupy_nextId (t : Tile) (i : Instr) (n : Nat) : (t.occupy i n).nextId = t.nextId := rfl
@[simp] theorem Tile.occupy_r (t : Tile) (i : Instr) (n : Nat) : (t.occupy i n).r = t.r := rfl
@[simp] theorem Tile.occupy_tasks (t : Tile) (i : Instr) (n : Nat) : (t.occupy i n).tasks = t.tasks := rfl
@[simp] theorem Tile.occupy_nq (t : Tile) (i : Instr) (n : Nat) : (t.occupy i n).nq = t.nq := rfl
@[simp] theorem Tile.occupy_ncred (t : Tile) (i : Instr) (n : Nat) : (t.occupy i n).ncred = t.ncred := rfl
@[simp] theorem Tile.occupy_gates (t : Tile) (i : Instr) (n : Nat) : (t.occupy i n).gates = t.gates := rfl
@[simp] theorem Tile.occupy_fwd (t : Tile) (i : Instr) (n : Nat) : (t.occupy i n).fwd = t.fwd := rfl
@[simp] theorem Tile.occupy_last (t : Tile) (i : Instr) (n : Nat) : (t.occupy i n).last = t.last := rfl
@[simp] theorem Tile.occupy_nqBad (t : Tile) (i : Instr) (n : Nat) : (t.occupy i n).nqBad = t.nqBad := rfl
@[simp] theorem Tile.occupy_husks (t : Tile) (i : Instr) (n : Nat) : (t.occupy i n).husks = t.husks := rfl
@[simp] theorem Tile.occupy_nlink (t : Tile) (i : Instr) (n : Nat) : (t.occupy i n).nlink = t.nlink := rfl
@[simp] theorem Tile.occupy_nout (t : Tile) (i : Instr) (n : Nat) : (t.occupy i n).nout = t.nout := rfl
@[simp] theorem Tile.occupy_banks (t : Tile) (i : Instr) (n : Nat) : (t.occupy i n).banks = t.banks := rfl
@[simp] theorem Tile.occupy_handed (t : Tile) (i : Instr) (n : Nat) : (t.occupy i n).handed = t.handed := rfl
@[simp] theorem Tile.tokPub_store (t : Tile) (c : Ctx) (n : Nat) : (t.tokPub c n).store = t.store := by unfold Tile.tokPub; split; rfl; split <;> rfl
@[simp] theorem Tile.tokPub_marks (t : Tile) (c : Ctx) (n : Nat) : (t.tokPub c n).marks = t.marks := by unfold Tile.tokPub; split; rfl; split <;> rfl
@[simp] theorem Tile.tokPub_badslots (t : Tile) (c : Ctx) (n : Nat) : (t.tokPub c n).badslots = t.badslots := by unfold Tile.tokPub; split; rfl; split <;> rfl
@[simp] theorem Tile.tokPub_ctxs (t : Tile) (c : Ctx) (n : Nat) : (t.tokPub c n).ctxs = t.ctxs := by unfold Tile.tokPub; split; rfl; split <;> rfl
@[simp] theorem Tile.tokPub_acc (t : Tile) (c : Ctx) (n : Nat) : (t.tokPub c n).acc = t.acc := by unfold Tile.tokPub; split; rfl; split <;> rfl
@[simp] theorem Tile.tokPub_strm (t : Tile) (c : Ctx) (n : Nat) : (t.tokPub c n).strm = t.strm := by unfold Tile.tokPub; split; rfl; split <;> rfl
@[simp] theorem Tile.tokPub_tcm (t : Tile) (c : Ctx) (n : Nat) : (t.tokPub c n).tcm = t.tcm := by unfold Tile.tokPub; split; rfl; split <;> rfl
@[simp] theorem Tile.tokPub_dead (t : Tile) (c : Ctx) (n : Nat) : (t.tokPub c n).dead = t.dead := by unfold Tile.tokPub; split; rfl; split <;> rfl
@[simp] theorem Tile.tokPub_panels (t : Tile) (c : Ctx) (n : Nat) : (t.tokPub c n).panels = t.panels := by unfold Tile.tokPub; split; rfl; split <;> rfl
@[simp] theorem Tile.tokPub_away (t : Tile) (c : Ctx) (n : Nat) : (t.tokPub c n).away = t.away := by unfold Tile.tokPub; split; rfl; split <;> rfl
@[simp] theorem Tile.tokPub_tcmBad (t : Tile) (c : Ctx) (n : Nat) : (t.tokPub c n).tcmBad = t.tcmBad := by unfold Tile.tokPub; split; rfl; split <;> rfl
@[simp] theorem Tile.tokPub_tcmSoft (t : Tile) (c : Ctx) (n : Nat) : (t.tokPub c n).tcmSoft = t.tcmSoft := by unfold Tile.tokPub; split; rfl; split <;> rfl
@[simp] theorem Tile.tokPub_copies (t : Tile) (c : Ctx) (n : Nat) : (t.tokPub c n).copies = t.copies := by unfold Tile.tokPub; split; rfl; split <;> rfl
@[simp] theorem Tile.tokPub_ops (t : Tile) (c : Ctx) (n : Nat) : (t.tokPub c n).ops = t.ops := by unfold Tile.tokPub; split; rfl; split <;> rfl
@[simp] theorem Tile.tokPub_nextId (t : Tile) (c : Ctx) (n : Nat) : (t.tokPub c n).nextId = t.nextId := by unfold Tile.tokPub; split; rfl; split <;> rfl
@[simp] theorem Tile.tokPub_units (t : Tile) (c : Ctx) (n : Nat) : (t.tokPub c n).units = t.units := by unfold Tile.tokPub; split; rfl; split <;> rfl
@[simp] theorem Tile.tokPub_r (t : Tile) (c : Ctx) (n : Nat) : (t.tokPub c n).r = t.r := by unfold Tile.tokPub; split; rfl; split <;> rfl
@[simp] theorem Tile.tokPub_nq (t : Tile) (c : Ctx) (n : Nat) : (t.tokPub c n).nq = t.nq := by unfold Tile.tokPub; split; rfl; split <;> rfl
@[simp] theorem Tile.tokPub_ncred (t : Tile) (c : Ctx) (n : Nat) : (t.tokPub c n).ncred = t.ncred := by unfold Tile.tokPub; split; rfl; split <;> rfl
@[simp] theorem Tile.tokPub_gates (t : Tile) (c : Ctx) (n : Nat) : (t.tokPub c n).gates = t.gates := by unfold Tile.tokPub; split; rfl; split <;> rfl
@[simp] theorem Tile.tokPub_fwd (t : Tile) (c : Ctx) (n : Nat) : (t.tokPub c n).fwd = t.fwd := by unfold Tile.tokPub; split; rfl; split <;> rfl
@[simp] theorem Tile.tokPub_last (t : Tile) (c : Ctx) (n : Nat) : (t.tokPub c n).last = t.last := by unfold Tile.tokPub; split; rfl; split <;> rfl
@[simp] theorem Tile.tokPub_nqBad (t : Tile) (c : Ctx) (n : Nat) : (t.tokPub c n).nqBad = t.nqBad := by unfold Tile.tokPub; split; rfl; split <;> rfl
@[simp] theorem Tile.tokPub_husks (t : Tile) (c : Ctx) (n : Nat) : (t.tokPub c n).husks = t.husks := by unfold Tile.tokPub; split; rfl; split <;> rfl
@[simp] theorem Tile.tokPub_nlink (t : Tile) (c : Ctx) (n : Nat) : (t.tokPub c n).nlink = t.nlink := by unfold Tile.tokPub; split; rfl; split <;> rfl
@[simp] theorem Tile.tokPub_nout (t : Tile) (c : Ctx) (n : Nat) : (t.tokPub c n).nout = t.nout := by unfold Tile.tokPub; split; rfl; split <;> rfl
@[simp] theorem Tile.tokPub_banks (t : Tile) (c : Ctx) (n : Nat) : (t.tokPub c n).banks = t.banks := by unfold Tile.tokPub; split; rfl; split <;> rfl
@[simp] theorem Tile.tokPub_handed (t : Tile) (c : Ctx) (n : Nat) : (t.tokPub c n).handed = t.handed := by unfold Tile.tokPub; split; rfl; split <;> rfl

/-! ## Contexts -/

@[simp] theorem Ctx.setRegs_st (c : Ctx) (r : Regs) : (c.setRegs r).st = c.st := rfl
@[simp] theorem Ctx.setRegs_cfg (c : Ctx) (r : Regs) : (c.setRegs r).cfg = c.cfg := rfl
@[simp] theorem Ctx.setRegs_regs (c : Ctx) (r : Regs) : (c.setRegs r).regs = r := rfl
@[simp] theorem Ctx.setRegs_inb (c : Ctx) (r : Regs) : (c.setRegs r).inb = c.inb := rfl
@[simp] theorem Ctx.setRegs_owe (c : Ctx) (r : Regs) : (c.setRegs r).owe = c.owe := rfl
@[simp] theorem Ctx.setRegs_egr (c : Ctx) (r : Regs) : (c.setRegs r).egr = c.egr := rfl
@[simp] theorem Ctx.setRegs_ib (c : Ctx) (r : Regs) : (c.setRegs r).ib = c.ib := rfl
@[simp] theorem Ctx.setRegs_eb (c : Ctx) (r : Regs) : (c.setRegs r).eb = c.eb := rfl
@[simp] theorem Ctx.setRegs_arr (c : Ctx) (r : Regs) : (c.setRegs r).arr = c.arr := rfl
@[simp] theorem Ctx.setRegs_watches (c : Ctx) (r : Regs) : (c.setRegs r).watches = c.watches := rfl
@[simp] theorem Ctx.setRegs_tbase (c : Ctx) (r : Regs) : (c.setRegs r).tbase = c.tbase := rfl
@[simp] theorem Ctx.setRegs_tlen (c : Ctx) (r : Regs) : (c.setRegs r).tlen = c.tlen := rfl
@[simp] theorem Ctx.setRegs_quota (c : Ctx) (r : Regs) : (c.setRegs r).quota = c.quota := rfl
@[simp] theorem Ctx.setRegs_left (c : Ctx) (r : Regs) : (c.setRegs r).left = c.left := rfl
@[simp] theorem Ctx.setRegs_ag (c : Ctx) (r : Regs) : (c.setRegs r).ag = c.ag := rfl
@[simp] theorem Ctx.setRegs_ctl (c : Ctx) (r : Regs) : (c.setRegs r).ctl = c.ctl := rfl
@[simp] theorem Ctx.setRegs_task (c : Ctx) (r : Regs) : (c.setRegs r).task = c.task := rfl
@[simp] theorem Ctx.setRegs_tenant (c : Ctx) (r : Regs) : (c.setRegs r).tenant = c.tenant := rfl
@[simp] theorem Ctx.setRegs_code (c : Ctx) (r : Regs) : (c.setRegs r).code = c.code := rfl
@[simp] theorem Ctx.setRegs_badIn (c : Ctx) (r : Regs) : (c.setRegs r).badIn = c.badIn := rfl
@[simp] theorem Ctx.setRegs_fnow (c : Ctx) (r : Regs) : (c.setRegs r).fnow = c.fnow := rfl
@[simp] theorem Ctx.setCtl_st (c : Ctx) (x : Ctl) : (c.setCtl x).st = c.st := rfl
@[simp] theorem Ctx.setCtl_cfg (c : Ctx) (x : Ctl) : (c.setCtl x).cfg = c.cfg := rfl
@[simp] theorem Ctx.setCtl_regs (c : Ctx) (x : Ctl) : (c.setCtl x).regs = c.regs := rfl
@[simp] theorem Ctx.setCtl_inb (c : Ctx) (x : Ctl) : (c.setCtl x).inb = c.inb := rfl
@[simp] theorem Ctx.setCtl_owe (c : Ctx) (x : Ctl) : (c.setCtl x).owe = c.owe := rfl
@[simp] theorem Ctx.setCtl_egr (c : Ctx) (x : Ctl) : (c.setCtl x).egr = c.egr := rfl
@[simp] theorem Ctx.setCtl_ib (c : Ctx) (x : Ctl) : (c.setCtl x).ib = c.ib := rfl
@[simp] theorem Ctx.setCtl_eb (c : Ctx) (x : Ctl) : (c.setCtl x).eb = c.eb := rfl
@[simp] theorem Ctx.setCtl_arr (c : Ctx) (x : Ctl) : (c.setCtl x).arr = c.arr := rfl
@[simp] theorem Ctx.setCtl_watches (c : Ctx) (x : Ctl) : (c.setCtl x).watches = c.watches := rfl
@[simp] theorem Ctx.setCtl_tbase (c : Ctx) (x : Ctl) : (c.setCtl x).tbase = c.tbase := rfl
@[simp] theorem Ctx.setCtl_tlen (c : Ctx) (x : Ctl) : (c.setCtl x).tlen = c.tlen := rfl
@[simp] theorem Ctx.setCtl_quota (c : Ctx) (x : Ctl) : (c.setCtl x).quota = c.quota := rfl
@[simp] theorem Ctx.setCtl_left (c : Ctx) (x : Ctl) : (c.setCtl x).left = c.left := rfl
@[simp] theorem Ctx.setCtl_ag (c : Ctx) (x : Ctl) : (c.setCtl x).ag = c.ag := rfl
@[simp] theorem Ctx.setCtl_ctl (c : Ctx) (x : Ctl) : (c.setCtl x).ctl = x := rfl
@[simp] theorem Ctx.setCtl_task (c : Ctx) (x : Ctl) : (c.setCtl x).task = c.task := rfl
@[simp] theorem Ctx.setCtl_tenant (c : Ctx) (x : Ctl) : (c.setCtl x).tenant = c.tenant := rfl
@[simp] theorem Ctx.setCtl_code (c : Ctx) (x : Ctl) : (c.setCtl x).code = c.code := rfl
@[simp] theorem Ctx.setCtl_badIn (c : Ctx) (x : Ctl) : (c.setCtl x).badIn = c.badIn := rfl
@[simp] theorem Ctx.setCtl_fnow (c : Ctx) (x : Ctl) : (c.setCtl x).fnow = c.fnow := rfl
@[simp] theorem Ctx.setInb_st (c : Ctx) (h : Chan) (l : List Entry) : (c.setInb h l).st = c.st := rfl
@[simp] theorem Ctx.setInb_cfg (c : Ctx) (h : Chan) (l : List Entry) : (c.setInb h l).cfg = c.cfg := rfl
@[simp] theorem Ctx.setInb_regs (c : Ctx) (h : Chan) (l : List Entry) : (c.setInb h l).regs = c.regs := rfl
@[simp] theorem Ctx.setInb_inb (c : Ctx) (h : Chan) (l : List Entry) : (c.setInb h l).inb = c.inb.set h l := rfl
@[simp] theorem Ctx.setInb_owe (c : Ctx) (h : Chan) (l : List Entry) : (c.setInb h l).owe = c.owe := rfl
@[simp] theorem Ctx.setInb_egr (c : Ctx) (h : Chan) (l : List Entry) : (c.setInb h l).egr = c.egr := rfl
@[simp] theorem Ctx.setInb_ib (c : Ctx) (h : Chan) (l : List Entry) : (c.setInb h l).ib = c.ib := rfl
@[simp] theorem Ctx.setInb_eb (c : Ctx) (h : Chan) (l : List Entry) : (c.setInb h l).eb = c.eb := rfl
@[simp] theorem Ctx.setInb_arr (c : Ctx) (h : Chan) (l : List Entry) : (c.setInb h l).arr = c.arr := rfl
@[simp] theorem Ctx.setInb_watches (c : Ctx) (h : Chan) (l : List Entry) : (c.setInb h l).watches = c.watches := rfl
@[simp] theorem Ctx.setInb_tbase (c : Ctx) (h : Chan) (l : List Entry) : (c.setInb h l).tbase = c.tbase := rfl
@[simp] theorem Ctx.setInb_tlen (c : Ctx) (h : Chan) (l : List Entry) : (c.setInb h l).tlen = c.tlen := rfl
@[simp] theorem Ctx.setInb_quota (c : Ctx) (h : Chan) (l : List Entry) : (c.setInb h l).quota = c.quota := rfl
@[simp] theorem Ctx.setInb_left (c : Ctx) (h : Chan) (l : List Entry) : (c.setInb h l).left = c.left := rfl
@[simp] theorem Ctx.setInb_ag (c : Ctx) (h : Chan) (l : List Entry) : (c.setInb h l).ag = c.ag := rfl
@[simp] theorem Ctx.setInb_ctl (c : Ctx) (h : Chan) (l : List Entry) : (c.setInb h l).ctl = c.ctl := rfl
@[simp] theorem Ctx.setInb_task (c : Ctx) (h : Chan) (l : List Entry) : (c.setInb h l).task = c.task := rfl
@[simp] theorem Ctx.setInb_tenant (c : Ctx) (h : Chan) (l : List Entry) : (c.setInb h l).tenant = c.tenant := rfl
@[simp] theorem Ctx.setInb_code (c : Ctx) (h : Chan) (l : List Entry) : (c.setInb h l).code = c.code := rfl
@[simp] theorem Ctx.setInb_badIn (c : Ctx) (h : Chan) (l : List Entry) : (c.setInb h l).badIn = c.badIn := rfl
@[simp] theorem Ctx.setInb_fnow (c : Ctx) (h : Chan) (l : List Entry) : (c.setInb h l).fnow = c.fnow := rfl
@[simp] theorem Ctx.setEgr_st (c : Ctx) (h : Chan) (l : List Entry) : (c.setEgr h l).st = c.st := rfl
@[simp] theorem Ctx.setEgr_cfg (c : Ctx) (h : Chan) (l : List Entry) : (c.setEgr h l).cfg = c.cfg := rfl
@[simp] theorem Ctx.setEgr_regs (c : Ctx) (h : Chan) (l : List Entry) : (c.setEgr h l).regs = c.regs := rfl
@[simp] theorem Ctx.setEgr_inb (c : Ctx) (h : Chan) (l : List Entry) : (c.setEgr h l).inb = c.inb := rfl
@[simp] theorem Ctx.setEgr_owe (c : Ctx) (h : Chan) (l : List Entry) : (c.setEgr h l).owe = c.owe := rfl
@[simp] theorem Ctx.setEgr_egr (c : Ctx) (h : Chan) (l : List Entry) : (c.setEgr h l).egr = c.egr.set h l := rfl
@[simp] theorem Ctx.setEgr_ib (c : Ctx) (h : Chan) (l : List Entry) : (c.setEgr h l).ib = c.ib := rfl
@[simp] theorem Ctx.setEgr_eb (c : Ctx) (h : Chan) (l : List Entry) : (c.setEgr h l).eb = c.eb := rfl
@[simp] theorem Ctx.setEgr_arr (c : Ctx) (h : Chan) (l : List Entry) : (c.setEgr h l).arr = c.arr := rfl
@[simp] theorem Ctx.setEgr_watches (c : Ctx) (h : Chan) (l : List Entry) : (c.setEgr h l).watches = c.watches := rfl
@[simp] theorem Ctx.setEgr_tbase (c : Ctx) (h : Chan) (l : List Entry) : (c.setEgr h l).tbase = c.tbase := rfl
@[simp] theorem Ctx.setEgr_tlen (c : Ctx) (h : Chan) (l : List Entry) : (c.setEgr h l).tlen = c.tlen := rfl
@[simp] theorem Ctx.setEgr_quota (c : Ctx) (h : Chan) (l : List Entry) : (c.setEgr h l).quota = c.quota := rfl
@[simp] theorem Ctx.setEgr_left (c : Ctx) (h : Chan) (l : List Entry) : (c.setEgr h l).left = c.left := rfl
@[simp] theorem Ctx.setEgr_ag (c : Ctx) (h : Chan) (l : List Entry) : (c.setEgr h l).ag = c.ag := rfl
@[simp] theorem Ctx.setEgr_ctl (c : Ctx) (h : Chan) (l : List Entry) : (c.setEgr h l).ctl = c.ctl := rfl
@[simp] theorem Ctx.setEgr_task (c : Ctx) (h : Chan) (l : List Entry) : (c.setEgr h l).task = c.task := rfl
@[simp] theorem Ctx.setEgr_tenant (c : Ctx) (h : Chan) (l : List Entry) : (c.setEgr h l).tenant = c.tenant := rfl
@[simp] theorem Ctx.setEgr_code (c : Ctx) (h : Chan) (l : List Entry) : (c.setEgr h l).code = c.code := rfl
@[simp] theorem Ctx.setEgr_badIn (c : Ctx) (h : Chan) (l : List Entry) : (c.setEgr h l).badIn = c.badIn := rfl
@[simp] theorem Ctx.setEgr_fnow (c : Ctx) (h : Chan) (l : List Entry) : (c.setEgr h l).fnow = c.fnow := rfl
@[simp] theorem Ctx.stop_st (c : Ctx) (i : StopInfo) : (c.stop i).st = c.st := by unfold Ctx.stop; split <;> rfl
@[simp] theorem Ctx.stop_cfg (c : Ctx) (i : StopInfo) : (c.stop i).cfg = c.cfg := by unfold Ctx.stop; split <;> rfl
@[simp] theorem Ctx.stop_regs (c : Ctx) (i : StopInfo) : (c.stop i).regs = c.regs := by unfold Ctx.stop; split <;> rfl
@[simp] theorem Ctx.stop_inb (c : Ctx) (i : StopInfo) : (c.stop i).inb = c.inb := by unfold Ctx.stop; split <;> rfl
@[simp] theorem Ctx.stop_owe (c : Ctx) (i : StopInfo) : (c.stop i).owe = c.owe := by unfold Ctx.stop; split <;> rfl
@[simp] theorem Ctx.stop_egr (c : Ctx) (i : StopInfo) : (c.stop i).egr = c.egr := by unfold Ctx.stop; split <;> rfl
@[simp] theorem Ctx.stop_ib (c : Ctx) (i : StopInfo) : (c.stop i).ib = c.ib := by unfold Ctx.stop; split <;> rfl
@[simp] theorem Ctx.stop_eb (c : Ctx) (i : StopInfo) : (c.stop i).eb = c.eb := by unfold Ctx.stop; split <;> rfl
@[simp] theorem Ctx.stop_arr (c : Ctx) (i : StopInfo) : (c.stop i).arr = c.arr := by unfold Ctx.stop; split <;> rfl
@[simp] theorem Ctx.stop_watches (c : Ctx) (i : StopInfo) : (c.stop i).watches = c.watches := by unfold Ctx.stop; split <;> rfl
@[simp] theorem Ctx.stop_tbase (c : Ctx) (i : StopInfo) : (c.stop i).tbase = c.tbase := by unfold Ctx.stop; split <;> rfl
@[simp] theorem Ctx.stop_tlen (c : Ctx) (i : StopInfo) : (c.stop i).tlen = c.tlen := by unfold Ctx.stop; split <;> rfl
@[simp] theorem Ctx.stop_quota (c : Ctx) (i : StopInfo) : (c.stop i).quota = c.quota := by unfold Ctx.stop; split <;> rfl
@[simp] theorem Ctx.stop_left (c : Ctx) (i : StopInfo) : (c.stop i).left = c.left := by unfold Ctx.stop; split <;> rfl
@[simp] theorem Ctx.stop_ag (c : Ctx) (i : StopInfo) : (c.stop i).ag = c.ag := by unfold Ctx.stop; split <;> rfl
@[simp] theorem Ctx.stop_task (c : Ctx) (i : StopInfo) : (c.stop i).task = c.task := by unfold Ctx.stop; split <;> rfl
@[simp] theorem Ctx.stop_tenant (c : Ctx) (i : StopInfo) : (c.stop i).tenant = c.tenant := by unfold Ctx.stop; split <;> rfl
@[simp] theorem Ctx.stop_code (c : Ctx) (i : StopInfo) : (c.stop i).code = c.code := by unfold Ctx.stop; split <;> rfl
@[simp] theorem Ctx.stop_badIn (c : Ctx) (i : StopInfo) : (c.stop i).badIn = c.badIn := by unfold Ctx.stop; split <;> rfl
@[simp] theorem Ctx.stop_fnow (c : Ctx) (i : StopInfo) : (c.stop i).fnow = c.fnow := by unfold Ctx.stop; split <;> rfl

/-! ## Registers -/

@[simp] theorem Regs.setS_v (r : Regs) (i : SReg) (x : Word) (q : Bool) : (r.setS i x q).v = r.v := rfl
@[simp] theorem Regs.setS_k (r : Regs) (i : SReg) (x : Word) (q : Bool) : (r.setS i x q).k = r.k := rfl
@[simp] theorem Regs.setS_p (r : Regs) (i : SReg) (x : Word) (q : Bool) : (r.setS i x q).p = r.p := rfl
@[simp] theorem Regs.setS_flags (r : Regs) (i : SReg) (x : Word) (q : Bool) : (r.setS i x q).flags = r.flags := rfl
@[simp] theorem Regs.setS_amode (r : Regs) (i : SReg) (x : Word) (q : Bool) : (r.setS i x q).amode = r.amode := rfl
@[simp] theorem Regs.setS_srng (r : Regs) (i : SReg) (x : Word) (q : Bool) : (r.setS i x q).srng = r.srng := rfl
@[simp] theorem Regs.setS_bad (r : Regs) (i : SReg) (x : Word) (q : Bool) : (r.setS i x q).bad = r.bad.filter (· != .s i) := rfl
@[simp] theorem Regs.setV_s (r : Regs) (i : VReg) (x : VWord) (q : Bool) : (r.setV i x q).s = r.s := rfl
@[simp] theorem Regs.setV_k (r : Regs) (i : VReg) (x : VWord) (q : Bool) : (r.setV i x q).k = r.k := rfl
@[simp] theorem Regs.setV_p (r : Regs) (i : VReg) (x : VWord) (q : Bool) : (r.setV i x q).p = r.p := rfl
@[simp] theorem Regs.setV_flags (r : Regs) (i : VReg) (x : VWord) (q : Bool) : (r.setV i x q).flags = r.flags := rfl
@[simp] theorem Regs.setV_amode (r : Regs) (i : VReg) (x : VWord) (q : Bool) : (r.setV i x q).amode = r.amode := rfl
@[simp] theorem Regs.setV_srng (r : Regs) (i : VReg) (x : VWord) (q : Bool) : (r.setV i x q).srng = r.srng := rfl
@[simp] theorem Regs.setV_bad (r : Regs) (i : VReg) (x : VWord) (q : Bool) : (r.setV i x q).bad = r.bad.filter (· != .v i) := rfl
@[simp] theorem Regs.setK_s (r : Regs) (i : KReg) (x : KWord) (q : Bool) : (r.setK i x q).s = r.s := rfl
@[simp] theorem Regs.setK_v (r : Regs) (i : KReg) (x : KWord) (q : Bool) : (r.setK i x q).v = r.v := rfl
@[simp] theorem Regs.setK_p (r : Regs) (i : KReg) (x : KWord) (q : Bool) : (r.setK i x q).p = r.p := rfl
@[simp] theorem Regs.setK_flags (r : Regs) (i : KReg) (x : KWord) (q : Bool) : (r.setK i x q).flags = r.flags := rfl
@[simp] theorem Regs.setK_amode (r : Regs) (i : KReg) (x : KWord) (q : Bool) : (r.setK i x q).amode = r.amode := rfl
@[simp] theorem Regs.setK_srng (r : Regs) (i : KReg) (x : KWord) (q : Bool) : (r.setK i x q).srng = r.srng := rfl
@[simp] theorem Regs.setK_bad (r : Regs) (i : KReg) (x : KWord) (q : Bool) : (r.setK i x q).bad = r.bad.filter (· != .k i) := rfl
@[simp] theorem Regs.setP_s (r : Regs) (i : PReg) (b : Bool) : (r.setP i b).s = r.s := rfl
@[simp] theorem Regs.setP_v (r : Regs) (i : PReg) (b : Bool) : (r.setP i b).v = r.v := rfl
@[simp] theorem Regs.setP_k (r : Regs) (i : PReg) (b : Bool) : (r.setP i b).k = r.k := rfl
@[simp] theorem Regs.setP_flags (r : Regs) (i : PReg) (b : Bool) : (r.setP i b).flags = r.flags := rfl
@[simp] theorem Regs.setP_amode (r : Regs) (i : PReg) (b : Bool) : (r.setP i b).amode = r.amode := rfl
@[simp] theorem Regs.setP_srng (r : Regs) (i : PReg) (b : Bool) : (r.setP i b).srng = r.srng := rfl
@[simp] theorem Regs.setP_bad (r : Regs) (i : PReg) (b : Bool) : (r.setP i b).bad = r.bad := rfl

/-! ## Reading back -/

@[simp] theorem Tile.ctx_setCtx_self (t : Tile) (c : Fin 8) (x : Ctx) : (t.setCtx c x).ctx c = x := by
  simp [Tile.ctx, Tile.setCtx]
@[simp] theorem Tile.ctx_modCtx_self (t : Tile) (c : Fin 8) (f : Ctx → Ctx) : (t.modCtx c f).ctx c = f (t.ctx c) := by
  simp [Tile.modCtx]
theorem Tile.ctx_setCtx_other (t : Tile) {c d : Fin 8} (x : Ctx) (h : d ≠ c) : (t.setCtx c x).ctx d = t.ctx d := by
  have h' : c.val ≠ d.val := fun e => h (Fin.ext e.symm)
  simp [Tile.ctx, Tile.setCtx, Vector.getElem_set, h']
theorem Tile.ctx_modCtx_other (t : Tile) {c d : Fin 8} (f : Ctx → Ctx) (h : d ≠ c) : (t.modCtx c f).ctx d = t.ctx d :=
  t.ctx_setCtx_other _ h
@[simp] theorem Ctx.s_setS_self (c : Ctx) (i : SReg) (x : Word) (q : Bool) : (c.setRegs (c.regs.setS i x q)).s i = ⟨x, q⟩ := by
  simp [Ctx.s, Regs.setS, Reg.val]
theorem Ctx.s_setS_other (c : Ctx) {i j : SReg} (x : Word) (q : Bool) (h : j ≠ i) : (c.setRegs (c.regs.setS i x q)).s j = c.s j := by
  have h' : i.val ≠ j.val := fun e => h (Fin.ext e.symm)
  simp [Ctx.s, Regs.setS, Vector.getElem_set, h']

end Sys2Proof.Machine
end

