-- ==== Sys2Proof/Laws/Exec.lean ====
section
/-! SUPPORT. What one execution can do: a rule operation fires when R15 lets it and gives a next state; the step of an agent always gives a next state. -/

namespace Sys2Proof.Machine
open Sys2Proof

/-! ## Rule operations -/

theorem fireOp_ready {s : State} {i : Instr} (x : Iss) (h : s.opReady i = true) : s.fireOp i x = .next (s.issue i x) := by
  simp [State.fireOp, h]
theorem fireOp_not_ready {s : State} {i : Instr} (x : Iss) (h : s.opReady i = false) : s.fireOp i x = .fault .notEligible := by
  simp [State.fireOp, h]
theorem fireOp_next {s t : State} {i : Instr} {x : Iss} (h : s.fireOp i x = .next t) : s.opReady i = true ∧ t = s.issue i x := by
  unfold State.fireOp at h
  split at h
  · exact ⟨by assumption, (Host.Outcome.next.inj h).symm⟩
  · cases h
/-- Every rule operation is a fire with an effect. -/
theorem exec_op (i : Instr) (h : i.isEvent = false) : ∃ f : State → Iss, ∀ s, exec i s = s.fireOp i (f s) := by
  cases i
  all_goals first
    | exact ⟨fun s => _, fun s => rfl⟩
    | cases h
/-- A rule operation whose conditions of R15 hold completes. -/
theorem exec_op_next (i : Instr) (s : State) (h : i.isEvent = false) (hr : s.opReady i = true) : ∃ x : Iss, exec i s = .next (s.issue i x) := by
  obtain ⟨f, hf⟩ := exec_op i h
  exact ⟨f s, by rw [hf, fireOp_ready _ hr]⟩
/-- What a rule operation leads to. -/
theorem exec_op_inv {i : Instr} {s t : State} (h : i.isEvent = false) (ht : exec i s = .next t) : s.opReady i = true ∧ ∃ x : Iss, t = s.issue i x := by
  obtain ⟨f, hf⟩ := exec_op i h
  rw [hf] at ht
  exact ⟨(fireOp_next ht).1, f s, (fireOp_next ht).2⟩

end Sys2Proof.Machine
end

