-- ==== Sys2Proof/Laws/Results.lean ====
section
/-! SUPPORT. What the shared forms of a result amount to when no source is poisoned and no raised flag traps, and when a source is
poisoned (R105, R113). -/

namespace Sys2Proof.Machine
open Sys2Proof

/-- A rule operation that may fire answers with its effect, in whatever form the effect is written. -/
theorem exec_next_of_eq {s : State} {i : Instr} {x y : Iss} (he : exec i s = s.fireOp i x) (hr : s.opReady i = true) (h : x = y) :
    exec i s = .next (s.issue i y) := by rw [he, fireOp_ready _ hr, h]

/-! ## Poisoned sources -/

theorem unpoisoned_nil : unpoisoned [] := by intro p hp; simp at hp
theorem unpoisoned_cons {p : Option Word} {ps : List (Option Word)} : unpoisoned (p :: ps) ↔ p = none ∧ unpoisoned ps := by
  constructor
  · intro h; exact ⟨h p (by simp), fun q hq => h q (by simp [hq])⟩
  · rintro ⟨h, g⟩ q hq
    rcases List.mem_cons.mp hq with rfl | hq
    · exact h
    · exact g q hq
theorem firstPois_of_unpoisoned {ps : List (Option Word)} (h : unpoisoned ps) : firstPois ps = none := by
  induction ps with
  | nil => rfl
  | cons p l ih =>
    have h := unpoisoned_cons.mp h; obtain rfl := h.1
    exact ih h.2
theorem trapCause_of_quiet {f ten : Fl} (h : f &&& ten = 0#6) : trapCause f ten = none := by simp [trapCause, h]
theorem State.quiet_none {s : State} : s.quiet fNone := by simp [State.quiet, fNone]
theorem fit_div0 (t : ITy) (sat : Bool) (x : Int) : (fit t sat x).div0 = false := by
  unfold fit; split <;> [rfl; (split <;> rfl)]

/-! ## The forms of a result -/

theorem resIss_good {s : State} {ps hard bad fl srng good rc} (h : unpoisoned ps) (hq : s.quiet fl) :
    s.resIss ps hard bad false fl srng good rc = .res good rc fl srng := by
  unfold State.resIss
  rw [firstPois_of_unpoisoned h]
  simp [trapCause_of_quiet hq, Iss.res]
theorem resIss_poisoned {s : State} {ps hard bad div0 fl srng good rc pl} (h : firstPois ps = some pl) :
    s.resIss ps hard bad div0 fl srng good rc = .bad (bad pl) pl hard 0 := by
  unfold State.resIss; rw [h]; rfl
theorem iIss_good {s : State} {d ps} {r : ARes} (h : unpoisoned ps) (h0 : r.div0 = false) (hq : s.quiet r.fl) : s.iIss d ps r = r.res d := by
  unfold State.iIss State.sIss; rw [h0, resIss_good h hq]; rfl
theorem iIss_word {s : State} {d ps} {w : Word} (h : unpoisoned ps) : s.iIss d ps (aval w) = wordRes d w := by
  rw [iIss_good h rfl (by exact State.quiet_none)]; rfl
theorem pIss_good {s : State} {d ps fl b} (h : unpoisoned ps) (hq : s.quiet fl) : s.pIss d ps fl b = predRes d b fl := by
  unfold State.pIss; rw [resIss_good h hq]; rfl
theorem fIss_good {s : State} {d ps v f} {r : FRes} (h : unpoisoned ps) (hq : s.quiet r.fl) : s.fIss d ps v f r = r.res d f v := by
  unfold State.fIss State.sIss; rw [resIss_good h hq]; rfl
theorem vIss_good {s : State} {d ps w srng} {o : VOut} (h : unpoisoned ps) (h0 : o.div0 = false) (hq : s.quiet o.fl) :
    s.vIss d ps w srng o = o.res d w srng := by
  unfold State.vIss; rw [h0, resIss_good h hq]; rfl
theorem klog_good {s : State} {d ps x} (h : unpoisoned ps) : s.klog d ps x = maskRes d x (x != 0) 0 := by
  unfold State.klog; rw [resIss_good h State.quiet_none]; rfl

end Sys2Proof.Machine
end

