-- ==== Sys2Proof/Laws/Lanes.lean ====
section
/-! SUPPORT. Elements of vectors: what splitting and joining give, and the lanes of the element-wise operations (R185, R186, R190). -/

namespace Sys2Proof.Machine
open Sys2Proof

/-! ## Splitting and joining -/

theorem splitN_length (w n x : Nat) : (splitN w n x).length = n := by
  induction n generalizing x with
  | zero => rfl
  | succ n ih => simp [splitN, ih]
@[simp] theorem splitV_length (w : Nat) (x : VWord) : (splitV w x).length = 2048 / w := splitN_length ..
theorem bitsN_length (n x : Nat) : (bitsN n x).length = n := by
  induction n generalizing x with
  | zero => rfl
  | succ n ih => simp [bitsN, ih]
theorem bitsN_getD (n x k : Nat) (h : k < n) : (bitsN n x).getD k false = x.testBit k := by
  induction n generalizing x k with
  | zero => omega
  | succ n ih =>
    cases k with
    | zero => simp [bitsN, Nat.testBit_zero]; by_cases h : x % 2 = 1 <;> simp [h]
    | succ k => simp only [bitsN, List.getD_cons_succ]; rw [ih _ _ (by omega), Nat.testBit_succ]
theorem boolsN_testBit (bs : List Bool) (k : Nat) : (boolsN bs).testBit k = bs.getD k false := by
  induction bs generalizing k with
  | nil => simp [boolsN]
  | cons b bs ih =>
    cases k with
    | zero => cases b <;> simp [boolsN, Nat.testBit_zero]
    | succ k =>
      rw [Nat.testBit_succ, List.getD_cons_succ, ← ih]; congr 1
      cases b <;> simp [boolsN] <;> omega
theorem nthW_splitN_joinN (w : Nat) (xs : List Word) (n k : Nat) (hl : xs.length = n) (hk : k < n) (r : Nat) :
    nthW (splitN w n (joinN w xs + r * 2 ^ (w * n))) k = cutW w (nthW xs k) := by
  induction xs generalizing n k with
  | nil => simp at hl; omega
  | cons x xs ih =>
    obtain ⟨n, rfl⟩ : ∃ m, n = m + 1 := ⟨n - 1, by omega⟩
    have hp : 0 < 2 ^ w := by positivity
    have e : joinN w (x :: xs) + r * 2 ^ (w * (n + 1)) = x.toNat % 2 ^ w + (joinN w xs + r * 2 ^ (w * n)) * 2 ^ w := by
      rw [joinN, Nat.mul_add, Nat.pow_add]; simp; ring
    rw [e]
    cases k with
    | zero => simp [splitN, nthW, cutW, low]
    | succ k =>
      have h2 : (x.toNat % 2 ^ w + (joinN w xs + r * 2 ^ (w * n)) * 2 ^ w) / 2 ^ w = joinN w xs + r * 2 ^ (w * n) := by
        rw [Nat.add_mul_div_right _ _ hp, Nat.div_eq_of_lt (Nat.mod_lt _ hp)]; simp
      simp only [splitN, nthW, List.getD_cons_succ]
      rw [h2]; exact ih n k (by simpa using hl) (by omega)
/-- Element `k` of a joined list is its low bits. -/
theorem nthW_splitV_joinV {w : Nat} {xs : List Word} (hw : w * (2048 / w) = 2048) (hl : xs.length = 2048 / w) {k : Nat} (hk : k < 2048 / w) :
    nthW (splitV w (joinV w xs)) k = cutW w (nthW xs k) := by
  unfold splitV joinV
  rw [BitVec.toNat_ofNat]
  have := nthW_splitN_joinN w xs (2048 / w) k hl hk 0
  have hb : joinN w xs < 2 ^ 2048 := by
    rw [← hw, ← hl]
    clear this hk hl hw
    induction xs with
    | nil => simp [joinN]
    | cons x xs ih =>
      rw [joinN, List.length_cons, Nat.mul_add, Nat.pow_add]
      have h1 : x.toNat % 2 ^ w < 2 ^ w := Nat.mod_lt _ (by positivity)
      calc _ < 2 ^ w + joinN w xs * 2 ^ w := by omega
        _ = (joinN w xs + 1) * 2 ^ w := by ring
        _ ≤ _ := by rw [Nat.mul_one]; exact Nat.mul_le_mul_right _ ih
  rw [Nat.mod_eq_of_lt hb]
  simpa using this
theorem ITy.width_lanes (t : ITy) : t.width * (2048 / t.width) = 2048 := by cases t <;> rfl
theorem ETy.width_lanes (t : ETy) : t.width * (2048 / t.width) = 2048 := by
  cases t with
  | i t => exact ITy.width_lanes t
  | f t => rcases t with t | _ | _ <;> first | rfl | (cases t <;> rfl)
theorem FcTy.width_lanes (t : FcTy) : t.width * (2048 / t.width) = 2048 := by
  rcases t with t | _ | _ <;> first | rfl | (cases t <;> rfl)

/-! ## Lists of elements -/

theorem act_length (s : State) (m : Msk) (n : Nat) : (s.act m n).length = n := by
  unfold State.act activeBits; split
  · simp
  · exact bitsN_length ..
@[simp] theorem zerosOf_length (w : Nat) : (zerosOf w).length = 2048 / w := by simp [zerosOf]
@[simp] theorem el_length (s : State) (w : Nat) (a : VSrc) : (s.el w a).length = 2048 / w := by simp [State.el]
theorem oldV_length (s : State) (m : Msk) (d : VDst) (w : Nat) : (s.oldV m d w).length = 2048 / w := by
  unfold State.oldV; split <;> simp
theorem oldK_length (s : State) (m : Msk) (d : KDst) (n : Nat) : (s.oldK m d n).length = n := by
  unfold State.oldK; split
  · exact bitsN_length ..
  · simp

/-! ## Element-wise operations -/

/-- An element operation that neither uses nor advances SRNG acts on each element alone. -/
theorem emap_lanes (f : ElemOp) (isZ : Word → Bool) (v : FEnv) (g : Word → Word → Word → ARes)
    (hf : ∀ x y z, f v x y z = (g x y z).toE v) (as : List Bool) (os xs ys zs : List Word) (n : Nat)
    (ha : as.length = n) (ho : os.length = n) (hx : xs.length = n) (hy : ys.length = n) (hz : zs.length = n) :
    let o := emap f isZ v as os xs ys zs
    let r := fun k => g (nthW xs k) (nthW ys k) (nthW zs k)
    o.xs.length = n ∧ o.srng = v.srng
      ∧ (∀ k < n, nthW o.xs k = if as.getD k false then (r k).w else nthW os k)
      ∧ (o.nz = true ↔ ∃ k < n, as.getD k false = true ∧ isZ (r k).w = false)
      ∧ (o.div0 = true ↔ ∃ k < n, as.getD k false = true ∧ (r k).div0 = true)
      ∧ ∀ j, o.fl.getLsbD j = true ↔ ∃ k < n, as.getD k false = true ∧ (r k).fl.getLsbD j = true := by
  induction n generalizing as os xs ys zs with
  | zero =>
    obtain rfl := List.length_eq_zero_iff.mp ha
    simp [emap, fNone]
  | succ n ih =>
    obtain ⟨a, as, rfl⟩ := List.exists_cons_of_length_eq_add_one ha
    obtain ⟨o, os, rfl⟩ := List.exists_cons_of_length_eq_add_one ho
    obtain ⟨x, xs, rfl⟩ := List.exists_cons_of_length_eq_add_one hx
    obtain ⟨y, ys, rfl⟩ := List.exists_cons_of_length_eq_add_one hy
    obtain ⟨z, zs, rfl⟩ := List.exists_cons_of_length_eq_add_one hz
    simp only [List.length_cons, Nat.add_right_cancel_iff] at ha ho hx hy hz
    obtain ⟨h1, h2, h3, h4, h5, h6⟩ := ih as os xs ys zs ha ho hx hy hz
    have hv : ({ v with srng := v.srng } : FEnv) = v := rfl
    cases a with
    | true =>
      simp only [emap, if_true, hf, ARes.toE]
      refine ⟨by simp [h1], h2, ?_, ?_, ?_, ?_⟩
      · intro k hk
        cases k with
        | zero => simp [nthW]
        | succ k => simpa [nthW] using h3 k (by omega)
      · rw [Bool.or_eq_true, h4, Nat.exists_lt_succ_left]; simp [nthW]
      · rw [Bool.or_eq_true, h5, Nat.exists_lt_succ_left]; simp [nthW]
      · intro j
        rw [BitVec.getLsbD_or, Bool.or_eq_true, h6, Nat.exists_lt_succ_left]; simp [nthW]
    | false =>
      simp only [emap, Bool.false_eq_true, if_false]
      refine ⟨by simp [h1], h2, ?_, ?_, ?_, ?_⟩
      · intro k hk
        cases k with
        | zero => simp [nthW]
        | succ k => simpa [nthW] using h3 k (by omega)
      · rw [h4, Nat.exists_lt_succ_left]; simp [nthW]
      · rw [h5, Nat.exists_lt_succ_left]; simp [nthW]
      · intro j; rw [h6, Nat.exists_lt_succ_left]; simp [nthW]
/-- The bits of an element-wise test. -/
theorem kmap_lanes (f : Word → Word → Bool × Fl) (as os : List Bool) (xs ys : List Word) (n : Nat)
    (ha : as.length = n) (ho : os.length = n) (hx : xs.length = n) (hy : ys.length = n) :
    let o := kmap f as os xs ys
    let r := fun k => f (nthW xs k) (nthW ys k)
    o.1.length = n ∧ (∀ k < n, o.1.getD k false = if as.getD k false then (r k).1 else os.getD k false)
      ∧ ∀ j, o.2.getLsbD j = true ↔ ∃ k < n, as.getD k false = true ∧ (r k).2.getLsbD j = true := by
  induction n generalizing as os xs ys with
  | zero =>
    obtain rfl := List.length_eq_zero_iff.mp ha
    simp [kmap, fNone]
  | succ n ih =>
    obtain ⟨a, as, rfl⟩ := List.exists_cons_of_length_eq_add_one ha
    obtain ⟨o, os, rfl⟩ := List.exists_cons_of_length_eq_add_one ho
    obtain ⟨x, xs, rfl⟩ := List.exists_cons_of_length_eq_add_one hx
    obtain ⟨y, ys, rfl⟩ := List.exists_cons_of_length_eq_add_one hy
    simp only [List.length_cons, Nat.add_right_cancel_iff] at ha ho hx hy
    obtain ⟨h1, h3, h6⟩ := ih as os xs ys ha ho hx hy
    cases a with
    | true =>
      simp only [kmap, if_true]
      refine ⟨by simp [h1], ?_, ?_⟩
      · intro k hk
        cases k with
        | zero => simp [nthW]
        | succ k => simpa [nthW] using h3 k (by omega)
      · intro j
        rw [BitVec.getLsbD_or, Bool.or_eq_true, h6, Nat.exists_lt_succ_left]; simp [nthW]
    | false =>
      simp only [kmap, Bool.false_eq_true, if_false]
      refine ⟨by simp [h1], ?_, ?_⟩
      · intro k hk
        cases k with
        | zero => simp [nthW]
        | succ k => simpa [nthW] using h3 k (by omega)
      · intro j; rw [h6, Nat.exists_lt_succ_left]; simp [nthW]

end Sys2Proof.Machine
end

