-- ==== Sys2Proof/Laws/Memory.lean ====
section
/-! SUPPORT. Sparse maps and memories: reading after writing, and the canonical form, which every operation keeps. -/

namespace Sys2Proof.Machine

/-! ## Sparse maps -/

theorem mget_below {α : Type} [DecidableEq α] (d : α) (m : AMap α) (lo n : Nat) (h : mapWfFrom d lo m = true) (hn : n < lo) : mget d m n = d := by
  cases m with
  | nil => rfl
  | cons e l =>
    obtain ⟨k, v⟩ := e
    simp only [mapWfFrom, Bool.and_eq_true, decide_eq_true_eq] at h
    simp only [mget]
    rw [if_neg (by omega), if_pos (by omega)]
theorem mapWfFrom_mono {α : Type} [DecidableEq α] (d : α) (m : AMap α) (lo lo' : Nat) (h : mapWfFrom d lo m = true) (hl : lo' ≤ lo) : mapWfFrom d lo' m = true := by
  cases m with
  | nil => rfl
  | cons e l =>
    obtain ⟨k, v⟩ := e
    simp only [mapWfFrom, Bool.and_eq_true, decide_eq_true_eq] at h ⊢
    exact ⟨⟨by omega, h.1.2⟩, h.2⟩
/-- A write keeps the canonical form. -/
theorem mset_wfFrom {α : Type} [DecidableEq α] (d : α) (m : AMap α) (lo n : Nat) (x : α) (h : mapWfFrom d lo m = true) (hn : lo ≤ n) :
    mapWfFrom d lo (mset d m n x) = true := by
  induction m generalizing lo with
  | nil =>
    by_cases hx : x = d <;> simp [mset, mapWfFrom, hx]
    exact hn
  | cons e l ih =>
    obtain ⟨k, v⟩ := e
    simp only [mapWfFrom, Bool.and_eq_true, decide_eq_true_eq] at h
    obtain ⟨⟨hk, hv⟩, hl⟩ := h
    simp only [mset]
    split
    · split
      · simp [mapWfFrom, hk, hv, hl]
      · rename_i hnk hx
        have : mapWfFrom d (n + 1) ((k, v) :: l) = true := by
          simp [mapWfFrom, hv, hl]; omega
        simp [mapWfFrom, hn, hx] at this ⊢
        exact this
    · split
      · split
        · exact mapWfFrom_mono d l (k + 1) lo hl (by omega)
        · rename_i hnk hx
          subst hnk
          simp [mapWfFrom, hn, hx, hl]
      · simp [mapWfFrom, hk, hv]
        exact ih (k + 1) hl (by omega)
theorem mset_wf {α : Type} [DecidableEq α] (d : α) (m : AMap α) (n : Nat) (x : α) (h : mapWf d m = true) : mapWf d (mset d m n x) = true :=
  mset_wfFrom d m 0 n x h (Nat.zero_le _)
/-- A read after a write to the same key. -/
theorem mget_mset_self {α : Type} [DecidableEq α] (d : α) (m : AMap α) (lo n : Nat) (x : α) (h : mapWfFrom d lo m = true) : mget d (mset d m n x) n = x := by
  induction m generalizing lo with
  | nil => by_cases hx : x = d <;> simp [mset, mget, hx]
  | cons e l ih =>
    obtain ⟨k, v⟩ := e
    simp only [mapWfFrom, Bool.and_eq_true, decide_eq_true_eq] at h
    simp only [mset]
    split
    · split
      · rename_i hnk hx; simp [mget, hx, hnk, Nat.ne_of_lt hnk]
      · simp [mget]
    · split
      · split
        · rename_i hnk hx
          subst hnk hx
          exact mget_below x l (n + 1) n h.2 (by omega)
        · simp [mget]
      · rename_i h1 h2
        simp [mget, h2, h1, ih (k + 1) h.2]
/-- A write leaves every other key alone. -/
theorem mget_mset_other {α : Type} [DecidableEq α] (d : α) (m : AMap α) (lo n j : Nat) (x : α) (h : mapWfFrom d lo m = true) (hj : j ≠ n) :
    mget d (mset d m n x) j = mget d m j := by
  induction m generalizing lo with
  | nil => by_cases hx : x = d <;> simp [mset, mget, hx, hj]
  | cons e l ih =>
    obtain ⟨k, v⟩ := e
    simp only [mapWfFrom, Bool.and_eq_true, decide_eq_true_eq] at h
    simp only [mset]
    split
    · split
      · rfl
      · simp only [mget, if_neg hj]
        split
        · rw [if_neg (by omega), if_pos (by omega)]
        · rfl
    · split
      · rename_i hnk
        subst hnk
        split
        · simp only [mget, if_neg hj]
          split
          · exact mget_below d l (n + 1) j h.2 (by omega)
          · rfl
        · simp only [mget, if_neg hj]
      · simp only [mget, ih (k + 1) h.2]

/-! ## Memories -/

theorem setByte_wf (m : Memory) (a : Nat) (b : Byte) (h : Memory.wf m = true) : Memory.wf (setByte m a b) = true := mset_wf 0#8 m a b h
theorem writeBytes_wf (m : Memory) (a : Nat) (bs : List Byte) (h : Memory.wf m = true) : Memory.wf (writeBytes m a bs) = true := by
  induction bs generalizing m a with
  | nil => exact h
  | cons b bs ih => exact ih _ _ (setByte_wf m a b h)
theorem byteAt_setByte_self (m : Memory) (a : Nat) (b : Byte) (h : Memory.wf m = true) : byteAt (setByte m a b) a = b := mget_mset_self 0#8 m 0 a b h
theorem byteAt_setByte_other (m : Memory) (a c : Nat) (b : Byte) (h : Memory.wf m = true) (hc : c ≠ a) : byteAt (setByte m a b) c = byteAt m c :=
  mget_mset_other 0#8 m 0 a c b h hc
/-- Bytes outside those written are unchanged. -/
theorem byteAt_writeBytes_other (m : Memory) (a c : Nat) (bs : List Byte) (h : Memory.wf m = true) (hc : c < a ∨ a + bs.length ≤ c) :
    byteAt (writeBytes m a bs) c = byteAt m c := by
  induction bs generalizing m a with
  | nil => rfl
  | cons b bs ih =>
    simp only [List.length_cons] at hc
    rw [writeBytes, ih _ _ (setByte_wf m a b h) (by omega), byteAt_setByte_other m a c b h (by omega)]
/-- The bytes written are read back. -/
theorem byteAt_writeBytes_in (m : Memory) (a i : Nat) (bs : List Byte) (h : Memory.wf m = true) (hi : i < bs.length) :
    byteAt (writeBytes m a bs) (a + i) = bs[i] := by
  induction bs generalizing m a i with
  | nil => simp at hi
  | cons b bs ih =>
    rw [writeBytes]
    cases i with
    | zero => rw [byteAt_writeBytes_other _ _ _ _ (setByte_wf m a b h) (by omega)]; simpa using byteAt_setByte_self m a b h
    | succ i =>
      have := ih (setByte m a b) (a + 1) i (setByte_wf m a b h) (by simpa using hi)
      simpa [Nat.add_comm, Nat.add_left_comm, Nat.add_assoc] using this
@[simp] theorem readBytes_length (m : Memory) (a n : Nat) : (readBytes m a n).length = n := by
  induction n generalizing a with
  | zero => rfl
  | succ n ih => simp [readBytes, ih]
@[simp] theorem leBytes_length (n x : Nat) : (leBytes n x).length = n := by
  induction n generalizing x with
  | zero => rfl
  | succ n ih => simp [leBytes, ih]
theorem readBytes_writeBytes_other (m : Memory) (a c n : Nat) (bs : List Byte) (h : Memory.wf m = true) (hc : c + n ≤ a ∨ a + bs.length ≤ c) :
    readBytes (writeBytes m a bs) c n = readBytes m c n := by
  induction n generalizing c with
  | zero => rfl
  | succ n ih => rw [readBytes, readBytes, ih (c + 1) (by omega), byteAt_writeBytes_other m a c bs h (by omega)]

/-! ## The memories of the machine -/

theorem Tile.tcmWr_wf (t : Tile) (a : Nat) (bs : List Byte) (h : Memory.wf t.tcm = true) : Memory.wf (t.tcmWr a bs).tcm = true :=
  writeBytes_wf t.tcm a bs h
theorem Cluster.wr_wf (k : Cluster) (a : Nat) (bs : List Byte) (h : Memory.wf k.csp = true) : Memory.wf (k.wr a bs).csp = true :=
  writeBytes_wf k.csp a bs h
theorem State.memWr_wf (s : State) (a : Nat) (bs : List Byte) (h : Memory.wf s.mem = true) : Memory.wf (s.memWr a bs).mem = true :=
  writeBytes_wf s.mem a bs h
theorem State.setMemWord_wf (s : State) (a : Nat) (w : Word) (h : Memory.wf s.mem = true) : Memory.wf (s.setMemWord a w).mem = true :=
  s.memWr_wf a _ h
theorem State.reset_mem_wf : Memory.wf State.reset.mem = true := rfl

end Sys2Proof.Machine
end

