-- ==== Sys2Proof/Laws/PerInstr.lean ====
section
/-! SUPPORT. The family RoundTrip: the decoder reads every well-formed operation back from the word the encoder writes for it. -/

namespace Sys2Proof.Laws.RoundTrip
open Sys2Proof
set_option Elab.async false

/-- Decoding the word of a well-formed operation gives the operation. -/
def Statement (i : Instr) : Prop := ∀ w : Word, i.wf = true → encodeOp i = some w → decodeOp w = .ok i

theorem nop : Statement .nop := by
  intro w hw h
  cases h
  rfl
theorem add (t : IxTy) (sat : Bool) (d : SDst) (a : SSrc) (b : SSrc) : Statement (.add t sat d a b) := by
  intro w hw h
  cases h
  refine (decodeOp_scalar (m := 1) rfl rfl rfl (by decide) (by decide)).trans ?_
  simp only [decScalar, dSS_eSS, dSD_eSD, tmIxS_eIxS, FMod.ofWord_toWord, FMod.tm_mkMod, FMod.noMask_all, Chk.ap_ok, Chk.map_ok]
  rfl
theorem sub (t : IxTy) (sat : Bool) (d : SDst) (a : SSrc) (b : SSrc) : Statement (.sub t sat d a b) := by
  intro w hw h
  cases h
  refine (decodeOp_scalar (m := 2) rfl rfl rfl (by decide) (by decide)).trans ?_
  simp only [decScalar, dSS_eSS, dSD_eSD, tmIxS_eIxS, FMod.ofWord_toWord, FMod.tm_mkMod, FMod.noMask_all, Chk.ap_ok, Chk.map_ok]
  rfl
theorem mul (t : IxTy) (sat : Bool) (d : SDst) (a : SSrc) (b : SSrc) : Statement (.mul t sat d a b) := by
  intro w hw h
  cases h
  refine (decodeOp_scalar (m := 3) rfl rfl rfl (by decide) (by decide)).trans ?_
  simp only [decScalar, dSS_eSS, dSD_eSD, tmIxS_eIxS, FMod.ofWord_toWord, FMod.tm_mkMod, FMod.noMask_all, Chk.ap_ok, Chk.map_ok]
  rfl
theorem div (t : IxTy) (sat : Bool) (d : SDst) (a : SSrc) (b : SSrc) : Statement (.div t sat d a b) := by
  intro w hw h
  cases h
  refine (decodeOp_scalar (m := 5) rfl rfl rfl (by decide) (by decide)).trans ?_
  simp only [decScalar, dSS_eSS, dSD_eSD, tmIxS_eIxS, FMod.ofWord_toWord, FMod.tm_mkMod, FMod.noMask_all, Chk.ap_ok, Chk.map_ok]
  rfl
theorem mulh (t : ITy) (d : SDst) (a : SSrc) (b : SSrc) : Statement (.mulh t d a b) := by
  intro w hw h
  cases h
  refine (decodeOp_scalar (m := 4) rfl rfl rfl (by decide) (by decide)).trans ?_
  simp only [decScalar, dSS_eSS, dSD_eSD, tmI_eITy, FMod.ofWord_toWord, FMod.tm_mkMod, FMod.noMask_all, Chk.ap_ok, Chk.map_ok]
  rfl
theorem rem (t : ITy) (d : SDst) (a : SSrc) (b : SSrc) : Statement (.rem t d a b) := by
  intro w hw h
  cases h
  refine (decodeOp_scalar (m := 6) rfl rfl rfl (by decide) (by decide)).trans ?_
  simp only [decScalar, dSS_eSS, dSD_eSD, tmI_eITy, FMod.ofWord_toWord, FMod.tm_mkMod, FMod.noMask_all, Chk.ap_ok, Chk.map_ok]
  rfl
theorem and (t : ITy) (d : SDst) (a : SSrc) (b : SSrc) : Statement (.and t d a b) := by
  intro w hw h
  cases h
  refine (decodeOp_scalar (m := 9) rfl rfl rfl (by decide) (by decide)).trans ?_
  simp only [decScalar, dSS_eSS, dSD_eSD, tmI_eITy, FMod.ofWord_toWord, FMod.tm_mkMod, FMod.noMask_all, Chk.ap_ok, Chk.map_ok]
  rfl
theorem or (t : ITy) (d : SDst) (a : SSrc) (b : SSrc) : Statement (.or t d a b) := by
  intro w hw h
  cases h
  refine (decodeOp_scalar (m := 10) rfl rfl rfl (by decide) (by decide)).trans ?_
  simp only [decScalar, dSS_eSS, dSD_eSD, tmI_eITy, FMod.ofWord_toWord, FMod.tm_mkMod, FMod.noMask_all, Chk.ap_ok, Chk.map_ok]
  rfl
theorem xor (t : ITy) (d : SDst) (a : SSrc) (b : SSrc) : Statement (.xor t d a b) := by
  intro w hw h
  cases h
  refine (decodeOp_scalar (m := 11) rfl rfl rfl (by decide) (by decide)).trans ?_
  simp only [decScalar, dSS_eSS, dSD_eSD, tmI_eITy, FMod.ofWord_toWord, FMod.tm_mkMod, FMod.noMask_all, Chk.ap_ok, Chk.map_ok]
  rfl
theorem andn (t : ITy) (d : SDst) (a : SSrc) (b : SSrc) : Statement (.andn t d a b) := by
  intro w hw h
  cases h
  refine (decodeOp_scalar (m := 12) rfl rfl rfl (by decide) (by decide)).trans ?_
  simp only [decScalar, dSS_eSS, dSD_eSD, tmI_eITy, FMod.ofWord_toWord, FMod.tm_mkMod, FMod.noMask_all, Chk.ap_ok, Chk.map_ok]
  rfl
theorem shl (t : ITy) (d : SDst) (a : SSrc) (b : SSrc) : Statement (.shl t d a b) := by
  intro w hw h
  cases h
  refine (decodeOp_scalar (m := 13) rfl rfl rfl (by decide) (by decide)).trans ?_
  simp only [decScalar, dSS_eSS, dSD_eSD, tmI_eITy, FMod.ofWord_toWord, FMod.tm_mkMod, FMod.noMask_all, Chk.ap_ok, Chk.map_ok]
  rfl
theorem shr (t : ITy) (d : SDst) (a : SSrc) (b : SSrc) : Statement (.shr t d a b) := by
  intro w hw h
  cases h
  refine (decodeOp_scalar (m := 14) rfl rfl rfl (by decide) (by decide)).trans ?_
  simp only [decScalar, dSS_eSS, dSD_eSD, tmI_eITy, FMod.ofWord_toWord, FMod.tm_mkMod, FMod.noMask_all, Chk.ap_ok, Chk.map_ok]
  rfl
theorem sra (t : ITy) (d : SDst) (a : SSrc) (b : SSrc) : Statement (.sra t d a b) := by
  intro w hw h
  cases h
  refine (decodeOp_scalar (m := 15) rfl rfl rfl (by decide) (by decide)).trans ?_
  simp only [decScalar, dSS_eSS, dSD_eSD, tmI_eITy, FMod.ofWord_toWord, FMod.tm_mkMod, FMod.noMask_all, Chk.ap_ok, Chk.map_ok]
  rfl
theorem rol (t : ITy) (d : SDst) (a : SSrc) (b : SSrc) : Statement (.rol t d a b) := by
  intro w hw h
  cases h
  refine (decodeOp_scalar (m := 16) rfl rfl rfl (by decide) (by decide)).trans ?_
  simp only [decScalar, dSS_eSS, dSD_eSD, tmI_eITy, FMod.ofWord_toWord, FMod.tm_mkMod, FMod.noMask_all, Chk.ap_ok, Chk.map_ok]
  rfl
theorem ror (t : ITy) (d : SDst) (a : SSrc) (b : SSrc) : Statement (.ror t d a b) := by
  intro w hw h
  cases h
  refine (decodeOp_scalar (m := 16) rfl rfl rfl (by decide) (by decide)).trans ?_
  simp only [decScalar, dSS_eSS, dSD_eSD, tmI_eITy, FMod.ofWord_toWord, FMod.tm_mkMod, FMod.noMask_all, Chk.ap_ok, Chk.map_ok]
  rfl
theorem min (t : IxTy) (d : SDst) (a : SSrc) (b : SSrc) : Statement (.min t d a b) := by
  intro w hw h
  cases h
  refine (decodeOp_scalar (m := 7) rfl rfl rfl (by decide) (by decide)).trans ?_
  simp only [decScalar, dSS_eSS, dSD_eSD, tmIx_eIx, FMod.ofWord_toWord, FMod.tm_mkMod, FMod.noMask_all, Chk.ap_ok, Chk.map_ok]
  rfl
theorem max (t : IxTy) (d : SDst) (a : SSrc) (b : SSrc) : Statement (.max t d a b) := by
  intro w hw h
  cases h
  refine (decodeOp_scalar (m := 8) rfl rfl rfl (by decide) (by decide)).trans ?_
  simp only [decScalar, dSS_eSS, dSD_eSD, tmIx_eIx, FMod.ofWord_toWord, FMod.tm_mkMod, FMod.noMask_all, Chk.ap_ok, Chk.map_ok]
  rfl
theorem clz (t : ITy) (d : SDst) (a : SSrc) : Statement (.clz t d a) := by
  intro w hw h
  cases h
  refine (decodeOp_scalar (m := 17) rfl rfl rfl (by decide) (by decide)).trans ?_
  simp only [decScalar, dSS_eSS, dSD_eSD, tmI_eITy, FMod.ofWord_toWord, FMod.tm_mkMod, FMod.noMask_all, Chk.ap_ok, Chk.map_ok]
  rfl
theorem ctz (t : ITy) (d : SDst) (a : SSrc) : Statement (.ctz t d a) := by
  intro w hw h
  cases h
  refine (decodeOp_scalar (m := 18) rfl rfl rfl (by decide) (by decide)).trans ?_
  simp only [decScalar, dSS_eSS, dSD_eSD, tmI_eITy, FMod.ofWord_toWord, FMod.tm_mkMod, FMod.noMask_all, Chk.ap_ok, Chk.map_ok]
  rfl
theorem popc (t : ITy) (d : SDst) (a : SSrc) : Statement (.popc t d a) := by
  intro w hw h
  cases h
  refine (decodeOp_scalar (m := 19) rfl rfl rfl (by decide) (by decide)).trans ?_
  simp only [decScalar, dSS_eSS, dSD_eSD, tmI_eITy, FMod.ofWord_toWord, FMod.tm_mkMod, FMod.noMask_all, Chk.ap_ok, Chk.map_ok]
  rfl
theorem bext (signed : Bool) (d : SDst) (a : SSrc) (b : SSrc) (c : SSrc) : Statement (.bext signed d a b c) := by
  intro w hw h
  cases h
  refine (decodeOp_scalar (m := 20) rfl rfl rfl (by decide) (by decide)).trans ?_
  simp only [decScalar, dSS_eSS, dSD_eSD, tmExt64_eExt64, FMod.ofWord_toWord, FMod.tm_mkMod, FMod.noMask_all, Chk.ap_ok, Chk.map_ok]
  rfl
theorem bins (d : SReg) (a : SSrc) (b : SSrc) (c : SSrc) : Statement (.bins d a b c) := by
  intro w hw h
  cases h
  refine (decodeOp_scalar (m := 21) rfl rfl rfl (by decide) (by decide)).trans ?_
  simp only [decScalar, dSS_eSS, dSR_eSR, tmNone_tmOf, FMod.ofWord_toWord, FMod.tm_mkMod, FMod.noMask_all, Chk.ap_ok, Chk.map_ok]
  rfl
theorem sel (d : SDst) (a : SSrc) (b : SSrc) (c : PReg) : Statement (.sel d a b c) := by
  intro w hw h
  cases h
  refine (decodeOp_scalar (m := 22) rfl rfl rfl (by decide) (by decide)).trans ?_
  simp only [decScalar, dSS_eSS, dSD_eSD, dP_eP, tmNone_tmOf, FMod.ofWord_toWord, FMod.tm_mkMod, FMod.noMask_all, Chk.ap_ok, Chk.map_ok]
  rfl
theorem cmp (cc : Cc) (t : IxTy) (d : PReg) (a : SSrc) (b : SSrc) : Statement (.cmp cc t d a b) := by
  intro w hw h
  cases h
  refine (decodeOp_scalar (m := 23) rfl rfl (by cases cc <;> rfl) (by decide) (by decide)).trans ?_
  simp only [decScalar, dSS_eSS, dP_eP, tmIx_eIx, dCc_eCc, FMod.ofWord_toWord, FMod.tm_mkMod, FMod.noMask_all, Chk.ap_ok, Chk.map_ok]
  rfl
theorem addi (d : SDst) (a : SSrc) (imm : BitVec 32) : Statement (.addi d a imm) := by
  intro w hw h
  cases h
  refine (decodeOp_i (m := 24) rfl rfl rfl (by decide)).trans ?_
  simp only [decI, dSS_eSS, dSD_eSD, Chk.ap_ok, Chk.map_ok]
  rfl
theorem andi (d : SDst) (a : SSrc) (imm : BitVec 32) : Statement (.andi d a imm) := by
  intro w hw h
  cases h
  refine (decodeOp_i (m := 25) rfl rfl rfl (by decide)).trans ?_
  simp only [decI, dSS_eSS, dSD_eSD, Chk.ap_ok, Chk.map_ok]
  rfl
theorem ori (d : SDst) (a : SSrc) (imm : BitVec 32) : Statement (.ori d a imm) := by
  intro w hw h
  cases h
  refine (decodeOp_i (m := 25) rfl rfl rfl (by decide)).trans ?_
  simp only [decI, dSS_eSS, dSD_eSD, Chk.ap_ok, Chk.map_ok]
  rfl
theorem xori (d : SDst) (a : SSrc) (imm : BitVec 32) : Statement (.xori d a imm) := by
  intro w hw h
  cases h
  refine (decodeOp_i (m := 25) rfl rfl rfl (by decide)).trans ?_
  simp only [decI, dSS_eSS, dSD_eSD, Chk.ap_ok, Chk.map_ok]
  rfl
theorem shli (d : SDst) (a : SSrc) (n : Fin 64) : Statement (.shli d a n) := by
  intro w hw h
  cases h
  refine (decodeOp_i (m := 26) rfl rfl rfl (by decide)).trans ?_
  simp only [decI, dSS_eSS, dSD_eSD, Chk.ap_ok, Chk.map_ok, fin64_ofNat32, ofNat32_lt64, Chk.req_true]
  rfl
theorem shri (d : SDst) (a : SSrc) (n : Fin 64) : Statement (.shri d a n) := by
  intro w hw h
  cases h
  refine (decodeOp_i (m := 26) rfl rfl rfl (by decide)).trans ?_
  simp only [decI, dSS_eSS, dSD_eSD, Chk.ap_ok, Chk.map_ok, fin64_ofNat32, ofNat32_lt64, Chk.req_true]
  rfl
theorem srai (d : SDst) (a : SSrc) (n : Fin 64) : Statement (.srai d a n) := by
  intro w hw h
  cases h
  refine (decodeOp_i (m := 26) rfl rfl rfl (by decide)).trans ?_
  simp only [decI, dSS_eSS, dSD_eSD, Chk.ap_ok, Chk.map_ok, fin64_ofNat32, ofNat32_lt64, Chk.req_true]
  rfl
theorem roli (d : SDst) (a : SSrc) (n : Fin 64) : Statement (.roli d a n) := by
  intro w hw h
  cases h
  refine (decodeOp_i (m := 26) rfl rfl rfl (by decide)).trans ?_
  simp only [decI, dSS_eSS, dSD_eSD, Chk.ap_ok, Chk.map_ok, fin64_ofNat32, ofNat32_lt64, Chk.req_true]
  rfl
theorem cmpi (cc : Cc) (t : IxTy0) (d : PReg) (a : SSrc) (imm : BitVec 28) : Statement (.cmpi cc t d a imm) := by
  intro w hw h
  cases h
  refine (decodeOp_i (m := 27) rfl rfl (by cases cc <;> rfl) (by decide)).trans ?_
  simp only [decI, dSS_eSS, dP_eP, dCc_eCc, dIx0_eIx0, fld_cmpi, Chk.ap_ok, Chk.map_ok]
  rfl
theorem li (d : SDst) (imm : BitVec 40) : Statement (.li d imm) := by
  intro w hw h
  cases h
  refine (decodeOp_l rfl).trans ?_
  simp only [decL, dSD_eSD, Chk.ap_ok, Chk.map_ok]
  rfl
theorem lih (d : SReg) (imm : BitVec 40) : Statement (.lih d imm) := by
  intro w hw h
  cases h
  refine (decodeOp_l rfl).trans ?_
  simp only [decL, dSR_eSR, Chk.ap_ok, Chk.map_ok]
  rfl
theorem lea (d : SDst) (a : SSrc) (b : SSrc) (k : Fin 8) : Statement (.lea d a b k) := by
  intro w hw h
  cases h
  refine (decodeOp_scalar (m := 29) rfl rfl rfl (by decide) (by decide)).trans ?_
  simp only [decScalar, dSS_eSS, dSD_eSD, fin8_c7, c7_lt8, Chk.req_true]
  rfl
theorem sext (t : ExtTy) (d : SDst) (a : SSrc) : Statement (.sext t d a) := by
  intro w hw h
  cases h
  refine (decodeOp_scalar (m := 30) rfl rfl rfl (by decide) (by decide)).trans ?_
  simp only [decScalar, dSS_eSS, dSD_eSD, tmExtS_eExtS, FMod.ofWord_toWord, FMod.tm_mkMod, FMod.noMask_all, Chk.ap_ok, Chk.map_ok]
  rfl
theorem zext (t : ExtTy) (d : SDst) (a : SSrc) : Statement (.zext t d a) := by
  intro w hw h
  cases h
  refine (decodeOp_scalar (m := 30) rfl rfl rfl (by decide) (by decide)).trans ?_
  simp only [decScalar, dSS_eSS, dSD_eSD, tmExtN_eExtN, FMod.ofWord_toWord, FMod.tm_mkMod, FMod.noMask_all, Chk.ap_ok, Chk.map_ok]
  rfl
theorem mov (d : SDst) (a : SSrc) : Statement (.mov d a) := by
  intro w hw h
  cases h
  refine (decodeOp_scalar (m := 31) rfl rfl rfl (by decide) (by decide)).trans ?_
  simp only [decScalar, dSS_eSS, dSD_eSD, tmNone_tmOf, FMod.ofWord_toWord, FMod.tm_mkMod, FMod.noMask_all, Chk.ap_ok, Chk.map_ok]
  rfl
theorem fadd (t : FTy) (rm : Rm) (d : SDst) (a : SSrc) (b : SSrc) : Statement (.fadd t rm d a b) := by
  intro w hw h
  cases h
  refine (decodeOp_scalar (m := 32) rfl rfl rfl (by decide) (by decide)).trans ?_
  simp only [decScalar, dSS_eSS, dSD_eSD, tmFR_eFR, FMod.ofWord_toWord, FMod.tm_mkMod, FMod.noMask_all, Chk.ap_ok, Chk.map_ok]
  rfl
theorem fsub (t : FTy) (rm : Rm) (d : SDst) (a : SSrc) (b : SSrc) : Statement (.fsub t rm d a b) := by
  intro w hw h
  cases h
  refine (decodeOp_scalar (m := 33) rfl rfl rfl (by decide) (by decide)).trans ?_
  simp only [decScalar, dSS_eSS, dSD_eSD, tmFR_eFR, FMod.ofWord_toWord, FMod.tm_mkMod, FMod.noMask_all, Chk.ap_ok, Chk.map_ok]
  rfl
theorem fmul (t : FTy) (rm : Rm) (d : SDst) (a : SSrc) (b : SSrc) : Statement (.fmul t rm d a b) := by
  intro w hw h
  cases h
  refine (decodeOp_scalar (m := 34) rfl rfl rfl (by decide) (by decide)).trans ?_
  simp only [decScalar, dSS_eSS, dSD_eSD, tmFR_eFR, FMod.ofWord_toWord, FMod.tm_mkMod, FMod.noMask_all, Chk.ap_ok, Chk.map_ok]
  rfl
theorem fdiv (t : FTy) (rm : Rm) (d : SDst) (a : SSrc) (b : SSrc) : Statement (.fdiv t rm d a b) := by
  intro w hw h
  cases h
  refine (decodeOp_scalar (m := 35) rfl rfl rfl (by decide) (by decide)).trans ?_
  simp only [decScalar, dSS_eSS, dSD_eSD, tmFR_eFR, FMod.ofWord_toWord, FMod.tm_mkMod, FMod.noMask_all, Chk.ap_ok, Chk.map_ok]
  rfl
theorem fsqrt (t : FTy) (rm : Rm) (d : SDst) (a : SSrc) : Statement (.fsqrt t rm d a) := by
  intro w hw h
  cases h
  refine (decodeOp_scalar (m := 36) rfl rfl rfl (by decide) (by decide)).trans ?_
  simp only [decScalar, dSS_eSS, dSD_eSD, tmFR_eFR, FMod.ofWord_toWord, FMod.tm_mkMod, FMod.noMask_all, Chk.ap_ok, Chk.map_ok]
  rfl
theorem ffma (op : FmaOp) (t : FTy) (rm : Rm) (d : SDst) (a : SSrc) (b : SSrc) (c : SSrc) : Statement (.ffma op t rm d a b c) := by
  intro w hw h
  cases h
  refine (decodeOp_scalar (m := 37) rfl rfl (by cases op <;> rfl) (by decide) (by decide)).trans ?_
  simp only [decScalar, dSS_eSS, dSD_eSD, tmFR_eFR, dFma_eFma, FMod.ofWord_toWord, FMod.tm_mkMod, FMod.noMask_all, Chk.ap_ok, Chk.map_ok]
theorem fmin (t : FTy) (d : SDst) (a : SSrc) (b : SSrc) : Statement (.fmin t d a b) := by
  intro w hw h
  cases h
  refine (decodeOp_scalar (m := 38) rfl rfl rfl (by decide) (by decide)).trans ?_
  simp only [decScalar, dSS_eSS, dSD_eSD, tmF_eFTy, FMod.ofWord_toWord, FMod.tm_mkMod, FMod.noMask_all, Chk.ap_ok, Chk.map_ok]
  rfl
theorem fmax (t : FTy) (d : SDst) (a : SSrc) (b : SSrc) : Statement (.fmax t d a b) := by
  intro w hw h
  cases h
  refine (decodeOp_scalar (m := 39) rfl rfl rfl (by decide) (by decide)).trans ?_
  simp only [decScalar, dSS_eSS, dSD_eSD, tmF_eFTy, FMod.ofWord_toWord, FMod.tm_mkMod, FMod.noMask_all, Chk.ap_ok, Chk.map_ok]
  rfl
theorem fcmp (cc : Fcc) (t : FTy) (d : PReg) (a : SSrc) (b : SSrc) : Statement (.fcmp cc t d a b) := by
  intro w hw h
  cases h
  refine (decodeOp_scalar (m := 40) rfl rfl (by cases cc with | c c => cases c <;> rfl | un => rfl) (by decide) (by decide)).trans ?_
  simp only [decScalar, dSS_eSS, dP_eP, dFcc_eFcc, Chk.ap_ok, Chk.map_ok, FMod.ofWord_zero, FMod.tm_zero, FMod.noMask_all, tmF_eFTy]
  rfl
theorem fclass (t : FcTy) (d : SDst) (a : SSrc) : Statement (.fclass t d a) := by
  intro w hw h
  cases h
  refine (decodeOp_scalar (m := 41) rfl rfl rfl (by decide) (by decide)).trans ?_
  simp only [decScalar, dSS_eSS, dSD_eSD, tmFc_eFcTy, FMod.ofWord_toWord, FMod.tm_mkMod, FMod.noMask_all, Chk.ap_ok, Chk.map_ok]
  rfl
theorem fcvt (dt : FcTy) (st : FcTy) (rm : Rm) (d : SDst) (a : SSrc) : Statement (.fcvt dt st rm d a) := by
  intro w hw h
  cases h
  refine (decodeOp_scalar (m := 42) rfl rfl rfl (by decide) (by decide)).trans ?_
  simp only [decScalar, dSS_eSS, dSD_eSD, tmFcvt_eFcvt, FMod.ofWord_toWord, FMod.tm_mkMod, FMod.noMask_all, Chk.ap_ok, Chk.map_ok]
  rfl
theorem fcvti (dt : ITy) (st : FcTy) (d : SDst) (a : SSrc) : Statement (.fcvti dt st d a) := by
  intro w hw h
  cases h
  refine (decodeOp_scalar (m := 43) rfl rfl rfl (by decide) (by decide)).trans ?_
  simp only [decScalar, dSS_eSS, dSD_eSD, Chk.ap_ok, Chk.map_ok, FMod.ofWord_zero, FMod.tm_zero, FMod.noMask_all, tmFcvti_eITy]
  rfl
theorem icvtf (dt : FcTy) (st : ITy) (rm : Rm) (d : SDst) (a : SSrc) : Statement (.icvtf dt st rm d a) := by
  intro w hw h
  cases h
  refine (decodeOp_scalar (m := 44) rfl rfl rfl (by decide) (by decide)).trans ?_
  simp only [decScalar, dSS_eSS, dSD_eSD, FMod.ofWord_toWord, FMod.tm_mkMod, FMod.noMask_all, Chk.ap_ok, Chk.map_ok, tmIcvtf_eFcvt]
  rfl
theorem fxcvt (c : FxCvt) (d : SDst) (a : SSrc) : Statement (.fxcvt c d a) := by
  intro w hw h
  cases h
  refine (decodeOp_scalar (m := 45) rfl rfl rfl (by decide) (by decide)).trans ?_
  simp only [decScalar, dSS_eSS, dSD_eSD, tmFxcvt_eFxcvt, FMod.ofWord_toWord, FMod.tm_mkMod, FMod.noMask_all, Chk.ap_ok, Chk.map_ok]
  rfl
theorem fneg (t : FTy) (d : SDst) (a : SSrc) : Statement (.fneg t d a) := by
  intro w hw h
  cases h
  refine (decodeOp_scalar (m := 46) rfl rfl rfl (by decide) (by decide)).trans ?_
  simp only [decScalar, dSS_eSS, dSD_eSD, tmF_eFTy, FMod.ofWord_toWord, FMod.tm_mkMod, FMod.noMask_all, Chk.ap_ok, Chk.map_ok]
  rfl
theorem fabs (t : FTy) (d : SDst) (a : SSrc) : Statement (.fabs t d a) := by
  intro w hw h
  cases h
  refine (decodeOp_scalar (m := 46) rfl rfl rfl (by decide) (by decide)).trans ?_
  simp only [decScalar, dSS_eSS, dSD_eSD, tmF_eFTy, FMod.ofWord_toWord, FMod.tm_mkMod, FMod.noMask_all, Chk.ap_ok, Chk.map_ok]
  rfl
theorem fcpsgn (t : FTy) (d : SDst) (a : SSrc) (b : SSrc) : Statement (.fcpsgn t d a b) := by
  intro w hw h
  cases h
  refine (decodeOp_scalar (m := 46) rfl rfl rfl (by decide) (by decide)).trans ?_
  simp only [decScalar, dSS_eSS, dSD_eSD, tmF_eFTy, FMod.ofWord_toWord, FMod.tm_mkMod, FMod.noMask_all, Chk.ap_ok, Chk.map_ok]
  rfl
theorem fflag (d : SDst) (a : SSrc) : Statement (.fflag d a) := by
  intro w hw h
  cases h
  refine (decodeOp_scalar (m := 47) rfl rfl rfl (by decide) (by decide)).trans ?_
  simp only [decScalar, dSS_eSS, dSD_eSD, tmNone_tmOf, FMod.ofWord_toWord, FMod.tm_mkMod, FMod.noMask_all, Chk.ap_ok, Chk.map_ok]
  rfl
theorem fflagClr (d : SDst) (a : SSrc) : Statement (.fflagClr d a) := by
  intro w hw h
  cases h
  refine (decodeOp_scalar (m := 47) rfl rfl rfl (by decide) (by decide)).trans ?_
  simp only [decScalar, dSS_eSS, dSD_eSD, tmNone_tmOf, FMod.ofWord_toWord, FMod.tm_mkMod, FMod.noMask_all, Chk.ap_ok, Chk.map_ok]
  rfl
theorem pand (d : PReg) (a : PReg) (b : PReg) : Statement (.pand d a b) := by
  intro w hw h
  cases h
  refine (decodeOp_channel (m := 48) rfl rfl rfl (by decide)).trans ?_
  simp only [decChannel, dP_eP, tmNone_tmOf, FMod.ofWord_toWord, FMod.tm_mkMod, FMod.noMask_all, Chk.ap_ok, Chk.map_ok]
  rfl
theorem por (d : PReg) (a : PReg) (b : PReg) : Statement (.por d a b) := by
  intro w hw h
  cases h
  refine (decodeOp_channel (m := 48) rfl rfl rfl (by decide)).trans ?_
  simp only [decChannel, dP_eP, tmNone_tmOf, FMod.ofWord_toWord, FMod.tm_mkMod, FMod.noMask_all, Chk.ap_ok, Chk.map_ok]
  rfl
theorem pxor (d : PReg) (a : PReg) (b : PReg) : Statement (.pxor d a b) := by
  intro w hw h
  cases h
  refine (decodeOp_channel (m := 48) rfl rfl rfl (by decide)).trans ?_
  simp only [decChannel, dP_eP, tmNone_tmOf, FMod.ofWord_toWord, FMod.tm_mkMod, FMod.noMask_all, Chk.ap_ok, Chk.map_ok]
  rfl
theorem pandn (d : PReg) (a : PReg) (b : PReg) : Statement (.pandn d a b) := by
  intro w hw h
  cases h
  refine (decodeOp_channel (m := 48) rfl rfl rfl (by decide)).trans ?_
  simp only [decChannel, dP_eP, tmNone_tmOf, FMod.ofWord_toWord, FMod.tm_mkMod, FMod.noMask_all, Chk.ap_ok, Chk.map_ok]
  rfl
theorem pnot (d : PReg) (a : PReg) : Statement (.pnot d a) := by
  intro w hw h
  cases h
  refine (decodeOp_channel (m := 48) rfl rfl rfl (by decide)).trans ?_
  simp only [decChannel, dP_eP, tmNone_tmOf, FMod.ofWord_toWord, FMod.tm_mkMod, FMod.noMask_all, Chk.ap_ok, Chk.map_ok]
  rfl
theorem pmov (d : PReg) (a : PReg) : Statement (.pmov d a) := by
  intro w hw h
  cases h
  refine (decodeOp_channel (m := 48) rfl rfl rfl (by decide)).trans ?_
  simp only [decChannel, dP_eP, tmNone_tmOf, FMod.ofWord_toWord, FMod.tm_mkMod, FMod.noMask_all, Chk.ap_ok, Chk.map_ok]
  rfl
theorem recv (d : XDst) (a : Chan) : Statement (.recv d a) := by
  intro w hw h
  cases h
  refine (decodeOp_channel (m := 49) rfl rfl rfl (by decide)).trans ?_
  simp only [decChannel, dCI_eCI, dXD_eXD, fld_eWid, eWid_lt, modLt, Chk.req_true, Chk.ap_ok, Chk.map_ok]
  rfl
theorem tryrecv (d : XDst) (a : Chan) (pc : PReg) : Statement (.tryrecv d a pc) := by
  intro w hw h
  cases h
  refine (decodeOp_channel (m := 49) rfl rfl rfl (by decide)).trans ?_
  simp only [decChannel, dP_eP, dCI_eCI, dXD_eXD, fld_eWid, eWid_lt, modLt, Chk.req_true, Chk.ap_ok, Chk.map_ok]
  rfl
theorem send (d : Chan) (a : XSrc) (tag : TagSrc) : Statement (.send d a tag) := by
  intro w hw h
  cases h
  refine (decodeOp_channel (m := 50) rfl rfl rfl (by decide)).trans ?_
  simp only [decChannel, dCO_eCO, dXS_eXS, fld_eSend_w, fld_eSend_z, dTag_eSend, Chk.ap_ok, Chk.map_ok]
  rfl
theorem trysend (d : Chan) (a : XSrc) (tag : TagSrc) (pc : PReg) : Statement (.trysend d a tag pc) := by
  intro w hw h
  cases h
  refine (decodeOp_channel (m := 50) rfl rfl rfl (by decide)).trans ?_
  simp only [decChannel, dP_eP, dCO_eCO, dXS_eXS, fld_eSend_w, fld_eSend_z, dTag_eSend, Chk.ap_ok, Chk.map_ok]
  rfl
theorem peek (d : XDst) (a : Chan) : Statement (.peek d a) := by
  intro w hw h
  cases h
  refine (decodeOp_channel (m := 51) rfl rfl rfl (by decide)).trans ?_
  simp only [decChannel, dCI_eCI, dXD_eXD, fld_eWid, eWid_lt, modLt, Chk.req_true, Chk.ap_ok, Chk.map_ok]
  rfl
theorem trypeek (d : XDst) (a : Chan) (pc : PReg) : Statement (.trypeek d a pc) := by
  intro w hw h
  cases h
  refine (decodeOp_channel (m := 51) rfl rfl rfl (by decide)).trans ?_
  simp only [decChannel, dP_eP, dCI_eCI, dXD_eXD, fld_eWid, eWid_lt, modLt, Chk.req_true, Chk.ap_ok, Chk.map_ok]
  rfl
theorem tagh (d : SDst) (a : Chan) : Statement (.tagh d a) := by
  intro w hw h
  cases h
  refine (decodeOp_channel (m := 52) rfl rfl rfl (by decide)).trans ?_
  simp only [decChannel, dSD_eSD, dCI_eCI, Chk.ap_ok, Chk.map_ok]
  rfl
theorem chreset (a : Chan) : Statement (.chreset a) := by
  intro w hw h
  cases h
  refine (decodeOp_channel (m := 53) rfl rfl rfl (by decide)).trans ?_
  simp only [decChannel, dCI_eCI, Chk.map_ok]
  rfl
theorem pset (d : PresReg) : Statement (.pset d) := by
  intro w hw h
  cases h
  refine (decodeOp_channel (m := 54) rfl rfl rfl (by decide)).trans ?_
  simp only [decChannel, dPres_ePres, Chk.map_ok]
  rfl
theorem pclr (d : PresReg) : Statement (.pclr d) := by
  intro w hw h
  cases h
  refine (decodeOp_channel (m := 54) rfl rfl rfl (by decide)).trans ?_
  simp only [decChannel, dPres_ePres, Chk.map_ok]
  rfl
theorem chcount (d : SDst) (a : Chan) : Statement (.chcount d a) := by
  intro w hw h
  cases h
  refine (decodeOp_channel (m := 55) rfl rfl rfl (by decide)).trans ?_
  simp only [decChannel, dSD_eSD, dCI_eCI, Chk.ap_ok, Chk.map_ok]
  rfl
theorem chfree (d : SDst) (a : Chan) : Statement (.chfree d a) := by
  intro w hw h
  cases h
  refine (decodeOp_channel (m := 55) rfl rfl rfl (by decide)).trans ?_
  simp only [decChannel, dSD_eSD, dCO_eCO, Chk.ap_ok, Chk.map_ok]
  rfl
theorem done (code : BitVec 8) : Statement (.done code) := by
  intro w hw h
  cases h
  refine (decodeOp_channel (m := 56) rfl rfl rfl (by decide)).trans ?_
  simp only [decChannel, fld_code, code_lt, modLt, Chk.req_true]
  rfl
theorem yield : Statement .yield := by
  intro w hw h
  cases h
  refine (decodeOp_channel (m := 57) rfl rfl rfl (by decide)).trans ?_
  simp only [decChannel]
  rfl
theorem handover : Statement .handover := by
  intro w hw h
  cases h
  refine (decodeOp_channel (m := 58) rfl rfl rfl (by decide)).trans ?_
  simp only [decChannel]
  rfl
theorem trap (a : SSrc) (code : BitVec 16) : Statement (.trap a code) := by
  intro w hw h
  cases h
  refine (decodeOp_channel (m := 59) rfl rfl rfl (by decide)).trans ?_
  simp only [decChannel, dSS_eSS, Chk.ap_ok, Chk.map_ok]
  rfl
theorem watch (w : WatchF) (d : PReg) (a : SSrc) (b : SSrc) : Statement (.watch w d a b) := by
  intro w hw h
  cases h
  refine (decodeOp_channel (m := 60) rfl rfl rfl (by decide)).trans ?_
  simp only [decChannel, dSS_eSS, dP_eP, Chk.ap_ok, Chk.map_ok, dWatch_eWatch w hw]
  rfl
theorem unwatch (d : PReg) : Statement (.unwatch d) := by
  intro w hw h
  cases h
  refine (decodeOp_channel (m := 61) rfl rfl rfl (by decide)).trans ?_
  simp only [decChannel, dP_eP, Chk.map_ok]
  rfl
theorem sleep (n : BitVec 16) : Statement (.sleep n) := by
  intro w hw h
  cases h
  refine (decodeOp_channel (m := 62) rfl rfl rfl (by decide)).trans ?_
  simp only [decChannel]
  rfl
theorem bkpt (code : BitVec 16) : Statement (.bkpt code) := by
  intro w hw h
  cases h
  refine (decodeOp_channel (m := 63) rfl rfl rfl (by decide)).trans ?_
  simp only [decChannel]
  rfl
theorem vadd (t : VArith) (m : Msk) (d : VDst) (a : VSrc) (b : VSrc) : Statement (.vadd t m d a b) := by
  intro w hw h
  cases h
  have hm : m.okV d = true := hw
  refine (decodeOp_vector (m := 64) rfl rfl rfl (by decide)).trans ?_
  simp only [decVector, dVS_eVS, dVD_eVD, tmVA_eVA, FMod.ofWord_toWord, FMod.tm_mkMod, FMod.mask_mkMod, Chk.ap_ok, Chk.map_ok, keepReg_eVD hm]
  rfl
theorem vsub (t : VArith) (m : Msk) (d : VDst) (a : VSrc) (b : VSrc) : Statement (.vsub t m d a b) := by
  intro w hw h
  cases h
  have hm : m.okV d = true := hw
  refine (decodeOp_vector (m := 65) rfl rfl rfl (by decide)).trans ?_
  simp only [decVector, dVS_eVS, dVD_eVD, tmVA_eVA, FMod.ofWord_toWord, FMod.tm_mkMod, FMod.mask_mkMod, Chk.ap_ok, Chk.map_ok, keepReg_eVD hm]
  rfl
theorem vmul (t : VArith) (m : Msk) (d : VDst) (a : VSrc) (b : VSrc) : Statement (.vmul t m d a b) := by
  intro w hw h
  cases h
  have hm : m.okV d = true := hw
  refine (decodeOp_vector (m := 66) rfl rfl rfl (by decide)).trans ?_
  simp only [decVector, dVS_eVS, dVD_eVD, tmVA_eVA, FMod.ofWord_toWord, FMod.tm_mkMod, FMod.mask_mkMod, Chk.ap_ok, Chk.map_ok, keepReg_eVD hm]
  rfl
theorem vfma (op : FmaOp) (t : FTy) (rm : Rm) (m : Msk) (d : VDst) (a : VSrc) (b : VSrc) (c : VSrc) : Statement (.vfma op t rm m d a b c) := by
  intro w hw h
  cases h
  have hm : m.okV d = true := hw
  refine (decodeOp_vector (m := 67) rfl rfl (by cases op <;> rfl) (by decide)).trans ?_
  simp only [decVector, dVS_eVS, dVD_eVD, tmFR_eFR, dFma_eFma, FMod.ofWord_toWord, FMod.tm_mkMod, FMod.mask_mkMod, Chk.ap_ok, Chk.map_ok, keepReg_eVD hm]
theorem vdiv (t : VArith) (m : Msk) (d : VDst) (a : VSrc) (b : VSrc) : Statement (.vdiv t m d a b) := by
  intro w hw h
  cases h
  have hm : m.okV d = true := hw
  refine (decodeOp_vector (m := 68) rfl rfl rfl (by decide)).trans ?_
  simp only [decVector, dVS_eVS, dVD_eVD, tmVA_eVA, FMod.ofWord_toWord, FMod.tm_mkMod, FMod.mask_mkMod, Chk.ap_ok, Chk.map_ok, keepReg_eVD hm]
  rfl
theorem vmin (t : VPlain) (m : Msk) (d : VDst) (a : VSrc) (b : VSrc) : Statement (.vmin t m d a b) := by
  intro w hw h
  cases h
  have hm : m.okV d = true := hw
  refine (decodeOp_vector (m := 69) rfl rfl rfl (by decide)).trans ?_
  simp only [decVector, dVS_eVS, dVD_eVD, tmVP_eVP, FMod.ofWord_toWord, FMod.tm_mkMod, FMod.mask_mkMod, Chk.ap_ok, Chk.map_ok, keepReg_eVD hm]
  rfl
theorem vmax (t : VPlain) (m : Msk) (d : VDst) (a : VSrc) (b : VSrc) : Statement (.vmax t m d a b) := by
  intro w hw h
  cases h
  have hm : m.okV d = true := hw
  refine (decodeOp_vector (m := 70) rfl rfl rfl (by decide)).trans ?_
  simp only [decVector, dVS_eVS, dVD_eVD, tmVP_eVP, FMod.ofWord_toWord, FMod.tm_mkMod, FMod.mask_mkMod, Chk.ap_ok, Chk.map_ok, keepReg_eVD hm]
  rfl
theorem vabs (t : VSgn) (m : Msk) (d : VDst) (a : VSrc) : Statement (.vabs t m d a) := by
  intro w hw h
  cases h
  have hm : m.okV d = true := hw
  refine (decodeOp_vector (m := 71) rfl rfl rfl (by decide)).trans ?_
  simp only [decVector, dVS_eVS, dVD_eVD, tmVS_eVSg, FMod.ofWord_toWord, FMod.tm_mkMod, FMod.mask_mkMod, Chk.ap_ok, Chk.map_ok, keepReg_eVD hm]
  rfl
theorem vneg (t : VSgn) (m : Msk) (d : VDst) (a : VSrc) : Statement (.vneg t m d a) := by
  intro w hw h
  cases h
  have hm : m.okV d = true := hw
  refine (decodeOp_vector (m := 72) rfl rfl rfl (by decide)).trans ?_
  simp only [decVector, dVS_eVS, dVD_eVD, tmVS_eVSg, FMod.ofWord_toWord, FMod.tm_mkMod, FMod.mask_mkMod, Chk.ap_ok, Chk.map_ok, keepReg_eVD hm]
  rfl
theorem vadds (t : VArith) (m : Msk) (d : VDst) (a : VSrc) (b : SSrc) : Statement (.vadds t m d a b) := by
  intro w hw h
  cases h
  have hm : m.okV d = true := hw
  refine (decodeOp_vector (m := 104) rfl rfl rfl (by decide)).trans ?_
  simp only [decVector, dSS_eSS, dVS_eVS, dVD_eVD, tmVA_eVA, FMod.ofWord_toWord, FMod.tm_mkMod, FMod.mask_mkMod, Chk.ap_ok, Chk.map_ok, keepReg_eVD hm]
  rfl
theorem vsubs (t : VArith) (m : Msk) (d : VDst) (a : VSrc) (b : SSrc) : Statement (.vsubs t m d a b) := by
  intro w hw h
  cases h
  have hm : m.okV d = true := hw
  refine (decodeOp_vector (m := 105) rfl rfl rfl (by decide)).trans ?_
  simp only [decVector, dSS_eSS, dVS_eVS, dVD_eVD, tmVA_eVA, FMod.ofWord_toWord, FMod.tm_mkMod, FMod.mask_mkMod, Chk.ap_ok, Chk.map_ok, keepReg_eVD hm]
  rfl
theorem vand (t : ITy) (m : Msk) (d : VDst) (a : VSrc) (b : VSrc) : Statement (.vand t m d a b) := by
  intro w hw h
  cases h
  have hm : m.okV d = true := hw
  refine (decodeOp_vector (m := 73) rfl rfl rfl (by decide)).trans ?_
  simp only [decVector, dVS_eVS, dVD_eVD, tmI_eITy, FMod.ofWord_toWord, FMod.tm_mkMod, FMod.mask_mkMod, Chk.ap_ok, Chk.map_ok, keepReg_eVD hm]
  rfl
theorem vor (t : ITy) (m : Msk) (d : VDst) (a : VSrc) (b : VSrc) : Statement (.vor t m d a b) := by
  intro w hw h
  cases h
  have hm : m.okV d = true := hw
  refine (decodeOp_vector (m := 74) rfl rfl rfl (by decide)).trans ?_
  simp only [decVector, dVS_eVS, dVD_eVD, tmI_eITy, FMod.ofWord_toWord, FMod.tm_mkMod, FMod.mask_mkMod, Chk.ap_ok, Chk.map_ok, keepReg_eVD hm]
  rfl
theorem vxor (t : ITy) (m : Msk) (d : VDst) (a : VSrc) (b : VSrc) : Statement (.vxor t m d a b) := by
  intro w hw h
  cases h
  have hm : m.okV d = true := hw
  refine (decodeOp_vector (m := 75) rfl rfl rfl (by decide)).trans ?_
  simp only [decVector, dVS_eVS, dVD_eVD, tmI_eITy, FMod.ofWord_toWord, FMod.tm_mkMod, FMod.mask_mkMod, Chk.ap_ok, Chk.map_ok, keepReg_eVD hm]
  rfl
theorem vshl (t : ITy) (m : Msk) (d : VDst) (a : VSrc) (b : VSrc) : Statement (.vshl t m d a b) := by
  intro w hw h
  cases h
  have hm : m.okV d = true := hw
  refine (decodeOp_vector (m := 76) rfl rfl rfl (by decide)).trans ?_
  simp only [decVector, dVS_eVS, dVD_eVD, tmI_eITy, FMod.ofWord_toWord, FMod.tm_mkMod, FMod.mask_mkMod, Chk.ap_ok, Chk.map_ok, keepReg_eVD hm]
  rfl
theorem vshr (t : ITy) (m : Msk) (d : VDst) (a : VSrc) (b : VSrc) : Statement (.vshr t m d a b) := by
  intro w hw h
  cases h
  have hm : m.okV d = true := hw
  refine (decodeOp_vector (m := 77) rfl rfl rfl (by decide)).trans ?_
  simp only [decVector, dVS_eVS, dVD_eVD, tmI_eITy, FMod.ofWord_toWord, FMod.tm_mkMod, FMod.mask_mkMod, Chk.ap_ok, Chk.map_ok, keepReg_eVD hm]
  rfl
theorem vsra (t : ITy) (m : Msk) (d : VDst) (a : VSrc) (b : VSrc) : Statement (.vsra t m d a b) := by
  intro w hw h
  cases h
  have hm : m.okV d = true := hw
  refine (decodeOp_vector (m := 78) rfl rfl rfl (by decide)).trans ?_
  simp only [decVector, dVS_eVS, dVD_eVD, tmI_eITy, FMod.ofWord_toWord, FMod.tm_mkMod, FMod.mask_mkMod, Chk.ap_ok, Chk.map_ok, keepReg_eVD hm]
  rfl
theorem vcmp (c : VCmp) (m : Msk) (d : KDst) (a : VSrc) (b : VSrc) : Statement (.vcmp c m d a b) := by
  intro w hw h
  cases h
  have hm : m.okK d = true := hw
  refine (decodeOp_vector (m := 79) rfl rfl (by cases c with | int t c => cases c <;> rfl | fx f c => cases c <;> rfl | fp t c => cases c with | c c => cases c <;> rfl | un => rfl) (by decide)).trans ?_
  simp only [decVector, dVS_eVS, dKD_eKD, tmVCmp_eVCmp, FMod.ofWord_toWord, FMod.tm_mkMod, FMod.mask_mkMod, Chk.ap_ok, Chk.map_ok, keepReg_eKD hm]
  rfl
theorem vclass (t : FcTy) (m : Msk) (d : KDst) (a : VSrc) (b : SSrc) : Statement (.vclass t m d a b) := by
  intro w hw h
  cases h
  have hm : m.okK d = true := hw
  refine (decodeOp_vector (m := 103) rfl rfl rfl (by decide)).trans ?_
  simp only [decVector, dSS_eSS, dVS_eVS, dKD_eKD, tmFc_eFcTy, FMod.ofWord_toWord, FMod.tm_mkMod, FMod.mask_mkMod, Chk.ap_ok, Chk.map_ok, keepReg_eKD hm]
  rfl
theorem vmov (t : ETy) (m : Msk) (d : VDst) (a : VSrc) : Statement (.vmov t m d a) := by
  intro w hw h
  cases h
  have hm : m.okV d = true := hw
  refine (decodeOp_vector (m := 96) rfl rfl rfl (by decide)).trans ?_
  simp only [decVector, dVS_eVS, dVD_eVD, tmE_eETy, FMod.ofWord_toWord, FMod.tm_mkMod, FMod.mask_mkMod, Chk.ap_ok, Chk.map_ok, keepReg_eVD hm]
  rfl
theorem vbcast (t : ETy) (m : Msk) (d : VDst) (a : SSrc) : Statement (.vbcast t m d a) := by
  intro w hw h
  cases h
  have hm : m.okV d = true := hw
  refine (decodeOp_vector (m := 81) rfl rfl rfl (by decide)).trans ?_
  simp only [decVector, dSS_eSS, dVD_eVD, tmE_eETy, FMod.ofWord_toWord, FMod.tm_mkMod, FMod.mask_mkMod, Chk.ap_ok, Chk.map_ok, keepReg_eVD hm]
  rfl
theorem viota (t : ITy) (m : Msk) (d : VDst) (a : SSrc) : Statement (.viota t m d a) := by
  intro w hw h
  cases h
  have hm : m.okV d = true := hw
  refine (decodeOp_vector (m := 102) rfl rfl rfl (by decide)).trans ?_
  simp only [decVector, dSS_eSS, dVD_eVD, tmI_eITy, FMod.ofWord_toWord, FMod.tm_mkMod, FMod.mask_mkMod, Chk.ap_ok, Chk.map_ok, keepReg_eVD hm]
  rfl
theorem vsel (t : ETy) (d : VDst) (a : VSrc) (b : VSrc) (c : KSrc) : Statement (.vsel t d a b c) := by
  intro w hw h
  cases h
  refine (decodeOp_vector (m := 80) rfl rfl rfl (by decide)).trans ?_
  simp only [decVector, dVS_eVS, dVD_eVD, dKS_eKS, tmE_eETy, FMod.ofWord_toWord, FMod.tm_mkMod, FMod.noMask_all, Chk.ap_ok, Chk.map_ok]
  rfl
theorem vperm (t : ETy) (m : Msk) (d : VDst) (a : VSrc) (b : VSrc) : Statement (.vperm t m d a b) := by
  intro w hw h
  cases h
  have hm : m.okV d = true := hw
  refine (decodeOp_vector (m := 82) rfl rfl rfl (by decide)).trans ?_
  simp only [decVector, dVS_eVS, dVD_eVD, tmE_eETy, FMod.ofWord_toWord, FMod.tm_mkMod, FMod.mask_mkMod, Chk.ap_ok, Chk.map_ok, keepReg_eVD hm]
  rfl
theorem vrot (t : ETy) (m : Msk) (d : VDst) (a : VSrc) (b : SSrc) : Statement (.vrot t m d a b) := by
  intro w hw h
  cases h
  have hm : m.okV d = true := hw
  refine (decodeOp_vector (m := 83) rfl rfl rfl (by decide)).trans ?_
  simp only [decVector, dSS_eSS, dVS_eVS, dVD_eVD, tmE_eETy, FMod.ofWord_toWord, FMod.tm_mkMod, FMod.mask_mkMod, Chk.ap_ok, Chk.map_ok, keepReg_eVD hm]
  rfl
theorem vext (t : ETy) (d : SDst) (a : VSrc) (b : SSrc) : Statement (.vext t d a b) := by
  intro w hw h
  cases h
  refine (decodeOp_vector (m := 97) rfl rfl rfl (by decide)).trans ?_
  simp only [decVector, dSS_eSS, dSD_eSD, dVS_eVS, tmE_eETy, FMod.ofWord_toWord, FMod.tm_mkMod, FMod.noMask_all, Chk.ap_ok, Chk.map_ok]
  rfl
theorem vins (t : ETy) (d : VReg) (a : SSrc) (b : SSrc) : Statement (.vins t d a b) := by
  intro w hw h
  cases h
  refine (decodeOp_vector (m := 98) rfl rfl rfl (by decide)).trans ?_
  simp only [decVector, dSS_eSS, dVR_eVR, tmE_eETy, FMod.ofWord_toWord, FMod.tm_mkMod, FMod.noMask_all, Chk.ap_ok, Chk.map_ok]
  rfl
theorem vcompress (t : ETy) (d : VDst) (a : VSrc) (c : KSrc) : Statement (.vcompress t d a c) := by
  intro w hw h
  cases h
  refine (decodeOp_vector (m := 86) rfl rfl rfl (by decide)).trans ?_
  simp only [decVector, dVS_eVS, dVD_eVD, dKS_eKS, tmE_eETy, FMod.ofWord_toWord, FMod.tm_mkMod, FMod.noMask_all, Chk.ap_ok, Chk.map_ok]
  rfl
theorem vexpand (t : ETy) (d : VDst) (a : VSrc) (c : KSrc) : Statement (.vexpand t d a c) := by
  intro w hw h
  cases h
  refine (decodeOp_vector (m := 87) rfl rfl rfl (by decide)).trans ?_
  simp only [decVector, dVS_eVS, dVD_eVD, dKS_eKS, tmE_eETy, FMod.ofWord_toWord, FMod.tm_mkMod, FMod.noMask_all, Chk.ap_ok, Chk.map_ok]
  rfl
theorem vpack (t : HTy) (sat : Bool) (m : Msk) (d : VDst) (a : VSrc) (b : VSrc) : Statement (.vpack t sat m d a b) := by
  intro w hw h
  cases h
  have hm : m.okV d = true := hw
  refine (decodeOp_vector (m := 84) rfl rfl rfl (by decide)).trans ?_
  simp only [decVector, dVS_eVS, dVD_eVD, tmPk_ePk, FMod.ofWord_toWord, FMod.tm_mkMod, FMod.mask_mkMod, Chk.ap_ok, Chk.map_ok, keepReg_eVD hm]
  rfl
theorem vunpk (t : HTy) (m : Msk) (d : VDst) (a : VSrc) (b : SSrc) : Statement (.vunpk t m d a b) := by
  intro w hw h
  cases h
  have hm : m.okV d = true := hw
  refine (decodeOp_vector (m := 85) rfl rfl rfl (by decide)).trans ?_
  simp only [decVector, dSS_eSS, dVS_eVS, dVD_eVD, tmUn_eUn, FMod.ofWord_toWord, FMod.tm_mkMod, FMod.mask_mkMod, Chk.ap_ok, Chk.map_ok, keepReg_eVD hm]
  rfl
theorem kand (d : KDst) (a : KSrc) (b : KSrc) : Statement (.kand d a b) := by
  intro w hw h
  cases h
  refine (decodeOp_vector (m := 99) rfl rfl rfl (by decide)).trans ?_
  simp only [decVector, dKS_eKS, dKD_eKD, tmNone_tmOf, FMod.ofWord_toWord, FMod.tm_mkMod, FMod.noMask_all, Chk.ap_ok, Chk.map_ok]
  rfl
theorem kor (d : KDst) (a : KSrc) (b : KSrc) : Statement (.kor d a b) := by
  intro w hw h
  cases h
  refine (decodeOp_vector (m := 99) rfl rfl rfl (by decide)).trans ?_
  simp only [decVector, dKS_eKS, dKD_eKD, tmNone_tmOf, FMod.ofWord_toWord, FMod.tm_mkMod, FMod.noMask_all, Chk.ap_ok, Chk.map_ok]
  rfl
theorem kxor (d : KDst) (a : KSrc) (b : KSrc) : Statement (.kxor d a b) := by
  intro w hw h
  cases h
  refine (decodeOp_vector (m := 99) rfl rfl rfl (by decide)).trans ?_
  simp only [decVector, dKS_eKS, dKD_eKD, tmNone_tmOf, FMod.ofWord_toWord, FMod.tm_mkMod, FMod.noMask_all, Chk.ap_ok, Chk.map_ok]
  rfl
theorem kandn (d : KDst) (a : KSrc) (b : KSrc) : Statement (.kandn d a b) := by
  intro w hw h
  cases h
  refine (decodeOp_vector (m := 99) rfl rfl rfl (by decide)).trans ?_
  simp only [decVector, dKS_eKS, dKD_eKD, tmNone_tmOf, FMod.ofWord_toWord, FMod.tm_mkMod, FMod.noMask_all, Chk.ap_ok, Chk.map_ok]
  rfl
theorem knot (d : KDst) (a : KSrc) : Statement (.knot d a) := by
  intro w hw h
  cases h
  refine (decodeOp_vector (m := 99) rfl rfl rfl (by decide)).trans ?_
  simp only [decVector, dKS_eKS, dKD_eKD, tmNone_tmOf, FMod.ofWord_toWord, FMod.tm_mkMod, FMod.noMask_all, Chk.ap_ok, Chk.map_ok]
  rfl
theorem kmov (d : KDst) (a : KSrc) : Statement (.kmov d a) := by
  intro w hw h
  cases h
  refine (decodeOp_vector (m := 99) rfl rfl rfl (by decide)).trans ?_
  simp only [decVector, dKS_eKS, dKD_eKD, tmNone_tmOf, FMod.ofWord_toWord, FMod.tm_mkMod, FMod.noMask_all, Chk.ap_ok, Chk.map_ok]
  rfl
theorem kpop (d : SDst) (a : KSrc) : Statement (.kpop d a) := by
  intro w hw h
  cases h
  refine (decodeOp_vector (m := 100) rfl rfl rfl (by decide)).trans ?_
  simp only [decVector, dSD_eSD, dKS_eKS, tmNone_tmOf, FMod.ofWord_toWord, FMod.tm_mkMod, FMod.noMask_all, Chk.ap_ok, Chk.map_ok]
  rfl
theorem kfind (d : SDst) (a : KSrc) : Statement (.kfind d a) := by
  intro w hw h
  cases h
  refine (decodeOp_vector (m := 101) rfl rfl rfl (by decide)).trans ?_
  simp only [decVector, dSD_eSD, dKS_eKS, tmNone_tmOf, FMod.ofWord_toWord, FMod.tm_mkMod, FMod.noMask_all, Chk.ap_ok, Chk.map_ok]
  rfl
theorem vredsum (t : VArith) (m : Msk) (d : SDst) (a : VSrc) (b : SSrc) : Statement (.vredsum t m d a b) := by
  intro w hw h
  cases h
  have hm : m.okS d = true := hw
  refine (decodeOp_vector (m := 88) rfl rfl rfl (by decide)).trans ?_
  simp only [decVector, dSS_eSS, dSD_eSD, dVS_eVS, tmVA_eVA, FMod.ofWord_toWord, FMod.tm_mkMod, FMod.mask_mkMod, Chk.ap_ok, Chk.map_ok, keepReg_eSD hm]
  rfl
theorem vredmin (t : VPlain) (m : Msk) (d : SDst) (a : VSrc) (b : SSrc) : Statement (.vredmin t m d a b) := by
  intro w hw h
  cases h
  have hm : m.okS d = true := hw
  refine (decodeOp_vector (m := 89) rfl rfl rfl (by decide)).trans ?_
  simp only [decVector, dSS_eSS, dSD_eSD, dVS_eVS, tmVP_eVP, FMod.ofWord_toWord, FMod.tm_mkMod, FMod.mask_mkMod, Chk.ap_ok, Chk.map_ok, keepReg_eSD hm]
  rfl
theorem vredmax (t : VPlain) (m : Msk) (d : SDst) (a : VSrc) (b : SSrc) : Statement (.vredmax t m d a b) := by
  intro w hw h
  cases h
  have hm : m.okS d = true := hw
  refine (decodeOp_vector (m := 90) rfl rfl rfl (by decide)).trans ?_
  simp only [decVector, dSS_eSS, dSD_eSD, dVS_eVS, tmVP_eVP, FMod.ofWord_toWord, FMod.tm_mkMod, FMod.mask_mkMod, Chk.ap_ok, Chk.map_ok, keepReg_eSD hm]
  rfl
theorem vredand (t : ITy) (m : Msk) (d : SDst) (a : VSrc) (b : SSrc) : Statement (.vredand t m d a b) := by
  intro w hw h
  cases h
  have hm : m.okS d = true := hw
  refine (decodeOp_vector (m := 91) rfl rfl rfl (by decide)).trans ?_
  simp only [decVector, dSS_eSS, dSD_eSD, dVS_eVS, tmI_eITy, FMod.ofWord_toWord, FMod.tm_mkMod, FMod.mask_mkMod, Chk.ap_ok, Chk.map_ok, keepReg_eSD hm]
  rfl
theorem vredor (t : ITy) (m : Msk) (d : SDst) (a : VSrc) (b : SSrc) : Statement (.vredor t m d a b) := by
  intro w hw h
  cases h
  have hm : m.okS d = true := hw
  refine (decodeOp_vector (m := 91) rfl rfl rfl (by decide)).trans ?_
  simp only [decVector, dSS_eSS, dSD_eSD, dVS_eVS, tmI_eITy, FMod.ofWord_toWord, FMod.tm_mkMod, FMod.mask_mkMod, Chk.ap_ok, Chk.map_ok, keepReg_eSD hm]
  rfl
theorem vredxor (t : ITy) (m : Msk) (d : SDst) (a : VSrc) (b : SSrc) : Statement (.vredxor t m d a b) := by
  intro w hw h
  cases h
  have hm : m.okS d = true := hw
  refine (decodeOp_vector (m := 91) rfl rfl rfl (by decide)).trans ?_
  simp only [decVector, dSS_eSS, dSD_eSD, dVS_eVS, tmI_eITy, FMod.ofWord_toWord, FMod.tm_mkMod, FMod.mask_mkMod, Chk.ap_ok, Chk.map_ok, keepReg_eSD hm]
  rfl
theorem vdot (t : VArith) (m : Msk) (d : SDst) (a : VSrc) (b : VSrc) (c : SSrc) : Statement (.vdot t m d a b c) := by
  intro w hw h
  cases h
  have h0 := Bool.and_eq_true_iff.mp (show (t.notFx && m.okS d) = true from hw)
  refine (decodeOp_vector (m := 106) rfl rfl rfl (by decide)).trans ?_
  simp only [decVector, dSS_eSS, dSD_eSD, dVS_eVS, tmVA_eVA, FMod.ofWord_toWord, FMod.tm_mkMod, FMod.mask_mkMod, Chk.ap_ok, Chk.map_ok, eVA_notFx t h0.1, keepReg_eSD h0.2]
  rfl
theorem vscan (t : VArith) (m : Msk) (d : VDst) (a : VSrc) (b : SSrc) : Statement (.vscan t m d a b) := by
  intro w hw h
  cases h
  have h0 := Bool.and_eq_true_iff.mp (show (t.isF && m.okV d) = true from hw)
  refine (decodeOp_vector (m := 92) rfl rfl rfl (by decide)).trans ?_
  simp only [decVector, dSS_eSS, dVS_eVS, dVD_eVD, tmVA_eVA, FMod.ofWord_toWord, FMod.tm_mkMod, FMod.mask_mkMod, Chk.ap_ok, Chk.map_ok, eVA_isF t h0.1, keepReg_eVD h0.2]
  rfl
theorem vcvt (c : VCvt) (m : Msk) (d : VDst) (a : VSrc) (b : SSrc) : Statement (.vcvt c m d a b) := by
  intro w hw h
  cases h
  have h0 := Bool.and_eq_true_iff.mp (show (c.ok b && m.okV d) = true from hw)
  have h1 := (Bool.and_eq_true_iff.mp h0.1).1
  refine (decodeOp_vector (m := 93) rfl rfl rfl (by decide)).trans ?_
  simp only [decVector, dSS_eSS, dVS_eVS, dVD_eVD, FMod.ofWord_toWord, FMod.tm_mkMod, FMod.mask_mkMod, Chk.ap_ok, Chk.map_ok, tmVcvt_eVcvt c h1, dVcvtB_ok c b _ _ _ _ h0.1, keepReg_eVD h0.2]
  rfl
theorem vmxq (m : MxF) (t : MxT) (rm : Rm) (d : VDst) (a : VSrc) (b : SReg) : Statement (.vmxq m t rm d a b) := by
  intro w hw h
  cases h
  refine (decodeOp_vector (m := 94) rfl rfl rfl (by decide)).trans ?_
  simp only [decVector, dSR_eSR, dVS_eVS, dVD_eVD, tmMx_eMx, FMod.ofWord_toWord, FMod.tm_mkMod, FMod.noMask_all, Chk.ap_ok, Chk.map_ok]
  rfl
theorem vmxd (m : MxF) (t : MxT) (rm : Rm) (d : VDst) (a : VSrc) (b : SSrc) : Statement (.vmxd m t rm d a b) := by
  intro w hw h
  cases h
  refine (decodeOp_vector (m := 95) rfl rfl rfl (by decide)).trans ?_
  simp only [decVector, dSS_eSS, dVS_eVS, dVD_eVD, tmMx_eMx, FMod.ofWord_toWord, FMod.tm_mkMod, FMod.noMask_all, Chk.ap_ok, Chk.map_ok]
  rfl
theorem sfrcp (m : Msk) (d : VDst) (a : VSrc) : Statement (.sfrcp m d a) := by
  intro w hw h
  cases h
  have hm : m.okV d = true := hw
  refine (decodeOp_vector (m := 112) rfl rfl rfl (by decide)).trans ?_
  simp only [decVector, dVS_eVS, dVD_eVD, tmSF_tmOf, FMod.ofWord_toWord, FMod.tm_mkMod, FMod.mask_mkMod, Chk.ap_ok, Chk.map_ok, keepReg_eVD hm]
  rfl
theorem sfrsqrt (m : Msk) (d : VDst) (a : VSrc) : Statement (.sfrsqrt m d a) := by
  intro w hw h
  cases h
  have hm : m.okV d = true := hw
  refine (decodeOp_vector (m := 113) rfl rfl rfl (by decide)).trans ?_
  simp only [decVector, dVS_eVS, dVD_eVD, tmSF_tmOf, FMod.ofWord_toWord, FMod.tm_mkMod, FMod.mask_mkMod, Chk.ap_ok, Chk.map_ok, keepReg_eVD hm]
  rfl
theorem sfsqrt (m : Msk) (d : VDst) (a : VSrc) : Statement (.sfsqrt m d a) := by
  intro w hw h
  cases h
  have hm : m.okV d = true := hw
  refine (decodeOp_vector (m := 114) rfl rfl rfl (by decide)).trans ?_
  simp only [decVector, dVS_eVS, dVD_eVD, tmSF_tmOf, FMod.ofWord_toWord, FMod.tm_mkMod, FMod.mask_mkMod, Chk.ap_ok, Chk.map_ok, keepReg_eVD hm]
  rfl
theorem sfexp2 (m : Msk) (d : VDst) (a : VSrc) : Statement (.sfexp2 m d a) := by
  intro w hw h
  cases h
  have hm : m.okV d = true := hw
  refine (decodeOp_vector (m := 115) rfl rfl rfl (by decide)).trans ?_
  simp only [decVector, dVS_eVS, dVD_eVD, tmSF_tmOf, FMod.ofWord_toWord, FMod.tm_mkMod, FMod.mask_mkMod, Chk.ap_ok, Chk.map_ok, keepReg_eVD hm]
  rfl
theorem sflog2 (m : Msk) (d : VDst) (a : VSrc) : Statement (.sflog2 m d a) := by
  intro w hw h
  cases h
  have hm : m.okV d = true := hw
  refine (decodeOp_vector (m := 116) rfl rfl rfl (by decide)).trans ?_
  simp only [decVector, dVS_eVS, dVD_eVD, tmSF_tmOf, FMod.ofWord_toWord, FMod.tm_mkMod, FMod.mask_mkMod, Chk.ap_ok, Chk.map_ok, keepReg_eVD hm]
  rfl
theorem sfsinpi (m : Msk) (d : VDst) (a : VSrc) : Statement (.sfsinpi m d a) := by
  intro w hw h
  cases h
  have hm : m.okV d = true := hw
  refine (decodeOp_vector (m := 117) rfl rfl rfl (by decide)).trans ?_
  simp only [decVector, dVS_eVS, dVD_eVD, tmSF_tmOf, FMod.ofWord_toWord, FMod.tm_mkMod, FMod.mask_mkMod, Chk.ap_ok, Chk.map_ok, keepReg_eVD hm]
  rfl
theorem sfcospi (m : Msk) (d : VDst) (a : VSrc) : Statement (.sfcospi m d a) := by
  intro w hw h
  cases h
  have hm : m.okV d = true := hw
  refine (decodeOp_vector (m := 118) rfl rfl rfl (by decide)).trans ?_
  simp only [decVector, dVS_eVS, dVD_eVD, tmSF_tmOf, FMod.ofWord_toWord, FMod.tm_mkMod, FMod.mask_mkMod, Chk.ap_ok, Chk.map_ok, keepReg_eVD hm]
  rfl
theorem sfsincospi (m : Msk) (d : Fin 8) (a : VSrc) : Statement (.sfsincospi m d a) := by
  intro w hw h
  cases h
  refine (decodeOp_vector (m := 119) rfl rfl rfl (by decide)).trans ?_
  simp only [decVector, dVS_eVS, dVPair_eVPair, tmSF_tmOf, FMod.ofWord_toWord, FMod.tm_mkMod, FMod.mask_mkMod, Chk.ap_ok, Chk.map_ok]
  rfl
theorem mma (f : MmaF) : Statement (.mma f) := by
  intro w hw h
  cases h
  have h0 := Bool.and_eq_true_iff.mp (show (f.rmOk && f.blkOk) = true from hw)
  have h1 := h0.1
  have h2 := h0.2
  refine (decodeOp_xm (m := 128) rfl rfl (minOk_mma f.fmt).1 (by decide)).trans ?_
  simp only [decX, encXm, FXm.ofWord_toWord, dMma_eMma f _ _ h1 h2]
  rfl
theorem mmas (f : MmaF) (sm : SReg) (msp : Bool) : Statement (.mmas f sm msp) := by
  intro w hw h
  cases h
  have h0 := Bool.and_eq_true_iff.mp (show (f.rmOk && f.blkOk && f.fmt.sparse) = true from hw)
  have h1 := (Bool.and_eq_true_iff.mp h0.1).1
  have h2 := (Bool.and_eq_true_iff.mp h0.1).2
  have hs := h0.2
  refine (decodeOp_xm (m := 129) rfl rfl (minOk_mmas f.fmt hs).1 (by decide)).trans ?_
  simp only [decX, encXm, FXm.ofWord_toWord, dMma_eMma f _ _ h1 h2]
  simp only [eMma, fin32_n5f, bit1_ofB, Chk.map_ok, Chk.ap_ok]
  exact congrArg (Chk.req (.ok (Instr.mmas f sm msp)) 3) (minOk_mmas f.fmt hs).2
theorem mmv (f : MmaF) : Statement (.mmv f) := by
  intro w hw h
  cases h
  have h0 : f.rmOk = true ∧ f.blkOk = true ∧ f.fmt.isMx = false ∧ f.blk.mt = 0 ∧ f.kt = 0 ∧ f.asp = false ∧ f.sa.val % 4 = 0 ∧ f.sa.val < 16 := by
    have h : (f.rmOk && f.blkOk && !f.fmt.isMx && f.blk.mt == 0 && f.kt == 0 && !f.asp && f.sa.val % 4 == 0 && decide (f.sa.val < 16)) = true := hw
    simpa [and_assoc] using h
  obtain ⟨h1, h2, hx, h3, h4, h5, h6, h7⟩ := h0
  have h8 := Bool.and_eq_true_iff.mp (n5_quad f.sa (by simp [h6, h7]))
  refine (decodeOp_xm (m := 130) rfl rfl (minOk_mmv f.fmt hx).1 (by decide)).trans ?_
  simp only [decX, encXm, FXm.ofWord_toWord, dMma_eMma f _ _ h1 h2]
  simp only [eMma, (minOk_mmv f.fmt hx).2, h3, h4, h5, h8.1, h8.2, Chk.req_true, Chk.map_ok]
  rfl
theorem azero (d : AReg) : Statement (.azero d) := by
  intro w hw h
  cases h
  refine (decodeOp_matrix (m := 131) rfl rfl rfl (by decide)).trans ?_
  simp only [decMatrix, dAR_eAR, tmNone_tmOf, FMod.ofWord_toWord, FMod.tm_mkMod, FMod.noMask_all, Chk.ap_ok, Chk.map_ok]
  rfl
theorem aload (f : AccMemF) : Statement (.aload f) := by
  intro w hw h
  cases h
  refine (decodeOp_xa (m := 132) rfl rfl rfl (by decide)).trans ?_
  simp only [decX, encXa, FXa.ofWord_toWord, dAccMem_eAccMem f hw]
  rfl
theorem astore (f : AccMemF) : Statement (.astore f) := by
  intro w hw h
  cases h
  refine (decodeOp_xa (m := 133) rfl rfl rfl (by decide)).trans ?_
  simp only [decX, encXa, FXa.ofWord_toWord, dAccMem_eAccMem f hw]
  rfl
theorem acvt (c : ACvt) (d : VDst) (a : AReg) (b : SSrc) : Statement (.acvt c d a b) := by
  intro w hw h
  cases h
  refine (decodeOp_matrix (m := 134) rfl rfl rfl (by decide)).trans ?_
  simp only [decMatrix, dSS_eSS, dVD_eVD, dAR_eAR, FMod.ofWord_toWord, FMod.tm_mkMod, FMod.noMask_all, Chk.ap_ok, Chk.map_ok, tmAcvt_eAcvt c hw]
  rfl
theorem ascale (t : AArith) (d : AReg) (a : SSrc) : Statement (.ascale t d a) := by
  intro w hw h
  cases h
  refine (decodeOp_matrix (m := 135) rfl rfl rfl (by decide)).trans ?_
  simp only [decMatrix, dSS_eSS, dAR_eAR, tmAA_eAA, FMod.ofWord_toWord, FMod.tm_mkMod, FMod.noMask_all, Chk.ap_ok, Chk.map_ok]
  rfl
theorem aget (t : AView) (d : VDst) (a : AReg) (b : SSrc) : Statement (.aget t d a b) := by
  intro w hw h
  cases h
  refine (decodeOp_matrix (m := 136) rfl rfl rfl (by decide)).trans ?_
  simp only [decMatrix, dSS_eSS, dVD_eVD, dAR_eAR, tmAV_eAV, FMod.ofWord_toWord, FMod.tm_mkMod, FMod.noMask_all, Chk.ap_ok, Chk.map_ok]
  rfl
theorem aput (t : AView) (m : Option KReg) (d : AReg) (a : VSrc) (b : SSrc) : Statement (.aput t m d a b) := by
  intro w hw h
  cases h
  refine (decodeOp_matrix (m := 137) rfl rfl rfl (by decide)).trans ?_
  simp only [decMatrix, dSS_eSS, dVS_eVS, dAR_eAR, tmAV_eAV, FMod.ofWord_toWord, FMod.tm_mkMod, Chk.ap_ok, Chk.map_ok, FMod.keepOnly_mkMod]
  rfl
theorem aadd (t : AArith) (d : AReg) (a : VSrc) (b : SSrc) : Statement (.aadd t d a b) := by
  intro w hw h
  cases h
  refine (decodeOp_matrix (m := 138) rfl rfl rfl (by decide)).trans ?_
  simp only [decMatrix, dSS_eSS, dVS_eVS, dAR_eAR, tmAA_eAA, FMod.ofWord_toWord, FMod.tm_mkMod, FMod.noMask_all, Chk.ap_ok, Chk.map_ok]
  rfl
theorem atrans (d : AReg) (a : AReg) : Statement (.atrans d a) := by
  intro w hw h
  cases h
  refine (decodeOp_matrix (m := 139) rfl rfl rfl (by decide)).trans ?_
  simp only [decMatrix, dAR_eAR, tmNone_tmOf, FMod.ofWord_toWord, FMod.tm_mkMod, FMod.noMask_all, Chk.ap_ok, Chk.map_ok]
  rfl
theorem gcfg (g : Fin 8) (a : Fin 16) (b : Fin 16) : Statement (.gcfg g a b) := by
  intro w hw h
  cases h
  refine (decodeOp_memA (m := 144) rfl rfl rfl (by decide)).trans ?_
  simp only [decMemA, dPair_ePair, fin8_m16, m16_lt8, modLt, Chk.req_true, Chk.ap_ok]
  rfl
theorem gstart (g : Fin 8) : Statement (.gstart g) := by
  intro w hw h
  cases h
  refine (decodeOp_memA (m := 145) rfl rfl rfl (by decide)).trans ?_
  simp only [decMemA, fin8_m16, m16_lt8, modLt, Chk.req_true]
  rfl
theorem gstop (d : SDst) (g : Fin 8) : Statement (.gstop d g) := by
  intro w hw h
  cases h
  refine (decodeOp_memA (m := 146) rfl rfl rfl (by decide)).trans ?_
  simp only [decMemA, dSD_eSD, fin8_m16, m16_lt8, modLt, Chk.req_true, Chk.ap_ok, Chk.map_ok]
  rfl
theorem gbar (d : PReg) (mask : BitVec 8) (fin : Bool) : Statement (.gbar d mask fin) := by
  intro w hw h
  cases h
  refine (decodeOp_memA (m := 147) rfl rfl rfl (by decide)).trans ?_
  simp only [decMemA, dP_eP, gbar_mask, gbar_end, gbar_lt, modLt, Chk.req_true, bit1_ofB, Chk.ap_ok, Chk.map_ok]
  rfl
theorem ld (m : MAddr) (d : LdDst) : Statement (.ld m d) := by
  intro w hw h
  cases h
  refine (decodeOp_m (m := 148) rfl rfl (by cases d <;> rfl) (by decide)).trans ?_
  obtain ⟨p, q, e⟩ := eLd_form m d
  simp only [decM, dLd_eLd]
  rw [e, dMAddr_eM_self, mOk_ld (p := Scope.tcm) hw tcm_le]
  rfl
theorem st (m : MAddr) (a : StSrc) : Statement (.st m a) := by
  intro w hw h
  cases h
  refine (decodeOp_m (m := 149) rfl rfl (by cases a <;> rfl) (by decide)).trans ?_
  obtain ⟨p, q, e⟩ := eSt_form m a
  simp only [decM, dSt_eSt]
  rw [e, dMAddr_eM_self, mOk_st (p := Scope.tcm) hw tcm_le]
  rfl
theorem vld (m : MAddr) (d : VDst) : Statement (.vld m d) := by
  intro w hw h
  cases h
  refine (decodeOp_m (m := 150) rfl rfl rfl (by decide)).trans ?_
  simp only [decM, dMAddr_eM_self]
  rw [mOk_ld (p := Scope.tcm) hw tcm_le]
  simp only [eM, dVD_eVD]
  rfl
theorem vst (m : MAddr) (a : VSrc) : Statement (.vst m a) := by
  intro w hw h
  cases h
  refine (decodeOp_m (m := 151) rfl rfl rfl (by decide)).trans ?_
  simp only [decM, dMAddr_eM_self]
  rw [mOk_st (p := Scope.tcm) hw tcm_le]
  simp only [eM, dVS_eVS]
  rfl
theorem tamo (m : MAddr) (d : SDst) (o : LAtomic) : Statement (.tamo m d o) := by
  intro w hw h
  cases h
  refine (decodeOp_m (m := 152) rfl rfl (by cases o with | rmw o a => cases o <;> rfl | cas a => rfl | binc a => rfl) (by decide)).trans ?_
  have e2 := dMAddr_eM m (eLAt o).1 (eSD d) (eLAt o).2
  have e3 := dLAt_eLAt m (eSD d) o
  simp only [decM]
  rw [e2, e3, mOk_at (p := Scope.tcm) hw tcm_le]
  simp only [eM, dSD_eSD]
  rfl
theorem vgath (m : MAddr) (d : VDst) (i : VSrc) : Statement (.vgath m d i) := by
  intro w hw h
  cases h
  refine (decodeOp_m (m := 156) rfl rfl rfl (by decide)).trans ?_
  simp only [decM, dMAddr_eM_self]
  rw [mOk_none (p := Scope.tcm) hw tcm_le]
  simp only [eM, dVD_eVD, dVS_eVS]
  rfl
theorem vscat (m : MAddr) (i : VSrc) (a : VSrc) : Statement (.vscat m i a) := by
  intro w hw h
  cases h
  refine (decodeOp_m (m := 157) rfl rfl rfl (by decide)).trans ?_
  simp only [decM, dMAddr_eM_self]
  rw [mOk_none (p := Scope.tcm) hw tcm_le]
  simp only [eM, dVS_eVS]
  rfl
theorem cpy (f : CpyF) : Statement (.cpy f) := by
  intro w hw h
  cases h
  refine (decodeOp_xc (m := 153) rfl rfl rfl (by decide)).trans ?_
  simp only [decX, encXc, FXc.ofWord_toWord, dCpy_eCpy f hw]
  rfl
theorem cpy2d (f : CpyF) : Statement (.cpy2d f) := by
  intro w hw h
  cases h
  refine (decodeOp_xc (m := 154) rfl rfl rfl (by decide)).trans ?_
  have h0 := Bool.and_eq_true_iff.mp (show (f.ok && even f.sl) = true from hw)
  simp only [decX, encXc, FXc.ofWord_toWord, dCpy_eCpy f h0.1]
  exact congrArg (Chk.req (.ok (Instr.cpy2d f)) 8) (n5_even f.sl h0.2)
theorem drainTcm (d : PReg) : Statement (.drainTcm d) := by
  intro w hw h
  cases h
  refine (decodeOp_memA (m := 155) rfl rfl rfl (by decide)).trans ?_
  simp only [decMemA, dP_eP, Chk.map_ok]
  rfl
theorem drainCsp (d : PReg) : Statement (.drainCsp d) := by
  intro w hw h
  cases h
  refine (decodeOp_memA (m := 155) rfl rfl rfl (by decide)).trans ?_
  simp only [decMemA, dP_eP, Chk.map_ok]
  rfl
theorem drainGlb (d : PReg) : Statement (.drainGlb d) := by
  intro w hw h
  cases h
  refine (decodeOp_memA (m := 155) rfl rfl rfl (by decide)).trans ?_
  simp only [decMemA, dP_eP, Chk.map_ok]
  rfl
theorem cld (m : MAddr) (d : LdDst) : Statement (.cld m d) := by
  intro w hw h
  cases h
  refine (decodeOp_m (m := 160) rfl rfl (by cases d <;> rfl) (by decide)).trans ?_
  obtain ⟨p, q, e⟩ := eLd_form m d
  simp only [decM, dLd_eLd]
  rw [e, dMAddr_eM_self, mOk_ld (p := Scope.csp) hw csp_le]
  rfl
theorem cst (m : MAddr) (a : StSrc) : Statement (.cst m a) := by
  intro w hw h
  cases h
  refine (decodeOp_m (m := 161) rfl rfl (by cases a <;> rfl) (by decide)).trans ?_
  obtain ⟨p, q, e⟩ := eSt_form m a
  simp only [decM, dSt_eSt]
  rw [e, dMAddr_eM_self, mOk_st (p := Scope.csp) hw csp_le]
  rfl
theorem cvld (m : MAddr) (d : VDst) : Statement (.cvld m d) := by
  intro w hw h
  cases h
  refine (decodeOp_m (m := 162) rfl rfl rfl (by decide)).trans ?_
  simp only [decM, dMAddr_eM_self]
  rw [mOk_ld (p := Scope.csp) hw csp_le]
  simp only [eM, dVD_eVD]
  rfl
theorem cvst (m : MAddr) (a : VSrc) : Statement (.cvst m a) := by
  intro w hw h
  cases h
  refine (decodeOp_m (m := 163) rfl rfl rfl (by decide)).trans ?_
  simp only [decM, dMAddr_eM_self]
  rw [mOk_st (p := Scope.csp) hw csp_le]
  simp only [eM, dVS_eVS]
  rfl
theorem camo (m : MAddr) (d : SDst) (o : LAtomic) : Statement (.camo m d o) := by
  intro w hw h
  cases h
  refine (decodeOp_m (m := 164) rfl rfl (by cases o with | rmw o a => cases o <;> rfl | cas a => rfl | binc a => rfl) (by decide)).trans ?_
  have e2 := dMAddr_eM m (eLAt o).1 (eSD d) (eLAt o).2
  have e3 := dLAt_eLAt m (eSD d) o
  simp only [decM]
  rw [e2, e3, mOk_at (p := Scope.csp) hw csp_le]
  simp only [eM, dSD_eSD]
  rfl
theorem bput (d : PReg) (n : Fin 8) (a : BSrc) : Statement (.bput d n a) := by
  intro w hw h
  cases h
  refine (decodeOp_memA (m := 165) rfl rfl rfl (by decide)).trans ?_
  simp only [decMemA, dP_eP, eBuf_lt, fld_eBuf_n, dBS_eBS, fin8_b3, modLt, Chk.req_true, Chk.ap_ok, Chk.map_ok]
  rfl
theorem trybput (d : PReg) (n : Fin 8) (a : BSrc) (pc : PReg) : Statement (.trybput d n a pc) := by
  intro w hw h
  cases h
  refine (decodeOp_memA (m := 165) rfl rfl rfl (by decide)).trans ?_
  simp only [decMemA, dP_eP, eBuf_lt, fld_eBuf_n, dBS_eBS, fin8_b3, modLt, Chk.req_true, Chk.ap_ok, Chk.map_ok]
  rfl
theorem bget (d : BDst) (n : Fin 8) : Statement (.bget d n) := by
  intro w hw h
  cases h
  refine (decodeOp_memA (m := 166) rfl rfl rfl (by decide)).trans ?_
  simp only [decMemA, eBuf_lt, fld_eBuf_n, dBD_eBD, fin8_b3, modLt, Chk.req_true, Chk.ap_ok, Chk.map_ok]
  rfl
theorem trybget (d : BDst) (n : Fin 8) (pc : PReg) : Statement (.trybget d n pc) := by
  intro w hw h
  cases h
  refine (decodeOp_memA (m := 166) rfl rfl rfl (by decide)).trans ?_
  simp only [decMemA, dP_eP, eBuf_lt, fld_eBuf_n, dBD_eBD, fin8_b3, modLt, Chk.req_true, Chk.ap_ok, Chk.map_ok]
  rfl
theorem bwait (d : PReg) (n : Fin 8) (empty : Bool) : Statement (.bwait d n empty) := by
  intro w hw h
  cases h
  refine (decodeOp_memA (m := 167) rfl rfl rfl (by decide)).trans ?_
  simp only [decMemA, dP_eP, eBuf_lt, fld_eBuf_n, fld_eBuf_f, fin8_b3, modLt, Chk.req_true, bit1_ofB, Chk.ap_ok, Chk.map_ok]
  rfl
theorem nsend (dir : Fin 4) (a : XSrc) (tag : TagSrc) : Statement (.nsend dir a tag) := by
  intro w hw h
  cases h
  refine (decodeOp_memA (m := 168) rfl rfl rfl (by decide)).trans ?_
  simp only [decMemA, dXS_eXS, fld_eNb_w, fld_eNb_dir, fld_eNb_z, dTag_eNb, fin4_ofNat, Chk.ap_ok]
  rfl
theorem trynsend (dir : Fin 4) (a : XSrc) (tag : TagSrc) (pc : PReg) : Statement (.trynsend dir a tag pc) := by
  intro w hw h
  cases h
  refine (decodeOp_memA (m := 168) rfl rfl rfl (by decide)).trans ?_
  simp only [decMemA, dP_eP, dXS_eXS, fld_eNb_w, fld_eNb_dir, fld_eNb_z, dTag_eNb, fin4_ofNat, Chk.ap_ok]
  rfl
theorem nrecv (d : XDst) (dir : Fin 4) : Statement (.nrecv d dir) := by
  intro w hw h
  cases h
  refine (decodeOp_memA (m := 169) rfl rfl rfl (by decide)).trans ?_
  simp only [decMemA, dXD_eXD, fld_eNb_w, fld_eNb_dir, fin4_ofNat, eNb_lt, eNb_2, modLt, Chk.req_true, Chk.ap_ok, Chk.map_ok]
  rfl
theorem trynrecv (d : XDst) (dir : Fin 4) (pc : PReg) : Statement (.trynrecv d dir pc) := by
  intro w hw h
  cases h
  refine (decodeOp_memA (m := 169) rfl rfl rfl (by decide)).trans ?_
  simp only [decMemA, dP_eP, dXD_eXD, fld_eNb_w, fld_eNb_dir, fin4_ofNat, eNb_lt, eNb_2, modLt, Chk.req_true, Chk.ap_ok, Chk.map_ok]
  rfl
theorem mmr (f : MmaF) (ns : Bool) : Statement (.mmr f ns) := by
  intro w hw h
  cases h
  have h0 : f.rmOk = true ∧ f.blkOk = true ∧ f.asp = false ∧ f.bsp = false ∧ even f.sa = true ∧ even f.sb = true := by
    have h : (f.rmOk && f.blkOk && !f.asp && !f.bsp && even f.sa && even f.sb) = true := hw
    simpa [and_assoc] using h
  obtain ⟨h1, h2, h3, h4, h5, h6⟩ := h0
  refine (decodeOp_xm (m := 170) rfl rfl (minOk_mma f.fmt).2 (by decide)).trans ?_
  simp only [decX, encXm, FXm.ofWord_toWord, dMma_eMma f _ _ h1 h2]
  simp only [eMma, h3, h4, n5_even _ h5, n5_even _ h6, bit1_ofB, Chk.req_true, Chk.map_ok, Chk.ap_ok, Bool.and_self]
  rfl
theorem cbar (d : PReg) : Statement (.cbar d) := by
  intro w hw h
  cases h
  refine (decodeOp_memA (m := 171) rfl rfl rfl (by decide)).trans ?_
  simp only [decMemA, dP_eP, Chk.map_ok]
  rfl
theorem ldg (m : MAddr) (d : LdDst) : Statement (.ldg m d) := by
  intro w hw h
  cases h
  refine (decodeOp_m (m := 176) rfl rfl (by cases d <;> rfl) (by decide)).trans ?_
  obtain ⟨p, q, e⟩ := eLd_form m d
  simp only [decM, dLd_eLd]
  rw [e, dMAddr_eM_self, mOk_ld (p := Scope.any) hw any_le]
  rfl
theorem stg (m : MAddr) (a : StSrc) : Statement (.stg m a) := by
  intro w hw h
  cases h
  refine (decodeOp_m (m := 177) rfl rfl (by cases a <;> rfl) (by decide)).trans ?_
  obtain ⟨p, q, e⟩ := eSt_form m a
  simp only [decM, dSt_eSt]
  rw [e, dMAddr_eM_self, mOk_st (p := Scope.any) hw any_le]
  rfl
theorem vldg (m : MAddr) (d : VDst) : Statement (.vldg m d) := by
  intro w hw h
  cases h
  refine (decodeOp_m (m := 178) rfl rfl rfl (by decide)).trans ?_
  simp only [decM, dMAddr_eM_self]
  rw [mOk_ld (p := Scope.any) hw any_le]
  simp only [eM, dVD_eVD]
  rfl
theorem vstg (m : MAddr) (a : VSrc) : Statement (.vstg m a) := by
  intro w hw h
  cases h
  refine (decodeOp_m (m := 179) rfl rfl rfl (by decide)).trans ?_
  simp only [decM, dMAddr_eM_self]
  rw [mOk_st (p := Scope.any) hw any_le]
  simp only [eM, dVS_eVS]
  rfl
theorem amo (m : MAddr) (o : RmwOp) (d : SDst) (a : SSrc) : Statement (.amo m o d a) := by
  intro w hw h
  cases h
  refine (decodeOp_m (m := 180) rfl rfl (by cases o <;> rfl) (by decide)).trans ?_
  have e2 := dMAddr_eM m (BitVec.ofNat 8 (eRmw o)) (eSD d) (eSS a)
  simp only [decM]
  simp only [eM, dSD_eSD, dSS_eSS, dRmw_eRmw] at e2 ⊢
  rw [e2]
  rfl
theorem cas (m : MAddr) (d : SDst) (a : PSrc) : Statement (.cas m d a) := by
  intro w hw h
  cases h
  refine (decodeOp_m (m := 181) rfl rfl rfl (by decide)).trans ?_
  simp only [decM, dMAddr_eM_self]
  simp only [eM, dSD_eSD, dPS_ePS]
  rfl
theorem aincBound (m : MAddr) (d : SDst) (a : SSrc) : Statement (.aincBound m d a) := by
  intro w hw h
  cases h
  refine (decodeOp_m (m := 182) rfl rfl rfl (by decide)).trans ?_
  simp only [decM, dMAddr_eM_self]
  simp only [eM, dSD_eSD, dSS_eSS]
  rfl
theorem fence (scope : Scope) : Statement (.fence scope) := by
  intro w hw h
  cases h
  refine (decodeOp_m (m := 183) rfl rfl rfl (by decide)).trans ?_
  simp only [decM, eM, dScope_eScope]
  rfl
theorem otpub (n : Fin 16) : Statement (.otpub n) := by
  intro w hw h
  cases h
  refine (decodeOp_memA (m := 184) rfl rfl rfl (by decide)).trans ?_
  simp only [decMemA, otpub_0, otpub_n, otpub_z, otpub_ne n hw, Chk.req_true]
  rfl
theorem otpubCirc (label : BitVec 7) (idx : Fin 8) : Statement (.otpubCirc label idx) := by
  intro w hw h
  cases h
  refine (decodeOp_memA (m := 184) rfl rfl rfl (by decide)).trans ?_
  simp only [decMemA, circ_0, circ_x, circ_z, circ_l, circ_t, fin8_b3]
  rfl
theorem otwait (d : PReg) (n : Fin 16) : Statement (.otwait d n) := by
  intro w hw h
  cases h
  refine (decodeOp_memA (m := 185) rfl rfl rfl (by decide)).trans ?_
  simp only [decMemA, dP_eP, fin16_m16, m16_lt16, modLt, Chk.req_true, Chk.ap_ok, Chk.map_ok, m16_ne n hw]
  rfl
theorem join (d : PReg) (mask : BitVec 8) : Statement (.join d mask) := by
  intro w hw h
  cases h
  refine (decodeOp_memA (m := 186) rfl rfl rfl (by decide)).trans ?_
  simp only [decMemA, dP_eP, fld_code, code_lt, modLt, Chk.req_true, Chk.ap_ok, Chk.map_ok, show (mask != 0#8) = true from hw]
  rfl
theorem pfg (base : SReg) (off : BitVec 22) (a : SSrc) : Statement (.pfg base off a) := by
  intro w hw h
  cases h
  refine (decodeOp_m (m := 187) rfl rfl rfl (by decide)).trans ?_
  simp only [decM, dSS_eSS, dSR_eSR, Chk.ap_ok, Chk.map_ok]
  rfl
theorem tspawn (d : SReg) (a : SSrc) (b : SSrc) (c : SSrc) : Statement (.tspawn d a b c) := by
  intro w hw h
  cases h
  refine (decodeOp_memA (m := 192) rfl rfl rfl (by decide)).trans ?_
  simp only [decMemA, dSS_eSS, dSR_eSR, Chk.ap_ok, Chk.map_ok]
  rfl
theorem trytspawn (d : SReg) (a : SSrc) (b : SSrc) (c : SSrc) (pc : PReg) : Statement (.trytspawn d a b c pc) := by
  intro w hw h
  cases h
  refine (decodeOp_memA (m := 192) rfl rfl rfl (by decide)).trans ?_
  simp only [decMemA, dSS_eSS, dSR_eSR, fin16_m16, m16_lt16, modLt, Chk.req_true, Chk.ap_ok, Chk.map_ok]
  rfl
theorem tenq (d : SDst) (a : SSrc) : Statement (.tenq d a) := by
  intro w hw h
  cases h
  refine (decodeOp_memA (m := 193) rfl rfl rfl (by decide)).trans ?_
  simp only [decMemA, dSS_eSS, dSD_eSD, Chk.ap_ok, Chk.map_ok]
  rfl
theorem trytenq (d : SDst) (a : SSrc) (pc : PReg) : Statement (.trytenq d a pc) := by
  intro w hw h
  cases h
  refine (decodeOp_memA (m := 193) rfl rfl rfl (by decide)).trans ?_
  simp only [decMemA, dSS_eSS, dSD_eSD, fin16_m16, m16_lt16, modLt, Chk.req_true, Chk.ap_ok, Chk.map_ok]
  rfl
theorem tdec (a : SSrc) : Statement (.tdec a) := by
  intro w hw h
  cases h
  refine (decodeOp_memA (m := 194) rfl rfl rfl (by decide)).trans ?_
  simp only [decMemA, dSS_eSS, Chk.map_ok]
  rfl
theorem tinc (d : PReg) (a : SSrc) (b : SSrc) : Statement (.tinc d a b) := by
  intro w hw h
  cases h
  refine (decodeOp_memA (m := 197) rfl rfl rfl (by decide)).trans ?_
  simp only [decMemA, dSS_eSS, dP_eP, Chk.ap_ok, Chk.map_ok]
  rfl
theorem tstatus (d : SDst) (a : SSrc) : Statement (.tstatus d a) := by
  intro w hw h
  cases h
  refine (decodeOp_memA (m := 195) rfl rfl rfl (by decide)).trans ?_
  simp only [decMemA, dSS_eSS, dSD_eSD, Chk.ap_ok, Chk.map_ok]
  rfl
theorem tcancel (d : PReg) (a : SSrc) (b : SSrc) : Statement (.tcancel d a b) := by
  intro w hw h
  cases h
  refine (decodeOp_memA (m := 196) rfl rfl rfl (by decide)).trans ?_
  simp only [decMemA, dSS_eSS, dP_eP, Chk.ap_ok, Chk.map_ok]
  rfl
theorem tparam (d : SDst) (a : SSrc) : Statement (.tparam d a) := by
  intro w hw h
  cases h
  refine (decodeOp_memA (m := 198) rfl rfl rfl (by decide)).trans ?_
  simp only [decMemA, dSS_eSS, dSD_eSD, Chk.ap_ok, Chk.map_ok]
  rfl
theorem tbound (d : SDst) : Statement (.tbound d) := by
  intro w hw h
  cases h
  refine (decodeOp_memA (m := 199) rfl rfl rfl (by decide)).trans ?_
  simp only [decMemA, dSD_eSD, Chk.map_ok]
  rfl
theorem rsend (label : BitVec 7) (a : XSrc) (tag : TagSrc) : Statement (.rsend label a tag) := by
  intro w hw h
  cases h
  refine (decodeOp_memA (m := 200) rfl rfl rfl (by decide)).trans ?_
  simp only [decMemA, dXS_eXS, fld_eSend_w, fld_eSend_z, dTag_eSend, Chk.ap_ok]
  rfl
theorem tryrsend (label : BitVec 7) (a : XSrc) (tag : TagSrc) (pc : PReg) : Statement (.tryrsend label a tag pc) := by
  intro w hw h
  cases h
  refine (decodeOp_memA (m := 200) rfl rfl rfl (by decide)).trans ?_
  simp only [decMemA, dP_eP, dXS_eXS, fld_eSend_w, fld_eSend_z, dTag_eSend, Chk.ap_ok]
  rfl
theorem rstore (label : BitVec 7) (m : MAddr) (a : SSrc) : Statement (.rstore label m a) := by
  intro w hw h
  cases h
  refine (decodeOp_m (m := 201) rfl rfl rfl (by decide)).trans ?_
  simp only [decM, dMAddr_eM_self]
  rw [mOk_st (p := Scope.any) hw any_le]
  simp only [eM, dSS_eSS]
  rfl
theorem rdec (a : SSrc) (b : SSrc) : Statement (.rdec a b) := by
  intro w hw h
  cases h
  refine (decodeOp_memA (m := 202) rfl rfl rfl (by decide)).trans ?_
  simp only [decMemA, dSS_eSS, Chk.ap_ok, Chk.map_ok]
  rfl
theorem pbar (d : PReg) (b : SSrc) : Statement (.pbar d b) := by
  intro w hw h
  cases h
  refine (decodeOp_memA (m := 203) rfl rfl rfl (by decide)).trans ?_
  simp only [decMemA, dSS_eSS, dP_eP, Chk.ap_ok, Chk.map_ok]
  rfl
theorem pcomb (op : CombOp) (d : SDst) (a : SSrc) (b : SSrc) : Statement (.pcomb op d a b) := by
  intro w hw h
  cases h
  refine (decodeOp_memA (m := 204) rfl rfl (by cases op <;> rfl) (by decide)).trans ?_
  simp only [decMemA, dSS_eSS, dSD_eSD, dComb_eComb, Chk.ap_ok, Chk.map_ok]
  rfl
theorem pbcast (d : SDst) (a : SSrc) (b : SSrc) : Statement (.pbcast d a b) := by
  intro w hw h
  cases h
  refine (decodeOp_memA (m := 205) rfl rfl rfl (by decide)).trans ?_
  simp only [decMemA, dSS_eSS, dSD_eSD, Chk.ap_ok, Chk.map_ok]
  rfl
theorem pabort (b : SSrc) : Statement (.pabort b) := by
  intro w hw h
  cases h
  refine (decodeOp_memA (m := 206) rfl rfl rfl (by decide)).trans ?_
  simp only [decMemA, dSS_eSS, Chk.map_ok]
  rfl
theorem cfgr (d : SDst) (a : SSrc) : Statement (.cfgr d a) := by
  intro w hw h
  cases h
  refine (decodeOp_system (m := 208) rfl rfl rfl (by decide)).trans ?_
  simp only [decSystem, dSS_eSS, dSD_eSD, Chk.ap_ok, Chk.map_ok]
  rfl
theorem cfgw (d : PReg) (a : SSrc) (b : SSrc) : Statement (.cfgw d a b) := by
  intro w hw h
  cases h
  refine (decodeOp_system (m := 209) rfl rfl rfl (by decide)).trans ?_
  simp only [decSystem, dSS_eSS, dP_eP, Chk.ap_ok, Chk.map_ok]
  rfl
theorem vfsetEnable (d : SDst) (a : SSrc) (b : SSrc) : Statement (.vfsetEnable d a b) := by
  intro w hw h
  cases h
  refine (decodeOp_system (m := 210) rfl rfl rfl (by decide)).trans ?_
  simp only [decSystem, dSS_eSS, dSD_eSD, Chk.ap_ok, Chk.map_ok, d3]
  rfl
theorem vfsetTeardown (d : SDst) (a : SSrc) (b : SSrc) : Statement (.vfsetTeardown d a b) := by
  intro w hw h
  cases h
theorem quota (d : SDst) (a : SSrc) (b : SSrc) : Statement (.quota d a b) := by
  intro w hw h
  cases h
  refine (decodeOp_system (m := 211) rfl rfl rfl (by decide)).trans ?_
  simp only [decSystem, dSS_eSS, dSD_eSD, Chk.ap_ok, Chk.map_ok, d3]
  rfl
theorem wtouch (d : SDst) (a : SSrc) (b : SSrc) : Statement (.wtouch d a b) := by
  intro w hw h
  cases h
  refine (decodeOp_system (m := 212) rfl rfl rfl (by decide)).trans ?_
  simp only [decSystem, dSS_eSS, dSD_eSD, Chk.ap_ok, Chk.map_ok, d3]
  rfl
theorem wresMobile (d : SDst) (a : SSrc) (b : SSrc) : Statement (.wresMobile d a b) := by
  intro w hw h
  cases h
  refine (decodeOp_system (m := 213) rfl rfl rfl (by decide)).trans ?_
  simp only [decSystem, dSS_eSS, dSD_eSD, Chk.ap_ok, Chk.map_ok, d3]
  rfl
theorem wresFixed (d : SDst) (a : SSrc) (b : SSrc) : Statement (.wresFixed d a b) := by
  intro w hw h
  cases h
  refine (decodeOp_system (m := 213) rfl rfl rfl (by decide)).trans ?_
  simp only [decSystem, dSS_eSS, dSD_eSD, modLt, Chk.ap_ok, Chk.map_ok, d3]
  rfl
theorem wresUp (d : SDst) (a : SSrc) (b : SSrc) : Statement (.wresUp d a b) := by
  intro w hw h
  cases h
  refine (decodeOp_system (m := 213) rfl rfl rfl (by decide)).trans ?_
  simp only [decSystem, dSS_eSS, dSD_eSD, modLt, Chk.ap_ok, Chk.map_ok, d3]
  rfl
theorem wresDown (d : SDst) (a : SSrc) (b : SSrc) : Statement (.wresDown d a b) := by
  intro w hw h
  cases h
  refine (decodeOp_system (m := 213) rfl rfl rfl (by decide)).trans ?_
  simp only [decSystem, dSS_eSS, dSD_eSD, modLt, Chk.ap_ok, Chk.map_ok, d3]
  rfl
theorem wresQuery (code : Fin 4) (d : SDst) (a : SSrc) (b : SSrc) : Statement (.wresQuery code d a b) := by
  intro w hw h
  cases h
  refine (decodeOp_system (m := 213) rfl rfl rfl (by decide)).trans ?_
  simp only [decSystem, d3, dSD_eSD, dSS_eSS, Chk.ap_ok, Chk.map_ok]
  revert hw
  match code with
  | 0 => exact fun _ => rfl
  | 1 => exact fun _ => rfl
  | 2 => exact fun _ => rfl
  | 3 => exact fun _ => rfl
theorem csave (d : SDst) (a : SSrc) (b : SSrc) : Statement (.csave d a b) := by
  intro w hw h
  cases h
  refine (decodeOp_system (m := 214) rfl rfl rfl (by decide)).trans ?_
  simp only [decSystem, dSS_eSS, dSD_eSD, Chk.ap_ok, Chk.map_ok, d3]
  rfl
theorem crest (d : SDst) (a : SSrc) : Statement (.crest d a) := by
  intro w hw h
  cases h
  refine (decodeOp_system (m := 215) rfl rfl rfl (by decide)).trans ?_
  simp only [decSystem, dSS_eSS, dSD_eSD, Chk.ap_ok, Chk.map_ok]
  rfl
theorem ctxw (d : SDst) (a : SSrc) (b : SSrc) (c : SSrc) : Statement (.ctxw d a b c) := by
  intro w hw h
  cases h
  refine (decodeOp_system (m := 219) rfl rfl rfl (by decide)).trans ?_
  simp only [decSystem, dSS_eSS, dSD_eSD, Chk.ap_ok, Chk.map_ok]
  rfl
theorem xinv (range : Fin 3) (d : PReg) (a : SSrc) (b : SSrc) (c : SSrc) : Statement (.xinv range d a b c) := by
  intro w hw h
  cases h
  refine (decodeOp_system (m := 216) rfl rfl rfl (by decide)).trans ?_
  simp only [decSystem, dSS_eSS, dP_eP, fin3_m16, m16_lt3, modLt, Chk.req_true, Chk.ap_ok]
  rfl
theorem fqpop (d : VReg) (a : SSrc) : Statement (.fqpop d a) := by
  intro w hw h
  cases h
  refine (decodeOp_system (m := 217) rfl rfl rfl (by decide)).trans ?_
  simp only [decSystem, dSS_eSS, dVR_eVR, Chk.ap_ok, Chk.map_ok]
  rfl
theorem mtret (d : SDst) (a : SSrc) (b : SSrc) : Statement (.mtret d a b) := by
  intro w hw h
  cases h
  refine (decodeOp_system (m := 218) rfl rfl rfl (by decide)).trans ?_
  simp only [decSystem, dSS_eSS, dSD_eSD, Chk.ap_ok, Chk.map_ok, d3]
  rfl
theorem srd (d : SDst) (a : SSrc) : Statement (.srd d a) := by
  intro w hw h
  cases h
  refine (decodeOp_system (m := 220) rfl rfl rfl (by decide)).trans ?_
  simp only [decSystem, dSS_eSS, dSD_eSD, Chk.ap_ok, Chk.map_ok]
  rfl
theorem swr (d : PReg) (a : SSrc) (b : SSrc) : Statement (.swr d a b) := by
  intro w hw h
  cases h
  refine (decodeOp_system (m := 221) rfl rfl rfl (by decide)).trans ?_
  simp only [decSystem, dSS_eSS, dP_eP, Chk.ap_ok, Chk.map_ok]
  rfl
theorem operationWriteback : Statement .operationWriteback := by
  intro w hw h
  cases h
theorem handoverStep : Statement .handoverStep := by
  intro w hw h
  cases h
theorem contextStop : Statement .contextStop := by
  intro w hw h
  cases h
theorem contextRelease : Statement .contextRelease := by
  intro w hw h
  cases h
theorem migrateTrap : Statement .migrateTrap := by
  intro w hw h
  cases h
theorem channelEntryArrival : Statement .channelEntryArrival := by
  intro w hw h
  cases h
theorem creditArrival : Statement .creditArrival := by
  intro w hw h
  cases h
theorem egressTransmit : Statement .egressTransmit := by
  intro w hw h
  cases h
theorem windowWriteArrival : Statement .windowWriteArrival := by
  intro w hw h
  cases h
theorem windowRefusal : Statement .windowRefusal := by
  intro w hw h
  cases h
theorem acknowledgementArrival : Statement .acknowledgementArrival := by
  intro w hw h
  cases h
theorem watchArm : Statement .watchArm := by
  intro w hw h
  cases h
theorem watchNotify : Statement .watchNotify := by
  intro w hw h
  cases h
theorem sleepTimerExpiry : Statement .sleepTimerExpiry := by
  intro w hw h
  cases h
theorem drawRefill : Statement .drawRefill := by
  intro w hw h
  cases h
theorem overrun : Statement .overrun := by
  intro w hw h
  cases h
theorem ruleStoreScrub : Statement .ruleStoreScrub := by
  intro w hw h
  cases h
theorem tcmScrub : Statement .tcmScrub := by
  intro w hw h
  cases h
theorem cspScrub : Statement .cspScrub := by
  intro w hw h
  cases h
theorem ruleImageLoad : Statement .ruleImageLoad := by
  intro w hw h
  cases h
theorem streamElement : Statement .streamElement := by
  intro w hw h
  cases h
theorem gbarRelease : Statement .gbarRelease := by
  intro w hw h
  cases h
theorem copyChunk : Statement .copyChunk := by
  intro w hw h
  cases h
theorem copyComplete : Statement .copyComplete := by
  intro w hw h
  cases h
theorem orderTokenComplete : Statement .orderTokenComplete := by
  intro w hw h
  cases h
theorem matrixOperationStart : Statement .matrixOperationStart := by
  intro w hw h
  cases h
theorem neighbourEntryArrival : Statement .neighbourEntryArrival := by
  intro w hw h
  cases h
theorem neighbourRetry : Statement .neighbourRetry := by
  intro w hw h
  cases h
theorem bufferRequest : Statement .bufferRequest := by
  intro w hw h
  cases h
theorem fullBitChange : Statement .fullBitChange := by
  intro w hw h
  cases h
theorem barrierArrival : Statement .barrierArrival := by
  intro w hw h
  cases h
theorem barrierRelease : Statement .barrierRelease := by
  intro w hw h
  cases h
theorem mmrPanelArrival : Statement .mmrPanelArrival := by
  intro w hw h
  cases h
theorem globalRead : Statement .globalRead := by
  intro w hw h
  cases h
theorem globalWrite : Statement .globalWrite := by
  intro w hw h
  cases h
theorem globalAtomic : Statement .globalAtomic := by
  intro w hw h
  cases h
theorem translationWalk : Statement .translationWalk := by
  intro w hw h
  cases h
theorem walkComplete : Statement .walkComplete := by
  intro w hw h
  cases h
theorem mergeEntryClose : Statement .mergeEntryClose := by
  intro w hw h
  cases h
theorem circuitToken : Statement .circuitToken := by
  intro w hw h
  cases h
theorem flushToken : Statement .flushToken := by
  intro w hw h
  cases h
theorem roundMarker : Statement .roundMarker := by
  intro w hw h
  cases h
theorem sweepMarker : Statement .sweepMarker := by
  intro w hw h
  cases h
theorem sweepEcho : Statement .sweepEcho := by
  intro w hw h
  cases h
theorem linkFlushMarker : Statement .linkFlushMarker := by
  intro w hw h
  cases h
theorem linkFlushEcho : Statement .linkFlushEcho := by
  intro w hw h
  cases h
theorem linkRetirementNotice : Statement .linkRetirementNotice := by
  intro w hw h
  cases h
theorem decrementArrival : Statement .decrementArrival := by
  intro w hw h
  cases h
theorem taskRequest : Statement .taskRequest := by
  intro w hw h
  cases h
theorem waitingRequestApply : Statement .waitingRequestApply := by
  intro w hw h
  cases h
theorem stagingGateOpen : Statement .stagingGateOpen := by
  intro w hw h
  cases h
theorem stagingAllowanceExpiry : Statement .stagingAllowanceExpiry := by
  intro w hw h
  cases h
theorem cspStagingCopy : Statement .cspStagingCopy := by
  intro w hw h
  cases h
theorem placementDecision : Statement .placementDecision := by
  intro w hw h
  cases h
theorem taskRetirement : Statement .taskRetirement := by
  intro w hw h
  cases h
theorem instanceCompletion : Statement .instanceCompletion := by
  intro w hw h
  cases h
theorem launch : Statement .launch := by
  intro w hw h
  cases h
theorem class0Preemption : Statement .class0Preemption := by
  intro w hw h
  cases h
theorem victimSaveComplete : Statement .victimSaveComplete := by
  intro w hw h
  cases h
theorem migrationDestinationFree : Statement .migrationDestinationFree := by
  intro w hw h
  cases h
theorem stubOpen : Statement .stubOpen := by
  intro w hw h
  cases h
theorem stubClose : Statement .stubClose := by
  intro w hw h
  cases h
theorem migrationResume : Statement .migrationResume := by
  intro w hw h
  cases h
theorem pageMove : Statement .pageMove := by
  intro w hw h
  cases h
theorem packageTick : Statement .packageTick := by
  intro w hw h
  cases h
theorem switchSave : Statement .switchSave := by
  intro w hw h
  cases h
theorem saveDeadlineKill : Statement .saveDeadlineKill := by
  intro w hw h
  cases h
theorem switchIn : Statement .switchIn := by
  intro w hw h
  cases h
theorem teardown : Statement .teardown := by
  intro w hw h
  cases h
theorem abortMarker : Statement .abortMarker := by
  intro w hw h
  cases h
theorem vfFunctionLevelReset : Statement .vfFunctionLevelReset := by
  intro w hw h
  cases h
theorem vfctlEnable : Statement .vfctlEnable := by
  intro w hw h
  cases h
theorem vfctlTeardown : Statement .vfctlTeardown := by
  intro w hw h
  cases h
theorem configRegisterWrite : Statement .configRegisterWrite := by
  intro w hw h
  cases h
theorem launchWrite : Statement .launchWrite := by
  intro w hw h
  cases h
theorem completionEntryWrite : Statement .completionEntryWrite := by
  intro w hw h
  cases h
theorem cqheadWrite : Statement .cqheadWrite := by
  intro w hw h
  cases h
theorem msixCoalesceTimer : Statement .msixCoalesceTimer := by
  intro w hw h
  cases h
theorem hostRead : Statement .hostRead := by
  intro w hw h
  cases h
theorem hostWrite : Statement .hostWrite := by
  intro w hw h
  cases h
theorem pcapWrite : Statement .pcapWrite := by
  intro w hw h
  cases h
theorem coldStart : Statement .coldStart := by
  intro w hw h
  cases h
theorem warmStart : Statement .warmStart := by
  intro w hw h
  cases h
theorem startTimeout : Statement .startTimeout := by
  intro w hw h
  cases h
theorem attestationReport : Statement .attestationReport := by
  intro w hw h
  cases h
theorem telemetrySample : Statement .telemetrySample := by
  intro w hw h
  cases h
theorem thermalSample : Statement .thermalSample := by
  intro w hw h
  cases h
theorem linkDataFlit : Statement .linkDataFlit := by
  intro w hw h
  cases h
theorem controlFlit : Statement .controlFlit := by
  intro w hw h
  cases h
theorem replayTimeout : Statement .replayTimeout := by
  intro w hw h
  cases h
theorem linkRetrain : Statement .linkRetrain := by
  intro w hw h
  cases h
theorem retrainAttemptTimeout : Statement .retrainAttemptTimeout := by
  intro w hw h
  cases h
theorem rtcntDecay : Statement .rtcntDecay := by
  intro w hw h
  cases h
theorem d2dLinkFailure : Statement .d2dLinkFailure := by
  intro w hw h
  cases h
theorem podGroupPacket : Statement .podGroupPacket := by
  intro w hw h
  cases h
theorem rsendRetry : Statement .rsendRetry := by
  intro w hw h
  cases h
theorem apertureWrite : Statement .apertureWrite := by
  intro w hw h
  cases h
theorem templateRegistration : Statement .templateRegistration := by
  intro w hw h
  cases h
theorem templateUnregistration : Statement .templateUnregistration := by
  intro w hw h
  cases h
theorem watchDisarm : Statement .watchDisarm := by
  intro w hw h
  cases h
theorem pageMoveComplete : Statement .pageMoveComplete := by
  intro w hw h
  cases h
theorem taskSaveComplete : Statement .taskSaveComplete := by
  intro w hw h
  cases h
theorem taskRestoreComplete : Statement .taskRestoreComplete := by
  intro w hw h
  cases h
theorem bar0RegisterWrite : Statement .bar0RegisterWrite := by
  intro w hw h
  cases h
theorem linkControlFlitInterval : Statement .linkControlFlitInterval := by
  intro w hw h
  cases h
theorem ualinkPortFailure : Statement .ualinkPortFailure := by
  intro w hw h
  cases h
theorem d2dLinkRetraining : Statement .d2dLinkRetraining := by
  intro w hw h
  cases h

end Sys2Proof.Laws.RoundTrip
end

