-- ==== Sys2Proof/Tests/Slice0.lean ====
section
/-! SUPPORT. Tests: the checks of well-formedness, every instruction's encoding and readiness on words written out from the spec's formats
(R45 to R60), the spec's worked examples, and for every statement a state and operands that meet its hypotheses. -/

set_option Elab.async false
set_option exponentiation.threshold 2100

namespace Sys2Proof.Tests
open Sys2Proof Sys2Proof.Machine

/-! ## A small state in which every rule operation is ready -/

def ent : Entry := { data := 5, tag := 1, w := 0, p := false }
def four : List Entry := [ent, ent, ent, ent]
/-- A RUNNING context with four entries in every inbound channel, every egress channel bound, 4 KiB of TCM and a SHADOW successor's number. -/
def ctxR : Ctx :=
  { Ctx.zero with
    st := .running, inb := Vector.replicate 16 four, eb := Vector.replicate 16 { bv := true, label := 0, cred := 8 }, tlen := 4096
    cfg := { CtxCfg.zero with succ := 1, hen := true, rlast := 3 } }
def tileR : Tile :=
  { Tile.zero with ctxs := (Vector.replicate 8 Ctx.zero |>.set 0 ctxR |>.set 1 { Ctx.zero with st := .shadow }), nq := Vector.replicate 4 four }
/-- Cluster 0 gives context 0 of its tile 0 one unit of CSP, and buffer 0 has four 64-byte units a slot. -/
def clusR : Cluster := { Cluster.zero with regs := [(0, 0x400#64), (0x800, 0x2000400000#64)] }
def wR : State := { State.reset with tile := tileR, clusters := [(0, clusR)] }
/-- The word decodes to the instruction, and the instruction is ready. -/
def rows (l : List (Word × Instr)) : Bool := l.all fun p => decodeOp p.1 == .ok p.2 && wR.opReady p.2

/-! ## Every rule operation's word, written out from its format -/

theorem test_words_scalar_1 : rows [
    (0x0000000000000000#64, .nop),
    (0x0100090c48010200#64, .add (.i .i32) true (.reg 4) (.chan 3) (.reg 9)),
    (0x0200aa7fa80e0100#64, .sub (.fx 32) false (.chan 5) (.reg 31) (.sys .cycle)),
    (0x0300090c48070000#64, .mul (.i .n8) false (.reg 4) (.chan 3) (.reg 9)),
    (0x0400090c48040000#64, .mulh .n64 (.reg 4) (.chan 3) (.reg 9)),
    (0x0500e90c48020200#64, .div (.i .i16) true (.sys .srng) (.chan 3) (.reg 9)),
    (0x0600090c48030000#64, .rem .i8 (.reg 4) (.chan 3) (.reg 9)),
    (0x0700090c480e01f8#64, .min (.fx 63) (.reg 4) (.chan 3) (.reg 9)),
    (0x0800090c48060000#64, .max (.i .n16) (.reg 4) (.chan 3) (.reg 9)),
    (0x0900090c48000000#64, .and .i64 (.reg 4) (.chan 3) (.reg 9)),
    (0x0a00090c48010000#64, .or .i32 (.reg 4) (.chan 3) (.reg 9)),
    (0x0b00090c48050000#64, .xor .n32 (.reg 4) (.chan 3) (.reg 9))] = true := by decide

theorem test_words_scalar_2 : rows [
    (0x0c00090c48020000#64, .andn .i16 (.reg 4) (.chan 3) (.reg 9)),
    (0x0d00090c48070000#64, .shl .n8 (.reg 4) (.chan 3) (.reg 9)),
    (0x0e00090c48040000#64, .shr .n64 (.reg 4) (.chan 3) (.reg 9)),
    (0x0f00090c48030000#64, .sra .i8 (.reg 4) (.chan 3) (.reg 9)),
    (0x1000090c48010000#64, .rol .i32 (.reg 4) (.chan 3) (.reg 9)),
    (0x1001090c48050000#64, .ror .n32 (.reg 4) (.chan 3) (.reg 9)),
    (0x1100090c00000000#64, .clz .i64 (.reg 4) (.chan 3)),
    (0x1200090c00030000#64, .ctz .i8 (.reg 4) (.chan 3)),
    (0x1300090c00060000#64, .popc .n16 (.reg 4) (.chan 3)),
    (0x1400090c48700000#64, .bext true (.reg 4) (.chan 3) (.reg 9) (.reg 7)),
    (0x1400090c48740000#64, .bext false (.reg 4) (.chan 3) (.reg 9) (.reg 7)),
    (0x1500090c4c700000#64, .bins 4 (.chan 3) (.reg 9) (.chan 7))] = true := by decide

theorem test_words_scalar_3 : rows [
    (0x1600090c4eb00000#64, .sel (.reg 4) (.chan 3) (.reg 9) 11),
    (0x1703c50c48050000#64, .cmp .le (.i .n32) 2 (.chan 3) (.reg 9)),
    (0x18000824fffffffb#64, .addi (.reg 4) (.reg 9) 0xfffffffb#32),
    (0x1900082480000001#64, .andi (.reg 4) (.reg 9) 0x80000001#32),
    (0x1901082400000007#64, .ori (.reg 4) (.reg 9) 7#32),
    (0x1902082400000008#64, .xori (.reg 4) (.reg 9) 8#32),
    (0x1a0008240000003c#64, .shli (.reg 4) (.reg 9) 60),
    (0x1a0108240000003d#64, .shri (.reg 4) (.reg 9) 61),
    (0x1a0208240000003e#64, .srai (.reg 4) (.reg 9) 62),
    (0x1a0308240000003f#64, .roli (.reg 4) (.reg 9) 63),
    (0x1c00088000000001#64, .li (.reg 4) 0x8000000001#40),
    (0x1c01081234567890#64, .lih 4 0x1234567890#40)] = true := by decide

theorem test_words_scalar_4 : rows [
    (0x1d00090c48500000#64, .lea (.reg 4) (.chan 3) (.reg 9) 5),
    (0x1e00090c00030000#64, .sext .w8 (.reg 4) (.chan 3)),
    (0x1e01090c00050000#64, .zext .w32 (.reg 4) (.chan 3)),
    (0x1f00090c00000000#64, .mov (.reg 4) (.chan 3)),
    (0x1b02c61c1ffffffb#64, .cmpi .lt (.i .i32) 3 (.reg 7) 0xffffffb#28),
    (0x1b05c61ce0000005#64, .cmpi .ge .fx 3 (.reg 7) 5#28)] = true := by decide

theorem test_words_float_1 : rows [
    (0x2000090c48080001#64, .fadd .f64 .rn (.reg 4) (.chan 3) (.reg 9)),
    (0x2100090c48090002#64, .fsub .f32 .rz (.reg 4) (.chan 3) (.reg 9)),
    (0x2200090c480a0003#64, .fmul .f16 .ru (.reg 4) (.chan 3) (.reg 9)),
    (0x2300090c480b0004#64, .fdiv .bf16 .rd (.reg 4) (.chan 3) (.reg 9)),
    (0x2400090c00090005#64, .fsqrt .f32 .rs (.reg 4) (.chan 3)),
    (0x2500090c48280000#64, .ffma .fma .f64 .dyn (.reg 4) (.chan 3) (.reg 9) (.reg 2)),
    (0x2501090c48280000#64, .ffma .fms .f64 .dyn (.reg 4) (.chan 3) (.reg 9) (.reg 2)),
    (0x2502090c48280000#64, .ffma .fnma .f64 .dyn (.reg 4) (.chan 3) (.reg 9) (.reg 2)),
    (0x2503090c48280000#64, .ffma .fnms .f64 .dyn (.reg 4) (.chan 3) (.reg 9) (.reg 2)),
    (0x2600090c48090000#64, .fmin .f32 (.reg 4) (.chan 3) (.reg 9)),
    (0x2700090c480a0000#64, .fmax .f16 (.reg 4) (.chan 3) (.reg 9)),
    (0x2806df0c48080000#64, .fcmp .un .f64 15 (.chan 3) (.reg 9))] = true := by decide

theorem test_words_float_2 : rows [
    (0x2900090c000d0000#64, .fclass .e5m2 (.reg 4) (.chan 3)),
    (0x2a00090c009c0001#64, .fcvt .e4m3 (.f .f32) .rn (.reg 4) (.chan 3)),
    (0x2b00090c00a50000#64, .fcvti .n32 (.f .f16) (.reg 4) (.chan 3)),
    (0x2c00090c002b0002#64, .icvtf (.f .bf16) .i16 .rz (.reg 4) (.chan 3)),
    (0x2d00090c008e0080#64, .fxcvt (.ofFp 16 .f64) (.reg 4) (.chan 3)),
    (0x2d00090c00e10280#64, .fxcvt (.toInt .i32 16 true) (.reg 4) (.chan 3)),
    (0x2e00090c00090000#64, .fneg .f32 (.reg 4) (.chan 3)),
    (0x2e01090c00080000#64, .fabs .f64 (.reg 4) (.chan 3)),
    (0x2e02090c480a0000#64, .fcpsgn .f16 (.reg 4) (.chan 3) (.reg 9)),
    (0x2f00090c00000000#64, .fflag (.reg 4) (.chan 3)),
    (0x2f01090c00000000#64, .fflagClr (.reg 4) (.chan 3)),
    (0x3000c58f20000000#64, .pand 2 3 4)] = true := by decide

theorem test_words_float_3 : rows [
    (0x3001c58f20000000#64, .por 2 3 4),
    (0x3002c58f20000000#64, .pxor 2 3 4),
    (0x3003c58f20000000#64, .pandn 2 3 4),
    (0x3004c58c00000000#64, .pnot 2 3),
    (0x3005c58c00000000#64, .pmov 2 3)] = true := by decide

theorem test_words_channel_1 : rows [
    (0x31000d0800000000#64, .recv (.s (.reg 6)) 2),
    (0x3101630806600002#64, .tryrecv (.k (.reg 1)) 2 6),
    (0x3200a62028000005#64, .send 3 (.pair (.pair 4)) (.reg (.reg 5))),
    (0x3201a6a006902103#64, .trysend 3 (.v (.reg 8)) (.imm 0x21#8) 9),
    (0x3300430800000003#64, .peek (.v (.reg 1)) 2),
    (0x3301a30806000001#64, .trypeek (.pair (.chan 1)) 2 0),
    (0x3400090800000000#64, .tagh (.reg 4) 2),
    (0x3500013c00000000#64, .chreset 15),
    (0x36006e0000000000#64, .pset (.k 7)),
    (0x3601460000000000#64, .pclr (.v 3)),
    (0x3700090800000000#64, .chcount (.reg 4) 2),
    (0x3701094800000000#64, .chfree (.reg 4) 2)] = true := by decide

theorem test_words_channel_2 : rows [
    (0x38000000000000a5#64, .done 0xa5#8),
    (0x3900000000000000#64, .yield),
    (0x3a00000000000000#64, .handover),
    (0x3b00010c0000beef#64, .trap (.chan 3) 0xbeef#16),
    (0x3c00d62000f40181#64, .watch { cc := .ne, ty := .n64, space := .glb, scope := .pkg, dst := some 15 } 11 (.reg 8) (.reg 0)),
    (0x3d00d60000000000#64, .unwatch 11),
    (0x3e0000000000ffff#64, .sleep 0xffff#16),
    (0x3f00000000001234#64, .bkpt 0x1234#16)] = true := by decide

theorem test_words_vector_1 : rows [
    (0x4000490928027200#64, .vadd (.int .i16 true) (.keep 3) (.reg 4) (.chan 2) (.reg 5)),
    (0x41004909280e7848#64, .vsub (.fx 9 false) (.zero 3) (.reg 4) (.chan 2) (.reg 5)),
    (0x42004909280a0003#64, .vmul (.fp .f16 .ru) .all (.reg 4) (.chan 2) (.reg 5)),
    (0x430049092a697001#64, .vfma .fma .f32 .rn (.keep 3) (.reg 4) (.chan 2) (.reg 5) (.reg 6)),
    (0x430149092a697001#64, .vfma .fms .f32 .rn (.keep 3) (.reg 4) (.chan 2) (.reg 5) (.reg 6)),
    (0x430249092a697001#64, .vfma .fnma .f32 .rn (.keep 3) (.reg 4) (.chan 2) (.reg 5) (.reg 6)),
    (0x430349092a697001#64, .vfma .fnms .f32 .rn (.keep 3) (.reg 4) (.chan 2) (.reg 5) (.reg 6)),
    (0x4400490928057000#64, .vdiv (.int .n32 false) (.keep 3) (.reg 4) (.chan 2) (.reg 5)),
    (0x45004909280b7000#64, .vmin (.fp .bf16) (.keep 3) (.reg 4) (.chan 2) (.reg 5)),
    (0x4600490928077000#64, .vmax (.int .n8) (.keep 3) (.reg 4) (.chan 2) (.reg 5)),
    (0x4700490800037200#64, .vabs (.i8 true) (.keep 3) (.reg 4) (.chan 2)),
    (0x4800490800087000#64, .vneg (.fp .f64) (.keep 3) (.reg 4) (.chan 2))] = true := by decide

theorem test_words_vector_2 : rows [
    (0x4900490928007800#64, .vand .i64 (.zero 3) (.reg 4) (.chan 2) (.reg 5)),
    (0x4a00490928017800#64, .vor .i32 (.zero 3) (.reg 4) (.chan 2) (.reg 5)),
    (0x4b00490928067800#64, .vxor .n16 (.zero 3) (.reg 4) (.chan 2) (.reg 5)),
    (0x4c00490928037800#64, .vshl .i8 (.zero 3) (.reg 4) (.chan 2) (.reg 5)),
    (0x4d00490928057800#64, .vshr .n32 (.zero 3) (.reg 4) (.chan 2) (.reg 5)),
    (0x4e00490928027800#64, .vsra .i16 (.zero 3) (.reg 4) (.chan 2) (.reg 5)),
    (0x4f06650928097000#64, .vcmp (.fp .f32 .un) (.keep 3) (.reg 2) (.chan 2) (.reg 5)),
    (0x500049092b1c0000#64, .vsel (.f .e4m3) (.reg 4) (.chan 2) (.reg 5) (.reg 1)),
    (0x5100482400067000#64, .vbcast (.i .n16) (.keep 3) (.reg 4) (.reg 9)),
    (0x5200490928017000#64, .vperm (.i .i32) (.keep 3) (.reg 4) (.chan 2) (.reg 5)),
    (0x5300490848087000#64, .vrot (.f (.f .f64)) (.keep 3) (.reg 4) (.chan 2) (.reg 9)),
    (0x5400490928037200#64, .vpack { signed := true, lv := 0 } true (.keep 3) (.reg 4) (.chan 2) (.reg 5))] = true := by decide

theorem test_words_vector_3 : rows [
    (0x5500490848057000#64, .vunpk { signed := false, lv := 1 } (.keep 3) (.reg 4) (.chan 2) (.reg 9)),
    (0x5600490803170000#64, .vcompress (.i .n8) (.reg 4) (.chan 2) (.reg 1)),
    (0x57004908041a0000#64, .vexpand (.f (.f .f16)) (.reg 4) (.chan 2) (.chan 1)),
    (0x5800130838027200#64, .vredsum (.int .i16 true) (.keep 3) (.reg 9) (.chan 2) (.reg 7)),
    (0x5900130838097800#64, .vredmin (.fp .f32) (.zero 3) (.reg 9) (.chan 2) (.reg 7)),
    (0x5a001308380e7808#64, .vredmax (.fx 1) (.zero 3) (.reg 9) (.chan 2) (.reg 7)),
    (0x5b00130838057800#64, .vredand .n32 (.zero 3) (.reg 9) (.chan 2) (.reg 7)),
    (0x5b01130838057800#64, .vredor .n32 (.zero 3) (.reg 9) (.chan 2) (.reg 7)),
    (0x5b02130838057800#64, .vredxor .n32 (.zero 3) (.reg 9) (.chan 2) (.reg 7)),
    (0x5c00490838087802#64, .vscan (.fp .f64 .rz) (.zero 3) (.reg 4) (.chan 2) (.reg 7)),
    (0x5d00490838397801#64, .vcvt (.itof (.f .f32) .i8 .rn) (.zero 3) (.reg 4) (.chan 2) (.reg 7)),
    (0x5e004908389f0021#64, .vmxq .fp4 .f32 .rn (.reg 4) (.chan 2) 7)] = true := by decide

theorem test_words_vector_4 : rows [
    (0x5f00490838bf0011#64, .vmxd .fp6 .bf16 .rn (.reg 4) (.chan 2) (.reg 7)),
    (0x60004908000d7000#64, .vmov (.f .e5m2) (.keep 3) (.reg 4) (.chan 2)),
    (0x6100090838030000#64, .vext (.i .i8) (.reg 4) (.chan 2) (.reg 7)),
    (0x6200482438060000#64, .vins (.i .n16) 4 (.reg 9) (.reg 7)),
    (0x630062ca18000000#64, .kand (.reg 1) (.reg 2) (.chan 3)),
    (0x630162ca18000000#64, .kor (.reg 1) (.reg 2) (.chan 3)),
    (0x630262ca18000000#64, .kxor (.reg 1) (.reg 2) (.chan 3)),
    (0x630362ca18000000#64, .kandn (.reg 1) (.reg 2) (.chan 3)),
    (0x6304a2c800000000#64, .knot (.chan 1) (.reg 2)),
    (0x630562c800000000#64, .kmov (.reg 1) (.reg 2)),
    (0x640008c800000000#64, .kpop (.reg 4) (.reg 2)),
    (0x650008c800000000#64, .kfind (.reg 4) (.reg 2))] = true := by decide

theorem test_words_vector_5 : rows [
    (0x6600482400077000#64, .viota .n8 (.keep 3) (.reg 4) (.reg 9)),
    (0x67006308480c7000#64, .vclass .e4m3 (.keep 3) (.reg 1) (.chan 2) (.reg 9)),
    (0x6800490848097001#64, .vadds (.fp .f32 .rn) (.keep 3) (.reg 4) (.chan 2) (.reg 9)),
    (0x6900490848007000#64, .vsubs (.int .i64 false) (.keep 3) (.reg 4) (.chan 2) (.reg 9)),
    (0x6a00090928737200#64, .vdot (.int .i8 true) (.keep 3) (.reg 4) (.chan 2) (.reg 5) (.reg 7)),
    (0x7000490800097000#64, .sfrcp (.keep 3) (.reg 4) (.chan 2)),
    (0x7100490800097000#64, .sfrsqrt (.keep 3) (.reg 4) (.chan 2)),
    (0x7200490800097000#64, .sfsqrt (.keep 3) (.reg 4) (.chan 2)),
    (0x7300490800097000#64, .sfexp2 (.keep 3) (.reg 4) (.chan 2)),
    (0x7400490800097000#64, .sflog2 (.keep 3) (.reg 4) (.chan 2)),
    (0x7500490800097000#64, .sfsinpi (.keep 3) (.reg 4) (.chan 2)),
    (0x7600490800097000#64, .sfcospi (.keep 3) (.reg 4) (.chan 2))] = true := by decide

theorem test_words_vector_6 : rows [
    (0x7700490800097000#64, .sfsincospi (.keep 3) 2 (.chan 2))] = true := by decide

theorem test_words_matrix_1 : rows [
    (0x8001460510e34900#64, .mma { fmt := .f32, blk := { acc := 1, mt := 0, nt := 1, ro := 2, co := 0 }, kt := 5, sa := 2, sb := 3, asp := true, bsp := false, rm := .rn, za := true, wt := 4, pt := 9 }),
    (0x8106460510e1498c#64, .mmas { fmt := .i8, blk := { acc := 1, mt := 0, nt := 1, ro := 2, co := 0 }, kt := 5, sa := 2, sb := 3, asp := true, bsp := false, rm := .dyn, za := true, wt := 4, pt := 9 } 17 true),
    (0x8203460040c14900#64, .mmv { fmt := .bf16, blk := { acc := 1, mt := 0, nt := 1, ro := 2, co := 0 }, kt := 0, sa := 8, sb := 3, asp := false, bsp := false, rm := .dyn, za := true, wt := 4, pt := 9 }),
    (0x8300740000000000#64, .azero 2),
    (0x8400942028203700#64, .aload { blk := { acc := 2, mt := 1, nt := 1, ro := 0, co := 0 }, ew := true, sa := 5, asp := true, wt := 3, pt := 7 }),
    (0x8500942028203700#64, .astore { blk := { acc := 2, mt := 1, nt := 1, ro := 0, co := 0 }, ew := true, sa := 5, asp := true, wt := 3, pt := 7 }),
    (0x860048e4389b0001#64, .acvt (.ff (.f .bf16) false .rn) (.reg 4) 1 (.reg 7)),
    (0x8700761c00080002#64, .ascale (.f64 .rz) 3 (.reg 7)),
    (0x880048e438040000#64, .aget .n64 (.reg 4) 1 (.reg 7)),
    (0x8900730838097000#64, .aput .f32 (some 3) 1 (.chan 2) (.reg 7)),
    (0x8a00730838010200#64, .aadd (.i32 true) 1 (.chan 2) (.reg 7)),
    (0x8b0072e800000000#64, .atrans 1 2)] = true := by decide

theorem test_words_matrix_2 : rows [
    (0xaa07460511014904#64, .mmr { fmt := .n8, blk := { acc := 1, mt := 0, nt := 1, ro := 2, co := 0 }, kt := 5, sa := 2, sb := 4, asp := false, bsp := false, rm := .dyn, za := true, wt := 4, pt := 9 } true)] = true := by decide

theorem test_words_stream_1 : rows [
    (0x90000020f0000005#64, .gcfg 5 4 15),
    (0x9100000000000007#64, .gstart 7),
    (0x9200080000000003#64, .gstop (.reg 4) 3),
    (0x9300cc0000000181#64, .gbar 6 0x81#8 true),
    (0x9400a82c297ffff8#64, .ld { base := 11, off := 0x3ffff8#22, scope := .tile, ord := .acq } (.w .i16 (.chan 4))),
    (0x94000c2c393ffff8#64, .ld { base := 11, off := 0x3ffff8#22, scope := .tile, ord := .none } (.p (.pair 3))),
    (0x9500042c48bffff8#64, .st { base := 11, off := 0x3ffff8#22, scope := .ctx, ord := .rel } (.w .n32 (.reg 9))),
    (0x95000e2e483ffff8#64, .st { base := 11, off := 0x3ffff8#22, scope := .ctx, ord := .none } (.p (.chan 9))),
    (0x96004c2c013ffff8#64, .vld { base := 11, off := 0x3ffff8#22, scope := .tile, ord := .none } (.reg 6)),
    (0x9700002d48bffff8#64, .vst { base := 11, off := 0x3ffff8#22, scope := .ctx, ord := .rel } (.reg 9)),
    (0x9803082c49fffff8#64, .tamo { base := 11, off := 0x3ffff8#22, scope := .tile, ord := .ar } (.reg 4) (.rmw .max (.reg 9))),
    (0x9808082c507ffff8#64, .tamo { base := 11, off := 0x3ffff8#22, scope := .ctx, ord := .acq } (.reg 4) (.cas (.pair 5)))] = true := by decide

theorem test_words_stream_2 : rows [
    (0x9c004c2d393ffff8#64, .vgath { base := 11, off := 0x3ffff8#22, scope := .tile, ord := .none } (.reg 6) (.reg 7)),
    (0x9d004c2d393ffff8#64, .vscat { base := 11, off := 0x3ffff8#22, scope := .tile, ord := .none } (.reg 7) (.reg 6)),
    (0x9900d31119001200#64, .cpy { dsp := .win, ssp := .csp, sd := 6, ss := 4, sl := 8, label := 100, wt := 1, pt := 2 }),
    (0x9a00831100001200#64, .cpy2d { dsp := .glb, ssp := .tcm, sd := 6, ss := 4, sl := 8, label := 0, wt := 1, pt := 2 }),
    (0x9b00c60000000000#64, .drainTcm 3),
    (0x9b01c60000000000#64, .drainCsp 3),
    (0x9b02c60000000000#64, .drainGlb 3)] = true := by decide

theorem test_words_cluster_1 : rows [
    (0xa000a82c2a7ffff8#64, .cld { base := 11, off := 0x3ffff8#22, scope := .clus, ord := .acq } (.w .i16 (.chan 4))),
    (0xa0000c2c3a3ffff8#64, .cld { base := 11, off := 0x3ffff8#22, scope := .clus, ord := .none } (.p (.pair 3))),
    (0xa100042c49bffff8#64, .cst { base := 11, off := 0x3ffff8#22, scope := .tile, ord := .rel } (.w .n32 (.reg 9))),
    (0xa1000e2e493ffff8#64, .cst { base := 11, off := 0x3ffff8#22, scope := .tile, ord := .none } (.p (.chan 9))),
    (0xa2004c2c023ffff8#64, .cvld { base := 11, off := 0x3ffff8#22, scope := .clus, ord := .none } (.reg 6)),
    (0xa300002d49bffff8#64, .cvst { base := 11, off := 0x3ffff8#22, scope := .tile, ord := .rel } (.reg 9)),
    (0xa409082c4a3ffff8#64, .camo { base := 11, off := 0x3ffff8#22, scope := .clus, ord := .none } (.reg 4) (.binc (.reg 9))),
    (0xa500c22400000006#64, .bput 1 6 (.tcm (.reg 9))),
    (0xa501c2a40620000e#64, .trybput 1 6 (.vec (.reg 9)) 2),
    (0xa600a2000000000e#64, .bget (.vec (.chan 1)) 6),
    (0xa601c22406200006#64, .trybget (.tcm 1 (.reg 9)) 6 2),
    (0xa700c2000000000b#64, .bwait 1 3 true)] = true := by decide

theorem test_words_cluster_2 : rows [
    (0xa800002400004408#64, .nsend 1 (.s (.reg 9)) (.imm 0x44#8)),
    (0xa80100d02e20001e#64, .trynsend 3 (.k (.reg 4)) (.reg (.reg 5)) 2),
    (0xa900480000000013#64, .nrecv (.v (.reg 4)) 2),
    (0xa901080006200001#64, .trynrecv (.pair (.pair 2)) 0 2),
    (0xab00c60000000000#64, .cbar 3)] = true := by decide

theorem test_words_global_1 : rows [
    (0xb000a82c2d7ffff8#64, .ldg { base := 11, off := 0x3ffff8#22, scope := .pod, ord := .acq } (.w .i16 (.chan 4))),
    (0xb0000c2c3d3ffff8#64, .ldg { base := 11, off := 0x3ffff8#22, scope := .pod, ord := .none } (.p (.pair 3))),
    (0xb100042c4bbffff8#64, .stg { base := 11, off := 0x3ffff8#22, scope := .die, ord := .rel } (.w .n32 (.reg 9))),
    (0xb1000e2e4b3ffff8#64, .stg { base := 11, off := 0x3ffff8#22, scope := .die, ord := .none } (.p (.chan 9))),
    (0xb2004c2c053ffff8#64, .vldg { base := 11, off := 0x3ffff8#22, scope := .pod, ord := .none } (.reg 6)),
    (0xb300002d4bbffff8#64, .vstg { base := 11, off := 0x3ffff8#22, scope := .die, ord := .rel } (.reg 9)),
    (0xb401082c4cbffff8#64, .amo { base := 11, off := 0x3ffff8#22, scope := .pkg, ord := .rel } .fxadd (.reg 4) (.reg 9)),
    (0xb500082c50fffff8#64, .cas { base := 11, off := 0x3ffff8#22, scope := .ctx, ord := .ar } (.reg 4) (.pair 5)),
    (0xb600082c4b3ffff8#64, .aincBound { base := 11, off := 0x3ffff8#22, scope := .die, ord := .none } (.reg 4) (.reg 9)),
    (0xb700000005000000#64, .fence .pod),
    (0xb80000000000001a#64, .otpub 13),
    (0xb800000000000aad#64, .otpubCirc 0x55#7 6)] = true := by decide

theorem test_words_global_2 : rows [
    (0xb900c4000000000f#64, .otwait 2 15),
    (0xba00c40000000081#64, .join 2 0x81#8),
    (0xbb00002c483ffff8#64, .pfg 11 0x3ffff8#22 (.reg 9)),
    (0xc000080410300000#64, .tspawn 4 (.reg 1) (.reg 2) (.reg 3)),
    (0xc001080410300009#64, .trytspawn 4 (.reg 1) (.reg 2) (.reg 3) 9),
    (0xc100082400000000#64, .tenq (.reg 4) (.reg 9)),
    (0xc101082400000003#64, .trytenq (.reg 4) (.reg 9) 3),
    (0xc200002400000000#64, .tdec (.reg 9)),
    (0xc300082400000000#64, .tstatus (.reg 4) (.reg 9)),
    (0xc400c82440000000#64, .tcancel 4 (.reg 9) (.reg 8)),
    (0xc500c82440000000#64, .tinc 4 (.reg 9) (.reg 8)),
    (0xc600082400000000#64, .tparam (.reg 4) (.reg 9))] = true := by decide

theorem test_words_global_3 : rows [
    (0xc700080000000000#64, .tbound (.reg 4))] = true := by decide

theorem test_words_fabric_1 : rows [
    (0xc800fe2400005500#64, .rsend 0x7f#7 (.s (.reg 9)) (.imm 0x55#8)),
    (0xc801fea41e200007#64, .tryrsend 0x7f#7 (.v (.reg 9)) (.reg (.reg 3)) 2),
    (0xc900c02c4dbffff8#64, .rstore 0x60#7 { base := 11, off := 0x3ffff8#22, scope := .pod, ord := .rel } (.reg 9)),
    (0xca00002440000000#64, .rdec (.reg 9) (.reg 8)),
    (0xcb00c80040000000#64, .pbar 4 (.reg 8)),
    (0xcc00082440000000#64, .pcomb .fxadd (.reg 4) (.reg 9) (.reg 8)),
    (0xcc01082440000000#64, .pcomb .add (.reg 4) (.reg 9) (.reg 8)),
    (0xcc02082440000000#64, .pcomb .min (.reg 4) (.reg 9) (.reg 8)),
    (0xcc03082440000000#64, .pcomb .max (.reg 4) (.reg 9) (.reg 8)),
    (0xcc04082440000000#64, .pcomb .fadd (.reg 4) (.reg 9) (.reg 8)),
    (0xcd00082440000000#64, .pbcast (.reg 4) (.reg 9) (.reg 8)),
    (0xce00000040000000#64, .pabort (.reg 8))] = true := by decide

theorem test_words_system_1 : rows [
    (0xd000082400000000#64, .cfgr (.reg 4) (.reg 9)),
    (0xd100c82440000000#64, .cfgw 4 (.reg 9) (.reg 8)),
    (0xd200082440000000#64, .vfsetEnable (.reg 4) (.reg 9) (.reg 8)),
    (0xd300082440000000#64, .quota (.reg 4) (.reg 9) (.reg 8)),
    (0xd400082440000000#64, .wtouch (.reg 4) (.reg 9) (.reg 8)),
    (0xd500082440000000#64, .wresMobile (.reg 4) (.reg 9) (.reg 8)),
    (0xd500082440000001#64, .wresFixed (.reg 4) (.reg 9) (.reg 8)),
    (0xd500082440000002#64, .wresUp (.reg 4) (.reg 9) (.reg 8)),
    (0xd500082440000003#64, .wresDown (.reg 4) (.reg 9) (.reg 8)),
    (0xd500082440000004#64, .wresQuery 0 (.reg 4) (.reg 9) (.reg 8)),
    (0xd500082440000005#64, .wresQuery 1 (.reg 4) (.reg 9) (.reg 8)),
    (0xd500082440000006#64, .wresQuery 2 (.reg 4) (.reg 9) (.reg 8))] = true := by decide

theorem test_words_system_2 : rows [
    (0xd500082440000007#64, .wresQuery 3 (.reg 4) (.reg 9) (.reg 8)),
    (0xd600082440000000#64, .csave (.reg 4) (.reg 9) (.reg 8)),
    (0xd700082400000000#64, .crest (.reg 4) (.reg 9)),
    (0xd800c82440700000#64, .xinv 0 4 (.reg 9) (.reg 8) (.reg 7)),
    (0xd800c82440700001#64, .xinv 1 4 (.reg 9) (.reg 8) (.reg 7)),
    (0xd800c82440700002#64, .xinv 2 4 (.reg 9) (.reg 8) (.reg 7)),
    (0xd900482400000000#64, .fqpop 4 (.reg 9)),
    (0xda00082440000000#64, .mtret (.reg 4) (.reg 9) (.reg 8)),
    (0xdb00082440700000#64, .ctxw (.reg 4) (.reg 9) (.reg 8) (.reg 7)),
    (0xdc00082400000000#64, .srd (.reg 4) (.reg 9)),
    (0xdd00c82440000000#64, .swr 4 (.reg 9) (.reg 8))] = true := by decide
/-! ## Well-formedness: an ill-formed term for every check -/

def ill (l : List Instr) : Bool := l.all fun i => !i.wf
def blk0 : Blk := { acc := 0, mt := 0, nt := 0, ro := 0, co := 0 }
def mma0 : MmaF := { fmt := .f32, blk := blk0, kt := 0, sa := 0, sb := 0, asp := false, bsp := false, rm := .dyn, za := false, wt := 0, pt := 0 }
def am0 : AccMemF := { blk := blk0, ew := false, sa := 0, asp := false, wt := 0, pt := 0 }
def cpy0 : CpyF := { dsp := .tcm, ssp := .tcm, sd := 0, ss := 0, sl := 0, label := 0, wt := 0, pt := 0 }
def at0 (s : Scope) (o : Ordr) : MAddr := { base := 0, off := 0, scope := s, ord := o }

/-- R186: a kept mask needs a register destination. -/
theorem test_ill_masks : ill [.vadd (.int .i8 false) (.keep 0) (.chan 1) (.reg 0) (.reg 0), .vcmp (.int .i8 .eq) (.keep 0) (.chan 1) (.reg 0) (.reg 0),
    .vmin (.int .i8) (.keep 0) (.chan 1) (.reg 0) (.reg 0), .vabs (.i8 false) (.keep 0) (.chan 1) (.reg 0),
    .vadds (.int .i8 false) (.keep 0) (.chan 1) (.reg 0) (.reg 0), .vfma .fma .f32 .rn (.keep 0) (.chan 1) (.reg 0) (.reg 0) (.reg 0),
    .vand .i8 (.keep 0) (.chan 1) (.reg 0) (.reg 0), .vclass .e4m3 (.keep 0) (.chan 1) (.reg 0) (.reg 0),
    .vmov (.i .i8) (.keep 0) (.chan 1) (.reg 0), .viota .i8 (.keep 0) (.chan 1) (.reg 0), .vperm (.i .i8) (.keep 0) (.chan 1) (.reg 0) (.reg 0),
    .vrot (.i .i8) (.keep 0) (.chan 1) (.reg 0) (.reg 0), .vpack { signed := true, lv := 0 } false (.keep 0) (.chan 1) (.reg 0) (.reg 0),
    .vunpk { signed := true, lv := 0 } (.keep 0) (.chan 1) (.reg 0) (.reg 0), .sfrcp (.keep 0) (.chan 1) (.reg 0)] = true := by decide

/-- R204 to R206: types that `vdot`, `vscan` and `vcvt` refuse. -/
theorem test_ill_types : ill [.vdot (.fx 0 false) .all (.reg 0) (.reg 0) (.reg 0) (.reg 0), .vscan (.fp .f16 .rn) .all (.reg 0) (.reg 0) (.reg 0),
    .vcvt (.ff (.f .f32) (.f .f32) .rn) .all (.reg 0) (.reg 0) (.reg 0), .vcvt (.ff .e4m3 (.f .f32) .rn) .all (.reg 0) (.reg 0) (.reg 1),
    .acvt (.ff (.f .f32) false .rn) (.reg 0) 0 (.reg 0), .acvt (.ii { signed := true, lv := 2 } true) (.reg 0) 0 (.reg 0)] = true := by decide

/-- R217, R220, R226, R286: blocks, rounding, sparse and vector forms of the matrix majors. -/
theorem test_ill_matrix : ill [.mma { mma0 with blk := { blk0 with mt := 3, ro := 1 } }, .mma { mma0 with fmt := .f64, blk := { blk0 with nt := 1, co := 1 } },
    .mma { mma0 with fmt := .f16, rm := .rn }, .mmas mma0 0 false, .mmv { mma0 with kt := 1 }, .mmv { mma0 with sa := 2 }, .mmv { mma0 with asp := true },
    .mmr { mma0 with sa := 1 } true, .mmr { mma0 with bsp := true } true, .aload { am0 with blk := { blk0 with co := 3, nt := 1 } },
    .astore { am0 with ew := true, blk := { blk0 with co := 1, nt := 1 } }] = true := by decide

/-- R237, R238, R241, R277, R362, R370 to R372, R148: orders, scopes and zero fields. -/
theorem test_ill_memory : ill [.ld (at0 .tile .rel) (.w .i64 (.reg 0)), .st (at0 .clus .none) (.w .i64 (.reg 0)), .vld (at0 .ctx .ar) (.reg 0),
    .vst (at0 .ctx .acq) (.reg 0), .tamo (at0 .die .none) (.reg 0) (.binc (.reg 0)), .vgath (at0 .ctx .acq) (.reg 0) (.reg 0),
    .vscat (at0 .clus .none) (.reg 0) (.reg 0), .cpy { cpy0 with label := 1 }, .cpy2d { cpy0 with sl := 1 }, .cld (at0 .die .none) (.w .i64 (.reg 0)),
    .cst (at0 .clus .acq) (.w .i64 (.reg 0)), .cvld (at0 .pod .none) (.reg 0), .cvst (at0 .tile .ar) (.reg 0),
    .camo (at0 .pkg .none) (.reg 0) (.binc (.reg 0)), .ldg (at0 .pod .rel) (.w .i64 (.reg 0)), .stg (at0 .pod .acq) (.w .i64 (.reg 0)),
    .vldg (at0 .ctx .ar) (.reg 0), .vstg (at0 .ctx .acq) (.reg 0), .otpub 0, .otwait 0 0, .join 0 0, .rstore 0 (at0 .pod .ar) (.reg 0),
    .watch { cc := .eq, ty := .i64, space := .tcm, scope := .clus, dst := none } 0 (.reg 0) (.reg 0), .drawRefill] = true := by decide

def rule0 : Rule := { pri := 0, t0 := none, t1 := none, t2 := none, cond := .always, pw0 := none, pw1 := none, dq := false, ho := false, clr := false, op := .nop }
/-- R25 to R27, R44: effects that a rule may not combine. -/
theorem test_ill_rules : (!Rule.wf { rule0 with dq := true } && !Rule.wf { rule0 with dq := true, cond := .count 2 0, op := .recv (.s (.reg 0)) 2 }
    && !Rule.wf { rule0 with clr := true, cond := .count 2 0 } && !Rule.wf { rule0 with pw1 := some ⟨.rc, 3⟩ }
    && !Rule.wf { rule0 with ho := true, op := .yield } && !Rule.wf { rule0 with op := .otpub 0 } && Rule.wf rule0) = true := by decide

/-! ## Decoding whole slots: the spec's worked slots (chapters 2, 5, 6, 22) -/

/-- R41 to R44 in "Encoding a comparison": cmpi.lt.i32 p3, s7, -5 under p1, which is cleared. -/
theorem test_slot_cmpi : decodeSlot 0x82100000008200001b02c61c1ffffffb#128
    = .ok (some { rule0 with t0 := some ⟨false, 1⟩, pw0 := some ⟨.clear, 1⟩, op := .cmpi .lt (.i .i32) 3 (.reg 7) 0xffffffb#28 }) := by decide
/-- V = 1 with a reserved bit of the guard half set is refused with code 0x01 (R40). -/
theorem test_slot_reserved : decodeSlot 0x84000000000000000000000000000000#128 = .bad 1 := by decide
/-- A reserved major is refused with code 0x02, a reserved minor with 0x03, a reserved specifier with 0x07 (R47, R55, R57). -/
theorem test_refusals : (decodeOp 0x78#64 == .bad 1 && decodeOp 0xe000000000000000#64 == .bad 2 && decodeOp 0x0107000000000000#64 == .bad 3
    && decodeOp 0x0100780000000000#64 == .bad 7 && decodeOp 0x0100000000080000#64 == .bad 4 && decodeOp 0x0100090c480f0000#64 == .bad 4) = true := by decide

/-! ## Fetching -/

/-- A word of the table stands where the machine runs it: the fetched word is the table's. -/
theorem test_table_word : decodeTableWord 128 0xb22dc023018402000100090c48000000 = some (.add (.i .i64) false (.reg 4) (.chan 3) (.reg 9))
    ∧ decodeTableWord 64 0x3a00000000000000 = some .handover := by decide
theorem test_fetch_runs : (match step (State.reset.withFetchWord 64 0x1c00080000000007) with
    | .next t => (t.tile.ctx 0).regs.s[4].bits == 7 && (t.tile.ctx 0).regs.s[4].full
    | _ => false) = true := by decide

/-! ## The spec's examples of R116 -/

def word (r : ARes) : Nat × Nat := (r.w.toNat, r.fl.toNat)
theorem test_add_i8_wraps : word (iAdd (.i .i8) false 0x7f 1) = (0xffffffffffffff80, 0) := by decide
theorem test_add_n8_sat : word (iAdd (.i .n8) true 0xf0 0x20) = (0xff, 32) := by decide
theorem test_div_i32 : word (iDiv (.i .i32) false 0x80000000 0xffffffffffffffff) = (0xffffffff80000000, 0) := by decide
theorem test_rem_i32 : (iRem .i32 (-7) 2).w = -1 := by decide
theorem test_shl_i32 : (iShl .i32 1 33).w = 2 := by decide
theorem test_mulh_n64 : (iMulh .n64 0x8000000000000000 4).w = 2 := by decide

/-! ## Witnesses of the statements about rule operations -/

theorem unp {l : List (Option Word)} (h : l.all Option.isNone = true) : unpoisoned l := by
  intro p hp; exact Option.isNone_iff_eq_none.mp (List.all_eq_true.mp h p hp)
theorem quietR (fl : Fl) : wR.quiet fl := by
  have h : wR.amode.ten = 0#6 := by decide
  unfold State.quiet; rw [h]; exact BitVec.and_zero
def ready (l : List Instr) : Bool := l.all fun i => wR.opReady i
def noP (l : List (Option Word)) : Bool := l.all Option.isNone
/-- Mask 3 of `wR` is zero: no element is active under it. -/
def mz : Msk := .zero 3

theorem wit_IntegerArithmeticCompletes : unpoisoned [(wR.ss (.reg 9)).payload, (wR.ss (.chan 3)).payload] ∧ (∀ fl, wR.quiet fl)
    ∧ ready [.add (.i .i8) true (.reg 4) (.reg 9) (.chan 3), .sub (.fx 63) false (.chan 4) (.reg 9) (.chan 3), .mul (.i .n8) true (.sys .flags) (.reg 9) (.chan 3),
        .mul (.fx 0) true (.reg 4) (.reg 9) (.chan 3), .mulh .n64 (.reg 4) (.reg 9) (.chan 3), .min (.fx 1) (.reg 4) (.reg 9) (.chan 3),
        .max (.i .i64) (.reg 4) (.reg 9) (.chan 3), .div (.i .i8) true (.reg 4) (.reg 9) (.chan 3), .div (.fx 63) true (.reg 4) (.reg 9) (.chan 3),
        .rem .n8 (.reg 4) (.reg 9) (.chan 3)] = true
    ∧ srcVal .i8 (wR.ss (.chan 3)).bits ≠ 0 ∧ srcVal .i64 (wR.ss (.chan 3)).bits ≠ 0 ∧ srcVal .n8 (wR.ss (.chan 3)).bits ≠ 0 :=
  ⟨unp (by decide), quietR, by decide, by decide, by decide, by decide⟩

/-- `wR` with register 9 poisoned, and with every flag enabled to trap. -/
def wP : State := wR.onTile fun t => t.modCtx 0 fun c => { c with regs := { c.regs with s := c.regs.s.set 9 { bits := 0x77, full := true, pois := true } } }
def wT : State := wR.onTile fun t => t.modCtx 0 fun c =>
  { c with regs := { c.regs with amode := 0x3f0, s := c.regs.s.set 9 { bits := 0x7f, full := true, pois := false } } }
theorem wit_PoisonRules : unpoisoned [(wR.ss (.chan 3)).payload, (wR.ss (.reg 9)).payload] ∧ ready [.div (.fx 3) true (.reg 4) (.chan 3) (.reg 9), .rem .i8 (.reg 4) (.chan 3) (.reg 9)] = true
    ∧ ixVal (.fx 3) (wR.ss (.reg 9)).bits = 0 ∧ srcVal .i8 (wR.ss (.reg 9)).bits = 0
    ∧ (wP.ss (.reg 9)).payload = some 0x77#64 ∧ (wP.ss (.chan 3)).payload = none
    ∧ ([.add (.i .i8) true (.reg 4) (.reg 9) (.chan 3), .sel (.reg 4) (.chan 3) (.reg 9) 2, .fcpsgn .f16 (.reg 4) (.chan 3) (.reg 9)].all fun i => wP.opReady i) = true
    ∧ unpoisoned [(wT.ss (.reg 9)).payload, (wT.ss (.chan 3)).payload] ∧ wT.opReady (.add (.i .i8) true (.reg 4) (.reg 9) (.chan 3)) = true
    ∧ (fit (IxTy.base (.i .i8)) true (ixVal (.i .i8) (wT.ss (.reg 9)).bits + ixVal (.i .i8) (wT.ss (.chan 3)).bits)).fl = 32#6 ∧ wT.amode.ten.getLsbD 5 = true :=
  ⟨unp (by decide), by decide, by decide, by decide, by decide, by decide, by decide, unp (by decide), by decide, by decide, by decide⟩

theorem wit_LogicAndShiftCompletes : unpoisoned [(wR.ss (.chan 3)).payload, (wR.ss (.reg 9)).payload]
    ∧ ready [.and .i8 (.reg 4) (.chan 3) (.reg 9), .or .n64 (.reg 4) (.chan 3) (.reg 9), .xor .i16 (.chan 4) (.chan 3) (.reg 9), .andn .n32 (.reg 4) (.chan 3) (.reg 9),
        .shl .i8 (.reg 4) (.chan 3) (.reg 9), .shr .n8 (.reg 4) (.chan 3) (.reg 9), .sra .i64 (.reg 4) (.chan 3) (.reg 9), .rol .n16 (.reg 4) (.chan 3) (.reg 9),
        .ror .i32 (.reg 4) (.chan 3) (.reg 9)] = true := ⟨unp (by decide), by decide⟩
theorem wit_BitCountsAndFieldsComplete : unpoisoned [(wR.ss (.chan 3)).payload, (wR.ss (.reg 9)).payload, (wR.ss (.chan 7)).payload]
    ∧ ready [.clz .i8 (.reg 4) (.chan 3), .ctz .n64 (.reg 4) (.chan 3), .popc .i16 (.reg 4) (.chan 3), .bext false (.reg 4) (.chan 3) (.reg 9) (.chan 7),
        .bext true (.reg 4) (.chan 3) (.reg 9) (.chan 7), .bins 4 (.chan 3) (.reg 9) (.chan 7)] = true ∧ (wR.fctx.s 4).payload = none
    ∧ 0 < min ((wR.ss (.chan 7)).bits.toNat % 128) (64 - (wR.ss (.reg 9)).bits.toNat % 64)
    ∧ min ((wR.ss (.reg 9)).bits.toNat % 128) (64 - (wR.ss (.chan 3)).bits.toNat % 64) = 0 :=
  ⟨unp (by decide), by decide, by decide, by decide, by decide⟩
theorem wit_SelectAndCompareComplete : unpoisoned [(wR.ss (.chan 3)).payload, (wR.ss (.reg 9)).payload]
    ∧ ready [.sel (.reg 4) (.chan 3) (.reg 9) 11, .cmp .lt (.fx 0) 2 (.chan 3) (.reg 9)] = true := ⟨unp (by decide), by decide⟩
theorem wit_ImmediateAndMoveCompletes : unpoisoned [(wR.ss (.chan 3)).payload, (wR.ss (.reg 9)).payload] ∧ (wR.fctx.s 4).payload = none
    ∧ ready [.addi (.reg 4) (.chan 3) 0xffffffff#32, .andi (.reg 4) (.chan 3) 1, .ori (.reg 4) (.chan 3) 1, .xori (.reg 4) (.chan 3) 1, .shli (.reg 4) (.chan 3) 63,
        .shri (.reg 4) (.chan 3) 0, .srai (.reg 4) (.chan 3) 1, .roli (.reg 4) (.chan 3) 1, .cmpi .ge .fx 2 (.chan 3) 0x8000000#28, .li (.reg 4) 1, .lih 4 1,
        .lea (.reg 4) (.chan 3) (.reg 9) 7, .sext .w8 (.reg 4) (.chan 3), .zext .w32 (.reg 4) (.chan 3), .mov (.sys .amode) (.sys .cycle)] = true :=
  ⟨unp (by decide), by decide, by decide⟩
theorem wit_PredicateLogicCompletes : ready [.pand 2 3 4, .por 0 0 0, .pxor 15 2 3, .pandn 2 3 4, .pnot 2 2, .pmov 1 0] = true := by decide
theorem wit_FloatArithmeticCompletes : unpoisoned [(wR.ss (.chan 3)).payload, (wR.ss (.reg 9)).payload, (wR.ss (.reg 2)).payload] ∧ (∀ fl, wR.quiet fl)
    ∧ ready [.fadd .f64 .rn (.reg 4) (.chan 3) (.reg 9), .fsub .f32 .rz (.reg 4) (.chan 3) (.reg 9), .fmul .f16 .ru (.reg 4) (.chan 3) (.reg 9),
        .fdiv .bf16 .dyn (.reg 4) (.chan 3) (.reg 9), .fsqrt .f32 .rs (.reg 4) (.chan 3), .ffma .fma .f64 .rn (.reg 4) (.chan 3) (.reg 9) (.reg 2),
        .ffma .fms .f32 .rn (.reg 4) (.chan 3) (.reg 9) (.reg 2), .ffma .fnma .f64 .rn (.reg 4) (.chan 3) (.reg 9) (.reg 2),
        .ffma .fnms .f64 .rn (.reg 4) (.chan 3) (.reg 9) (.reg 2)] = true := ⟨unp (by decide), quietR, by decide⟩
theorem wit_FloatCompareAndFlagsComplete : unpoisoned [(wR.ss (.chan 3)).payload, (wR.ss (.reg 9)).payload] ∧ unpoisoned [(wR.ss (.chan 3)).payload] ∧ (∀ fl, wR.quiet fl)
    ∧ ready [.fmin .f32 (.reg 4) (.chan 3) (.reg 9), .fmax .f16 (.reg 4) (.chan 3) (.reg 9), .fneg .f64 (.reg 4) (.chan 3), .fabs .bf16 (.reg 4) (.chan 3),
        .fcpsgn .f32 (.reg 4) (.chan 3) (.reg 9), .fcmp .un .f64 2 (.chan 3) (.reg 9), .fclass .e4m3 (.reg 4) (.chan 3), .fflag (.reg 4) (.chan 3),
        .fflagClr (.reg 4) (.chan 3)] = true := ⟨unp (by decide), unp (by decide), quietR, by decide⟩
theorem wit_ConversionCompletes : unpoisoned [(wR.ss (.chan 3)).payload] ∧ (∀ fl, wR.quiet fl)
    ∧ ready [.fcvt .e4m3 (.f .f32) .rn (.reg 4) (.chan 3), .icvtf (.f .bf16) .n64 .rz (.reg 4) (.chan 3), .fcvti .i8 .e5m2 (.reg 4) (.chan 3),
        .fxcvt (.ofFp 0 .f16) (.reg 4) (.chan 3), .fxcvt (.ofInt 63 .i8 true) (.reg 4) (.chan 3), .fxcvt (.toFp .f32 1 .dyn) (.reg 4) (.chan 3),
        .fxcvt (.toInt .n8 63 true) (.reg 4) (.chan 3)] = true := ⟨unp (by decide), quietR, by decide⟩

/-! ### Vectors -/

def vps (m : Msk) (d : VDst) : List (Option Word) := [(wR.vs (.reg 7)).payload, (wR.vs (.reg 5)).payload, (wR.vs (.reg 6)).payload, (wR.ss (.reg 9)).payload,
  wR.mskPl m, wR.oldVPl m d]
theorem unpSub {l k : List (Option Word)} (h : unpoisoned l) (g : ∀ p ∈ k, p ∈ l) : unpoisoned k := fun p hp => h p (g p hp)
theorem vunp : unpoisoned (vps mz (.reg 4)) ∧ unpoisoned (vps .all (.chan 1)) ∧ unpoisoned (vps (.keep 2) (.reg 4)) :=
  ⟨unp (by decide), unp (by decide), unp (by decide)⟩

theorem wit_VectorIntegerLanes : unpoisoned [(wR.vs (.reg 7)).payload, (wR.vs (.reg 5)).payload, wR.mskPl .all, wR.oldVPl .all (.chan 1)] ∧ (∀ fl, wR.quiet fl)
    ∧ ready [.vadd (.int .i8 true) .all (.chan 1) (.reg 7) (.reg 5), .vsub (.int .n64 false) .all (.chan 1) (.reg 7) (.reg 5),
        .vmul (.int .i16 true) .all (.chan 1) (.reg 7) (.reg 5), .vmin (.int .n8) .all (.chan 1) (.reg 7) (.reg 5), .vmax (.int .i32) .all (.chan 1) (.reg 7) (.reg 5),
        .vand .i8 .all (.chan 1) (.reg 7) (.reg 5), .vor .i8 .all (.chan 1) (.reg 7) (.reg 5), .vxor .i8 .all (.chan 1) (.reg 7) (.reg 5),
        .vshl .i8 .all (.chan 1) (.reg 7) (.reg 5), .vshr .i8 .all (.chan 1) (.reg 7) (.reg 5), .vsra .i8 .all (.chan 1) (.reg 7) (.reg 5)] = true :=
  ⟨unpSub vunp.2.1 (by simp [vps]), quietR, by decide⟩

def zero64 : List Bool := List.replicate 64 false
theorem mz_off : wR.act mz 64 = zero64 ∧ wR.act mz 32 = List.replicate 32 false := by decide
theorem wit_VectorArithmeticCompletes : unpoisoned (vps mz (.reg 4)) ∧ (∀ fl, wR.quiet fl)
    ∧ (emap (VArith.divOp (.int .n64 false)) (VArith.isZ (.int .n64 false)) (wR.fenv (VArith.rm (.int .n64 false))) (wR.act mz 32) (wR.oldV mz (.reg 4) 64)
        (wR.el 64 (.reg 7)) (wR.el 64 (.reg 5)) (zerosOf 64)).div0 = false
    ∧ (emap (VArith.addOp (.fx 9 true)) (VArith.isZ (.fx 9 true)) (wR.fenv (VArith.rm (.fx 9 true))) (wR.act mz 32) (wR.oldV mz (.reg 4) 64)
        (wR.el 64 (.reg 7)) (List.replicate 32 (wR.ss (.reg 9)).bits) (zerosOf 64)).div0 = false
    ∧ (emap (VPlain.minOp (.fp .f64)) (VPlain.isZ (.fp .f64)) (wR.fenv .rn) (wR.act mz 32) (wR.oldV mz (.reg 4) 64) (wR.el 64 (.reg 7)) (wR.el 64 (.reg 5))
        (zerosOf 64)).div0 = false
    ∧ (emap (VSgn.absOp (.fp .f64)) (VSgn.isZ (.fp .f64)) (wR.fenv .rn) (wR.act mz 32) (wR.oldV mz (.reg 4) 64) (wR.el 64 (.reg 7)) (zerosOf 64)
        (zerosOf 64)).div0 = false
    ∧ (emap (fun v x y z => (fFma .fma .f64 v x y z).toE) (zeroF (fmtOf .f64)) (wR.fenv .rn) (wR.act mz 32) (wR.oldV mz (.reg 4) 64) (wR.el 64 (.reg 7))
        (wR.el 64 (.reg 5)) (wR.el 64 (.reg 6))).div0 = false
    ∧ ready [.vadd (.fx 9 true) mz (.reg 4) (.reg 7) (.reg 5), .vsub (.fx 9 true) mz (.reg 4) (.reg 7) (.reg 5), .vmul (.fp .f16 .rs) mz (.reg 4) (.reg 7) (.reg 5),
        .vdiv (.int .n64 false) mz (.reg 4) (.reg 7) (.reg 5), .vadds (.fx 9 true) mz (.reg 4) (.reg 7) (.reg 9), .vsubs (.fx 9 true) mz (.reg 4) (.reg 7) (.reg 9),
        .vmin (.fp .f64) mz (.reg 4) (.reg 7) (.reg 5), .vmax (.fp .f64) mz (.reg 4) (.reg 7) (.reg 5), .vabs (.fp .f64) mz (.reg 4) (.reg 7),
        .vneg (.fp .f64) mz (.reg 4) (.reg 7), .vfma .fma .f64 .rn mz (.reg 4) (.reg 7) (.reg 5) (.reg 6)] = true :=
  ⟨vunp.1, quietR, by decide, by decide, by decide, by decide, by decide, by decide⟩

theorem wit_VectorMoveLanes : unpoisoned [(wR.vs (.reg 7)).payload, (wR.vs (.reg 5)).payload, (wR.ss (.reg 9)).payload, wR.mskPl (.keep 2), wR.oldVPl (.keep 2) (.reg 4)]
    ∧ ready [.vmov (.f .e4m3) (.keep 2) (.reg 4) (.reg 7), .vbcast (.i .i64) (.keep 2) (.reg 4) (.reg 9), .viota .n16 (.keep 2) (.reg 4) (.reg 9),
        .vperm (.i .n8) (.keep 2) (.reg 4) (.reg 7) (.reg 5), .vrot (.f (.f .f32)) (.keep 2) (.reg 4) (.reg 7) (.reg 9)] = true :=
  ⟨unpSub vunp.2.2 (by simp [vps]), by decide⟩
theorem wit_VectorSelectAndPackCompletes : unpoisoned [(wR.vs (.reg 7)).payload, (wR.vs (.reg 5)).payload, (wR.ks (.reg 1)).payload, (wR.ss (.reg 9)).payload,
      (wR.ss (.reg 8)).payload, (wR.fctx.v 4).payload, wR.mskPl mz, wR.oldVPl mz (.reg 4)] ∧ (∀ fl, wR.quiet fl)
    ∧ (emap (fun v x _ _ => (fit (HTy.narrow { signed := true, lv := 2 }) true (srcVal (HTy.wide { signed := true, lv := 2 }) x)).toE v) (zeroW 32) (wR.fenv .rn) (wR.act mz 64)
        (wR.oldV mz (.reg 4) 32) (wR.el 64 (.reg 7) ++ wR.el 64 (.reg 5)) (zerosOf 32) (zerosOf 32)).div0 = false
    ∧ ready [.vsel (.i .i8) (.reg 4) (.reg 7) (.reg 5) (.reg 1), .vcompress (.i .i8) (.reg 4) (.reg 7) (.reg 1), .vexpand (.f .e5m2) (.reg 4) (.reg 7) (.reg 1),
        .vext (.i .i8) (.reg 4) (.reg 7) (.reg 9), .vins (.i .n64) 4 (.reg 8) (.reg 9), .vpack { signed := true, lv := 2 } true mz (.reg 4) (.reg 7) (.reg 5),
        .vunpk { signed := false, lv := 0 } mz (.reg 4) (.reg 7) (.reg 9)] = true := ⟨unp (by decide), quietR, by decide, by decide⟩
theorem wit_VectorCompareCompletes : unpoisoned [(wR.vs (.reg 7)).payload, (wR.vs (.reg 5)).payload, (wR.ss (.reg 9)).payload, wR.mskPl (.keep 2), wR.oldKPl (.keep 2) (.reg 1),
      (wR.ks (.chan 1)).payload, (wR.ks (.reg 2)).payload] ∧ (∀ fl, wR.quiet fl)
    ∧ ready [.vcmp (.fp .f32 .un) (.keep 2) (.reg 1) (.reg 7) (.reg 5), .vclass .e4m3 (.keep 2) (.reg 1) (.reg 7) (.reg 9), .kand (.reg 3) (.chan 1) (.reg 2),
        .kor (.chan 3) (.chan 1) (.reg 2), .kxor (.reg 3) (.chan 1) (.reg 2), .kandn (.reg 3) (.chan 1) (.reg 2), .knot (.reg 3) (.chan 1), .kmov (.reg 3) (.chan 1),
        .kpop (.reg 4) (.chan 1), .kfind (.reg 4) (.chan 1)] = true := ⟨unp (by decide), quietR, by decide⟩
theorem wit_ReductionCompletes : unpoisoned [(wR.vs (.reg 7)).payload, (wR.ss (.reg 9)).payload, wR.mskPl mz] ∧ unpoisoned [(wR.vs (.reg 5)).payload]
    ∧ unpoisoned [wR.oldVPl mz (.reg 4)] ∧ (∀ fl, wR.quiet fl)
    ∧ (redGo (fun v x y => VPlain.minOp (.fp .f32) v x y 0#64) (wR.fenv .rn) (wR.act mz 64) (wR.el 32 (.reg 7)) (VPlain.init (.fp .f32) (wR.ss (.reg 9)).bits)).div0 = false
    ∧ (scanGo (VArith.addOp (.fp .f64 .rz)) (VArith.isZ (.fp .f64 .rz)) (wR.fenv .rz) (wR.act mz 32) (wR.oldV mz (.reg 4) 64) (wR.el 64 (.reg 7)) (wR.ss (.reg 9)).bits).div0
        = false
    ∧ ready [.vredsum (.int .i8 true) mz (.reg 4) (.reg 7) (.reg 9), .vredsum (.fx 63 true) mz (.reg 4) (.reg 7) (.reg 9), .vredsum (.fp .bf16 .rn) mz (.reg 4) (.reg 7) (.reg 9),
        .vdot (.int .n64 false) mz (.reg 4) (.reg 7) (.reg 5) (.reg 9), .vdot (.fp .f16 .rn) mz (.reg 4) (.reg 7) (.reg 5) (.reg 9),
        .vredmin (.fp .f32) mz (.reg 4) (.reg 7) (.reg 9), .vredmax (.fp .f32) mz (.reg 4) (.reg 7) (.reg 9), .vredand .i8 mz (.reg 4) (.reg 7) (.reg 9),
        .vredor .i8 mz (.reg 4) (.reg 7) (.reg 9), .vredxor .i8 mz (.reg 4) (.reg 7) (.reg 9), .vscan (.fp .f64 .rz) mz (.reg 4) (.reg 7) (.reg 9)] = true :=
  ⟨unp (by decide), unp (by decide), unp (by decide), quietR, by decide, by decide, by decide⟩
theorem wit_VectorConversionCompletes : unpoisoned [(wR.vs (.reg 7)).payload, wR.mskPl mz, wR.oldVPl mz (.reg 4), (wR.ss (.reg 9)).payload] ∧ (∀ fl, wR.quiet fl)
    ∧ (let c : VCvt := .itof (.f .f32) .i8 .rn
       emap (VCvt.elem c) (VCvt.isZ c) (wR.fenv (VCvt.rm c)) (wR.act mz 64) ((wR.oldV mz (.reg 4) 32).take 64) ((wR.el 8 (.reg 7)).drop 0) (List.replicate 64 0#64)
        (List.replicate 64 0#64)).div0 = false
    ∧ (roundAll fmt32 (wR.fenv .rn) []).div0 = false
    ∧ ready [.vcvt (.itof (.f .f32) .i8 .rn) mz (.reg 4) (.reg 7) (.reg 9), .vmxq .fp4 .f32 .rn (.reg 4) (.reg 7) 7, .vmxd .fp6 .bf16 .rn (.reg 4) (.reg 7) (.reg 9)] = true :=
  ⟨unp (by decide), quietR, by decide, by decide, by decide⟩
theorem wit_SpecialFunctionCompletes : unpoisoned [(wR.vs (.reg 7)).payload, wR.mskPl mz, wR.oldVPl mz (.reg 2), wR.oldVPl mz (.reg 3)] ∧ (∀ fl, wR.quiet fl)
    ∧ (emap (fun v x _ _ => ⟨BitVec.ofNat 64 (sfEval .exp2 v.fz x.toNat).bits, (sfEval .exp2 v.fz x.toNat).fl, v.srng, false⟩) (zeroF fmt32) (wR.fenv .rn) (wR.act mz 64)
        (wR.oldV mz (.reg 2) 32) (wR.el 32 (.reg 7)) (zerosOf 32) (zerosOf 32)).div0 = false
    ∧ ready [.sfrcp mz (.reg 2) (.reg 7), .sfrsqrt mz (.reg 2) (.reg 7), .sfsqrt mz (.reg 2) (.reg 7), .sfexp2 mz (.reg 2) (.reg 7), .sflog2 mz (.reg 2) (.reg 7),
        .sfsinpi mz (.reg 2) (.reg 7), .sfcospi mz (.reg 2) (.reg 7), .sfsincospi mz 1 (.reg 7)] = true := ⟨unp (by decide), quietR, by decide, by decide⟩

/-! ### Channels and control -/

theorem wit_ReceiveCompletes : wR.fctx.inb[(2 : Chan)] = [ent] ++ [ent, ent, ent] ∧ wR.fctx.inb[(2 : Chan)] = [ent, ent, ent, ent] ++ [] ∧ (∀ y ∈ four, y.p = false)
    ∧ ready [.recv (.s (.reg 6)) 2, .recv (.s (.sys .srng)) 2, .recv (.pair (.pair 3)) 2, .recv (.pair (.chan 1)) 2, .recv (.k (.reg 1)) 2, .recv (.v (.reg 1)) 2,
        .peek (.v (.chan 0)) 2, .peek (.s (.chan 3)) 2, .tryrecv (.k (.chan 2)) 2 6, .trypeek (.v (.reg 1)) 2 6] = true
    ∧ (State.reset.fctx.inb[(2 : Chan)]).length < XDst.n (.s (.reg 6)) ∧ State.reset.opReady (.tryrecv (.s (.reg 6)) 2 6) = true
    ∧ State.reset.opReady (.trypeek (.v (.reg 6)) 2 6) = true := ⟨rfl, rfl, by decide, by decide, by decide, by decide, by decide⟩
theorem wit_SendCompletes : unpoisoned [(wR.ss (.chan 3)).payload, none] ∧ unpoisoned [(wR.ps (.pair 4)).payload, (wR.ss (.reg 5)).payload]
    ∧ unpoisoned [(wR.ks (.reg 4)).payload, none] ∧ unpoisoned [(wR.vs (.reg 4)).payload, none]
    ∧ ready [.send 3 (.s (.chan 3)) (.imm 0xff#8), .send 3 (.pair (.pair 4)) (.reg (.reg 5)), .trysend 0 (.k (.reg 4)) (.imm 0) 9, .trysend 15 (.v (.reg 4)) (.imm 0) 9] = true :=
  ⟨unp (by decide), unp (by decide), unp (by decide), unp (by decide), by decide⟩
theorem wit_ChannelStateCompletes : wR.fctx.inb[(2 : Chan)] = ent :: [ent, ent, ent] ∧ wR.fire.clr = none
    ∧ ready [.tagh (.reg 4) 2, .chcount (.reg 4) 2, .chfree (.reg 4) 2, .chreset 2, .pset (.s 31), .pclr (.k 7)] = true := ⟨rfl, rfl, by decide⟩
theorem noTask : wR.tile.taskOf wR.fctx = none := by decide
/-- `wR` with handover disabled. -/
def wH : State := wR.onTile fun t => t.modCtx 0 fun c => { c with cfg := { c.cfg with hen := false } }
theorem wit_ControlCompletes : wR.fctx.ctl.ending = .none ∧ (∀ k, wR.tile.taskOf wR.fctx = some k → k.debug = false)
    ∧ ready [.nop, .done 0, .yield, .sleep 0, .sleep 0xffff#16, .trap (.reg 9) 1, .bkpt 0, .handover, .unwatch 11] = true
    ∧ (wR.fctx.cfg.hen && wR.fctx.succ != wR.fire.ctx && !wR.fctx.carryClash (wR.tile.ctx wR.fctx.succ)) = true
    ∧ wH.opReady .handover = true ∧ wH.fctx.ctl.ending = .none
    ∧ (wH.fctx.cfg.hen && wH.fctx.succ != wH.fire.ctx && !wH.fctx.carryClash (wH.tile.ctx wH.fctx.succ)) = false := by
  refine ⟨rfl, ?_, by decide, by decide, by decide, rfl, by decide⟩
  intro k h; rw [noTask] at h; exact absurd h (by simp)
def wf (sp : WSpace) : WatchF := { cc := .ge, ty := .i64, space := sp, scope := .tile, dst := some 3 }
theorem wit_watch : unpoisoned [(wR.ss (.reg 9)).payload, (wR.ss (.chan 3)).payload] ∧ unpoisoned [(wR.ss (.chan 3)).payload, (wR.ss (.reg 9)).payload]
    ∧ ready [.watch (wf .tcm) 11 (.reg 9) (.chan 3), .watch (wf .csp) 11 (.chan 3) (.reg 9), .watch (wf .glb) 11 (.reg 9) (.chan 3)] = true
    ∧ wR.watchOk (wf .tcm) (wR.ss (.reg 9)).bits = true ∧ wR.watchOk (wf .csp) (wR.ss (.chan 3)).bits = false ∧ wR.watchOk (wf .glb) (wR.ss (.reg 9)).bits = false :=
  ⟨unp (by decide), unp (by decide), by decide, by decide, by decide, by decide⟩

/-! ### Memory -/

def atO (off : BitVec 22) : MAddr := { base := 0, off := off, scope := .ctx, ord := .none }
/-- The last word of the TCM allocation, and the last word of the CSP window. -/
theorem wit_LocalAccessCompletes : unpoisoned [wR.basePl (atO 4088)] ∧ unpoisoned [(wR.stVal (.w .i64 (.reg 9))).2, (wR.stVal (.p (.pair 3))).2, (wR.vs (.reg 4)).payload,
      (wR.ss (.reg 9)).payload, (wR.ps (.pair 3)).payload]
    ∧ wR.maddr (atO 4088) % 8 = 0 ∧ 0 ≤ wR.maddr (atO 4088) ∧ wR.maddr (atO 4088) + 8 ≤ wR.fctx.tlen.toNat
    ∧ wR.cspOk wR.cur wR.fire.ctx (wR.maddr (atO 65528)) 8 = true ∧ wR.maddr (atO 65528) % 8 = 0
    ∧ wR.maddr (atO 0) % 16 = 0 ∧ wR.maddr (atO 0) + 256 ≤ wR.fctx.tlen.toNat ∧ wR.cspOk wR.cur wR.fire.ctx (wR.maddr (atO 0)) 256 = true
    ∧ ready [.ld (atO 4088) (.w .i64 (.reg 4)), .ld (atO 0) (.p (.pair 4)), .st (atO 4088) (.w .i64 (.reg 9)), .st (atO 0) (.p (.pair 3)), .vld (atO 0) (.reg 4),
        .vst (atO 0) (.reg 4), .cld (atO 65528) (.w .i64 (.chan 4)), .cst (atO 65528) (.w .i64 (.reg 9)), .cvld (atO 0) (.reg 4), .cvst (atO 0) (.reg 4),
        .tamo (atO 4088) (.reg 4) (.rmw .max (.reg 9)), .tamo (atO 4088) (.reg 4) (.binc (.reg 9)), .tamo (atO 4088) (.reg 4) (.cas (.pair 3)),
        .camo (atO 65528) (.reg 4) (.rmw .max (.reg 9)), .camo (atO 65528) (.reg 4) (.binc (.reg 9)), .camo (atO 65528) (.reg 4) (.cas (.pair 3))] = true :=
  ⟨unp (by decide), unp (by decide), by decide, by decide, by decide, by decide, by decide, by decide, by decide, by decide, by decide⟩
theorem wit_gather : unpoisoned [wR.basePl (atO 4092), (wR.vs (.reg 4)).payload] ∧ unpoisoned [(wR.vs (.reg 5)).payload]
    ∧ ((List.range 64).all fun k => decide ((wR.maddr (atO 4092) + (wR.lane 32 (.reg 4) k).toNat) % 4 = 0 ∧ 0 ≤ wR.maddr (atO 4092) + (wR.lane 32 (.reg 4) k).toNat
        ∧ wR.maddr (atO 4092) + (wR.lane 32 (.reg 4) k).toNat + 4 ≤ wR.fctx.tlen.toNat)) = true
    ∧ ready [.vgath (atO 4092) (.reg 6) (.reg 4), .vscat (atO 4092) (.reg 4) (.reg 5)] = true := ⟨unp (by decide), unp (by decide), by decide, by decide⟩
theorem wit_IllegalAccessesTrap : unpoisoned [wR.basePl (atO 1), (wR.ss (.reg 9)).payload] ∧ wR.maddr (atO 1) % 8 ≠ 0
    ∧ wR.maddr (atO 4096) % 8 = 0 ∧ ¬(0 ≤ wR.maddr (atO 4096) ∧ wR.maddr (atO 4096) + 8 ≤ wR.fctx.tlen.toNat)
    ∧ unpoisoned [wP.basePl (atO 0)] ∧ (wP.ss (.reg 9)).payload = some 0x77#64 ∧ wP.opReady (.st (atO 0) (.w .i64 (.reg 9))) = true
    ∧ wP.basePl { atO 0 with base := 9 } = some 0x77#64 ∧ wP.opReady (.ld { atO 0 with base := 9 } (.w .i64 (.reg 4))) = true
    ∧ wR.maddr (atO 0x3ffff8#22) < 0
    ∧ ready [.st (atO 1) (.w .i64 (.reg 9)), .st (atO 4096) (.w .i64 (.reg 9)), .ld (atO 1) (.w .i64 (.reg 9)), .ldg (atO 1) (.w .i64 (.reg 4)),
        .ldg (atO 0x3ffff8#22) (.w .i64 (.reg 4))] = true :=
  ⟨unp (by decide), by decide, by decide, by decide, unp (by decide), by decide, by decide, by decide, by decide, by decide, by decide⟩
def strmDesc : BitVec 256 := 0x10001000100000000000000000000000000000000#256
/-- Stream 0 configured: one i64 element of TCM, to inbound channel 0. -/
def wS : State := { wR with tile := { tileR with strm := tileR.strm.set 0 { Strm.zero with st := .conf, desc := strmDesc } } }
theorem wit_StreamAndCopyComplete : unpoisoned [(wR.ps (.pair 4)).payload, (wR.ps (.pair 15)).payload] ∧ (wR.tile.strm[wR.fctx.strmOf 5]).st ≠ .run
    ∧ (wS.tile.strm[wS.fctx.strmOf 0]).st = .conf ∧ (wS.tile.strm[wS.fctx.strmOf 0]).legal = true ∧ wS.tile.chanFor wS.fire.ctx wS.tile.strm[wS.fctx.strmOf 0] = true
    ∧ wS.opReady (.gstart 0) = true
    ∧ ¬((wR.tile.strm[wR.fctx.strmOf 0]).st = .conf ∧ (wR.tile.strm[wR.fctx.strmOf 0]).legal = true ∧ wR.tile.chanFor wR.fire.ctx wR.tile.strm[wR.fctx.strmOf 0] = true)
    ∧ unpoisoned [(wR.fctx.s cpy0.sd).payload, (wR.fctx.s cpy0.ss).payload, (wR.fctx.s cpy0.sl).payload, (wR.fctx.s (Fin.ofNat 32 (cpy0.sl.val + 1))).payload]
    ∧ (wR.fctx.s cpy0.sl).bits.toNat < 2 ^ 32 ∧ (wR.fctx.s cpy0.sl).bits.toNat / 2 ^ 32 < 2 ^ 16
    ∧ ready [.gcfg 5 4 15, .gstart 0, .gstop (.reg 4) 7, .gbar 6 0xff#8 true, .gbar 6 0 false, .cpy cpy0, .cpy2d cpy0, .drainTcm 3, .drainCsp 3, .drainGlb 3] = true :=
  ⟨unp (by decide), by decide, by decide, by decide, by decide, by decide, by decide, unp (by decide), by decide, by decide, by decide⟩

/-! ### Matrix unit, cluster, global memory and requests -/

def mmi (i : MmFmt) (b : Bool) : MmaF := { mma0 with fmt := i, bsp := b }
theorem wit_MatrixOperationFires : unpoisoned [(wR.fctx.s 0).payload, (wR.fctx.s 1).payload]
    ∧ wR.fctx.tcmOk (wR.fctx.s 0).bits.toNat mma0.bytesA = true ∧ wR.fctx.tcmOk (wR.fctx.s 0).bits.toNat (mma0.bytesB mma0.k) = true
    ∧ wR.cspOk wR.cur wR.fire.ctx (wR.fctx.s 0).bits.toNat ((mmi .f16 true).bytesB (MmFmt.kv .f16)) = true
    ∧ wR.fctx.tcmOk (wR.fctx.s 0).bits.toNat (mmi .i8 false).bytesSp = true ∧ wR.fctx.tcmOk (wR.fctx.s 0).bits.toNat ((mmi .i8 false).bytesB (mmi .i8 false).k) = true
    ∧ wR.fctx.tcmOk (wR.fctx.s 0).bits.toNat (mmi .i8 false).bytesMeta = true ∧ wR.fctx.tcmOk (wR.fctx.s 0).bits.toNat am0.bytes = true
    ∧ (wR.tile.accN (wR.fctx.accOf am0.blk.acc)).pois = false
    ∧ ready [.mma mma0, .mmas (mmi .i8 false) 0 false, .mmv (mmi .f16 true), .aload am0, .astore am0, .mmr mma0 true] = true :=
  ⟨unp (by decide), by decide, by decide, by decide, by decide, by decide, by decide, by decide, by decide, by decide⟩
theorem wit_AccumulatorCompletes : (wR.tile.acc[wR.fctx.accOf 3]).pois = false ∧ (wR.tile.acc[wR.fctx.accOf 1]).pois = false
    ∧ unpoisoned [(wR.vs (.reg 4)).payload, (wR.ss (.reg 9)).payload] ∧ (∀ fl, wR.quiet fl)
    ∧ (emap (ACvt.elem (.itof (.f .f16) .rn)) (ACvt.isZ (.itof (.f .f16) .rn)) (wR.menv .rn) (List.replicate 64 true) (List.replicate 64 0#64)
        (splitV 32 (wR.tile.acc[wR.fctx.accOf 3].row 0)) (List.replicate 64 0#64) (List.replicate 64 0#64)).div0 = false
    ∧ ready [.azero 3, .aget .n64 (.reg 4) 3 (.reg 9), .aput .f32 none 3 (.reg 4) (.reg 9), .atrans 3 1, .aadd (.i32 true) 3 (.reg 4) (.reg 9), .ascale (.f32 .rn) 3 (.reg 9),
        .acvt (.itof (.f .f16) .rn) (.reg 4) 3 (.reg 9)] = true := ⟨by decide, by decide, unp (by decide), quietR, by decide, by decide⟩
theorem wit_BufferOperationFires : unpoisoned [(wR.vs (.reg 9)).payload] ∧ unpoisoned [(wR.ss (.reg 9)).payload] ∧ wR.bufOk (wR.fclus.bufd (wR.bufOf 6)) true = true
    ∧ wR.bufOk (wR.fclus.bufd (wR.bufOf 6)) false = true ∧ wR.fctx.tcmOk (wR.ss (.reg 9)).bits.toNat (bufLen (wR.fclus.bufd (wR.bufOf 6))) = true
    ∧ wR.spBad wR.cur .tcm (wR.fctx.tcmPa (wR.ss (.reg 9)).bits.toNat) (bufLen (wR.fclus.bufd (wR.bufOf 6))) = false
    ∧ ready [.bput 1 6 (.vec (.reg 9)), .bput 1 6 (.tcm (.reg 9)), .trybput 1 6 (.vec (.reg 9)) 2, .trybput 1 6 (.tcm (.reg 9)) 2, .bget (.vec (.reg 4)) 6,
        .bget (.tcm 1 (.reg 9)) 6, .trybget (.vec (.chan 1)) 6 2, .trybget (.tcm 1 (.reg 9)) 6 2, .bwait 1 6 true, .cbar 3] = true :=
  ⟨unp (by decide), unp (by decide), by decide, by decide, by decide, by decide, by decide⟩
theorem wit_NeighbourLinkCompletes : unpoisoned [(wR.ss (.reg 9)).payload] ∧ wR.tile.nq[(2 : Fin 4)] = ent :: [ent, ent, ent] ∧ ent.p = false
    ∧ State.reset.tile.nq[(2 : Fin 4)] = [] ∧ State.reset.opReady (.trynrecv (.v (.reg 1)) 2 3) = true
    ∧ ready [.nsend 3 (.s (.reg 9)) (.imm 7), .trynsend 3 (.s (.reg 9)) (.imm 7) 2, .nrecv (.s (.reg 4)) 2, .trynrecv (.s (.reg 4)) 2 3] = true :=
  ⟨unp (by decide), rfl, rfl, rfl, by decide, by decide⟩
theorem wit_GlobalAccessFires : unpoisoned [wR.basePl (atO 0)] ∧ unpoisoned [(wR.stVal (.w .n8 (.reg 9))).2, (wR.vs (.reg 4)).payload, (wR.ss (.reg 9)).payload, (wR.ps (.pair 3)).payload]
    ∧ 0 ≤ wR.maddr (atO 0) ∧ wR.maddr (atO 0) < 2 ^ 48 ∧ wR.maddr (atO 0) % 16 = 0 ∧ wR.maddr (atO 0) % 8 = 0
    ∧ ready [.ldg (atO 0) (.p (.pair 3)), .stg (atO 0) (.w .n8 (.reg 9)), .vldg (atO 0) (.reg 4), .vstg (atO 0) (.reg 4), .amo (atO 0) .swap (.reg 4) (.reg 9),
        .cas (atO 0) (.reg 4) (.pair 3), .aincBound (atO 0) (.reg 4) (.reg 9)] = true :=
  ⟨unp (by decide), unp (by decide), by decide, by decide, by decide, by decide, by decide⟩
def tref : TRef := { die := 0, idx := 5, member := 0, copy := 0 }
def theTask : TTask := { ref := tref, bleft := 100, debug := false, priv := false, gang := 1, otok := [(15, 1)], pend := [(15, 1)], mmr := 0 }
/-- `wR` with a task whose token 15 has one publication under way. -/
def wK : State := { wR with tile := { (tileR.modCtx 0 fun c => { c with task := some tref }) with
  tasks := [theTask] } }
theorem wit_OrderingCompletes : ready [.fence .ctx, .fence .pod, .otpub 15, .otpubCirc 0 7, .otwait 2 1, .join 2 0xff#8, .pfg 11 0 (.reg 9)] = true
    ∧ (∀ t, wR.tile.taskOf wR.fctx = some t → t.met 1 (wR.tile.tokFired wR.fctx 1) = true)
    ∧ (wK.opReady (.otwait 2 15) = true ∧ ∃ t, wK.tile.taskOf wK.fctx = some t ∧ t.met 15 (wK.tile.tokFired wK.fctx 15) = false)
    ∧ unpoisoned [(wR.fctx.s 11).payload, (wR.ss (.reg 9)).payload] :=
  ⟨by decide, fun t h => by rw [noTask] at h; exact absurd h (by simp), ⟨by decide, theTask, by decide, by decide⟩, unp (by decide)⟩
theorem wit_RequestsFire : unpoisoned [(wR.ss (.reg 9)).payload, (wR.ss (.chan 3)).payload, (wR.ss (.reg 7)).payload] ∧ unpoisoned [wR.basePl (atO 8)]
    ∧ (wR.ss (.reg 9)).bits.toNat % 64 = 0 ∧ wR.fctx.tcmOk (wR.ss (.reg 9)).bits.toNat 64 = true
    ∧ wR.spBad wR.cur .tcm (wR.fctx.tcmPa (wR.ss (.reg 9)).bits.toNat) 64 = false
    ∧ ((wR.ss (.reg 9)).bits.toNat < 2 ^ 48 ∧ (wR.ss (.reg 9)).bits.toNat % 8 = 0 ∧ (memHome (wR.ss (.reg 9)).bits.toNat).isSome = true)
    ∧ (wR.ss (.chan 3)).bits.toNat % 8 ≠ 0
    ∧ ready [.tspawn 4 (.reg 9) (.chan 3) (.reg 7), .trytspawn 4 (.reg 9) (.chan 3) (.reg 7) 9, .tdec (.reg 9), .tinc 4 (.reg 9) (.chan 3), .tstatus (.reg 4) (.reg 9),
        .tcancel 4 (.reg 9) (.chan 3), .tparam (.reg 4) (.reg 9), .tbound (.reg 4), .tenq (.reg 4) (.reg 9), .trytenq (.reg 4) (.reg 9) 3,
        .rsend 0 (.s (.reg 9)) (.imm 0), .tryrsend 127 (.s (.reg 9)) (.imm 0) 1, .rstore 1 (atO 8) (.reg 9), .rdec (.reg 9) (.chan 3), .pbar 4 (.chan 3),
        .pcomb .fadd (.reg 4) (.reg 9) (.chan 3), .pbcast (.reg 4) (.reg 9) (.chan 3), .pabort (.chan 3)] = true
    ∧ ready [.cfgr (.reg 4) (.reg 9), .cfgw 4 (.reg 9) (.chan 3), .vfsetEnable (.reg 4) (.reg 9) (.chan 3), .vfsetTeardown (.reg 4) (.reg 9) (.chan 3),
        .quota (.reg 4) (.reg 9) (.chan 3), .wtouch (.reg 4) (.reg 9) (.chan 3), .wresMobile (.reg 4) (.reg 9) (.chan 3), .wresFixed (.reg 4) (.reg 9) (.chan 3),
        .wresUp (.reg 4) (.reg 9) (.chan 3), .wresDown (.reg 4) (.reg 9) (.chan 3), .wresQuery 3 (.reg 4) (.reg 9) (.chan 3), .csave (.reg 4) (.reg 9) (.chan 3),
        .crest (.reg 4) (.reg 9), .ctxw (.reg 4) (.reg 9) (.chan 3) (.reg 7), .xinv 2 4 (.reg 9) (.chan 3) (.reg 7), .fqpop 4 (.reg 9),
        .mtret (.reg 4) (.reg 9) (.chan 3), .srd (.reg 4) (.reg 9), .swr 4 (.reg 9) (.chan 3), .srd (.reg 4) (.chan 3), .swr 4 (.chan 3) (.reg 9)] = true :=
  ⟨unp (by decide), unp (by decide), by decide, by decide, by decide, by decide, by decide, by decide, by decide⟩

/-! ## Witnesses of the statements about the machine -/

theorem wit_DecodedWords : (1#128).getLsbD 127 = false ∧ (1#128) ≠ 0 := by decide
theorem wit_RuleSlotRoundTrip : rule0.wf = true ∧ encodeRule { rule0 with op := .yield } = some 0x80000000000000003900000000000000#128
    ∧ Rule.wf { rule0 with op := .yield } = true := by decide
theorem wit_PredicateFieldLayouts : dTerm 0x37 = .ok (some ⟨true, 7⟩) ∧ dTerm 0x10 = .bad 1 ∧ dPw 0x62 = .ok (some ⟨.rc, 2⟩) ∧ dPw 0x12 = .bad 1 := by decide

/-- The machine right after reset with `li s4, 7` as the one rule of context 0. -/
def wF : State := State.reset.withFetchWord 64 0x1c00080000000007
theorem wit_PickerChoosesEligibleRule : (match wF.pick with
      | some c => c.ctx == 0 && c.slot == 0 && decide (c.rule = { rule0 with op := .li (.reg 4) 7 }) | none => false) = true
    ∧ (wF.tile.ctx 0).picks = true ∧ (wF.tile.ctx 0).ctl.first = none ∧ (wF.tile.ctx 0).cfg.rbase.toNat ≤ 0 ∧ 0 ≤ (wF.tile.ctx 0).cfg.rlast.toNat
    ∧ slotRule (mget 0 wF.tile.store 0) = some { rule0 with op := .li (.reg 4) 7 }
    ∧ wF.eligible { rule0 with op := .li (.reg 4) 7 } 0 0 = true := by decide
theorem wit_StepRunsDecodedRule : wF.agenda = [] ∧ wF.stage = .fire ∧ wF.pick.isSome = true ∧ (∀ n, wF.tile.marks.contains n = false)
    ∧ { wR with agenda := [.drawRefill] }.agenda = .drawRefill :: [] := ⟨rfl, rfl, by decide, fun _ => rfl, rfl⟩
theorem wit_frames : Instr.isEvent .nop = false ∧ (match exec .nop wR with | .next _ => true | _ => false) = true
    ∧ (match exec (.add (.i .i8) true (.reg 4) (.reg 9) (.chan 3)) wR with | .next _ => true | _ => false) = true
    ∧ Res.s 3 ∉ (Instr.footOf (.add (.i .i8) true (.reg 4) (.reg 9) (.chan 3)) wR.fctx.regs.amode).wr
    ∧ Res.flags ∉ (Instr.footOf (.add (.i .i8) true (.reg 4) (.reg 9) (.chan 3)) wR.fctx.regs.amode).wr
    ∧ (∀ x ∈ Instr.accUse (.azero 0), wR.fctx.accOf x ≠ 1) := by decide
theorem wit_RuleStepKeepsMemoryForm : State.reset.agenda = [] ∧ State.reset.memWf ∧ (match step State.reset with | .next _ => true | _ => false) = true :=
  ⟨rfl, ⟨by decide, by decide, by decide, by decide⟩, by decide⟩
theorem wit_latencies : Instr.lat (.add (.i .i8) true (.reg 4) (.reg 9) (.chan 3)) ≤ 1 ∧ 1 < Instr.lat (.mul (.i .i64) false (.reg 4) (.reg 9) (.chan 3))
    ∧ Res.s 4 ∈ (Instr.footOf (.mul (.i .i64) false (.reg 4) (.reg 9) (.chan 3)) wR.fctx.regs.amode).wr := by decide

/-- An operation of context 0, fired at slot 3 in cycle 0 and due in cycle 2. -/
def opB (a : Act) : Op :=
  { id := 7, ctx := 0, slot := 3, fired := 0, due := some 2, act := a, wr := [], poison := none, hard := false, rc := some true, srng := none,
    pws := [⟨.rc, 3⟩], fl := 1, am := 0, dsts := [], room := [], accs := [], pt := (0, 0), ents := [] }
def wO (o : Op) (e : Ev) : State := { wR with clock := 3, ev := e, tile := { tileR with ops := [o] } }
def opW : Op := { opB .plain with wr := [.s 4 9 false] }
def opP : Op := { opB .plain with wr := [.s 4 9 true], poison := some 9 }
def wbEv : Ev := .operationWriteback 0 7
theorem wit_OperationWritesBack : (wO opW wbEv).ev = .operationWriteback (wO opW wbEv).cur opW.id ∧ (wO opW wbEv).tile.opN opW.id = some opW ∧ opW.act = .plain
    ∧ opW.due = some 2 ∧ 2 ≤ (wO opW wbEv).clock ∧ opW.wr = [.s 4 9 false] ∧ opW.trapped = none ∧ opW.srng = none
    ∧ (wO opP wbEv).tile.opN opP.id = some opP ∧ opP.trapped = some 9#64 ∧ (∀ w ∈ opP.wr, Wr.isFlags w = false) ∧ (∀ w ∈ opP.pws, pwIsRc w = true)
    ∧ ((wO opP wbEv).tile.ctx opP.ctx).ctl.ending = .none :=
  ⟨rfl, by decide, rfl, rfl, by decide, rfl, by decide, rfl, by decide, by decide, by decide, by decide, by decide⟩
def memA (o : MemOp) (n : Nat) : MemAcc := { sp := .tcm, op := o, addr := 8, size := n, ord := .none, scope := .ctx, label := none, pa := [8], sent := false, home := 0 }
theorem wit_TcmAccessIsPerformed : (wO (opB (.mem (memA (.st [1, 2]) 2))) wbEv).tile.opN 7 = some (opB (.mem (memA (.st [1, 2]) 2)))
    ∧ (wO (opB (.mem (memA (.st [1, 2]) 2))) wbEv).ready (opB (.mem (memA (.st [1, 2]) 2))) = true ∧ Memory.wf (wO (opB (.mem (memA (.st [1, 2]) 2))) wbEv).tile.tcm = true
    ∧ (memA (.st [1, 2]) 2).size = [1, 2].length ∧ ((wO (opB (.mem (memA (.st [1, 2]) 2))) wbEv).tile.ctx 0).ctl.trapped = false
    ∧ (wO (opB (.mem (memA (.ld (.w .i16 (.reg 4))) 2))) wbEv).ready (opB (.mem (memA (.ld (.w .i16 (.reg 4))) 2))) = true
    ∧ (memA (.ld (.w .i16 (.reg 4))) 2).size = Sz.bytes .i16 ∧ hitsWord (wO (opB (.mem (memA (.ld (.w .i16 (.reg 4))) 2))) wbEv).tile.tcmBad 8 2 = false := by decide
theorem wit_TorusNeighbours : 15 < 16 ∧ 11 < 12 ∧ neighbour (192 * 7 + 16 * 11 + 15) 1 = 192 * 7 + 16 * 11 + 12 := by decide


/-! ## Witnesses of the statements about the agents' events

`met s e p`: the state `s` in cycle 5 with event `e` being taken meets `p`. Each clause of a statement has a state that meets all its hypotheses together. -/

def evS (s : State) (e : Ev) : State := { s with ev := e, clock := 5 }
abbrev met (s : State) (e : Ev) (p : State → Prop) : Prop := p (evS s e)
def hdr0 : Hdr := { op := 0, vn := 0, cls := 0, tenant := 0, circ := 0, src := 0 }
def modT (s : State) (f : Tile → Tile) : State := s.onTile f
def modC (s : State) (f : Ctx → Ctx) : State := s.onTile fun t => t.modCtx 0 f
/-- Every inbound channel bound; one entry waits in egress channel 3, whose label 1 leads to a channel of the same tile. -/
def wB : State := modT (modC wR fun c => { c with ib := Vector.replicate 16 { bv := true, gen := 0, mh := false, src := 0 }, egr := c.egr.set 3 [ent], eb := c.eb.set 3 { bv := true, label := 1, cred := 1 } }) fun t => { t with r := { t.r with routes := [(1, 1)], win := [(0, 0x100001)] } }
def opR : Op := opB (.rsend 1 [ent] none false)
def opM : Op := opB (.mem (memA (.st [1, 2]) 2))
theorem wit_TrafficEventsComplete : wB.winder.migs = [] ∧ wB.tile.fwd = [] ∧ wB.cur = 0
    ∧ (met wB (.channelEntryArrival 0 0 2 0 hdr0 four none) fun s => s.badHdr (dieOf s.cur) hdr0 = false ∧ ((s.tile.ctx 0).ib[(2 : Chan)]).bv = true
        ∧ (s.tile.recent s.clock 0).reset = none ∧ ((s.tile.ctx 0).ib[(2 : Chan)]).gen = 0
        ∧ ((s.tile.ctx 0).inb[(2 : Chan)]).length + s.tile.takenNow s.clock 0 2 + four.length ≤ 8)
    ∧ (met wB (.channelEntryArrival 0 0 2 1 hdr0 four none) fun s => s.badHdr (dieOf s.cur) hdr0 = false ∧ ((s.tile.ctx 0).ib[(2 : Chan)]).bv = true
        ∧ (s.tile.recent s.clock 0).reset = none ∧ ((s.tile.ctx 0).ib[(2 : Chan)]).gen ≠ 1)
    ∧ (met wB (.creditArrival 0 0 3 9) fun s => ((s.tile.ctx 0).eb[(3 : Chan)]).bv = true)
    ∧ (met wB (.egressTransmit 0 3) fun s => s.egressMay 0 3 = true ∧ (s.tile.ctx 0).egr[(3 : Chan)] = ent :: [] ∧ s.badLabel 0 ((s.tile.ctx 0).eb[(3 : Chan)]).label = false
        ∧ s.tile.dead.contains ((s.tile.ctx 0).eb[(3 : Chan)]).label.toNat = false ∧ (rMod (s.tile.route ((s.tile.ctx 0).eb[(3 : Chan)]).label) == s.own) = true)
    ∧ (met (modT wB fun t => { t with dead := [1] }) (.egressTransmit 0 3) fun s => s.egressMay 0 3 = true ∧ s.badLabel 0 ((s.tile.ctx 0).eb[(3 : Chan)]).label = false
        ∧ (s.tile.ctx 0).egr[(3 : Chan)] = ent :: [] ∧ s.tile.dead.contains ((s.tile.ctx 0).eb[(3 : Chan)]).label.toNat = true)
    ∧ (met (modT wB fun t => { t with r := { t.r with routes := [] } }) (.egressTransmit 0 3) fun s => s.egressMay 0 3 = true
        ∧ (s.tile.ctx 0).egr[(3 : Chan)] = ent :: [] ∧ s.badLabel 0 ((s.tile.ctx 0).eb[(3 : Chan)]).label = true)
    ∧ (met wB (.windowWriteArrival 0 0 hdr0 56 [1, 2, 3, 4, 5, 6, 7, 8] (.op 0 9)) fun s => s.badHdr (dieOf s.cur) hdr0 = false ∧ Memory.wf s.tile.tcm = true
        ∧ winOk (reg s.tile.r.win 0).toNat hdr0.tenant 56 8 = true)
    ∧ (met wB (.windowWriteArrival 0 0 hdr0 64 [1, 2, 3, 4, 5, 6, 7, 8] (.op 0 9)) fun s => s.badHdr (dieOf s.cur) hdr0 = false ∧ Memory.wf s.tile.tcm = true
        ∧ winOk (reg s.tile.r.win 0).toNat hdr0.tenant 64 8 = false)
    ∧ (met (modT wB fun t => { t with ops := [opM] }) (.windowRefusal (.op 0 7) 1 64 8) fun s => s.tile.opN 7 = some opM ∧ (s.tile.ctx opM.ctx).ctl.ending = .none)
    ∧ (met (modT wB fun t => { t with ops := [opM] }) (.acknowledgementArrival (.op 0 7) none false) fun s => s.tile.opN 7 = some opM ∧ opM.act = .mem (memA (.st [1, 2]) 2) ∧ opM.setsRs = false)
    ∧ (met (modT wB fun t => { t with ops := [opR] }) (.rsendRetry 0 7) fun s => s.tile.opN 7 = some opR ∧ opR.act = .rsend 1 [ent] none false ∧ s.rsendMay opR = true
        ∧ rKind (s.tile.route 1) = 1 ∧ s.routeFailed 0 (s.tile.route 1) = false ∧ s.tile.dead.contains 1 = false)
    ∧ (met (modT wB fun t => { t with ops := [opR], dead := [1] }) (.rsendRetry 0 7) fun s => s.tile.opN 7 = some opR ∧ s.rsendMay opR = true
        ∧ rKind (s.tile.route 1) = 1 ∧ s.routeFailed 0 (s.tile.route 1) = false ∧ s.tile.dead.contains 1 = true)
    ∧ (met wB (.circuitToken 0 0 7 hdr0) fun s => s.badHdr (dieOf s.cur) hdr0 = false ∧ (s.tile.ctx 0).st ≠ .free ∧ (s.tile.ctx 0).arr[(7 : Fin 8)] < 65535) := by decide +kernel

def watch0 : Watch := { pred := 11, f := wf .tcm, addr := 8, val := 1, sent := false, due := 5, note := none }
def stg (st : StSt) : Strm := { Strm.zero with st := st, desc := strmDesc, start := 5 }
theorem wit_WaitEventsComplete : wR.cur = 0
    ∧ (met (modC wR fun c => { c with watches := [watch0] }) (.watchArm 0 0 11) fun s =>
        (s.tile.ctx 0).watches.find? (fun w => w.pred == 11 && !w.sent && decide (w.due ≤ s.clock)) = some watch0 ∧ s.watchWord s.cur 0 watch0 = some 0 ∧ watch0.sat 0 = false)
    ∧ (met (modC wR fun c => { c with watches := [{ watch0 with note := some 3 }] }) (.watchNotify 0 0 11 (some 3) 3) fun s =>
        (((s.tile.recent s.clock 0).off.toList ++ (s.tile.ctx 0).watches).find? fun w => w.pred == 11 && w.note.isSome && decide (w.due ≤ s.clock))
          = some { watch0 with note := some 3 } ∧ (s.tile.ctx 0).st = .running ∧ (s.tile.ctx 0).ctl.ending = .none ∧ (s.tile.ctx 0).ctl.first = none)
    ∧ (met (modC wR fun c => { c with watches := [{ watch0 with note := some 3 }], st := .migrating }) (.watchNotify 0 0 11 (some 3) 3) fun s =>
        (((s.tile.recent s.clock 0).off.toList ++ (s.tile.ctx 0).watches).find? fun w => w.pred == 11 && w.note.isSome && decide (w.due ≤ s.clock))
          = some { watch0 with note := some 3 } ∧ (s.tile.ctx 0).st = .migrating)
    ∧ (met (modC wR fun c => { c with ctl := { c.ctl with asleep := some ⟨some 5⟩ } }) (.sleepTimerExpiry 0) fun s => (s.tile.ctx 0).ctl.asleep = some ⟨some 5⟩ ∧ 5 ≤ s.clock)
    ∧ (met wR .drawRefill fun s => (s.tile.ctx 0).st ≠ .free)
    ∧ (met (modT wK fun t => { t with tasks := [{ theTask with bleft := 0 }] }) (.overrun 0 5) fun s => tref ∈ s.tile.overruns ∧ (s.tile.ctx 0).task = some tref
        ∧ (s.tile.ctx 0).st = .running ∧ (s.tile.ctx 0).ctl.ending = .none)
    ∧ (met (modT wR fun t => { t with ops := [opB (.otpub 3)] }) (.orderTokenComplete 7) fun s => s.tile.opN 7 = some (opB (.otpub 3)) ∧ s.tile.settled (opB (.otpub 3)) = true ∧ (opB (.otpub 3)).setsRs = false)
    ∧ (met (modT wR fun t => { t with ops := [opB (.gbar 2 0x81#8 true)] }) (.gbarRelease 7) fun s => s.tile.opN 7 = some (opB (.gbar 2 0x81#8 true))
        ∧ s.gbarMet (opB (.gbar 2 0x81#8 true)) = true ∧ (opB (.gbar 2 0x81#8 true)).setsRs = false) := by decide +kernel

def stopI : StopInfo := StopInfo.mk0 0x15#8 0 4
def ended (e : Ending) : State := modC wR fun c => { c with ctl := { c.ctl with ending := e } }
def recR (st : RSt) : TRec := { TRec.zero.setSt st with seats := [{ tile := 0, ctxs := [0], member := 0, copy := 0, base := 0, first := 0, accs := [], strms := [] }] }
def withRec (s : State) (r : TRec) : State := { s with dies := [(0, { Die.zero with recs := [(5, r)] })] }
/-- Die 0 holds record 5, in the given state, seated at context 0. -/
def wD (st : RSt) (c : CSt) : State := withRec (modC wR fun x => { x with st := c, task := some tref }) (recR st)
def mig0 (st : Nat) (g : List (Nat × Nat)) : Mig := { die := 0, idx := 5, src := [], dst := [], slot := 0, ctx := 0, stage := st, start := 0, bytes := 0, gates := g }
def wM (st : RSt) (m : Mig) : State := let s := withRec wR { recR st with seats := [] }; { s with winder := { s.winder with migs := [m] } }
/-- A migration away from context 0 of tile 0, to tile 1. -/
def mig1 : Mig := { mig0 1 [] with src := (recR .migrating).seats }
theorem wit_ContextEventsComplete : (met (ended (.done 3)) (.contextStop 0) fun s => s.stopMay 0 = true ∧ (s.tile.ctx 0).ctl.ending = .done 3)
    ∧ (met (ended .save) (.contextStop 0) fun s => s.stopMay 0 = true ∧ (s.tile.ctx 0).ctl.ending = .save)
    ∧ (met (ended (.stop stopI)) (.contextStop 0) fun s => s.stopMay 0 = true ∧ (s.tile.ctx 0).ctl.ending = .stop stopI ∧ stopI.cause ≠ 0x12#8)
    ∧ (met (ended .hand) (.handoverStep 0) fun s => s.handMay 0 = true ∧ (s.tile.ctx 0).succ ≠ 0 ∧ ((s.tile.ctx 0).eb[(3 : Chan)]).bv = true)
    ∧ (met (wD .running .running) (.migrateTrap 0 3) fun s => (s.tile.ctx 0).ctl.ending = .none ∧ (s.tile.ctx 0).task = some tref ∧ (s.trec 0 5).st = .running ∧ (s.trec 0 5).sv = 0)
    ∧ (met (wD .running .stopped) (.taskRetirement 0 5) fun s => mapWf Die.zero s.dies = true ∧ mapWf TRec.zero (s.die 0).recs = true ∧ (s.trec 0 5).st = .running
        ∧ (s.trec 0 5).sv = 0 ∧ s.allStopped (s.trec 0 5) = true)
    ∧ (met (wD .retiring .stopped) (.contextRelease 0 5) fun s => s.releaseMay 0 5 = true)
    ∧ (met (wM .running (mig0 3 [(0, 1)])) (.flushToken 0 1) fun s => s.winder.migs.find? (fun m => m.stage == 3 && m.gates.contains (0, (1#7).toNat)) = some (mig0 3 [(0, 1)])
        ∧ 0 = s.cur)
    ∧ (let s : State := { wM .migrating (mig0 2 []) with clock := 598, ev := .stubOpen 0 5 }
       s.winder.migs.find? (fun m => m.die == 0 && m.idx == 5 && m.stage == 2) = some (mig0 2 [])
        ∧ (s.trec 0 5).st = .migrating ∧ (mig0 2 []).start + 598 + ceilDiv (mig0 2 []).bytes 128 ≤ s.clock ∧ s.dstLoaded (mig0 2 []) = true)
    ∧ (met (wM .migrating (mig0 3 [])) (.stubClose 0 5) fun s => s.winder.migs.find? (fun m => m.die == 0 && m.idx == 5 && m.stage == 3) = some (mig0 3 []) ∧ (mig0 3 []).gates = [])
    ∧ (met { wD .migrating .migrating with winder := { wR.winder with migs := [{ mig0 3 [] with dst := (recR .migrating).seats }] } } (.migrationResume 0 5) fun s =>
        (s.trec 0 5).st = .migrating ∧ (s.trec 0 5).sv = 0
        ∧ (s.winder.migs.filter fun m => m.die == 0 && m.idx == 5 && m.stage == 3).flatMap (·.dst) ≠ []) := by decide +kernel
set_option maxRecDepth 100000 in
theorem wit_ContextEventsComplete_destination : met { wD .migrating .migrating with winder := { wR.winder with migs := [mig1] } } .migrationDestinationFree fun s =>
    s.winder.migs = [mig1] ∧ mig1.stage = 1 ∧ (s.trec mig1.die mig1.idx).st = .migrating ∧ s.migQuiet mig1 = true ∧ s.sharesClus mig1 = false
    ∧ (((migDies (dieOf ((mig1.src.map (·.tile)).headD 0))).findSome? fun d => s.migSeat mig1 (s.trec mig1.die mig1.idx) d)).isSome = true
    ∧ ((s.trec mig1.die mig1.idx).twin && (s.migCtxs mig1).any fun x => x.2.2.st == .faulted) = false := by decide +kernel

def opMat : Op := { opB (.mat (.azero 0) [] [] 0 0) with due := none }
def copyT : Copy := { id := 7, ctx := 0, slot := 0, start := 0, f := cpy0, da := 64, sa := 0, rows := 1, len := 64, sstr := 0, dstr := 0, wtk := 0, ptk := 0, hold := [], row := 0, off := 0, outs := [], dead := false }
def wSt : State := modT (modC wR fun c => { c with inb := Vector.replicate 16 [] }) fun t => { t with strm := t.strm.set 0 (stg .run) }
def liSlot : SlotWord := 0x80000000000000003900000000000000#128
theorem wit_EngineEventsComplete :
    (met wF (.ruleStoreScrub 0 true) fun s => (mget 0 s.tile.store 0).getLsbD 127 = true ∧ (s.tile.ctx 0).st ≠ .free ∧ (s.tile.ctx 0).cfg.rbase.toNat ≤ 0
        ∧ 0 ≤ (s.tile.ctx 0).cfg.rlast.toNat ∧ (s.tile.ctx 0).ctl.ending = .none)
    ∧ (met wR (.cspScrub 0 5 true) fun s => mapWf Cluster.zero s.clusters = true)
    ∧ (met State.reset (.ruleImageLoad 0 0 0 2 [liSlot] 0 false 0 none) fun s => s.cur = 0 ∧ (s.tile.ctx 0).st = .free ∧ s.recAt s.cur 0 = none
        ∧ loadRefusal (s.loadEnv s.cur 0 false 0 0) (isBisque (dieOf s.cur)) 2 0 none [liSlot] = none ∧ mapWf 0 s.tile.store = true)
    ∧ (met State.reset (.ruleImageLoad 0 0 0 0 [liSlot] 0 false 0 none) fun s => s.cur = 0 ∧ (s.tile.ctx 0).st = .free ∧ s.recAt s.cur 0 = none
        ∧ loadRefusal (s.loadEnv s.cur 0 false 0 0) (isBisque (dieOf s.cur)) 0 0 none [liSlot] = some (0, 13) ∧ mapWf 0 s.tile.store = true)
    ∧ (met wSt (.streamElement 0) fun s => s.strmMay 0 = true ∧ (s.tile.strm[(0 : Fin 8)]).isWr = false ∧ (s.tile.strm[(0 : Fin 8)]).sp = .tcm
        ∧ (s.tile.strm[(0 : Fin 8)]).addr (s.tile.strm[(0 : Fin 8)]).next % ((min (s.tile.strm[(0 : Fin 8)]).eb 16 : Nat) : Int) = 0
        ∧ (s.tile.ctx 0).tcmOk ((s.tile.strm[(0 : Fin 8)]).addr (s.tile.strm[(0 : Fin 8)]).next) (s.tile.strm[(0 : Fin 8)]).eb = true ∧ hitsWord s.tile.tcmBad 0 8 = false)
    ∧ (met (modT wR fun t => { t with copies := [copyT] }) (.copyChunk 7) fun s => s.tile.copyN 7 = some copyT ∧ s.copyMay copyT = true ∧ copyT.moved = false
        ∧ s.copyBad copyT = none ∧ s.reach (2, 7) 0 .tcm (copyT.src 0 0) 64 0 = .ok [(0, 64)] ∧ s.reach (2, 7) 0 .tcm (copyT.dst 0 0) 64 1 = .ok [(64, 64)]
        ∧ (s.badBytes .tcm [(0, 64)]).all (fun b => !b) = true)
    ∧ (met (modT wR fun t => { t with copies := [{ copyT with row := 1 }] }) (.copyComplete 7) fun s => s.tile.copyN 7 = some { copyT with row := 1 }
        ∧ ({ copyT with row := 1 } : Copy).moved = true ∧ ({ copyT with row := 1 } : Copy).outs = [])
    ∧ (met (modT wR fun t => { t with ops := [opMat] }) (.matrixOperationStart 7) fun s => s.tile.opN 7 = some opMat ∧ s.matMay opMat = true) := by decide +kernel
theorem wit_MatrixIntegerProductIsExact : MmFmt.isInt .n8 = true ∧ (32 : Nat) % MmFmt.grp .n8 = 0 := by decide +kernel

def wCl (rs : AMap Word) (o : Op) : State := { modT wR (fun t => { t with ops := [o] }) with clusters := [(0, { Cluster.zero with regs := rs })] }
def opBar : Op := opB (.cbar 3 7 false false)
def opPut : Op := opB (.bput 2 0 true (some [1]) 0 256 none)
/-- An entry on the way from tile 1, which lies to the right of tile 0, and one on the way from tile 0. -/
def nent : NEnt := { e := ent, ctx := 0, op := 7, hold := [], due := 5, fails := 0 }
def wNb (n : Nat) : State := { wR with others := [(n, { tileR with nlink := tileR.nlink.set 3 [nent] })] }
/-- A put of tile 0 waits for buffer 0. -/
def wBuf (served : AMap Nat) : State :=
  { wCl [] opPut with clusters := [(0, { Cluster.zero with regs := [(0x800, 0x2000400001#64)], wait := [⟨0, 0, 7, 5, false⟩], served := served })] }
theorem wit_ClusterEventsComplete : neighbour 1 3 = 0 ∧ wR.cur = 0
    ∧ (met (wNb 1) (.neighbourEntryArrival 1 3) fun s => mapWf Cluster.zero s.clusters = true ∧ 1 ≠ s.cur ∧ neighbour 1 3 = s.cur ∧ (s.tileN 1).nlink[(3 : Fin 4)] = nent :: []
        ∧ nent.due ≤ s.clock ∧ (s.tileN 1).pendingIds nent.hold = false)
    ∧ (met (modT wR fun t => { t with nlink := t.nlink.set 3 [{ nent with fails := 6 }] }) (.neighbourRetry 0 3) fun s => mapWf Cluster.zero s.clusters = true
        ∧ s.tile.nlink[(3 : Fin 4)] = { nent with fails := 6 } :: [] ∧ ({ nent with fails := 6 } : NEnt).fails < 7 ∧ mapWf 0 (s.clus (clusOf s.cur)).regs = true)
    ∧ (met (wCl [(0x800, 0x2000400000#64)] opPut) (.bufferRequest 0 7) fun s => mapWf Cluster.zero s.clusters = true ∧ s.tile.opN 7 = some opPut
        ∧ opPut.act = .bput 2 0 true (some [1]) 0 256 none ∧ (s.tile.ctx 0).st = .running ∧ s.bufMay s.cur opPut 0 = true)
    ∧ (met (wBuf []) (.fullBitChange 0 0) fun s => mapWf Cluster.zero s.clusters = true
        ∧ ((s.clus 0).wait.find? fun r => r.buf == 0 && s.reqCan 0 r) = some ⟨0, 0, 7, 5, false⟩
        ∧ mget 0 (s.clus 0).served 0 ≠ s.clock + 1)
    ∧ (met (wBuf [(0, 6)]) (.fullBitChange 0 0) fun s => mapWf Cluster.zero s.clusters = true
        ∧ ((s.clus 0).wait.find? fun r => r.buf == 0 && s.reqCan 0 r) = some ⟨0, 0, 7, 5, false⟩
        ∧ mget 0 (s.clus 0).served 0 = s.clock + 1)
    ∧ (met (wCl [(0xa38, 0x40#64)] opBar) (.fullBitChange 0 63) fun s =>
        ((s.clus 0).wait.find? fun r => r.buf == 63 && s.reqCan 0 r) = none)
    ∧ (met (wCl [(0xa38, 0x40#64)] opBar) (.barrierArrival 0 7) fun s => mapWf Cluster.zero s.clusters = true ∧ s.tile.opN 7 = some opBar ∧ s.tile.mayArrive opBar = true
        ∧ mapWf 0 (s.clus (clusOf s.cur)).regs = true ∧ nfld ((s.clus (clusOf s.cur)).bar 7) 13 8 + 1 < nfld ((s.clus (clusOf s.cur)).bar 7) 5 8)
    ∧ (met (wCl [(0xa38, 0x20#64)] opBar) (.barrierArrival 0 7) fun s => mapWf Cluster.zero s.clusters = true ∧ s.tile.opN 7 = some opBar ∧ s.tile.mayArrive opBar = true
        ∧ mapWf 0 (s.clus (clusOf s.cur)).regs = true ∧ nfld ((s.clus (clusOf s.cur)).bar 7) 5 8 ≤ nfld ((s.clus (clusOf s.cur)).bar 7) 13 8 + 1)
    ∧ (met (wCl [(0xa38, 0x40#64)] (opB (.cbar 3 7 true false))) (.barrierRelease 0 7) fun s => mapWf Cluster.zero s.clusters = true ∧ s.cur < 1536 ∧ clusOf s.cur = 0) := by decide +kernel

def glbA (o : MemOp) (n : Nat) : MemAcc := { sp := .glb, op := o, addr := 8, size := n, ord := .none, scope := .pod, label := none, pa := [8], sent := true, home := 0 }
def opG (m : MemAcc) : Op := opB (.mem m)
def ldG : MemAcc := glbA (.ld (.w .i32 (.reg 4))) 4
def amG : MemAcc := glbA (.atom (.reg 4) .max 3) 8
def stG : MemAcc := { glbA (.st [1]) 1 with sent := false }
def wGl (o : Op) : State := modT wR fun t => { t with ops := [o] }
def move0 (up : Bool) (ends : Option Nat) : Move := { tenant := 0, vpn := 1, up := up, die := 0, cls := 0, ends := ends, reply := none }
def walk0 : Walk := { tenant := 0, vpn := 1, ends := 5, resid := false, who := [], wait := false }
/-- Two additions to one word of far memory, combined at die 0. -/
def mrg (due : Option Nat) : MergeE :=
  { pa := 0x1000000, tenant := 0, op := .atom (.reg 0) .add 0, parts := [⟨0, 7, 3, 1⟩, ⟨0, 8, 4, 1⟩], opened := 0, due := due }
def wMg (due : Option Nat) (clk : Nat) : State := { wR with clock := clk, dies := [(0, { Die.zero with merge := [mrg due] })] }
def page0 : MPage := { tenant := 0, vpn := 1, far := 0, frame := some 5 }
theorem wit_GlobalEventsComplete : (Memory.wf wR.mem = true ∧ mapWf Die.zero wR.dies = true ∧ wR.cur < 1536)
    ∧ (met (wGl (opG ldG)) (.globalRead 0 7) fun s => s.tile.opN 7 = some (opG ldG) ∧ ldG.pa = [8] ∧ ldG.part = [] ∧ ldG.size = Sz.bytes .i32 ∧ hitsWord s.hearth.memBad 8 (Sz.bytes .i32) = false)
    ∧ (met (wGl (opG (glbA (.st [1, 2]) 2))) (.globalWrite 0 7) fun s => s.tile.opN 7 = some (opG (glbA (.st [1, 2]) 2)) ∧ (s.tile.ctx 0).ctl.trapped = false)
    ∧ (met (wGl (opG amG)) (.globalAtomic 0 7) fun s => s.tile.opN 7 = some (opG amG) ∧ amG.size = 8 ∧ amG.part = [] ∧ hitsWord s.hearth.memBad 8 8 = false ∧ (s.tile.ctx 0).ctl.trapped = false)
    ∧ (met (wGl (opG stG)) (.translationWalk 0 7) fun s => s.tile.opN 7 = some (opG stG) ∧ (opG stG).glbWaits = some stG ∧ s.tile.held (opG stG) stG = false ∧ stG.label = none)
    ∧ (met { wR with dies := [(0, { Die.zero with walks := [walk0] })] } (.walkComplete 0 0 1) fun s => mapWf Die.zero s.dies = true
        ∧ (s.die 0).walks.find? (walkIs 0 1) = some walk0 ∧ walk0.wait = false ∧ walk0.ends ≤ s.clock ∧ walk0.resid = false)
    ∧ (let s : State := { wMg none 16 with ev := .mergeEntryClose 0 0x1000000 }
       mapWf Die.zero s.dies = true ∧ (s.merges 0).find? (fun e => e.pa == 0x1000000 && e.opened?) = some (mrg none) ∧ s.viaHearth 0 0x1000000 = false
       ∧ (mrg none).opened + 16 ≤ s.clock)
    ∧ (let s : State := { wMg (some 16) 16 with ev := .mergedAtomic 0 0x1000000 }
       (s.merges 0).find? (MergeE.ripe 0x1000000 s.clock) = some (mrg (some 16)) ∧ (mrg (some 16)).op = .atom (.reg 0) .add 0 ∧ hitsWord s.hearth.memBad 0x1000000 8 = false
       ∧ (∀ p ∈ (mrg (some 16)).parts, p.tile < 1536))
    ∧ (met { wR with winder := { wR.winder with moves := [move0 false none], pages := [page0] } } (.pageMove 0 1) fun s =>
        s.moveOf 0 1 = some (move0 false none) ∧ s.mpage 0 1 = some page0 ∧ (move0 false none).ends = none ∧ (move0 false none).up = false
        ∧ page0.frame = some 5 ∧ s.moveCount < 16)
    ∧ (met { wR with winder := { wR.winder with moves := [move0 true none], pages := [{ page0 with frame := none }] }, coord := { wR.coord with regs := [(0x1010, 1)] } } (.pageMove 0 1) fun s =>
        s.moveOf 0 1 = some (move0 true none) ∧ s.mpage 0 1 = some { page0 with frame := none } ∧ s.moveCount < 16 ∧ s.nearRoom 0 = true
        ∧ (s.pickFrame 0).2.isSome = true)
    ∧ (met { wR with winder := { wR.winder with moves := [move0 true (some 5)] } } (.pageMoveComplete 0 1) fun s => ∀ m ∈ s.winder.moves, ∀ e ∈ m.ends, e ≤ s.clock) := by decide +kernel

def recD (f : TRec → TRec) (st : RSt) : State := withRec wR (f (recR st))
def tmpl0 : Template := { handle := 1, tenant := 0, entries := [], bufs := [], images := [] }
def launch0 : LaunchRec := { thandle := 1, ctag := 0, limit := 0, ext := [], param := 0 }
def opReq : Op := { opB (.req (.tstatus (.reg 4) (.reg 9)) [0]) with due := none }
def stagingR (r : TRec) : TRec := { r with csp := [(3, 0, 0)] }
def savedR (r : TRec) : TRec := { r with saved := [(0, 0)], svEnd := 5, seats := [] }
def wReg : State := { wR with saloc := { wR.saloc with startst := 8 } }
theorem wit_TaskEventsComplete :
    (met (recD (fun r => r.put 0 0 16 2) .waiting) (.decrementArrival 0 5 1 0 0) fun s => mapWf Die.zero s.dies = true ∧ mapWf TRec.zero (s.die 0).recs = true
        ∧ s.retires 0 = false ∧ (s.trec 0 5).st = .waiting ∧ (s.trec 0 5).tenant = 0 ∧ (s.trec 0 5).inst = 0 ∧ 1 < (s.trec 0 5).cnt)
    ∧ (let s : State := { modT wR (fun t => { t with ops := [opReq] }) with clock := 1000000, ev := .taskRequest 0 7 }
       s.cur < 1536 ∧ s.ev = .taskRequest s.cur 7 ∧ s.tile.opN 7 = some opReq ∧ opReq.act = .req (.tstatus (.reg 4) (.reg 9)) [0] ∧ s.reqDue opReq = true
       ∧ s.refAway (.tstatus (.reg 4) (.reg 9)) [0] = false)
    ∧ (met (recD id .staging) (.stagingGateOpen 0 5) fun s => mapWf TRec.zero (s.die 0).recs = true ∧ (s.trec 0 5).st = .staging ∧ s.mayRun (s.trec 0 5).tenant = true
        ∧ (s.trec 0 5).cspBufs = [] ∧ (s.trec 0 5).csp = [] ∧ s.gateOpen 0 (s.trec 0 5) = true)
    ∧ (met (recD stagingR .staging) (.cspStagingCopy 0 5 3) fun s => (s.trec 0 5).st = .staging ∧ (s.trec 0 5).csp.find? (fun x => x.1 == 3) = some (3, 0, 0)
        ∧ (s.hostAt (s.trec 0 5).tenant ((s.trec 0 5).baddr 3) ((s.trec 0 5).bsize 3 * 1024) 0 == .transit) = false ∧ (s.die 0).stagedAt 0 0 = none)
    ∧ (met { wR with coord := { wR.coord with insts := [(2, { Inst.zero with used := true })] } } (.instanceCompletion 2) fun s => s.instDone 2 = true)
    ∧ (met { wR with coord := { wR.coord with tmpls := [tmpl0] }, dies := [(0, { Die.zero with regs := [(0, 0xffff000000000#64)] })] } (.launch 0 0 launch0) fun s =>
        (match s.instantiate 0 launch0 false s.clock with | .made _ _ => true | _ => false) = true)
    ∧ (met wR (.launch 0 0 launch0) fun s => (match s.instantiate 0 launch0 false s.clock with | .refused k => k == 6 | _ => false) = true ∧ s.vfOf 0 = some 0)
    ∧ (met (recD (fun r => { r with sv := 1, seats := [] }) .running) (.taskSaveComplete 0 5) fun s => mapWf TRec.zero (s.die 0).recs = true ∧ (s.trec 0 5).st ≠ .faulted
        ∧ (s.trec 0 5).sv = 1 ∧ s.saveReady (s.trec 0 5) = true)
    ∧ (met (recD savedR .placed) (.taskRestoreComplete 0 5) fun s => (s.trec 0 5).st = .placed ∧ (s.trec 0 5).saved ≠ [] ∧ (s.trec 0 5).sv = 0 ∧ (s.trec 0 5).svEnd = s.clock
        ∧ (∀ x ∈ s.ctxsOfRec (s.trec 0 5), x.2.st = .saved))
    ∧ (met wReg (.templateRegistration 1 0 [] [] [(1, [])]) fun s => s.started = true ∧ s.tmplOf 1 = none ∧ (s.checkTmpl [] [] [(1, [])]).1 ≠ 0)
    ∧ (met wReg (.templateRegistration 1 0 [] [] []) fun s => s.started = true ∧ s.tmplOf 1 = none ∧ (s.checkTmpl [] [] []).1 = 0 ∧ s.graphRoom tmpl0.units = true) := by decide +kernel
theorem wit_TaskEventsComplete_victim : met (recD id .running) (.class0Preemption 0) fun s => (s.die 0).pre = none ∧ s.victim 0 = some 5 := by decide +kernel

def wV (rs : AMap Word) : State := { wR with coord := { wR.coord with regs := rs } }
def wDom (d : Dom) : State := { wR with coord := { wR.coord with doms := [(0, d)] } }
def dom0 : Dom := { Dom.zero with out := some (3, 5), inn := some 1 }
def sweeps0 (ms : List Nat) : State := { wR with coord := { wR.coord with sweeps := [(3, 1, ms)] } }
/-- A task of tenant 3 that is still being saved. -/
def r3 : TRec := { (recR .running).put 0 20 4 3 with sv := 1 }
theorem wit_TenancyEventsComplete : (met wR (.roundMarker 0 3) fun s => mapWf 0 s.coord.rounds = true)
    ∧ (met wR (.sweepMarker 0 3) fun s => (0#12).toNat = s.own) ∧ (met wR (.sweepMarker 5 3) fun s => (5#12).toNat ≠ s.own)
    ∧ (met (sweeps0 [5]) (.sweepEcho 5 3) fun s => s.coord.sweeps.find? (fun x => x.1 == (3#4).toNat) = some (3, 1, [5]) ∧ ([5].filter fun x => x != (5#12).toNat) = [])
    ∧ (met (sweeps0 [5, 6]) (.sweepEcho 5 3) fun s => s.coord.sweeps.find? (fun x => x.1 == (3#4).toNat) = some (3, 1, [5, 6]) ∧ ([5, 6].filter fun x => x != (5#12).toNat) ≠ [])
    ∧ (met { wR with coord := { wR.coord with doms := (List.range 8).map fun d => (d, dom0) } } .packageTick fun s => ∀ d < 8, ((s.dom d).out.isSome || (s.dom d).inn.isSome) = true)
    ∧ (met (wDom dom0) (.switchSave 0 0) fun s => (s.dom 0).out = some (3, 5) ∧ (s.die 0).recs = [] ∧ s.unsaved 0 (tnt 3) = [] ∧ s.dirtyNear (tnt 3) = [] ∧ s.coord.downs = []
        ∧ s.clock < 5 + 3 * Config.msCycles / 2 ∧ mapWf Dom.zero s.coord.doms = true ∧ (s.dom 0).inn.isSome = true)
    ∧ (met wR (.switchSave 0 0) fun s => (s.dom 0).out = none)
    ∧ (let s : State := { withRec (wDom dom0) r3 with clock := 5 + 4 * Config.msCycles, ev := .saveDeadlineKill 0 0 }
       (s.dom 0).out = some (3, 5) ∧ 5 + 4 * Config.msCycles ≤ s.clock ∧ s.winder.migs = []
       ∧ ((s.unsaved 0 (tnt 3)).filter fun x => x.1 == 0 && x.2.2.st != .retiring) = [(0, 5, r3)])
    ∧ (met (wDom dom0) (.saveDeadlineKill 0 0) fun s => (s.dom 0).out = some (3, 5) ∧ s.clock < 5 + 4 * Config.msCycles)
    ∧ (met (wDom { Dom.zero with inn := some 1 }) (.switchIn 0) fun s => (s.dom 0).inn = some 1 ∧ mapWf Dom.zero s.coord.doms = true)
    ∧ (met (wV [(pgrp 7, 0x21)]) (.abortMarker 7 0 0) fun s => s.pgV (7#8).toNat = true ∧ s.pgLocal (7#8).toNat ≠ 0)
    ∧ (met wR (.podGroupPacket 2 255 0 false false 1 1 0 0) fun s => ((s.grp 255).mods.any fun y => y.mod == (2#12).toNat && y.phase == false) = false) := by decide +kernel

def wHst : State := { wR with saloc := { wR.saloc with startst := 8 }, host := { wR.host with regs := [(0x1008, 3)], waiting := [⟨0, 1, 0⟩], unsig := [(0, 1)] } }
def line64 : List Byte := List.replicate 64 0
def start0 : StartIn := { why := .other, outs := [], images := [], record := none, rom := 0, badSets := [], params := [] }
theorem wit_HostEventsComplete :
    (met wHst (.configRegisterWrite 0x80 3) fun s => (match cfgReg 0x80 with | some r => (s.cfgWrite r 3).isSome | none => false) = true)
    ∧ (met wHst (.launchWrite 0 0 line64) fun s => s.offered 0 = true ∧ line64.length = 64 ∧ s.fnOn 0 = true ∧ s.coord.retiring.contains (s.fnTag 0) = false ∧ s.cqEn 0 = true
        ∧ s.cqWait 0 ≠ 4096)
    ∧ (met wHst (.completionEntryWrite 0) fun s => s.host.waiting.find? (fun e => e.fn == 0) = some ⟨0, 1, 0⟩ ∧ s.cqEn 0 = true ∧ s.cqFull 0 = false)
    ∧ (met wHst (.cqheadWrite 0 1) fun s => s.offered 0 = true)
    ∧ (let s : State := { wHst with clock := 1000000, ev := .msixCoalesceTimer 0 }
       s.cqIe 0 = true ∧ mget 0 s.host.unsig 0 ≠ 0 ∧ mget 0 s.host.since 0 + Config.twoUs ≤ s.clock)
    ∧ (met wHst (.hostRead 0 0 0) fun s => s.started = true ∧ s.hostAt 0 0 0 0 = .ok [] ∧ s.hostBehind [] = false) ∧ (met wHst (.hostRead 1 0 8) fun s => s.hostAt 1 0 8 0 = .no)
    ∧ (met wHst (.hostWrite 0 0 []) fun s => s.started = true ∧ s.hostAt 0 0 0 1 = .ok [] ∧ s.hostBehind [] = false) ∧ (met wHst (.hostWrite 1 0 [1]) fun s => s.hostAt 1 0 1 1 = .no)
    ∧ (let s : State := { wHst with saloc := { wHst.saloc with startst := 1, run := some (start0, 0, 0) }, clock := 50 * Config.msCycles, ev := .startTimeout }
       s.saloc.run = some (start0, 0, 0) ∧ (0 + stepLimit (s.stGet 0 4) ≤ s.clock ∨ 0 + startLimit ≤ s.clock))
    ∧ warmWhy StartWhy.other = false ∧ warmWhy StartWhy.hostReset = true
    ∧ (met wHst (.attestationReport 0) fun s => s.saloc.leaf < 2 ^ 30 ∧ s.started = true) ∧ (met wHst (.telemetrySample 4000) fun s => s.saloc.pcap.toNat < 4000)
    ∧ (met wHst (.thermalSample 3 114) fun s => mapWf Die.zero s.dies = true ∧ (s.die 3).throttle = false)
    ∧ (met (wV [(0x2040, 3)]) (.teardown 1) fun s => s.vfEn 1 = true) ∧ (met (wV []) (.vfctlEnable 1 3 0) fun s => s.vfEn 1 = false) := by decide +kernel

def lk (st : Word) (n : Nat) (x : Link) (e : Ev) : State := { wV [(linkBlk 2, st)] with saloc := { wR.saloc with startst := 8 }, clock := n, ev := e, fab := { wR.fab with links := [(2, x)] } }
def trail : BitVec 32 := flitCrc 0 1 ++ 1#16
set_option maxRecDepth 100000 in
theorem wit_LinkEventsComplete :
    (let s := lk 0 0 { Link.zero with naked := true } (.linkDataFlit 2 0 0)
     s.portsUp = true ∧ s.linkSt 2 ≠ 1 ∧ s.linkSt 2 ≠ 3 ∧ flitCrc 0 ((0#32).toNat % 2 ^ 16) ≠ (0#32).extractLsb' 16 16 ∧ (s.link 2).naked = true)
    ∧ (let s := lk 0 0 { Link.zero with lgseq := 0 } (.linkDataFlit 2 0 trail)
       s.portsUp = true ∧ s.linkSt 2 ≠ 1 ∧ s.linkSt 2 ≠ 3 ∧ flitCrc 0 (trail.toNat % 2 ^ 16) = trail.extractLsb' 16 16 ∧ trail.toNat / 2 ^ 10 % 4 = 0
       ∧ trail.toNat % 2 ^ 10 = ((s.link 2).lgseq + 1).toNat)
    ∧ (let s := lk 0 0 .zero (.controlFlit 2 0); s.portsUp = true ∧ s.linkSt 2 ≠ 3 ∧ (0 : BitVec 256).getLsbD 10 = false ∧ (s.link 2).buf = [])
    ∧ (let s := lk 0 1000000 { Link.zero with buf := [(5, 0)] } (.replayTimeout 2); (s.link 2).buf = (5, 0) :: [] ∧ 0 + Config.twoUs ≤ s.clock)
    ∧ (let s := lk 1 0 .zero (.linkRetrain 2 27 0); s.linkSt 2 = 1)
    ∧ (let s := lk 1 0 .zero (.linkRetrain 2 28 0)
       s.linkSt 2 = 1 ∧ (let u := ((s.setLink 2 { (s.link 2).acked 0 with replays := 0, tries := 0 }).setLinkReg 2 0
         (putFld (s.linkReg 2 0) 2 6 (min 28 32))).resend 2
       (u.linkReg 2 8).toNat % 16 < 9))
    ∧ (let s := lk 1 1000000 .zero (.retrainAttemptTimeout 2); s.linkSt 2 = 1 ∧ (s.link 2).since + 105000 ≤ s.clock)
    ∧ (let s := lk 0 0 .zero (.d2dLinkFailure 0 1); mapWf Die.zero s.dies = true)
    ∧ (let s := lk 0 105 .zero (.linkControlFlitInterval 2); s.linkSt 2 ≠ 1 ∧ s.linkSt 2 ≠ 3 ∧ (s.link 2).told + 105 ≤ s.clock)
    ∧ (let s := lk 0 0 .zero (.linkFlushEcho 1 0 0 0); s.fab.held = []) := by decide +kernel

end Sys2Proof.Tests
end

section
/-! PROOFS. Guards: what a predicate term asks of the context (R13), and the guard as its terms and its resource condition. -/

namespace Sys2Proof.Proofs
open Sys2Proof Sys2Proof.Machine

/-- A term matches a predicate whose value is the opposite of the term's polarity (R13). -/
theorem termMatch_iff (y : Term) (c : Ctx) : termMatch y c = true ↔ c.p y.p = !y.pol := by
  rw [termMatch, bne_iff_ne, Bool.eq_not]

/-- A term that is not enabled always matches (R13). -/
theorem termHolds_iff (x : Option Term) (c : Ctx) : termHolds x c = true ↔ ∀ y, x = some y → c.p y.p = !y.pol := by
  cases x with
  | none => simp [termHolds]
  | some y => simp [termHolds, termMatch_iff]

theorem guardHolds_eq_true_iff (r : Rule) (t : Tile) (c : Fin 8) : Machine.guardHolds r t c = true ↔
    (∀ x ∈ [r.t0, r.t1, r.t2], termHolds x (t.ctx c) = true) ∧ condHolds r.cond t c = true := by
  simp [Machine.guardHolds, and_assoc]

/-- Settles O37: the guard is the conjunction of its three terms and its condition, and each term is read by `termHolds_iff`. -/
theorem guardHolds : Obligations.GuardHolds := by
  unfold Obligations.GuardHolds
  intro r t c
  simp only [guardHolds_eq_true_iff, termHolds_iff]

end Sys2Proof.Proofs
end

section
/-! PROOFS. Fields of a rule slot: a field by the bits of the word it stands in, and the layouts of predicate terms and predicate
writes (R41, R43). -/

namespace Sys2Proof.Proofs
open Sys2Proof

theorem toNat_fld {w : Nat} (x : BitVec w) (lo n : Nat) : (fld x lo n).toNat = x.toNat / 2 ^ lo % 2 ^ n := by
  rw [fld, BitVec.extractLsb'_toNat, Nat.shiftRight_eq_div_pow]

theorem toNat_fld_zero {w : Nat} (x : BitVec w) (n : Nat) : (fld x 0 n).toNat = x.toNat % 2 ^ n := by
  rw [toNat_fld, Nat.pow_zero, Nat.div_one]

/-- A one-bit field holds the bit at its place. -/
theorem fld_one_eq_one_iff {w : Nat} (x : BitVec w) (lo : Nat) : fld x lo 1 = 1#1 ↔ x.getLsbD lo = true := by
  rw [← BitVec.toNat_inj, toNat_fld, ← BitVec.testBit_toNat, Nat.testBit_eq_decide_div_mod_eq, decide_eq_true_iff]
  rfl

theorem bit1_fld {w : Nat} (x : BitVec w) (lo : Nat) : bit1 (fld x lo 1) = x.getLsbD lo := by
  rw [Bool.eq_iff_iff, bit1, beq_iff_eq, fld_one_eq_one_iff]

/-- A requirement on a value that has passed every check so far fails with its own code. -/
theorem req_ok {α : Type} (a : α) (code : Nat) (b : Bool) : (Chk.ok a).req code b = if b then .ok a else .bad code := rfl

/-- R41: EN is bit 5, POL bit 4 and IDX the four bits below; without EN nothing else may be set. -/
theorem dTerm_eq (x : BitVec 6) : dTerm x =
    if x.getLsbD 5 then .ok (some ⟨x.getLsbD 4, Fin.ofNat 16 (x.toNat % 16)⟩) else if x = 0 then .ok none else .bad 1 := by
  have idx : (fld x 0 4).toNat = x.toNat % 16 := toNat_fld_zero x 4
  simp only [dTerm, fld_one_eq_one_iff, bit1_fld, idx, fin, req_ok, beq_iff_eq, BitVec.ofNat_eq_ofNat]

/-- R43: EN is bit 6, SRC bits 5 and 4 and IDX the four bits below; without EN nothing else may be set. -/
theorem dPw_eq (x : BitVec 7) : dPw x =
    if x.getLsbD 6 then
      .ok (some ⟨match x.toNat / 16 % 4 with | 0 => .clear | 1 => .set | 2 => .rc | _ => .toggle, Fin.ofNat 16 (x.toNat % 16)⟩)
    else if x = 0 then .ok none else .bad 1 := by
  have src : (fld x 4 2).toNat = x.toNat / 16 % 4 := toNat_fld x 4 2
  have idx : (fld x 0 4).toNat = x.toNat % 16 := toNat_fld_zero x 4
  simp only [dPw, fld_one_eq_one_iff, src, idx, fin, req_ok, beq_iff_eq, BitVec.ofNat_eq_ofNat]
  <;> rfl -- the two matches on SRC, where the files are built apart

/-- Settles O36: both decoders read their fields at the places that R41 and R43 give them. -/
theorem predicateFieldLayouts : Obligations.PredicateFieldLayouts := by
  unfold Obligations.PredicateFieldLayouts
  exact ⟨dTerm_eq, dPw_eq⟩

end Sys2Proof.Proofs
end

section
/-! PROOFS. Integers of a type's width: the value a bit pattern stands for, its range, and fitting an exact result (R87, R116). -/

namespace Sys2Proof.Proofs
open Sys2Proof Sys2Proof.Machine

theorem width_pos (t : ITy) : 0 < t.width := by cases t <;> decide
theorem width_le_word (t : ITy) : t.width ≤ 64 := by cases t <;> decide

/-- 2^w is twice the weight of the sign bit. -/
theorem two_pow_width (t : ITy) : (2 : Int) ^ t.width = 2 * 2 ^ (t.width - 1) := by
  rw [← pow_succ', Nat.sub_add_cancel (width_pos t)]

theorem low_nonneg_lt (w : Nat) (x : Word) : 0 ≤ (low w x : Int) ∧ (low w x : Int) < 2 ^ w :=
  ⟨Int.natCast_nonneg _, by exact_mod_cast Nat.mod_lt x.toNat (Nat.two_pow_pos w)⟩

theorem signedOf_modEq (w n : Nat) : signedOf w n ≡ n [ZMOD 2 ^ w] := by
  unfold signedOf
  split
  · exact Int.modEq_iff_dvd.mpr ⟨1, by ring⟩
  · rfl

theorem srcVal_modEq_low (t : ITy) (x : Word) : srcVal t x ≡ low t.width x [ZMOD 2 ^ t.width] := by
  unfold srcVal
  split
  · exact signedOf_modEq _ _
  · rfl

theorem srcVal_mem_Icc (t : ITy) (x : Word) : srcVal t x ∈ Set.Icc (ITy.lo t) (ITy.hi t) := by
  have h := low_nonneg_lt t.width x
  have half : (0 : Int) < 2 ^ (t.width - 1) := by positivity
  have sign : 2 ^ (t.width - 1) ≤ low t.width x ↔ (2 : Int) ^ (t.width - 1) ≤ low t.width x := by norm_cast
  simp only [Set.mem_Icc, srcVal, signedOf, ITy.lo, ITy.hi, sign, two_pow_width] at h ⊢
  split_ifs <;> omega

theorem lo_le_hi (t : ITy) : ITy.lo t ≤ ITy.hi t := (srcVal_mem_Icc t 0).1.trans (srcVal_mem_Icc t 0).2

theorem hi_sub_lo (t : ITy) : ITy.hi t - ITy.lo t = 2 ^ t.width - 1 := by
  rw [ITy.hi, ITy.lo, two_pow_width]
  split <;> ring

/-- The range of a type is one value short of the modulus, so a residue has at most one representative in it. -/
theorem eq_of_modEq_of_mem_Icc {t : ITy} {a b : Int} (h : a ≡ b [ZMOD 2 ^ t.width]) (ha : a ∈ Set.Icc (ITy.lo t) (ITy.hi t))
    (hb : b ∈ Set.Icc (ITy.lo t) (ITy.hi t)) : a = b := by
  have close : |a - b| < 2 ^ t.width := by
    have := hi_sub_lo t
    rw [Set.mem_Icc] at ha hb
    rw [abs_lt]
    omega
  exact Int.sub_eq_zero.mp (Int.eq_zero_of_abs_lt_dvd h.symm.dvd close)

theorem low_ofInt {w : Nat} (h : w ≤ 64) (y : Int) : (low w (BitVec.ofInt 64 y) : Int) = y % 2 ^ w := by
  rw [low, Int.natCast_mod, BitVec.toNat_ofInt, Int.toNat_of_nonneg (Int.emod_nonneg y (by positivity))]
  exact_mod_cast Int.emod_emod_of_dvd y (pow_dvd_pow 2 h)

/-- Extending a wrapped value to 64 bits leaves its low w bits alone (R111). -/
theorem low_wrapTo (t : ITy) (x : Int) : (low t.width (wrapTo t x) : Int) = x % 2 ^ t.width := by
  have natural : ((x % 2 ^ t.width).toNat : Int) = x % 2 ^ t.width := Int.toNat_of_nonneg (Int.emod_nonneg x (by positivity))
  rw [wrapTo, low_ofInt (width_le_word t)]
  split
  · rw [signedOf_modEq, natural, Int.emod_emod]
  · rw [natural, Int.emod_emod]

/-- A wrapped value agrees with the exact one modulo 2^w. -/
theorem srcVal_wrapTo_modEq (t : ITy) (x : Int) : srcVal t (wrapTo t x) ≡ x [ZMOD 2 ^ t.width] := by
  have h := srcVal_modEq_low t (wrapTo t x)
  rw [low_wrapTo] at h
  exact h.trans (Int.mod_modEq x _)

theorem srcVal_wrapTo_of_mem_Icc {t : ITy} {x : Int} (h : x ∈ Set.Icc (ITy.lo t) (ITy.hi t)) : srcVal t (wrapTo t x) = x :=
  eq_of_modEq_of_mem_Icc (srcVal_wrapTo_modEq t x) (srcVal_mem_Icc t _) h

theorem fit_sat_of_mem_Icc {t : ITy} {x : Int} (h : x ∈ Set.Icc (ITy.lo t) (ITy.hi t)) : fit t true x = aval (wrapTo t x) := by
  simp [fit, h.1.not_gt, h.2.not_gt]

theorem fit_sat_of_lt_lo {t : ITy} {x : Int} (h : x < ITy.lo t) : fit t true x = ⟨wrapTo t (ITy.lo t), fSA, false⟩ := by
  simp [fit, h]

theorem fit_sat_of_hi_lt {t : ITy} {x : Int} (h : ITy.hi t < x) : fit t true x = ⟨wrapTo t (ITy.hi t), fSA, false⟩ := by
  simp [fit, h, ((lo_le_hi t).trans_lt h).not_gt]

/-- R87 with SAT, below, above and within the range of the type. -/
theorem fit_sat (t : ITy) (x : Int) : srcVal t (fit t true x).w = max (ITy.lo t) (min (ITy.hi t) x)
    ∧ (fit t true x).fl = if ITy.lo t ≤ x ∧ x ≤ ITy.hi t then fNone else fSA := by
  have order := lo_le_hi t
  rcases lt_or_ge x (ITy.lo t) with below | above
  · rw [fit_sat_of_lt_lo below, srcVal_wrapTo_of_mem_Icc ⟨le_rfl, order⟩, if_neg fun h => h.1.not_gt below]
    exact ⟨by omega, rfl⟩
  rcases lt_or_ge (ITy.hi t) x with beyond | within
  · rw [fit_sat_of_hi_lt beyond, srcVal_wrapTo_of_mem_Icc ⟨order, le_rfl⟩, if_neg fun h => h.2.not_gt beyond]
    exact ⟨by omega, rfl⟩
  · rw [fit_sat_of_mem_Icc ⟨above, within⟩, aval, srcVal_wrapTo_of_mem_Icc ⟨above, within⟩, if_pos ⟨above, within⟩]
    exact ⟨by omega, rfl⟩

theorem srcVal_eq (t : ITy) (x : Word) : srcVal t x = if ITy.signed t = true ∧ 2 ^ (t.width - 1) ≤ x.toNat % 2 ^ t.width
    then ((x.toNat % 2 ^ t.width : Nat) : Int) - 2 ^ t.width else ((x.toNat % 2 ^ t.width : Nat) : Int) := by
  rw [ite_and]
  rfl

/-- Settles O48: an unsaturated result agrees with the exact one modulo 2^w, and a saturated one is clamped by `fit_sat`. -/
theorem integerResultWrapsOrSaturates : Obligations.IntegerResultWrapsOrSaturates := by
  unfold Obligations.IntegerResultWrapsOrSaturates
  refine ⟨srcVal_eq, fun t x => ⟨⟨?_, rfl⟩, fit_sat t x⟩⟩
  exact Int.emod_eq_zero_of_dvd (srcVal_wrapTo_modEq t x).symm.dvd

end Sys2Proof.Proofs
end

section
/-! PROOFS. Rule slots: reading back the guard half and the operation half of the slot that encodes a well-formed rule (R40 to R62). -/

namespace Sys2Proof.Proofs
open Sys2Proof Sys2Proof.Laws

/-- The decoder reads every well-formed operation back: one lemma an operation, and what is an event has no word. -/
theorem decodeOp_encodeOp {i : Instr} {w : Word} (hw : i.wf = true) (h : encodeOp i = some w) : decodeOp w = .ok i := by
  suffices RoundTrip.Statement i from this w hw h
  cases i with
  | nop => exact RoundTrip.nop | add => exact RoundTrip.add _ _ _ _ _ | sub => exact RoundTrip.sub _ _ _ _ _
  | mul => exact RoundTrip.mul _ _ _ _ _ | div => exact RoundTrip.div _ _ _ _ _ | mulh => exact RoundTrip.mulh _ _ _ _
  | rem => exact RoundTrip.rem _ _ _ _ | and => exact RoundTrip.and _ _ _ _ | or => exact RoundTrip.or _ _ _ _
  | xor => exact RoundTrip.xor _ _ _ _ | andn => exact RoundTrip.andn _ _ _ _ | shl => exact RoundTrip.shl _ _ _ _
  | shr => exact RoundTrip.shr _ _ _ _ | sra => exact RoundTrip.sra _ _ _ _ | rol => exact RoundTrip.rol _ _ _ _
  | ror => exact RoundTrip.ror _ _ _ _ | min => exact RoundTrip.min _ _ _ _ | max => exact RoundTrip.max _ _ _ _
  | clz => exact RoundTrip.clz _ _ _ | ctz => exact RoundTrip.ctz _ _ _ | popc => exact RoundTrip.popc _ _ _
  | bext => exact RoundTrip.bext _ _ _ _ _ | bins => exact RoundTrip.bins _ _ _ _ | sel => exact RoundTrip.sel _ _ _ _
  | cmp => exact RoundTrip.cmp _ _ _ _ _ | addi => exact RoundTrip.addi _ _ _ | andi => exact RoundTrip.andi _ _ _
  | ori => exact RoundTrip.ori _ _ _ | xori => exact RoundTrip.xori _ _ _ | shli => exact RoundTrip.shli _ _ _
  | shri => exact RoundTrip.shri _ _ _ | srai => exact RoundTrip.srai _ _ _ | roli => exact RoundTrip.roli _ _ _
  | cmpi => exact RoundTrip.cmpi _ _ _ _ _ | li => exact RoundTrip.li _ _ | lih => exact RoundTrip.lih _ _
  | lea => exact RoundTrip.lea _ _ _ _ | sext => exact RoundTrip.sext _ _ _ | zext => exact RoundTrip.zext _ _ _
  | mov => exact RoundTrip.mov _ _ | fadd => exact RoundTrip.fadd _ _ _ _ _ | fsub => exact RoundTrip.fsub _ _ _ _ _
  | fmul => exact RoundTrip.fmul _ _ _ _ _ | fdiv => exact RoundTrip.fdiv _ _ _ _ _ | fsqrt => exact RoundTrip.fsqrt _ _ _ _
  | ffma => exact RoundTrip.ffma _ _ _ _ _ _ _ | fmin => exact RoundTrip.fmin _ _ _ _ | fmax => exact RoundTrip.fmax _ _ _ _
  | fcmp => exact RoundTrip.fcmp _ _ _ _ _ | fclass => exact RoundTrip.fclass _ _ _ | fcvt => exact RoundTrip.fcvt _ _ _ _ _
  | fcvti => exact RoundTrip.fcvti _ _ _ _ | icvtf => exact RoundTrip.icvtf _ _ _ _ _ | fxcvt => exact RoundTrip.fxcvt _ _ _
  | fneg => exact RoundTrip.fneg _ _ _ | fabs => exact RoundTrip.fabs _ _ _ | fcpsgn => exact RoundTrip.fcpsgn _ _ _ _
  | fflag => exact RoundTrip.fflag _ _ | fflagClr => exact RoundTrip.fflagClr _ _ | pand => exact RoundTrip.pand _ _ _
  | por => exact RoundTrip.por _ _ _ | pxor => exact RoundTrip.pxor _ _ _ | pandn => exact RoundTrip.pandn _ _ _
  | pnot => exact RoundTrip.pnot _ _ | pmov => exact RoundTrip.pmov _ _ | recv => exact RoundTrip.recv _ _
  | tryrecv => exact RoundTrip.tryrecv _ _ _ | send => exact RoundTrip.send _ _ _ | trysend => exact RoundTrip.trysend _ _ _ _
  | peek => exact RoundTrip.peek _ _ | trypeek => exact RoundTrip.trypeek _ _ _ | tagh => exact RoundTrip.tagh _ _
  | chreset => exact RoundTrip.chreset _ | pset => exact RoundTrip.pset _ | pclr => exact RoundTrip.pclr _
  | chcount => exact RoundTrip.chcount _ _ | chfree => exact RoundTrip.chfree _ _ | done => exact RoundTrip.done _
  | yield => exact RoundTrip.yield | handover => exact RoundTrip.handover | trap => exact RoundTrip.trap _ _
  | watch => exact RoundTrip.watch _ _ _ _ | unwatch => exact RoundTrip.unwatch _ | sleep => exact RoundTrip.sleep _
  | bkpt => exact RoundTrip.bkpt _ | vadd => exact RoundTrip.vadd _ _ _ _ _ | vsub => exact RoundTrip.vsub _ _ _ _ _
  | vmul => exact RoundTrip.vmul _ _ _ _ _ | vfma => exact RoundTrip.vfma _ _ _ _ _ _ _ _ | vdiv => exact RoundTrip.vdiv _ _ _ _ _
  | vmin => exact RoundTrip.vmin _ _ _ _ _ | vmax => exact RoundTrip.vmax _ _ _ _ _ | vabs => exact RoundTrip.vabs _ _ _ _
  | vneg => exact RoundTrip.vneg _ _ _ _ | vadds => exact RoundTrip.vadds _ _ _ _ _ | vsubs => exact RoundTrip.vsubs _ _ _ _ _
  | vand => exact RoundTrip.vand _ _ _ _ _ | vor => exact RoundTrip.vor _ _ _ _ _ | vxor => exact RoundTrip.vxor _ _ _ _ _
  | vshl => exact RoundTrip.vshl _ _ _ _ _ | vshr => exact RoundTrip.vshr _ _ _ _ _ | vsra => exact RoundTrip.vsra _ _ _ _ _
  | vcmp => exact RoundTrip.vcmp _ _ _ _ _ | vclass => exact RoundTrip.vclass _ _ _ _ _ | vmov => exact RoundTrip.vmov _ _ _ _
  | vbcast => exact RoundTrip.vbcast _ _ _ _ | viota => exact RoundTrip.viota _ _ _ _ | vsel => exact RoundTrip.vsel _ _ _ _ _
  | vperm => exact RoundTrip.vperm _ _ _ _ _ | vrot => exact RoundTrip.vrot _ _ _ _ _ | vext => exact RoundTrip.vext _ _ _ _
  | vins => exact RoundTrip.vins _ _ _ _ | vcompress => exact RoundTrip.vcompress _ _ _ _ | vexpand => exact RoundTrip.vexpand _ _ _ _
  | vpack => exact RoundTrip.vpack _ _ _ _ _ _ | vunpk => exact RoundTrip.vunpk _ _ _ _ _ | kand => exact RoundTrip.kand _ _ _
  | kor => exact RoundTrip.kor _ _ _ | kxor => exact RoundTrip.kxor _ _ _ | kandn => exact RoundTrip.kandn _ _ _
  | knot => exact RoundTrip.knot _ _ | kmov => exact RoundTrip.kmov _ _ | kpop => exact RoundTrip.kpop _ _
  | kfind => exact RoundTrip.kfind _ _ | vredsum => exact RoundTrip.vredsum _ _ _ _ _ | vredmin => exact RoundTrip.vredmin _ _ _ _ _
  | vredmax => exact RoundTrip.vredmax _ _ _ _ _ | vredand => exact RoundTrip.vredand _ _ _ _ _ | vredor => exact RoundTrip.vredor _ _ _ _ _
  | vredxor => exact RoundTrip.vredxor _ _ _ _ _ | vdot => exact RoundTrip.vdot _ _ _ _ _ _ | vscan => exact RoundTrip.vscan _ _ _ _ _
  | vcvt => exact RoundTrip.vcvt _ _ _ _ _ | vmxq => exact RoundTrip.vmxq _ _ _ _ _ _ | vmxd => exact RoundTrip.vmxd _ _ _ _ _ _
  | sfrcp => exact RoundTrip.sfrcp _ _ _ | sfrsqrt => exact RoundTrip.sfrsqrt _ _ _ | sfsqrt => exact RoundTrip.sfsqrt _ _ _
  | sfexp2 => exact RoundTrip.sfexp2 _ _ _ | sflog2 => exact RoundTrip.sflog2 _ _ _ | sfsinpi => exact RoundTrip.sfsinpi _ _ _
  | sfcospi => exact RoundTrip.sfcospi _ _ _ | sfsincospi => exact RoundTrip.sfsincospi _ _ _ | mma => exact RoundTrip.mma _
  | mmas => exact RoundTrip.mmas _ _ _ | mmv => exact RoundTrip.mmv _ | azero => exact RoundTrip.azero _ | aload => exact RoundTrip.aload _
  | astore => exact RoundTrip.astore _ | acvt => exact RoundTrip.acvt _ _ _ _ | ascale => exact RoundTrip.ascale _ _ _
  | aget => exact RoundTrip.aget _ _ _ _ | aput => exact RoundTrip.aput _ _ _ _ _ | aadd => exact RoundTrip.aadd _ _ _ _
  | atrans => exact RoundTrip.atrans _ _ | gcfg => exact RoundTrip.gcfg _ _ _ | gstart => exact RoundTrip.gstart _
  | gstop => exact RoundTrip.gstop _ _ | gbar => exact RoundTrip.gbar _ _ _ | ld => exact RoundTrip.ld _ _ | st => exact RoundTrip.st _ _
  | vld => exact RoundTrip.vld _ _ | vst => exact RoundTrip.vst _ _ | tamo => exact RoundTrip.tamo _ _ _
  | vgath => exact RoundTrip.vgath _ _ _ | vscat => exact RoundTrip.vscat _ _ _ | cpy => exact RoundTrip.cpy _
  | cpy2d => exact RoundTrip.cpy2d _ | drainTcm => exact RoundTrip.drainTcm _ | drainCsp => exact RoundTrip.drainCsp _
  | drainGlb => exact RoundTrip.drainGlb _ | cld => exact RoundTrip.cld _ _ | cst => exact RoundTrip.cst _ _
  | cvld => exact RoundTrip.cvld _ _ | cvst => exact RoundTrip.cvst _ _ | camo => exact RoundTrip.camo _ _ _
  | bput => exact RoundTrip.bput _ _ _ | trybput => exact RoundTrip.trybput _ _ _ _ | bget => exact RoundTrip.bget _ _
  | trybget => exact RoundTrip.trybget _ _ _ | bwait => exact RoundTrip.bwait _ _ _ | nsend => exact RoundTrip.nsend _ _ _
  | trynsend => exact RoundTrip.trynsend _ _ _ _ | nrecv => exact RoundTrip.nrecv _ _ | trynrecv => exact RoundTrip.trynrecv _ _ _
  | mmr => exact RoundTrip.mmr _ _ | cbar => exact RoundTrip.cbar _ | ldg => exact RoundTrip.ldg _ _ | stg => exact RoundTrip.stg _ _
  | vldg => exact RoundTrip.vldg _ _ | vstg => exact RoundTrip.vstg _ _ | amo => exact RoundTrip.amo _ _ _ _
  | cas => exact RoundTrip.cas _ _ _ | aincBound => exact RoundTrip.aincBound _ _ _ | fence => exact RoundTrip.fence _
  | otpub => exact RoundTrip.otpub _ | otpubCirc => exact RoundTrip.otpubCirc _ _ | otwait => exact RoundTrip.otwait _ _
  | join => exact RoundTrip.join _ _ | pfg => exact RoundTrip.pfg _ _ _ | tspawn => exact RoundTrip.tspawn _ _ _ _
  | trytspawn => exact RoundTrip.trytspawn _ _ _ _ _ | tenq => exact RoundTrip.tenq _ _ | trytenq => exact RoundTrip.trytenq _ _ _
  | tdec => exact RoundTrip.tdec _ | tinc => exact RoundTrip.tinc _ _ _ | tstatus => exact RoundTrip.tstatus _ _
  | tcancel => exact RoundTrip.tcancel _ _ _ | tparam => exact RoundTrip.tparam _ _ | tbound => exact RoundTrip.tbound _
  | rsend => exact RoundTrip.rsend _ _ _ | tryrsend => exact RoundTrip.tryrsend _ _ _ _ | rstore => exact RoundTrip.rstore _ _ _
  | rdec => exact RoundTrip.rdec _ _ | pbar => exact RoundTrip.pbar _ _ | pcomb => exact RoundTrip.pcomb _ _ _ _
  | pbcast => exact RoundTrip.pbcast _ _ _ | pabort => exact RoundTrip.pabort _ | cfgr => exact RoundTrip.cfgr _ _
  | cfgw => exact RoundTrip.cfgw _ _ _ | vfsetEnable => exact RoundTrip.vfsetEnable _ _ _ | quota => exact RoundTrip.quota _ _ _
  | wtouch => exact RoundTrip.wtouch _ _ _ | wresMobile => exact RoundTrip.wresMobile _ _ _ | wresFixed => exact RoundTrip.wresFixed _ _ _
  | wresUp => exact RoundTrip.wresUp _ _ _ | wresDown => exact RoundTrip.wresDown _ _ _ | wresQuery => exact RoundTrip.wresQuery _ _ _ _
  | csave => exact RoundTrip.csave _ _ _ | crest => exact RoundTrip.crest _ _ | ctxw => exact RoundTrip.ctxw _ _ _ _
  | xinv => exact RoundTrip.xinv _ _ _ _ _ | fqpop => exact RoundTrip.fqpop _ _ | mtret => exact RoundTrip.mtret _ _ _
  | srd => exact RoundTrip.srd _ _ | swr => exact RoundTrip.swr _ _ _
  | _ => intro w _ h; cases h

/-! ## Checks that pass -/

theorem map_eq_ok {α β : Type} {f : α → β} {x : Chk α} {b : β} : x.map f = .ok b ↔ ∃ a, x = .ok a ∧ f a = b := by
  cases x <;> simp [Chk.map]

theorem ap_eq_ok {α β : Type} {x : Chk (α → β)} {y : Chk α} {b : β} : x.ap y = .ok b ↔ ∃ f a, x = .ok f ∧ y = .ok a ∧ f a = b := by
  cases x <;> cases y <;> simp [Chk.ap]

theorem req_eq_ok {α : Type} {x : Chk α} {n : Nat} {b : Bool} {a : α} : x.req n b = .ok a ↔ x = .ok a ∧ b = true := by
  cases b <;> cases x <;> simp [Chk.req]

theorem modLt_eq_ok {α : Type} {f : FA} {n : Nat} {x : Chk α} {a : α} : modLt f n x = .ok a ↔ x = .ok a ∧ f.md.toNat < n := by
  simp [modLt, req_eq_ok]

theorem ok_of_zeroA {α : Type} {f : FA} {d a b c md : Bool} {x : Chk α} {y : α} (h : zeroA f d a b c md x = .ok y) : x = .ok y := by
  simp only [zeroA, req_eq_ok] at h
  exact h.1

/-! ## What the major of a channel or control instruction says about it -/

/-- The majors 0x30 to 0x3f are read by the decoder of the channel and control instructions. -/
theorem decChannel_of_decodeOp {w : Word} {i : Instr} (h : decodeOp w = .ok i) (lo : 0x30 ≤ (fld w 56 8).toNat) (hi : (fld w 56 8).toNat < 0x40) :
    decChannel (fld w 56 8).toNat (FA.ofWord w) = .ok i := by
  unfold decodeOp at h
  generalize (fld w 56 8).toNat = m at h lo hi ⊢
  simp only [show m ≠ 0 by omega, show ¬ m < 0x18 by omega, show ¬ m < 0x1c by omega, show m ≠ 0x1c by omega, show ¬ m < 0x30 by omega, hi,
    if_true, if_false] at h
  split at h
  · cases h
  · split at h
    · cases h
    · exact h

theorem dCI_eq_ok {x : BitVec 7} {a c : Chan} (h : dCI x = .ok a) (hx : x = spec 2 c) : a = c := by
  have e := dCI_eCI c
  rw [eCI, ← hx, h] at e
  exact Chk.ok.inj e

/-- R25, R44: of the majors 0x31 and 0x35, a dequeue and a reset take entries from the channel their A names. -/
theorem dequeues_of_decodeOp {w : Word} {i : Instr} {c : Chan} (h : decodeOp w = .ok i)
    (major : (fld w 56 8).toNat = 0x31 ∨ (fld w 56 8).toNat = 0x35) (chan : fld w 34 7 = spec 2 c) : i.dequeues = some c := by
  have d := decChannel_of_decodeOp h (by omega) (by omega)
  have reads {a : Chan} (ha : dCI (FA.ofWord w).a = .ok a) : a = c := dCI_eq_ok ha chan
  rcases major with m | m <;> simp only [m, decChannel] at d
  · split at d
    · have d := ok_of_zeroA (modLt_eq_ok.mp d).1
      simp only [ap_eq_ok, map_eq_ok] at d
      obtain ⟨_, a, ⟨x, _, rfl⟩, ha, rfl⟩ := d
      rw [reads ha]; rfl
    · have d := ok_of_zeroA (modLt_eq_ok.mp d).1
      simp only [ap_eq_ok, map_eq_ok] at d
      obtain ⟨_, p, ⟨_, a, ⟨x, _, rfl⟩, ha, rfl⟩, _, rfl⟩ := d
      rw [reads ha]; rfl
    · cases d
  · have d := ok_of_zeroA (req_eq_ok.mp d).1
    obtain ⟨a, ha, rfl⟩ := map_eq_ok.mp d
    rw [reads ha]; rfl

/-- R44: the majors 0x38 to 0x3b end or leave their context. -/
theorem endsCtx_of_decodeOp {w : Word} {i : Instr} (h : decodeOp w = .ok i) (lo : 0x38 ≤ (fld w 56 8).toNat) (hi : (fld w 56 8).toNat ≤ 0x3b) :
    i.endsCtx = true := by
  have d := decChannel_of_decodeOp h (by omega) (by omega)
  have major : (fld w 56 8).toNat = 0x38 ∨ (fld w 56 8).toNat = 0x39 ∨ (fld w 56 8).toNat = 0x3a ∨ (fld w 56 8).toNat = 0x3b := by omega
  rcases major with m | m | m | m <;> simp only [m, decChannel] at d <;> replace d := (req_eq_ok.mp d).1
  · cases ok_of_zeroA (modLt_eq_ok.mp d).1; rfl
  · cases ok_of_zeroA d; rfl
  · cases ok_of_zeroA d; rfl
  · have d := ok_of_zeroA d
    simp only [ap_eq_ok, map_eq_ok] at d
    obtain ⟨_, _, ⟨_, _, rfl⟩, _, rfl⟩ := d
    rfl

/-! ## The guard half -/

theorem dTerm_eTerm (t : Option Term) : dTerm (eTerm t) = .ok t := by
  cases t with
  | none => rfl
  | some t =>
    obtain ⟨pol, p⟩ := t
    revert pol p
    decide

theorem dPw_ePw (w : Option PWrite) : dPw (ePw w) = .ok w := by
  cases w with
  | none => rfl
  | some w =>
    obtain ⟨src, p⟩ := w
    cases src <;> revert p <;> decide

/-- The three bits above the predicate's number are 110 exactly for a write of the result condition (R27, R43). -/
theorem fld_ePw_isRc (w : Option PWrite) : (fld (ePw w) 4 3 == 6#3) = PWrite.isRc w := by
  cases w with
  | none => rfl
  | some w =>
    obtain ⟨src, p⟩ := w
    cases src <;> revert p <;> decide

theorem dCondReg_eCondReg (r : PresReg) : dCondReg (BitVec.ofNat 5 (eCondReg r).1).toNat (BitVec.ofNat 8 (eCondReg r).2).toNat = .ok r := by
  cases r <;> (rename_i r; revert r; decide)

theorem dCond_eCond (c : Cond) :
    dCond (BitVec.ofNat 3 (eCond c).1).toNat (BitVec.ofNat 5 (eCond c).2.1).toNat (BitVec.ofNat 8 (eCond c).2.2).toNat = .ok c := by
  have chan : ∀ c : Chan, fin 16 (BitVec.ofNat 5 c.val).toNat = c ∧ (BitVec.ofNat 5 c.val).toNat < 16 := by decide
  have tag (t : BitVec 8) : BitVec.ofNat 8 (BitVec.ofNat 8 t.toNat).toNat = t := by simp
  cases c with
  | always => rfl
  | count c n | space c n => revert c n; decide
  | tagEq c t | tagNe c t =>
    simp only [eCond, dCond, chan c, tag t, decide_true, Chk.req_true, show (BitVec.ofNat 3 2).toNat = 2 from rfl, show (BitVec.ofNat 3 3).toNat = 3 from rfl]
  | full r | empty r =>
    have e := dCondReg_eCondReg r
    simp only [eCond, dCond, e, Chk.map_ok, show (BitVec.ofNat 3 4).toNat = 4 from rfl, show (BitVec.ofNat 3 5).toNat = 5 from rfl]
  | idle a => revert a; decide

/-- The fields of the guard half. -/
def guardFields (r : Rule) : FSlot := FSlot.ofWord (encodeGuard r)

/-- R25, R26, R27, R44: the effects of a well-formed rule pass the check on the raw fields. -/
theorem effectsOk_guardFields {r : Rule} {w : Word} (hr : r.wf = true) (h : decodeOp w = .ok r.op) : effectsOk (guardFields r) w = true := by
  unfold guardFields encodeGuard
  rw [FSlot.ofWord_toWord]
  simp only [Rule.wf, Bool.and_eq_true] at hr
  obtain ⟨⟨⟨⟨_, dq⟩, clr⟩, rc⟩, ho⟩ := hr
  have noRc : noRcOp w = r.op.noRc := by rw [noRcOp, h]
  simp only [effectsOk, Bool.and_eq_true, fld_ePw_isRc, noRc]
  refine ⟨⟨⟨?_, ?_⟩, rc⟩, ?_⟩
  · cases hq : r.dq with
    | false => rfl
    | true =>
      have other {c : Chan} (hc : (r.op.dequeues != some c) = true) :
          (!(((fld w 56 8).toNat == 0x31 || (fld w 56 8).toNat == 0x35) && fld w 34 7 == spec 2 (BitVec.ofNat 5 c).toNat)) = true := by
        have index : spec 2 (BitVec.ofNat 5 c).toNat = spec 2 c := by rw [BitVec.toNat_ofNat, Nat.mod_eq_of_lt (by omega)]
        rw [index, Bool.not_eq_true', ← Bool.not_eq_true]
        intro clash
        simp only [Bool.and_eq_true, Bool.or_eq_true, beq_iff_eq] at clash
        rw [dequeues_of_decodeOp h clash.1 clash.2] at hc
        simp at hc
      rw [hq] at dq
      cases hc : r.cond <;> rw [hc] at dq <;> first | cases dq | exact (Bool.or_eq_true ..).mpr (.inr (other dq))
  · cases hq : r.clr with
    | false => rfl
    | true =>
      rw [hq] at clr
      cases hc : r.cond <;> rw [hc] at clr <;> first | rfl | cases clr
  · cases hq : r.ho with
    | false => rfl
    | true =>
      rw [hq] at ho
      have stays : r.op.endsCtx = false := by simpa using ho
      by_contra ends
      simp only [Bool.or_eq_true, not_or, Bool.not_eq_true', Bool.not_eq_false, Bool.and_eq_true, decide_eq_true_eq] at ends
      rw [endsCtx_of_decodeOp h ends.2.1 ends.2.2] at stays
      cases stays

/-- R40: the two halves of a well-formed rule are read back as the rule. -/
theorem decodeParts_encodeGuard {r : Rule} {w : Word} (hr : r.wf = true) (h : decodeOp w = .ok r.op) : decodeParts (encodeGuard r) w = .ok r := by
  have effects := effectsOk_guardFields hr h
  unfold guardFields encodeGuard at effects
  rw [FSlot.ofWord_toWord] at effects
  have pri : ∀ p : Fin 8, fin 8 (BitVec.ofNat 3 p.val).toNat = p := by decide
  unfold decodeParts encodeGuard
  simp only [FSlot.ofWord_toWord, dTerm_eTerm, dPw_ePw, dCond_eCond, h, effects, pri, bit1_ofB, Chk.ap_ok, Chk.req_true, beq_self_eq_true]

/-- Settles O35: the slot is the guard half above the operation's word, and each half is read back. -/
theorem ruleSlotRoundTrip : Obligations.RuleSlotRoundTrip := by
  unfold Obligations.RuleSlotRoundTrip
  intro r x hr hx
  obtain ⟨w, hw, rfl⟩ : ∃ w, encodeOp r.op = some w ∧ encodeGuard r ++ w = x := by simpa [encodeRule] using hx
  have op : decodeOp w = .ok r.op := decodeOp_encodeOp (by simp only [Rule.wf, Bool.and_eq_true] at hr; exact hr.1.1.1.1) hw
  have valid : fld (encodeGuard r ++ w) 127 1 = 1#1 := ext_hi (by decide) (ext_hi (by decide) BitVec.extractLsb'_eq_self)
  have high : fld (encodeGuard r ++ w) 64 64 = encodeGuard r := ext_hi (by decide) BitVec.extractLsb'_eq_self
  have low : fld (encodeGuard r ++ w) 0 64 = w := ext_lo (by decide) BitVec.extractLsb'_eq_self
  rw [decodeSlot, valid, high, low, decodeParts_encodeGuard hr op]
  rfl

end Sys2Proof.Proofs
end

section
/-! PROOFS. What sending a packet touches (R301, R306, R482 to R494): the pod fabric's side of the module, the registers of its dies, the
events to come and what has left the module. -/

namespace Sys2Proof.Proofs
open Sys2Proof Sys2Proof.Machine

/-- `t` is `s` but for the fabric, the dies, the events to come and what has left the module. -/
def OnlyNet (s t : State) : Prop :=
  ∃ fb ds q a o, t = { s with fab := fb, dies := ds, queue := q, agenda := a, out := o }

namespace OnlyNet
variable {s t u : State}

theorem refl (s : State) : OnlyNet s s := ⟨_, _, _, _, _, rfl⟩
theorem trans (h : OnlyNet s t) (g : OnlyNet t u) : OnlyNet s u := by
  obtain ⟨_, _, _, _, _, rfl⟩ := h
  obtain ⟨_, _, _, _, _, rfl⟩ := g
  exact ⟨_, _, _, _, _, rfl⟩
theorem foldl {α : Type} {f : State → α → State} (step : ∀ s a, OnlyNet s (f s a)) (l : List α) (s : State) : OnlyNet s (l.foldl f s) :=
  List.foldlRecOn l f (refl s) fun u hu a _ => hu.trans (step u a)

theorem mem (h : OnlyNet s t) : t.mem = s.mem := by obtain ⟨_, _, _, _, _, rfl⟩ := h; rfl
theorem tile (h : OnlyNet s t) : t.tile = s.tile := by obtain ⟨_, _, _, _, _, rfl⟩ := h; rfl
theorem clusters (h : OnlyNet s t) : t.clusters = s.clusters := by obtain ⟨_, _, _, _, _, rfl⟩ := h; rfl
theorem cur (h : OnlyNet s t) : t.cur = s.cur := by obtain ⟨_, _, _, _, _, rfl⟩ := h; rfl
theorem others (h : OnlyNet s t) : t.others = s.others := by obtain ⟨_, _, _, _, _, rfl⟩ := h; rfl
theorem clock (h : OnlyNet s t) : t.clock = s.clock := by obtain ⟨_, _, _, _, _, rfl⟩ := h; rfl
theorem fire (h : OnlyNet s t) : t.fire = s.fire := by obtain ⟨_, _, _, _, _, rfl⟩ := h; rfl

/-! ## Events, registers of dies -/

theorem push (s : State) (l : List Ev) : OnlyNet s (s.push l) := ⟨_, _, _, _, _, rfl⟩
theorem atEnd (s : State) (e : Ev) : OnlyNet s (s.atEnd e) := ⟨_, _, _, _, _, rfl⟩
theorem emit (s : State) (o : Out) : OnlyNet s (s.emit o) := ⟨_, _, _, _, _, rfl⟩
theorem later (s : State) (n : Nat) (e : Ev) : OnlyNet s (s.later n e) := by
  unfold State.later
  split <;> exact ⟨_, _, _, _, _, rfl⟩
theorem setLink (s : State) (l : Nat) (x : Link) : OnlyNet s (s.setLink l x) := ⟨_, _, _, _, _, rfl⟩
theorem fab (s : State) (x : Fabric) : OnlyNet s { s with fab := x } := ⟨_, _, _, _, _, rfl⟩
theorem meshErr (s : State) (d : Nat) : OnlyNet s (s.meshErr d) := ⟨_, _, _, _, _, rfl⟩
theorem meshDrop (s : State) (d : Nat) (t : BitVec 4) : OnlyNet s (s.meshDrop d t) := ⟨_, _, _, _, _, rfl⟩

/-! ## Links -/

theorem sendFlit (s : State) (l vc : Nat) (f : BitVec 256) : OnlyNet s (s.sendFlit l vc f) := by
  unfold State.sendFlit
  dsimp only
  split
  · exact ((setLink s l _).trans (emit _ _)).trans (later _ _ _)
  · exact (setLink s l _).trans (emit _ _)
theorem pumpN (s : State) (l n : Nat) : OnlyNet s (s.pumpN l n) := by
  induction n generalizing s with
  | zero => exact refl s
  | succ n ih =>
    unfold State.pumpN
    split
    · exact refl s
    · exact ((setLink s l _).trans (foldl (fun s f => sendFlit s l _ f) _ _)).trans (ih _)
theorem sendFlits (s : State) (l : Nat) (p : Pkt) : OnlyNet s (s.sendFlits l p) := (setLink s l _).trans (pumpN _ _ _)
theorem routeOut (s : State) (q : Nat) (came : Option Nat) (p : Pkt) : OnlyNet s (s.routeOut q came p) := by
  unfold State.routeOut
  split
  · exact sendFlits s _ p
  · exact refl s

/-! ## Packets -/

theorem sendMerged (s : State) (e : PMerge) : OnlyNet s (s.sendMerged e) := by
  unfold State.sendMerged
  split
  · exact refl s
  · exact routeOut s _ _ _
  · split
    · exact foldl (fun s p => routeOut s _ _ p) _ s
    · exact (fab s _).trans (routeOut _ _ _ _)
theorem closePort (s : State) (l w : Nat) : OnlyNet s (s.closePort l w) := by
  unfold State.closePort
  split
  · exact refl s
  · exact (fab s _).trans (sendMerged _ _)
theorem passOn (s : State) (q : Nat) (came : Option Nat) (p : Pkt) : OnlyNet s (s.passOn q came p) := by
  unfold State.passOn
  split
  · exact refl s
  · dsimp only
    split
    · exact (foldl (fun s e => closePort s _ _) _ s).trans (routeOut _ _ _ _)
    · split
      · split
        · exact routeOut s _ _ _
        · exact (fab s _).trans (later _ _ _)
      · split
        · split
          · exact (fab s _).trans (closePort _ _ _)
          · exact fab s _
        · split
          · exact (closePort s _ _).trans (routeOut _ _ _ _)
          · exact (closePort s _ _).trans ((fab _ _).trans (later _ _ _))
theorem sendPkt (s : State) (d : Nat) (q : Option Nat) (p : Pkt) : OnlyNet s (s.sendPkt d q p) := by
  unfold State.sendPkt
  dsimp only
  split
  · exact meshDrop s _ _
  split
  · split
    · exact meshErr s _
    · split
      · exact emit s _
      · exact (fab s _).trans (emit _ _)
  split
  · exact meshErr s _
  split
  · exact fab s _
  · exact passOn s _ _ _
theorem credit (s : State) (n : Nat) (c : Fin 8) (t : BitVec 4) (src : BitVec 32) (k : Nat) : OnlyNet s (s.credit n c t src k) := by
  unfold State.credit
  split
  · exact refl s
  split
  · exact atEnd s _
  · exact sendPkt s _ _ _

end OnlyNet
end Sys2Proof.Proofs
end

section
/-! PROOFS. The frame of a fire (R28, R103, R113): a relation between the register files before and after, one between the states, and what
`State.issue` leaves of them. -/

namespace Sys2Proof.Proofs
open Sys2Proof Sys2Proof.Machine

/-- The registers `b` are `a` but for the resources `W` and for flags raised. -/
structure RegsFrame (W : Res → Prop) (a b : Regs) : Prop where
  s : ∀ n, ¬ W (.s n) → b.s[n] = a.s[n]
  v : ∀ n, ¬ W (.v n) → b.v[n] = a.v[n]
  k : ∀ n, ¬ W (.k n) → b.k[n] = a.k[n]
  p : ∀ n : PReg, ¬ W (.p n) → b.p.getLsbD n.val = a.p.getLsbD n.val
  flags : ¬ W .flags → ∃ x, b.flags = a.flags ||| x
  amode : ¬ W .amode → b.amode = a.amode
  srng : ¬ W .srng → b.srng = a.srng

namespace RegsFrame
variable {W : Res → Prop} {a b c : Regs}

theorem refl (a : Regs) : RegsFrame W a a :=
  ⟨fun _ _ => rfl, fun _ _ => rfl, fun _ _ => rfl, fun _ _ => rfl, fun _ => ⟨0, by simp⟩, fun _ => rfl, fun _ => rfl⟩

theorem trans (h : RegsFrame W a b) (g : RegsFrame W b c) : RegsFrame W a c where
  s n hn := (g.s n hn).trans (h.s n hn)
  v n hn := (g.v n hn).trans (h.v n hn)
  k n hn := (g.k n hn).trans (h.k n hn)
  p n hn := (g.p n hn).trans (h.p n hn)
  flags hn := by
    obtain ⟨x, hx⟩ := h.flags hn
    obtain ⟨y, hy⟩ := g.flags hn
    exact ⟨x ||| y, by rw [hy, hx, BitVec.or_assoc]⟩
  amode hn := (g.amode hn).trans (h.amode hn)
  srng hn := (g.srng hn).trans (h.srng hn)

theorem foldl {α : Type} {f : Regs → α → Regs} {l : List α} (step : ∀ x ∈ l, ∀ r, RegsFrame W r (f r x)) (r : Regs) :
    RegsFrame W r (l.foldl f r) := by
  induction l generalizing r with
  | nil => exact refl r
  | cons x l ih => exact (step x (by simp) r).trans (ih (fun y hy => step y (by simp [hy])) _)

end RegsFrame

theorem getElem_vector_set_ne {α : Type} {n : Nat} {v : Vector α n} {i j : Fin n} (x : α) (h : j ≠ i) : (v.set i x)[j] = v[j] :=
  Vector.getElem_set_ne i.isLt j.isLt fun e => h (Fin.ext e.symm)

theorem getLsbD_setBit_ne {n : Nat} (x : BitVec n) {i j : Nat} (b : Bool) (h : j ≠ i) : (setBit x i b).getLsbD j = x.getLsbD j := by
  have hb : (BitVec.ofNat n (2 ^ i)).getLsbD j = false := by
    rw [BitVec.getLsbD_ofNat, Nat.testBit_two_pow_of_ne h.symm, Bool.and_false]
  unfold setBit
  split
  · rw [BitVec.getLsbD_or, hb, Bool.or_false]
  · rw [BitVec.getLsbD_and, BitVec.getLsbD_not, hb]
    rcases hj : x.getLsbD j <;> simp
    exact BitVec.lt_of_getLsbD hj

section regs
variable {W : Res → Prop}

theorem setS_frame {i : SReg} (h : W (.s i)) (r : Regs) (x : Word) (p : Bool) : RegsFrame W r (r.setS i x p) :=
  { RegsFrame.refl r with s := fun _ hn => getElem_vector_set_ne _ fun e => hn (e ▸ h) }
theorem setV_frame {i : VReg} (h : W (.v i)) (r : Regs) (x : VWord) (p : Bool) : RegsFrame W r (r.setV i x p) :=
  { RegsFrame.refl r with v := fun _ hn => getElem_vector_set_ne _ fun e => hn (e ▸ h) }
theorem setK_frame {i : KReg} (h : W (.k i)) (r : Regs) (x : KWord) (p : Bool) : RegsFrame W r (r.setK i x p) :=
  { RegsFrame.refl r with k := fun _ hn => getElem_vector_set_ne _ fun e => hn (e ▸ h) }
theorem setP_frame {i : PReg} (h : W (.p i)) (r : Regs) (b : Bool) : RegsFrame W r (r.setP i b) :=
  { RegsFrame.refl r with p := fun _ hn => getLsbD_setBit_ne _ _ fun e => hn (Fin.ext e ▸ h) }

/-- The resource of a short system register. -/
def sysRes : SysW → Res | .flags => .flags | .amode => .amode | .srng => .srng
/-- The resource of a register with a presence bit. -/
def presRes : PresReg → Res | .s i => .s i | .v i => .v i | .k i => .k i
/-- The resource that a write names. -/
def wrRes : Wr → Res
  | .s r _ _ => .s r | .v r _ _ => .v r | .k r _ _ => .k r | .p r _ => .p r | .sys r _ => sysRes r | .clr _ => .flags | .eg c _ => .eg c

theorem setSys_frame {i : SysW} (h : W (sysRes i)) (r : Regs) (w : Word) : RegsFrame W r (r.setSys i w) := by
  cases i with
  | flags => exact { RegsFrame.refl r with flags := fun hn => absurd h hn }
  | amode => exact { RegsFrame.refl r with amode := fun hn => absurd h hn }
  | srng => exact { RegsFrame.refl r with srng := fun hn => absurd h hn }

theorem setFull_frame {i : PresReg} (h : W (presRes i)) (r : Regs) (b : Bool) : RegsFrame W r (r.setFull i b) := by
  cases i with
  | s i => exact { RegsFrame.refl r with s := fun _ hn => getElem_vector_set_ne _ fun e => hn (e ▸ h) }
  | v i => exact { RegsFrame.refl r with v := fun _ hn => getElem_vector_set_ne _ fun e => hn (e ▸ h) }
  | k i => exact { RegsFrame.refl r with k := fun _ hn => getElem_vector_set_ne _ fun e => hn (e ▸ h) }

theorem applyPws_frame {ws : List PWrite} (h : ∀ w ∈ ws, W (.p w.p)) (rc : Bool) (r : Regs) : RegsFrame W r (applyPws ws rc r) := by
  refine RegsFrame.foldl (fun w hw r => ?_) r
  unfold pwApply
  split <;> exact setP_frame (h w hw) r _

/-- What `Ctx.append` does to the registers of a context: nothing. -/
@[simp] theorem append_regs (c : Ctx) (ch : Chan) (es : List Entry) (slot cyc : Nat) : (c.append ch es slot cyc).regs = c.regs := by
  unfold Ctx.append
  split
  · rfl
  · dsimp only
    split <;> simp

theorem wr_frame {w : Wr} (h : W (wrRes w)) (slot cyc : Nat) (c : Ctx) : RegsFrame W c.regs (w.apply slot cyc c).regs := by
  cases w with
  | s r x p => exact setS_frame h _ x p
  | v r x p => exact setV_frame h _ x p
  | k r x p => exact setK_frame h _ x p
  | p r b => exact setP_frame h _ b
  | sys r x => exact setSys_frame h _ x
  | clr m => exact { RegsFrame.refl c.regs with flags := fun hn => absurd h hn }
  | eg ch es =>
    rw [show (Wr.eg ch es).apply slot cyc c = c.append ch es slot cyc from rfl, append_regs]
    exact RegsFrame.refl _

theorem wrs_frame {ws : List Wr} (h : ∀ w ∈ ws, W (wrRes w)) (slot cyc : Nat) (c : Ctx) :
    RegsFrame W c.regs (ws.foldl (fun c w => w.apply slot cyc c) c).regs := by
  induction ws generalizing c with
  | nil => exact RegsFrame.refl _
  | cons w ws ih => exact (wr_frame (h w (by simp)) slot cyc c).trans (ih (fun x hx => h x (by simp [hx])) _)

theorem raise_frame (c : Ctx) (cyc : Nat) (fl : Fl) : RegsFrame W c.regs (c.raise cyc fl).regs :=
  { RegsFrame.refl c.regs with flags := fun _ => ⟨fl, rfl⟩ }

/-- A writeback changes the registers that its writes and predicate writes name, and SRNG when it advances it. -/
theorem write_frame {o : Op} (hw : ∀ w ∈ o.wr, W (wrRes w)) (hp : ∀ w ∈ o.pws, W (.p w.p)) (hs : o.srng ≠ none → W .srng)
    (cyc : Nat) (c : Ctx) : RegsFrame W c.regs (o.write cyc c).regs := by
  unfold Op.write
  refine RegsFrame.trans ?_ (raise_frame _ _ _)
  split
  · rw [Ctx.stop_regs]
    exact applyPws_frame (fun w h => hp w (List.mem_of_mem_filter h)) _ _
  · refine RegsFrame.trans (b := (match o.srng with | some x => c.setRegs { c.regs with srng := x } | none => c).regs) ?_
      ((wrs_frame hw _ _ _).trans (applyPws_frame hp _ _))
    cases hx : o.srng with
    | none => exact RegsFrame.refl _
    | some x => exact { RegsFrame.refl c.regs with srng := fun hn => absurd (hs (by simp [hx])) hn }

end regs

/-! ## Tiles and states -/

/-- The tile `u` is `t` but for the resources `W` of context `c`, the accumulators `A`, and what no program reads as memory or registers. -/
structure TileFrame (W : Res → Prop) (c : Fin 8) (A : Fin 4 → Prop) (t u : Tile) : Prop where
  tcm : u.tcm = t.tcm
  regs : RegsFrame W (t.ctx c).regs (u.ctx c).regs
  other : ∀ d, d ≠ c → (u.ctx d).regs = (t.ctx d).regs
  acc : ∀ n, ¬ A n → u.acc[n] = t.acc[n]

namespace TileFrame
variable {W : Res → Prop} {c : Fin 8} {A : Fin 4 → Prop} {t u v : Tile}

theorem of_eq (ht : u.tcm = t.tcm) (hc : u.ctxs = t.ctxs) (ha : u.acc = t.acc) : TileFrame W c A t u where
  tcm := ht
  regs := by rw [show u.ctx c = t.ctx c from by simp only [Tile.ctx, hc]]; exact RegsFrame.refl _
  other d _ := by simp only [Tile.ctx, hc]
  acc n _ := by rw [ha]
theorem refl (t : Tile) : TileFrame W c A t t := of_eq rfl rfl rfl
theorem trans (h : TileFrame W c A t u) (g : TileFrame W c A u v) : TileFrame W c A t v where
  tcm := g.tcm.trans h.tcm
  regs := h.regs.trans g.regs
  other d hd := (g.other d hd).trans (h.other d hd)
  acc n hn := (g.acc n hn).trans (h.acc n hn)
theorem modCtx (t : Tile) {f : Ctx → Ctx} (h : RegsFrame W (t.ctx c).regs (f (t.ctx c)).regs) : TileFrame W c A t (t.modCtx c f) where
  tcm := rfl
  regs := by rw [Tile.ctx_modCtx_self]; exact h
  other d hd := by rw [Tile.ctx_modCtx_other _ _ hd]
  acc _ _ := rfl
/-- A change of a context that keeps its registers. -/
theorem modCtx_keep (t : Tile) {f : Ctx → Ctx} (h : ∀ x, (f x).regs = x.regs) : TileFrame W c A t (t.modCtx c f) :=
  modCtx t (by rw [h]; exact RegsFrame.refl _)
theorem setAcc (t : Tile) {n : Fin 4} (h : A n) (x : Acc) : TileFrame W c A t (t.setAcc n x) :=
  { refl (A := A) t with acc := fun _ hm => getElem_vector_set_ne _ fun e => hm (e ▸ h) }
theorem modTask (t : Tile) (r : TRef) (f : TTask → TTask) : TileFrame W c A t (t.modTask r f) := of_eq rfl rfl rfl
theorem tokPub (t : Tile) (x : Ctx) (n : Nat) : TileFrame W c A t (t.tokPub x n) := by
  unfold Tile.tokPub
  split
  · exact refl t
  · split
    · exact modTask t _ _
    · exact refl t
theorem occupy (t : Tile) (i : Instr) (clk : Nat) : TileFrame W c A t (t.occupy i clk) := of_eq rfl rfl rfl

end TileFrame

/-- The state `u` is `t` but for the resources `W` of context `c` of the tile in focus, its accumulators `A`, and what is no memory. -/
structure StateFrame (W : Res → Prop) (c : Fin 8) (A : Fin 4 → Prop) (t u : State) : Prop where
  mem : u.mem = t.mem
  clusters : u.clusters = t.clusters
  cur : u.cur = t.cur
  others : u.others = t.others
  tile : TileFrame W c A t.tile u.tile

namespace StateFrame
variable {W : Res → Prop} {c : Fin 8} {A : Fin 4 → Prop} {t u v : State}

theorem onTile (t : State) {f : Tile → Tile} (h : TileFrame W c A t.tile (f t.tile)) : StateFrame W c A t (t.onTile f) := ⟨rfl, rfl, rfl, rfl, h⟩
theorem refl (t : State) : StateFrame W c A t t := ⟨rfl, rfl, rfl, rfl, .refl _⟩
theorem trans (h : StateFrame W c A t u) (g : StateFrame W c A u v) : StateFrame W c A t v :=
  ⟨g.mem.trans h.mem, g.clusters.trans h.clusters, g.cur.trans h.cur, g.others.trans h.others, h.tile.trans g.tile⟩
theorem net (h : OnlyNet t u) : StateFrame W c A t u := ⟨h.mem, h.clusters, h.cur, h.others, by rw [h.tile]; exact .refl _⟩

end StateFrame

/-! ## What an operation may write -/

/-- The resources that the fire of an operation may write. -/
def FireRes (s : State) (i : Instr) (r : Res) : Prop := r ∈ (i.footOf s.amode).wr ∨ ∃ w ∈ s.fire.pws, r = .p w.p
/-- The accumulators that it may change. -/
def FireAcc (s : State) (i : Instr) (n : Fin 4) : Prop := ∃ a ∈ i.accUse, s.fctx.accOf a = n
/-- The frame of a fire of `i` in `s`, from `t` to `u`. -/
abbrev FireFrame (s : State) (i : Instr) (t u : State) : Prop := StateFrame (FireRes s i) s.fire.ctx (FireAcc s i) t u

/-- The writes `ws` are destinations of the operation. -/
def Writes (i : Instr) (ws : List Wr) : Prop := ∀ w ∈ ws, wrRes w ∈ i.foot.wr
/-- SRNG is advanced only where it is an operand. -/
def SrngOk (s : State) (i : Instr) (x : Option (BitVec 32)) : Prop := x ≠ none → Res.srng ∈ (i.footOf s.amode).wr
/-- The effect writes destinations only, and its remaining effects stay in the frame. -/
structure Frames (s : State) (i : Instr) (x : Iss) : Prop where
  wr : Writes i x.wr
  now : Writes i x.now
  srng : SrngOk s i x.srng
  edit : ∀ t, t.cur = s.cur → t.fire = s.fire → FireFrame s i t (x.edit t)

theorem foot_wr_subset_footOf (i : Instr) (a : AMode) : i.foot.wr ⊆ (i.footOf a).wr := by
  intro r hr
  unfold Instr.footOf
  dsimp only
  split
  · exact hr
  · split <;> exact List.mem_append_left _ hr
theorem srng_mem_footOf {i : Instr} {a : AMode} (h : i.fpUse.stoch a = true) : Res.srng ∈ (i.footOf a).wr := by
  unfold Instr.footOf
  dsimp only
  split
  next e => rw [e] at h; cases h
  next => rw [if_pos h]; exact List.mem_append_right _ (by simp)

theorem Writes.fireRes {i : Instr} {ws : List Wr} (h : Writes i ws) (s : State) : ∀ w ∈ ws, FireRes s i (wrRes w) :=
  fun w hw => .inl (foot_wr_subset_footOf i _ (h w hw))
theorem pws_fireRes (s : State) (i : Instr) : ∀ w ∈ s.fire.pws, FireRes s i (.p w.p) := fun w hw => .inr ⟨w, hw, rfl⟩

/-- What a fire does with an effect stays in the frame of its operation. -/
theorem issue_frame {s : State} {i : Instr} {x : Iss} (h : Frames s i x) : FireFrame s i s (s.issue i x) := by
  let plain := s.fire.pws.filter fun w => !pwIsRc w
  let now := fun y : Ctx => x.now.foldl (fun y w => Wr.apply w s.fire.slot.toNat s.clock y) y
  have hplain : ∀ y : Ctx, RegsFrame (FireRes s i) y.regs (applyPws plain false y.regs) :=
    fun y => applyPws_frame (fun w hw => pws_fireRes s i w (List.mem_of_mem_filter hw)) _ _
  have hnow : ∀ y : Ctx, RegsFrame (FireRes s i) y.regs (now y).regs :=
    fun y => wrs_frame (h.now.fireRes s) _ _ y
  have hocc : TileFrame (FireRes s i) s.fire.ctx (FireAcc s i) s.tile ((s.tile.occupy i s.clock).tokPub s.fctx i.pub) :=
    (TileFrame.occupy _ _ _).trans (TileFrame.tokPub _ _ _)
  unfold State.issue
  dsimp only
  split
  · refine StateFrame.onTile s (f := fun t => (t.occupy i s.clock).modCtx s.fire.ctx _) ((TileFrame.occupy _ _ _).trans (TileFrame.modCtx _ ?_))
    rw [Ctx.stop_regs]
    exact hplain _
  · split
    · refine StateFrame.trans ?_ (h.edit _ rfl rfl)
      refine StateFrame.onTile s (f := fun t => ((t.occupy i s.clock).tokPub s.fctx i.pub).modCtx s.fire.ctx _)
        (hocc.trans (TileFrame.modCtx _ ((hnow _).trans ?_)))
      exact write_frame (o := { s.mkOp i x with pws := s.fire.pws }) (h.wr.fireRes s) (pws_fireRes s i) (fun e => .inl (h.srng e)) _ _
    · refine StateFrame.trans ?_ (h.edit _ rfl rfl)
      have hlong := hocc.trans (TileFrame.modCtx _ (f := fun y => (now y).setRegs (applyPws plain false (now y).regs)) ((hnow _).trans (hplain _)))
      exact ⟨rfl, rfl, rfl, rfl, hlong.trans (.of_eq rfl rfl rfl)⟩

/-- The frame of an operation from that of its effect. -/
theorem fire_frame {s t : State} {i : Instr} {x : Iss} (he : exec i s = s.fireOp i x) (hx : Frames s i x) (h : exec i s = .next t) :
    FireFrame s i s t := by
  rw [he] at h
  unfold State.fireOp at h
  split at h
  · cases h; exact issue_frame hx
  · cases h

end Sys2Proof.Proofs
end

section
/-! PROOFS. The frame of every rule operation at its fire (O41, O43): the effects of `Iss` by their shapes, each with the destinations that it
writes, and the remaining effects at the end of the fire cycle. -/

namespace Sys2Proof.Proofs
open Sys2Proof Sys2Proof.Machine

/-! ## Destinations -/

theorem fcat_wr_subset {f : Foot} {l : List Foot} (h : f ∈ l) : f.wr ⊆ (fcat l).wr := by
  induction l with
  | nil => cases h
  | cons a l ih =>
    rcases List.mem_cons.1 h with rfl | h
    · exact List.subset_append_left _ _
    · exact List.Subset.trans (ih h) (List.subset_append_right _ _)

/-- The footprint `f` is a destination of the operation. -/
def Dest (i : Instr) (f : Foot) : Prop := f.wr ⊆ i.foot.wr
theorem dest_only {i : Instr} : Dest i i.foot := List.Subset.refl _
theorem dest_of {i : Instr} {f : Foot} {l : List Foot} (h : f ∈ l) (e : i.foot = fcat l := by rfl) : Dest i f := by
  unfold Dest; rw [e]; exact fcat_wr_subset h
theorem dest0 {i : Instr} {f : Foot} {l : List Foot} (e : i.foot = fcat (f :: l) := by rfl) : Dest i f := dest_of (by simp) e
theorem dest1 {i : Instr} {a f : Foot} {l : List Foot} (e : i.foot = fcat (a :: f :: l) := by rfl) : Dest i f := dest_of (by simp) e
theorem dest2 {i : Instr} {a b f : Foot} {l : List Foot} (e : i.foot = fcat (a :: b :: f :: l) := by rfl) : Dest i f := dest_of (by simp) e
theorem dest3 {i : Instr} {a b c f : Foot} {l : List Foot} (e : i.foot = fcat (a :: b :: c :: f :: l) := by rfl) : Dest i f := dest_of (by simp) e

/-! ## Writes -/

namespace Writes
variable {i : Instr}

theorem nil : Writes i [] := fun _ hw => absurd hw List.not_mem_nil
theorem append {a b : List Wr} (ha : Writes i a) (hb : Writes i b) : Writes i (a ++ b) :=
  fun w hw => (List.mem_append.1 hw).elim (ha w) (hb w)
theorem one {w : Wr} (h : wrRes w ∈ i.foot.wr) : Writes i [w] := by simpa [Writes] using h
theorem wrS {d : SDst} (h : Dest i (wSD d)) (x : Val 64) : Writes i (Machine.wrS d x) := by
  cases d with
  | reg r => exact one (h (by simp [wSD, wS, wrRes]))
  | chan c => exact one (h (by simp [wSD, wCh, wrRes]))
  | sys r => cases r <;> exact one (h (by simp [wSD, wrRes, sysRes]))
theorem wrV {d : VDst} (h : Dest i (wVD d)) (x : Val 2048) : Writes i (Machine.wrV d x) := by
  cases d with
  | reg r => exact one (h (by simp [wVD, wV, wrRes]))
  | chan c => exact one (h (by simp [wVD, wCh, wrRes]))
theorem wrK {d : KDst} (h : Dest i (wKD d)) (x : Val 256) : Writes i (Machine.wrK d x) := by
  cases d with
  | reg r => exact one (h (by simp [wKD, wK, wrRes]))
  | chan c => exact one (h (by simp [wKD, wCh, wrRes]))
theorem wrP2 {d : PDst} (h : Dest i (wPD d)) (x : Val 128) : Writes i (Machine.wrP2 d x) := by
  cases d with
  | pair n =>
    have lo : Res.s (pairLo n) ∈ i.foot.wr := h (by simp [wPD, wS, Foot.cat])
    have hi : Res.s (pairHi n) ∈ i.foot.wr := h (by simp [wPD, wS, Foot.cat])
    have both : ∀ x y p q, Writes i [.s (pairLo n) x p, .s (pairHi n) y q] := fun x y p q => append (a := [_]) (one lo) (one hi)
    simp only [Machine.wrP2]
    split <;> exact both _ _ _ _
  | chan c => exact one (h (by simp [wPD, wCh, wrRes]))
theorem pred {d : PReg} (h : Dest i (wP d)) (b : Bool) : Writes i [.p d b] := one (h (by simp [wP, wrRes]))
theorem entries {c : Chan} (h : Res.eg c ∈ i.foot.wr) (es : List Entry) : Writes i [.eg c es] := one h
theorem moveTo {d : XDst} (h : Dest i (wXD d)) (es : List Entry) : Writes i (Machine.moveTo d es).wr := by
  cases d with
  | s d => cases d with
    | chan c => exact entries (h (by simp [wXD, wSD, wCh])) _
    | reg r => exact wrS h _
    | sys r => exact wrS h _
  | pair d => cases d with
    | chan c => exact entries (h (by simp [wXD, wPD, wCh])) _
    | pair n => exact wrP2 h _
  | k d => cases d with
    | chan c => exact entries (h (by simp [wXD, wKD, wCh])) _
    | reg r => exact wrK h _
  | v d => cases d with
    | chan c => exact entries (h (by simp [wXD, wVD, wCh])) _
    | reg r => exact wrV h _

end Writes

/-! ## SRNG -/

namespace SrngOk
variable {s : State} {i : Instr}

theorem none : SrngOk s i none := fun h => absurd rfl h
theorem out {v : FEnv} (h : v.r = .rs → i.fpUse.stoch s.amode = true) (x : BitVec 32) : SrngOk s i (v.out x) := by
  intro hx
  refine srng_mem_footOf (h ?_)
  unfold FEnv.out at hx
  split at hx
  next e => exact beq_iff_eq.1 e
  next => exact absurd rfl hx
/-- A rounding under the operation's own RM. -/
theorem rm {r : Rm} (h : i.fpUse = .rounds r) {v : FEnv} (hv : v.r = rndOf r s.amode) (x : BitVec 32) : SrngOk s i (v.out x) :=
  out (fun e => by rw [h]; simp [FpUse.stoch, ← hv, e]) x
/-- A rounding to nearest. -/
theorem rn {v : FEnv} (hv : v.r = .rn) (x : BitVec 32) : SrngOk s i (v.out x) := out (fun e => by rw [hv] at e; cases e) x
theorem varith {t : VArith} (h : i.fpUse = t.use) (x : BitVec 32) : SrngOk s i ((s.fenv (VArith.rm t)).out x) := by
  cases t with
  | int t b => exact rn rfl x
  | fx f b => exact rn rfl x
  | fp t r => exact rm h rfl x
theorem aarith {t : AArith} (h : i.fpUse = t.use) (x : BitVec 32) : SrngOk s i ((s.menv (AArith.rm t)).out x) := by
  cases t with
  | f32 r => exact rm h rfl x
  | f64 r => exact rm h rfl x
  | i32 b => exact rn rfl x
theorem vcvt {c : VCvt} (h : i.fpUse = c.use) (x : BitVec 32) :
    SrngOk s i (if VCvt.rounds c then (s.fenv (VCvt.rm c)).out x else Option.none) := by
  cases c with
  | ifx f t b r => exact none
  | _ => exact rm h rfl x
theorem acvt {c : ACvt} (h : i.fpUse = c.use) (x : BitVec 32) :
    SrngOk s i (if ACvt.rounds c then (s.menv (ACvt.rm c)).out x else Option.none) := by
  cases c with
  | ii t b => exact none
  | _ => exact rm h rfl x

end SrngOk

/-! ## Effects by their shapes -/

namespace Frames
variable {s : State} {i : Instr}

theorem zero : Frames s i .zero := ⟨.nil, .nil, .none, fun t _ _ => .refl t⟩
theorem trap (x : StopInfo) : Frames s i (.trap x) := ⟨.nil, .nil, .none, fun t _ _ => .refl t⟩
theorem ed {f : State → State} (h : ∀ t, t.cur = s.cur → t.fire = s.fire → FireFrame s i t (f t)) : Frames s i (.ed f) := ⟨.nil, .nil, .none, h⟩
theorem put {wr : List Wr} (h : Writes i wr) (rc : Bool) : Frames s i (.put wr rc) := ⟨h, .nil, .none, fun t _ _ => .refl t⟩
theorem withEdit {x : Iss} (hx : Frames s i x) {f : State → State} (h : ∀ t, t.cur = s.cur → t.fire = s.fire → FireFrame s i t (f t)) :
    Frames s i { x with edit := f } := ⟨hx.wr, hx.now, hx.srng, h⟩
theorem ite {c : Prop} [Decidable c] {x y : Iss} (hx : Frames s i x) (hy : Frames s i y) : Frames s i (if c then x else y) := by
  split
  · exact hx
  · exact hy

/-- A result with poison and flags (R105, R113). -/
theorem resIss {ps : List (Option Word)} {hard : Bool} {bad : Word → List Wr} {div0 : Bool} {fl : Fl} {srng : Option (BitVec 32)}
    {good : List Wr} {rc : Bool} (hb : ∀ pl, Writes i (bad pl)) (hg : Writes i good) (hs : SrngOk s i srng) :
    Frames s i (s.resIss ps hard bad div0 fl srng good rc) := by
  unfold State.resIss
  split
  · exact ⟨hb _, .nil, .none, fun t _ _ => .refl t⟩
  · split
    · exact ⟨hb _, .nil, hs, fun t _ _ => .refl t⟩
    · split
      · exact ⟨hb _, .nil, hs, fun t _ _ => .refl t⟩
      · exact ⟨hg, .nil, hs, fun t _ _ => .refl t⟩
theorem sIss {d : SDst} {ps : List (Option Word)} {div0 : Bool} {fl : Fl} {srng : Option (BitVec 32)} {w : Word} {rc : Bool}
    (hd : Dest i (wSD d)) (hs : SrngOk s i srng) : Frames s i (s.sIss d ps div0 fl srng w rc) :=
  resIss (fun _ => .wrS hd _) (.wrS hd _) hs
theorem iIss {d : SDst} {ps : List (Option Word)} {r : ARes} (hd : Dest i (wSD d)) : Frames s i (s.iIss d ps r) := sIss hd .none
theorem pIss {d : PReg} {ps : List (Option Word)} {fl : Fl} {b : Bool} (hd : Dest i (wP d)) : Frames s i (s.pIss d ps fl b) :=
  resIss (fun _ => .nil) (.pred hd _) .none
theorem fIss {d : SDst} {ps : List (Option Word)} {v : FEnv} {f : FFmt} {r : FRes} (hd : Dest i (wSD d))
    (hs : SrngOk s i (v.out r.srng)) : Frames s i (s.fIss d ps v f r) := sIss hd hs
theorem wIss {d : SDst} {a : SSrc} {v : FEnv} {r : WRes} (hd : Dest i (wSD d))
    (hs : SrngOk s i (v.out r.srng)) : Frames s i (s.wIss d a v r) := sIss hd hs
theorem vIss {d : VDst} {ps : List (Option Word)} {w : Nat} {srng : Option (BitVec 32)} {o : VOut} (hd : Dest i (wVD d))
    (hs : SrngOk s i srng) : Frames s i (s.vIss d ps w srng o) := resIss (fun _ => .wrV hd _) (.wrV hd _) hs
theorem vmapIss {m : Msk} {d : VDst} {w : Nat} {v : FEnv} {isZ : Word → Bool} {f : ElemOp} {ps : List (Option Word)}
    {xs ys zs : List Word} (hd : Dest i (wVD d)) (hs : ∀ x, SrngOk s i (v.out x)) : Frames s i (s.vmapIss m d w v isZ f ps xs ys zs) :=
  vIss hd (hs _)
theorem kIss {m : Msk} {d : KDst} {n : Nat} {f : Word → Word → Bool × Fl} {ps : List (Option Word)} {xs ys : List Word}
    (hd : Dest i (wKD d)) : Frames s i (s.kIss m d n f ps xs ys) := resIss (fun _ => .wrK hd _) (.wrK hd _) .none
theorem klog {d : KDst} {ps : List (Option Word)} {x : KWord} (hd : Dest i (wKD d)) : Frames s i (s.klog d ps x) :=
  resIss (fun _ => .wrK hd _) (.wrK hd _) .none

/-- Entries moved into a destination, and the status of a twin. -/
theorem mres {r : MRes} (h : Writes i r.wr) : Frames s i r.iss := ⟨h, .nil, .none, fun t _ _ => .refl t⟩
theorem twin {r : MRes} {pc : PReg} (h : Writes i r.wr) (hp : Dest i (wP pc)) : Frames s i (r.twin pc) := by
  unfold MRes.twin
  split
  · exact ⟨h, .pred hp _, .none, fun t _ _ => .refl t⟩
  · exact ⟨h.append (.pred hp _), .nil, .none, fun t _ _ => .refl t⟩
theorem twinNo {pc : PReg} (hp : Dest i (wP pc)) : Frames s i (twinNo pc) := put (.pred hp _) _

/-- An operation that stands outstanding and writes at once nothing but `now`. -/
theorem acts {act : Act} {wr now : List Wr} {rc : Option Bool} (hw : Writes i wr) (hn : Writes i now) :
    Frames s i { Iss.zero with act := act, wr := wr, rc := rc, now := now } := ⟨hw, hn, .none, fun t _ _ => .refl t⟩
theorem matIss {j : Instr} {vals : List (Val 64)} {quad : List (Reg 2048)} {ps : List (Option Word)} {chk : List (Option StopInfo)} :
    Frames s i (s.matIss j vals quad ps chk) := by
  unfold State.matIss
  split
  · exact trap _
  · split
    · exact trap _
    · exact acts .nil .nil
theorem memIss {sp : Space} {m : MAddr} {op : MemOp} {n al : Nat} {ps : List (Option Word)} : Frames s i (s.memIss sp m op n al ps) := by
  unfold State.memIss
  dsimp only
  split
  · exact trap _
  · split
    · exact trap _
    · exact acts .nil .nil
theorem elemIss {m : MAddr} {op : MemOp} {ix : VWord} {ps : List (Option Word)} : Frames s i (s.elemIss m op ix ps) := by
  unfold State.elemIss
  dsimp only
  split
  · exact trap _
  · split
    · exact trap _
    · exact acts .nil .nil
theorem glbIss {m : MAddr} {op : MemOp} {n al : Nat} {ps : List (Option Word)} : Frames s i (s.glbIss m op n al ps) := by
  unfold State.glbIss
  dsimp only
  split
  · exact trap _
  · exact ite (trap _) (acts .nil .nil)
theorem reqIss {j : Instr} {vals : List (Val 64)} {stop : Option StopInfo} {now : List Wr} (hn : Writes i now) :
    Frames s i (s.reqIss j vals stop now) := by
  unfold State.reqIss
  split
  · exact trap _
  · split
    · exact trap _
    · exact acts .nil hn
theorem groupIss {j : Instr} {b : Val 64} {more : List (Val 64)} {root : Bool} {now : List Wr} (hn : Writes i now) :
    Frames s i (s.groupIss j b more root now) :=
  let h : Frames s i (s.reqIss j (b :: more) (s.groupStop b.bits root) now) := reqIss hn
  ⟨h.wr, h.now, h.srng, h.edit⟩
theorem rsendIss {l : BitVec 7} {a : XSrc} {t : TagSrc} {pc : Option PReg} : Frames s i (s.rsendIss l a t pc) := by
  unfold State.rsendIss
  dsimp only
  split
  · exact trap _
  · exact ite (trap _) (acts .nil .nil)
theorem tenqIss {j : Instr} {a : Val 64} : Frames s i (s.tenqIss j a) := by
  unfold State.tenqIss
  dsimp only
  split
  · exact trap _
  · refine ite (trap _) (ite (trap _) (ite (trap _) (withEdit (acts (wr := []) (rc := none) .nil .nil) fun t hc _ => ?_)))
    have hm : t.modTile s.cur (fun u => u.tcmCorr (s.fctx.tcmPa a.bits.toNat) 64) = t.onTile fun u => u.tcmCorr (s.fctx.tcmPa a.bits.toNat) 64 := by
      rw [← hc]; simp [State.modTile, State.setTile, State.tileN, State.onTile]
    rw [show t.spFix s.cur .tcm (s.fctx.tcmPa a.bits.toNat) 64 = t.modTile s.cur fun u => u.tcmCorr (s.fctx.tcmPa a.bits.toNat) 64 from rfl, hm]
    exact .onTile t (.of_eq rfl rfl rfl)
theorem bufIss {b : Nat} {tw : Bool} {d : Nat} {vec p : Bool} {a : Val 64} {ps : List (Option Word)} {x : Iss} (hx : Frames s i x) :
    Frames s i (s.bufIss b tw d vec p a ps x) := by
  unfold State.bufIss
  split
  · exact trap _
  · refine ite (trap _) (ite (trap _) (ite (trap _) (withEdit hx fun t _ _ => ?_)))
    refine StateFrame.trans ?_ (.net (.later _ _ _))
    split
    · exact .onTile t (.of_eq rfl rfl rfl)
    · exact .refl t
theorem bputIss {p : PReg} {n : Fin 8} {a : BSrc} {pc : Option PReg} (hd : Dest i (wP p)) : Frames s i (s.bputIss p n a pc) := by
  cases a with
  | tcm a => exact bufIss (acts .nil (.pred hd _))
  | vec a => exact bufIss (acts .nil (.pred hd _))
theorem bgetIss {d : BDst} {n : Fin 8} {pc : Option PReg} (hd : ∀ p a, d = .tcm p a → Dest i (wP p)) : Frames s i (s.bgetIss d n pc) := by
  cases d with
  | tcm p a => exact bufIss (acts .nil (.pred (hd p a rfl) _))
  | vec a =>
    have h (act : Act) : Frames s i { Iss.zero with act := act } := acts .nil .nil
    unfold State.bgetIss
    exact bufIss (h _)
theorem copyIss {j : Instr} {f : CpyF} {ps : List (Option Word)} {rows len : Nat} {ss ds : Int} : Frames s i (s.copyIss j f ps rows len ss ds) := by
  unfold State.copyIss
  dsimp only
  split
  · exact trap _
  · exact ite (trap _) (ed fun t _ _ => .onTile t (.of_eq rfl rfl rfl))
theorem drainIss {d : PReg} {k : DSpace} (hd : Dest i (wP d)) : Frames s i (s.drainIss d k) :=
  ite (put (.pred hd _) _) (acts (.pred hd _) (.pred hd _))
theorem accIss {a : AReg} {ps : List (Option Word)} {fl : Fl} {srng : Option (BitVec 32)} {f : Machine.Acc → Machine.Acc} (ha : a ∈ i.accUse)
    (hs : SrngOk s i srng) : Frames s i (s.accIss a ps fl srng f) := by
  have hput : ∀ (x : Machine.Acc) (t : State), FireFrame s i t (t.onTile fun u => u.setAcc (s.fctx.accOf a) x) :=
    fun x t => .onTile t (.setAcc _ ⟨a, ha, rfl⟩ x)
  unfold State.accIss
  dsimp only
  split
  · exact ed fun t _ _ => hput _ t
  · split <;> exact ⟨.nil, .nil, hs, fun t _ _ => hput _ t⟩

end Frames

/-! ## Remaining effects at the end of the fire cycle -/

section edits
variable {W : Res → Prop} {c : Fin 8} {A : Fin 4 → Prop}

theorem modCtx_frame (t : State) {f : Ctx → Ctx} (h : ∀ x, (f x).regs = x.regs) : StateFrame W c A t (t.onTile fun u => u.modCtx c f) :=
  .onTile t (.modCtx_keep _ h)
theorem endWith_frame {t : State} (hc : t.fire.ctx = c) (e : Ending) : StateFrame W c A t (t.endWith e) := hc ▸
  modCtx_frame t fun x => by dsimp only; split <;> rfl
theorem takeHand_frame {t : State} (hc : t.fire.ctx = c) : StateFrame W c A t t.takeHand := by
  subst hc
  unfold State.takeHand
  dsimp only
  split
  · exact modCtx_frame t fun x => Ctx.stop_regs _ _
  · split
    · exact modCtx_frame t fun x => rfl
    · exact .refl t
theorem dequeue_frame (t : State) (ch : Chan) (n : Nat) : StateFrame W c A t (t.dequeue c ch n) := by
  unfold State.dequeue
  refine StateFrame.trans (.onTile t ?_) (.net (.credit _ _ _ _ _ _))
  exact (TileFrame.modCtx_keep (W := W) (A := A) t.tile (f := fun x => x.deq ch n) fun _ => rfl).trans (.of_eq rfl rfl rfl)
theorem chReset_frame (t : State) (ch : Chan) : StateFrame W c A t (t.chReset c ch) := by
  unfold State.chReset
  let u := t.dequeue c ch ((t.tile.ctx c).inb[ch]).length
  let next := fun x : Ctx => { x with ib := x.ib.set ch { x.ib[ch] with gen := ((u.tile.ctx c).ib[ch]).gen + 1 } }
  have hu : TileFrame W c A u.tile (u.tile.modCtx c next) := .modCtx_keep _ fun _ => rfl
  exact (dequeue_frame t ch _).trans (.onTile _ (hu.trans (.of_eq rfl rfl rfl)))
theorem setPres_frame {t : State} (hc : t.fire.ctx = c) {d : PresReg} (h : W (presRes d)) (b : Bool) : StateFrame W c A t (t.setPres d b) :=
  hc ▸ .onTile t (.modCtx _ (setFull_frame h _ b))
theorem linkSend_frame (t : State) (q : Fin 8) (dir : Fin 4) (hold : List Nat) (k : Nat) (es : List Entry) :
    StateFrame W c A t (t.linkSend q dir hold k es) := by
  induction es generalizing t k with
  | nil => exact .refl t
  | cons e es ih =>
    unfold State.linkSend
    exact ((StateFrame.onTile t (.of_eq rfl rfl rfl)).trans (.net (.later _ _ _))).trans (ih _ _)
theorem linkTake_frame (t : State) (dir : Fin 4) (n : Nat) : StateFrame W c A t (t.linkTake dir n) :=
  (StateFrame.onTile t (.of_eq rfl rfl rfl)).trans (.net (.atEnd _ _))
theorem putStrm_frame (t : State) (g : Fin 8) (x : Strm) : StateFrame W c A t (t.putStrm g x) := .onTile t (.of_eq rfl rfl rfl)

theorem arm_frame (t : State) (f : Ctx → Ctx) (h : ∀ x, (f x).regs = x.regs) (k : Nat) (e : Ev) :
    StateFrame W c A t ((t.onTile fun u => u.modCtx c f).later k e) := (modCtx_frame t h).trans (.net (.later _ _ _))
theorem unwatch_frame (t : State) (d : PReg) (clk : Nat) : StateFrame W c A t (t.onTile fun x =>
    let r := x.recent clk c
    { (x.modCtx c fun c => c.disarm d) with last := { r with off := (x.ctx c).watches.find? fun w => w.pred == d } }) := by
  have h : TileFrame W c A t.tile (t.tile.modCtx c fun x => x.disarm d) := .modCtx_keep _ fun _ => rfl
  exact .onTile t (h.trans (.of_eq rfl rfl rfl))
theorem runStrm_frame (t : State) (x : Ctx) (n : Nat) (g : Fin 8) (y : Strm) :
    StateFrame W c A t ((t.onTile fun u => u.tokPub x n).putStrm g y) := (StateFrame.onTile t (.tokPub _ _ _)).trans (putStrm_frame _ _ _)

end edits

/-! ## Every rule operation -/

/-- The fire of every rule operation stays in its frame. -/
theorem exec_frame {i : Instr} {s t : State} (hev : i.isEvent = false) (h : exec i s = .next t) : FireFrame s i s t := by
  cases i with
  | nop => exact fire_frame rfl .zero h
  -- scalar integer instructions, moves and addresses
  | add | sub | mul | div | mulh | rem | min | max | and | or | xor | andn | shl | shr | sra | rol | ror | clz | ctz | popc | bext | sel
  | addi | andi | ori | xori | shli | shri | srai | roli | lea | sext | zext | mov => exact fire_frame rfl (.iIss dest0) h
  | bins d | lih d => exact fire_frame rfl (.iIss (dest0 (f := wSD (.reg d)))) h
  | li => exact fire_frame rfl (.iIss dest_only) h
  | cmp | cmpi | pand | por | pxor | pandn | pnot | pmov | fcmp => exact fire_frame rfl (.pIss dest0) h
  -- scalar floating point
  | fadd | fsub | fmul | fdiv | fsqrt | ffma | fcvt | icvtf => exact fire_frame rfl (.fIss dest0 (.rm rfl rfl _)) h
  | fmin | fmax | fneg | fabs | fcpsgn => exact fire_frame rfl (.fIss dest0 (.rn rfl _)) h
  | fclass | fflag => exact fire_frame rfl (.sIss dest0 .none) h
  | fcvti => exact fire_frame rfl (.wIss dest0 (.rm rfl rfl _)) h
  | fxcvt c => cases c with
    | ofFp => exact fire_frame rfl (.wIss dest0 (.rm rfl rfl _)) h
    | toFp => exact fire_frame rfl (.fIss dest0 (.rm rfl rfl _)) h
    | ofInt | toInt => exact fire_frame rfl (.iIss dest0) h
  | fflagClr =>
    exact fire_frame rfl (.resIss (fun _ => .wrS dest0 _) (.append (.wrS dest0 _) (.one (dest2 rfl (List.mem_singleton_self _)))) .none) h
  -- channels
  | recv => exact fire_frame rfl (.withEdit (.mres (.moveTo dest0 _)) fun t _ _ => dequeue_frame t _ _) h
  | peek => exact fire_frame rfl (.mres (.moveTo dest0 _)) h
  | tryrecv =>
    exact fire_frame rfl (.ite (.twinNo dest1) (.withEdit (.twin (.moveTo dest0 _) dest1) fun t _ _ => dequeue_frame t _ _)) h
  | trypeek => exact fire_frame rfl (.ite (.twinNo dest1) (.twin (.moveTo dest0 _) dest1)) h
  | send d a t =>
    have hw (es : List Entry) : Writes (.send d a t) [.eg d es] := .entries (dest0 rfl (List.mem_singleton_self _)) es
    exact fire_frame rfl ⟨hw _, .nil, .none, fun t _ _ => .refl t⟩ h
  | trysend d a t pc =>
    have hw (es : List Entry) : Writes (.trysend d a t pc) ([.eg d es] ++ [.p pc true]) :=
      .append (.entries (dest0 rfl (List.mem_singleton_self _)) es) (.pred dest3 _)
    exact fire_frame rfl (.ite (.twinNo dest3) ⟨hw _, .nil, .none, fun t _ _ => .refl t⟩) h
  | tagh | chfree => exact fire_frame rfl (.put (.wrS dest0 _) _) h
  | chcount => exact fire_frame rfl (.put (.wrS dest_only _) _) h
  | chreset => exact fire_frame rfl (.withEdit (.put .nil _) fun t _ _ => chReset_frame t _) h
  | pset d | pclr d =>
    have hd : presRes d ∈ (wPres d).wr := by cases d <;> exact List.mem_singleton_self _
    exact fire_frame rfl (.withEdit (.put .nil _) fun t _ hf => setPres_frame (congrArg Fire.ctx hf) (.inl (foot_wr_subset_footOf _ _ hd)) _) h
  -- endings and watches
  | done => exact fire_frame rfl (.ed fun t _ hf => endWith_frame (congrArg Fire.ctx hf) _) h
  | yield | sleep => exact fire_frame rfl (.ed fun t _ _ => modCtx_frame t fun _ => rfl) h
  | handover => exact fire_frame rfl (.ed fun t _ hf => takeHand_frame (congrArg Fire.ctx hf)) h
  | trap => exact fire_frame rfl (.ed fun t _ _ => modCtx_frame t fun _ => Ctx.stop_regs _ _) h
  | watch w d a b =>
    have hn : Writes (.watch w d a b) [.p d false] := .pred dest0 _
    refine fire_frame rfl ?_ h
    split
    · exact .trap _
    · exact .ite ⟨.nil, hn, .none, fun t _ _ => arm_frame t (fun x => x.arm _) (fun _ => rfl) _ _⟩ (.trap _)
  | unwatch => exact fire_frame rfl (.ed fun t _ _ => unwatch_frame t _ _) h
  | bkpt =>
    refine fire_frame rfl ?_ h
    split
    · exact .ite (.ed fun t _ _ => (modCtx_frame t fun _ => Ctx.stop_regs _ _).trans (.net (.atEnd _ _))) .zero
    · exact .zero
  -- vectors
  | vadd | vsub | vmul | vdiv | vadds | vsubs => exact fire_frame rfl (.vmapIss dest0 (.varith rfl)) h
  | vfma => exact fire_frame rfl (.vmapIss dest0 (.rm rfl rfl)) h
  | vmin | vmax | vabs | vneg | vand | vor | vxor | vshl | vshr | vsra | vmov | vbcast | viota | vsel | vperm | vrot | vcompress | vexpand
  | vpack | vunpk | sfrcp | sfrsqrt | sfsqrt | sfexp2 | sflog2 | sfsinpi | sfcospi => exact fire_frame rfl (.vmapIss dest0 (.rn rfl)) h
  | vcmp | vclass => exact fire_frame rfl (.kIss dest0) h
  | kand | kor | kxor | kandn | knot | kmov => exact fire_frame rfl (.klog dest0) h
  | kpop => exact fire_frame rfl (.iIss dest0) h
  | vext | kfind => exact fire_frame rfl (.sIss dest0 .none) h
  | vins t d => exact fire_frame rfl (.resIss (fun _ => .wrV (dest0 (f := wVD (.reg d))) _) (.wrV (dest0 (f := wVD (.reg d))) _) .none) h
  | vredmin | vredmax => exact fire_frame rfl (.sIss dest0 .none) h
  | vredand | vredor | vredxor => exact fire_frame rfl (.iIss dest0) h
  | vredsum t | vdot t => cases t with
    | int | fx => exact fire_frame rfl (.iIss dest0) h
    | fp => exact fire_frame rfl (.sIss dest0 (.rm rfl rfl _)) h
  | vscan => exact fire_frame rfl (.vIss dest0 (.varith rfl _)) h
  | vcvt => exact fire_frame rfl (.vIss dest0 (.vcvt rfl _)) h
  | vmxq m t r d a b =>
    have hw (x : Val 2048) (y : Word) (q : Bool) : Writes (.vmxq m t r d a b) (wrV d x ++ [.s b y q]) :=
      .append (.wrV dest0 x) (.one (dest2 rfl (List.mem_singleton_self _)))
    exact fire_frame rfl (.resIss (fun _ => hw _ _ _) (hw _ _ _) (.rm rfl rfl _)) h
  | vmxd => exact fire_frame rfl (.vIss dest0 (.rm rfl rfl _)) h
  | sfsincospi m d a =>
    have hw (x y : Val 2048) : Writes (.sfsincospi m d a) (wrV (.reg ⟨2 * d.val, by omega⟩) x ++ wrV (.reg ⟨2 * d.val + 1, by omega⟩) y) :=
      .append (.wrV (dest0 (f := wVD (.reg _))) x) (.wrV (dest1 (f := wVD (.reg _))) y)
    exact fire_frame rfl (.resIss (fun _ => hw _ _) (hw _ _) .none) h
  -- the matrix unit and the accumulators
  | mma | mmas | mmv | aload | astore => exact fire_frame rfl .matIss h
  | mmr =>
    refine fire_frame rfl (.ite .matIss (.withEdit .matIss fun t _ _ => ?_)) h
    split
    · exact .onTile t (.modTask _ _ _)
    · exact .refl t
  | azero => exact fire_frame rfl (.ed fun t _ _ => .onTile t (.setAcc _ ⟨_, List.mem_singleton_self _, rfl⟩ _)) h
  | aget => exact fire_frame rfl (.resIss (fun _ => .wrV dest0 _) (.wrV dest0 _) .none) h
  | aput => exact fire_frame rfl (.accIss (List.mem_singleton_self _) .none) h
  | atrans => exact fire_frame rfl (.accIss (List.mem_cons_self ..) .none) h
  | ascale | aadd => exact fire_frame rfl (.accIss (List.mem_singleton_self _) (.aarith rfl _)) h
  | acvt => exact fire_frame rfl (.vIss dest0 (.acvt rfl _)) h
  -- streams, copies, memory
  | gcfg =>
    refine fire_frame rfl ?_ h
    split
    · exact .trap _
    · exact .ite (.trap _) (.ed fun t _ _ => putStrm_frame t _ _)
  | gstart => exact fire_frame rfl (.ite (.ed fun t _ _ => runStrm_frame t _ _ _ _) (.trap _)) h
  | gstop => exact fire_frame rfl (.withEdit (.put (.wrS dest_only _) _) fun t _ _ => putStrm_frame t _ _) h
  | gbar => exact fire_frame rfl (.ite (.acts (.pred dest_only _) (.pred dest_only _)) (.put (.pred dest_only _) _)) h
  | ld | st | vld | vst | tamo | cld | cst | cvld | cvst | camo => exact fire_frame rfl .memIss h
  | vgath | vscat => exact fire_frame rfl .elemIss h
  | cpy | cpy2d => exact fire_frame rfl .copyIss h
  | drainTcm | drainCsp | drainGlb => exact fire_frame rfl (.drainIss dest_only) h
  -- clusters
  | bput | trybput => exact fire_frame rfl (.bputIss dest0) h
  | bget d | trybget d => exact fire_frame rfl (.bgetIss fun p a e => by subst e; exact dest0) h
  | bwait d n b =>
    have hw (x : Bool) : Writes (.bwait d n b) [.p d x] := .pred dest_only x
    exact fire_frame rfl ⟨hw _, hw _, .none, fun t _ _ => .net (.atEnd _ _)⟩ h
  | nsend =>
    refine fire_frame rfl ?_ h
    unfold State.nsendIss
    dsimp only
    split
    · exact .trap _
    · exact .withEdit (.put .nil _) fun t _ _ => linkSend_frame t _ _ _ _ _
  | trynsend dir a tag pc =>
    have hw : Writes (.trynsend dir a tag pc) [.p pc true] := .pred dest2 _
    refine fire_frame rfl (.ite (.twinNo dest2) ?_) h
    unfold State.nsendIss
    dsimp only
    split
    · exact ⟨hw, .nil, .none, fun t _ _ => .refl t⟩
    · exact ⟨hw, .nil, .none, fun t _ _ => linkSend_frame t _ _ _ _ _⟩
  | nrecv => exact fire_frame rfl (.withEdit (.mres (.moveTo dest_only _)) fun t _ _ => linkTake_frame t _ _) h
  | trynrecv =>
    exact fire_frame rfl (.ite (.twinNo dest1) (.withEdit (.twin (.moveTo dest0 _) dest1) fun t _ _ => linkTake_frame t _ _)) h
  | cbar => exact fire_frame rfl (.acts (.pred dest_only _) (.pred dest_only _)) h
  -- global accesses, ordering and requests
  | ldg | stg | vldg | vstg | amo | cas | aincBound => exact fire_frame rfl .glbIss h
  | fence => exact fire_frame rfl (.ite .zero (.acts .nil .nil)) h
  | otpub => exact fire_frame rfl (.acts .nil .nil) h
  | otpubCirc => exact fire_frame rfl (.ite (.acts .nil .nil) (.trap _)) h
  | otwait => exact fire_frame rfl (.ite (.put (.pred dest_only _) _) (.acts (.pred dest_only _) (.pred dest_only _))) h
  | join => exact fire_frame rfl (.acts (.pred dest_only _) (.pred dest_only _)) h
  | pfg | tspawn | trytspawn | tdec | tstatus | tparam | tbound | cfgr | vfsetEnable | vfsetTeardown | quota | wtouch | wresMobile
  | wresFixed | wresUp | wresDown | wresQuery | csave | crest | ctxw | fqpop | mtret | srd => exact fire_frame rfl (.reqIss .nil) h
  | tinc | tcancel | cfgw | xinv | swr => exact fire_frame rfl (.reqIss (.pred dest0 _)) h
  | tenq | trytenq => exact fire_frame rfl .tenqIss h
  | rsend | tryrsend => exact fire_frame rfl .rsendIss h
  | rstore =>
    refine fire_frame rfl ?_ h
    split
    · exact .trap _
    · exact .ite (.trap _) (.ite (.trap _) (.acts .nil .nil))
  | rdec => exact fire_frame rfl (.ite .zero (.reqIss .nil)) h
  | pbar => exact fire_frame rfl (.groupIss (.pred dest0 _)) h
  | pcomb | pbcast => exact fire_frame rfl (.groupIss .nil) h
  | pabort =>
    refine fire_frame rfl ?_ h
    split
    · exact .trap _
    · split
      · exact .trap _
      · exact .ed fun t _ _ => .net (.atEnd _ _)
  -- events are no rule operations
  | _ => cases hev

/-- Settles O41: a fire's frame holds no memory. -/
theorem fireKeepsMemory : Obligations.FireKeepsMemory := by
  unfold Obligations.FireKeepsMemory
  intro i s t hev h
  have f := exec_frame hev h
  exact ⟨f.mem, f.tile.tcm, f.clusters, f.cur, f.others⟩

/-- Settles O43: the frame of `exec_frame`, part by part. -/
theorem fireKeepsOtherRegisters : Obligations.FireKeepsOtherRegisters := by
  unfold Obligations.FireKeepsOtherRegisters
  intro i s t hev h
  have f := exec_frame hev h
  have no : ∀ r, r ∉ (i.footOf s.fctx.regs.amode).wr → (∀ n, r ≠ .p n) → ¬ FireRes s i r :=
    fun r hr hp hw => hw.elim hr fun ⟨w, _, e⟩ => hp w.p e
  refine ⟨fun n hn => f.tile.regs.s n (no _ hn nofun), fun n hn => f.tile.regs.v n (no _ hn nofun), fun n hn => f.tile.regs.k n (no _ hn nofun),
    fun n hn hp => f.tile.regs.p n ?_, fun hn => f.tile.regs.flags (no _ hn nofun), fun hn => f.tile.regs.amode (no _ hn nofun),
    fun hn => f.tile.regs.srng (no _ hn nofun), f.tile.other, fun n hn => f.tile.acc n fun ⟨a, ha, e⟩ => hn a ha e⟩
  rintro (hw | ⟨w, hw, e⟩)
  · exact hn hw
  · exact hp w hw (Res.p.inj e).symm

end Sys2Proof.Proofs
end

section
/-! PROOFS. Scalar integer instructions (R111, R116 to R125): the word facts that tie the model's operations to the values of the rules, and the
fires. -/

namespace Sys2Proof.Proofs
open Sys2Proof Sys2Proof.Machine

/-! ## Fires with a result -/

section fires
variable {s : State} {i : Instr} {ps : List (Option Word)}

/-- An instruction whose effect is a word that raises no flag. -/
theorem exec_word {d : SDst} {r : ARes} {w : Word} (he : exec i s = s.fireOp i (s.iIss d ps r)) (hr : s.opReady i = true)
    (h : unpoisoned ps) (e : r = aval w) : exec i s = .next (s.issue i (wordRes d w)) :=
  exec_next_of_eq he hr (by rw [e, iIss_word h])
/-- An instruction whose effect is a word with its flags. -/
theorem exec_fitted {d : SDst} {r r' : ARes} (he : exec i s = s.fireOp i (s.iIss d ps r)) (hr : s.opReady i = true)
    (h : unpoisoned ps) (e : r = r') (h0 : r'.div0 = false) (hq : s.quiet r'.fl) : exec i s = .next (s.issue i (r'.res d)) :=
  exec_next_of_eq he hr (by rw [e, iIss_good h h0 hq])
theorem exec_pred {d : PReg} {b : Bool} {fl : Fl} (he : exec i s = s.fireOp i (s.pIss d ps fl b)) (hr : s.opReady i = true)
    (h : unpoisoned ps) (hq : s.quiet fl) : exec i s = .next (s.issue i (predRes d b fl)) :=
  exec_next_of_eq he hr (pIss_good h hq)
theorem exec_float {d : SDst} {v : FEnv} {f : FFmt} {r : FRes} (he : exec i s = s.fireOp i (s.fIss d ps v f r)) (hr : s.opReady i = true)
    (h : unpoisoned ps) (hq : s.quiet r.fl) : exec i s = .next (s.issue i (r.res d f v)) :=
  exec_next_of_eq he hr (fIss_good h hq)

end fires

theorem unpoisoned_head {p : Option Word} {ps : List (Option Word)} (h : unpoisoned (p :: ps)) : unpoisoned [p] :=
  unpoisoned_cons.2 ⟨(unpoisoned_cons.1 h).1, unpoisoned_nil⟩
theorem unpoisoned_two {p q : Option Word} {ps : List (Option Word)} (h : unpoisoned (p :: q :: ps)) : unpoisoned [p, q] :=
  unpoisoned_cons.2 ⟨(unpoisoned_cons.1 h).1, unpoisoned_head (unpoisoned_cons.1 h).2⟩
theorem unpoisoned_append {ps qs : List (Option Word)} (h : unpoisoned ps) (g : unpoisoned qs) : unpoisoned (ps ++ qs) :=
  fun p hp => (List.mem_append.1 hp).elim (h p) (g p)

/-! ## Words -/

theorem fit_wrap (t : ITy) (x : Int) : fit t false x = aval (wrapTo t x) := by simp [fit]
theorem wrapTo_of_modEq {t : ITy} {x y : Int} (h : x ≡ y [ZMOD 2 ^ t.width]) : wrapTo t x = wrapTo t y := by
  unfold wrapTo
  rw [show x % 2 ^ t.width = y % 2 ^ t.width from h]
theorem natMod_modEq (n w : Nat) : ((n % 2 ^ w : Nat) : Int) ≡ n [ZMOD 2 ^ w] := by
  exact_mod_cast Int.natCast_modEq_iff.2 (Nat.mod_modEq n (2 ^ w))
theorem ext_eq_wrapTo (t : ITy) (x : Word) : ext t x = wrapTo t (x.toNat : Int) := wrapTo_of_modEq (natMod_modEq _ _)
theorem wrapTo_rotl (t : ITy) (n u : Nat) : wrapTo t (rotl t.width n u) = wrapTo t (u * 2 ^ n + u / 2 ^ (t.width - n) : Nat) :=
  wrapTo_of_modEq (natMod_modEq _ _)
/-- A rotation right by `n` is one left by the rest of the width. -/
theorem wrapTo_rotr (t : ITy) {n u : Nat} (hn : n < t.width) (hu : u < 2 ^ t.width) :
    wrapTo t (rotl t.width ((t.width - n) % t.width) u) = wrapTo t (u / 2 ^ n + u * 2 ^ (t.width - n) : Nat) := by
  rw [wrapTo_rotl]
  rcases Nat.eq_zero_or_pos n with rfl | h0
  · have hmul : u * 2 ^ t.width ≡ 0 [MOD 2 ^ t.width] := (Nat.modEq_zero_iff_dvd).2 (Nat.dvd_mul_left _ _)
    have h : u * 2 ^ 0 + u / 2 ^ t.width ≡ u / 2 ^ 0 + u * 2 ^ t.width [MOD 2 ^ t.width] := by
      rw [Nat.div_eq_of_lt hu]
      simpa only [pow_zero, mul_one, Nat.div_one, Nat.add_zero] using (hmul.add_left u).symm
    rw [Nat.sub_zero, Nat.mod_self, Nat.sub_zero]
    exact wrapTo_of_modEq (by exact_mod_cast Int.natCast_modEq_iff.2 h)
  · rw [Nat.mod_eq_of_lt (by omega), show t.width - (t.width - n) = n by omega, Nat.add_comm]

/-! ## Words of 64 bits -/

theorem low_i64 (x : Word) : low 64 x = x.toNat := Nat.mod_eq_of_lt x.isLt
theorem wrapTo_i64 (y : Int) : wrapTo .i64 y = BitVec.ofInt 64 y := by
  have h := low_wrapTo .i64 y
  rw [show (ITy.width .i64) = 64 from rfl, low_i64] at h
  apply BitVec.eq_of_toNat_eq
  rw [BitVec.toNat_ofInt]
  have h' : (y % (2 ^ 64 : Nat) : Int) = y % 2 ^ 64 := by norm_num
  omega
theorem wrapTo_i64_nat (n : Nat) : wrapTo .i64 (n : Int) = BitVec.ofNat 64 n := by rw [wrapTo_i64]; rfl
theorem signedOf_toNat (x : Word) : signedOf 64 x.toNat = x.toInt := by
  rw [BitVec.toInt_eq_toNat_cond]
  unfold signedOf
  split <;> split <;> omega
theorem toNat_ofNat_fin (n : Fin 64) : (BitVec.ofNat 64 n.val : Word).toNat % 64 = n.val := by simp

theorem iShl_i64 (x : Word) (n : Fin 64) : iShl .i64 x (BitVec.ofNat 64 n.val) = aval (x <<< n.val) := by
  have hm : srcVal .i64 x * 2 ^ n.val ≡ ((x.toNat * 2 ^ n.val : Nat) : Int) [ZMOD 2 ^ (ITy.width .i64)] := by
    have h := (srcVal_modEq_low .i64 x).mul_right (2 ^ n.val)
    rw [show (ITy.width .i64) = 64 from rfl, low_i64] at h
    exact_mod_cast h
  unfold iShl shCount
  rw [show (ITy.width .i64) = 64 from rfl, toNat_ofNat_fin, wrapTo_of_modEq hm, wrapTo_i64_nat]
  refine congrArg aval (BitVec.eq_of_toNat_eq ?_)
  rw [BitVec.toNat_shiftLeft, Nat.shiftLeft_eq, BitVec.toNat_ofNat]
theorem iShr_i64 (x : Word) (n : Fin 64) : iShr .i64 x (BitVec.ofNat 64 n.val) = aval (x >>> n.val) := by
  unfold iShr shCount
  rw [show (ITy.width .i64) = 64 from rfl, toNat_ofNat_fin, wrapTo_i64_nat, low_i64]
  refine congrArg aval (BitVec.eq_of_toNat_eq ?_)
  rw [BitVec.toNat_ushiftRight, Nat.shiftRight_eq_div_pow, BitVec.toNat_ofNat,
    Nat.mod_eq_of_lt (lt_of_le_of_lt (Nat.div_le_self _ _) x.isLt)]
theorem iSra_i64 (x : Word) (n : Fin 64) : iSra .i64 x (BitVec.ofNat 64 n.val) = aval (x.sshiftRight n.val) := by
  unfold iSra shCount
  rw [show (ITy.width .i64) = 64 from rfl, toNat_ofNat_fin, low_i64, signedOf_toNat, wrapTo_i64,
    Int.fdiv_eq_ediv_of_nonneg _ (by positivity)]
  unfold BitVec.sshiftRight
  rw [Int.shiftRight_eq_div_pow]
  norm_num
theorem iRol_i64 (x : Word) (n : Fin 64) : iRol .i64 x (BitVec.ofNat 64 n.val) = aval (x.rotateLeft n.val) := by
  have hlow : x.toNat / 2 ^ (64 - n.val) < 2 ^ n.val := by
    rw [Nat.div_lt_iff_lt_mul (by positivity), ← pow_add, Nat.add_sub_cancel' n.isLt.le]
    exact x.isLt
  unfold iRol shCount
  rw [show (ITy.width .i64) = 64 from rfl, toNat_ofNat_fin, low_i64, show rotl 64 = rotl (ITy.width .i64) from rfl, wrapTo_rotl,
    wrapTo_i64_nat]
  refine congrArg aval (BitVec.eq_of_toNat_eq ?_)
  rw [BitVec.toNat_ofNat, BitVec.toNat_rotateLeft, Nat.mod_eq_of_lt n.isLt, show (ITy.width .i64) = 64 from rfl]
  rw [← Nat.shiftLeft_eq, Nat.shiftLeft_add_eq_or_of_lt hlow, Nat.or_mod_two_pow]
  congr 1
  rw [Nat.shiftRight_eq_div_pow, Nat.mod_eq_of_lt (lt_of_lt_of_le hlow (Nat.pow_le_pow_right (by omega) n.isLt.le))]

/-! ## Counts of bits and fields -/

theorem clzN_spec {w n : Nat} (h : n < 2 ^ w) : clzN w n ≤ w ∧ n < 2 ^ (w - clzN w n) ∧ (clzN w n < w → 2 ^ (w - clzN w n - 1) ≤ n) := by
  unfold clzN
  split
  next h0 => simp [h0]
  next h0 =>
    have hl : n.log2 < w := (Nat.log2_lt h0).2 h
    rw [show w - (w - 1 - n.log2) = n.log2 + 1 by omega]
    exact ⟨by omega, Nat.lt_log2_self, fun _ => Nat.log2_self_le h0⟩
theorem ctzN_spec (w n : Nat) : ctzN w n ≤ w ∧ (∀ k < ctzN w n, n.testBit k = false) ∧ (ctzN w n < w → n.testBit (ctzN w n) = true) := by
  induction w generalizing n with
  | zero => simp [ctzN]
  | succ w ih =>
    unfold ctzN
    split
    next h => simp [Nat.testBit_zero, h]
    next h =>
      obtain ⟨hle, hlow, hbit⟩ := ih (n / 2)
      refine ⟨by omega, fun k hk => ?_, fun hw => ?_⟩
      · cases k with
        | zero => simpa [Nat.testBit_zero] using h
        | succ k => rw [Nat.testBit_succ]; exact hlow k (by omega)
      · rw [Nat.add_comm, Nat.testBit_succ]; exact hbit (by omega)
theorem popN_eq (w n : Nat) : popN w n = ((List.range w).filter fun k => n.testBit k).length := by
  induction w generalizing n with
  | zero => rfl
  | succ w ih =>
    rw [popN, ih, List.range_succ_eq_map, List.filter_cons]
    have hs : ((List.map Nat.succ (List.range w)).filter fun k => n.testBit k).length = ((List.range w).filter fun k => (n / 2).testBit k).length := by
      rw [List.filter_map, List.length_map]
      exact congrArg _ (List.filter_congr fun k _ => Nat.testBit_succ n k)
    rcases Nat.mod_two_eq_zero_or_one n with h | h <;> simp [Nat.testBit_zero, h, hs, Nat.add_comm]
theorem testBit_low {w k : Nat} (x : Word) (h : k < w) : (low w x).testBit k = x.getLsbD k := by
  simp [low, Nat.testBit_mod_two_pow, h, BitVec.getLsbD]

/-- The mask of `bext` and `bins`. -/
theorem getLsbD_fieldMask {pos len k : Nat} (hk : k < 64) :
    (BitVec.ofNat 64 ((2 ^ len - 1) * 2 ^ pos)).getLsbD k = decide (pos ≤ k ∧ k < pos + len) := by
  rw [BitVec.getLsbD_ofNat, Nat.testBit_mul_two_pow, Nat.testBit_two_pow_sub_one]
  by_cases h : pos ≤ k <;> simp [h, hk]
  omega

/-! ## The statements -/

theorem iDiv_int {t : ITy} {x y : Word} (h : srcVal t y ≠ 0) (sat : Bool) : iDiv (.i t) sat x y = fit t sat ((srcVal t x).tdiv (srcVal t y)) := by
  unfold iDiv
  rw [if_neg (show ixVal (.i t) y ≠ 0 from h)]
theorem iDiv_fx {f : Fin 64} {x y : Word} (h : srcVal .i64 y ≠ 0) (sat : Bool) :
    iDiv (.fx f) sat x y = fit .i64 sat ((srcVal .i64 x * 2 ^ f.val).tdiv (srcVal .i64 y)) := by
  unfold iDiv
  rw [if_neg (show ixVal (.fx f) y ≠ 0 from h)]
theorem iRem_eq {t : ITy} {x y : Word} (h : srcVal t y ≠ 0) :
    iRem t x y = aval (wrapTo t (srcVal t x - srcVal t y * (srcVal t x).tdiv (srcVal t y))) := by
  rw [iRem, if_neg h, fit_wrap, Int.tmod_def]
theorem iMin_eq (t : IxTy) (x y : Word) : iMin t x y = aval (wrapTo (IxTy.base t) (min (ixVal t x) (ixVal t y))) := by rw [iMin, min_def]
theorem iMax_eq (t : IxTy) (x y : Word) : iMax t x y = aval (wrapTo (IxTy.base t) (max (ixVal t x) (ixVal t y))) := by
  rw [iMax, max_comm, max_def]

/-- Settles O1: the model's operations are the exact results, fitted. -/
theorem integerArithmeticCompletes : Obligations.IntegerArithmeticCompletes := by
  unfold Obligations.IntegerArithmeticCompletes
  refine ⟨fun s d a b h => ⟨?_, ?_, ?_, ?_, ?_, ?_, ?_⟩, fun s d a b h => ⟨?_, ?_, ?_⟩⟩
  · exact fun t sat hr hq => exec_fitted rfl hr h rfl (fit_div0 _ _ _) hq
  · exact fun t sat hr hq => exec_fitted rfl hr h rfl (fit_div0 _ _ _) hq
  · exact fun t sat hr hq => exec_fitted rfl hr h rfl (fit_div0 _ _ _) hq
  · exact fun f sat hr hq => exec_fitted rfl hr h rfl (fit_div0 _ _ _) hq
  · exact fun t hr => exec_word rfl hr h (fit_wrap _ _)
  · exact fun t hr => exec_word rfl hr h (iMin_eq _ _ _)
  · exact fun t hr => exec_word rfl hr h (iMax_eq _ _ _)
  · exact fun t sat hr h0 hq => exec_fitted rfl hr h (iDiv_int h0 sat) (fit_div0 _ _ _) hq
  · exact fun f sat hr h0 hq => exec_fitted rfl hr h (iDiv_fx h0 sat) (fit_div0 _ _ _) hq
  · exact fun t hr h0 => exec_word rfl hr h (iRem_eq h0)

/-- Settles O3: shifts and rotations agree with the rules modulo 2^w. -/
theorem logicAndShiftCompletes : Obligations.LogicAndShiftCompletes := by
  unfold Obligations.LogicAndShiftCompletes
  intro s t d a b h x y w n u
  have hn : n < w := Nat.mod_lt _ (width_pos t)
  have hu : u < 2 ^ w := Nat.mod_lt _ (by positivity)
  have hshl : srcVal t x * 2 ^ n ≡ ((u * 2 ^ n : Nat) : Int) [ZMOD 2 ^ t.width] := by exact_mod_cast (srcVal_modEq_low t x).mul_right (2 ^ n)
  refine ⟨?_, ?_, ?_, ?_, ?_, ?_, ?_, ?_, ?_⟩
  · exact fun hr => exec_word rfl hr h (congrArg aval (ext_eq_wrapTo _ _))
  · exact fun hr => exec_word rfl hr h (congrArg aval (ext_eq_wrapTo _ _))
  · exact fun hr => exec_word rfl hr h (congrArg aval (ext_eq_wrapTo _ _))
  · exact fun hr => exec_word rfl hr h (congrArg aval (ext_eq_wrapTo _ _))
  · exact fun hr => exec_word rfl hr h (congrArg aval (wrapTo_of_modEq hshl))
  · exact fun hr => exec_word rfl hr h rfl
  · exact fun hr => exec_word rfl hr h rfl
  · exact fun hr => exec_word rfl hr h (congrArg aval (wrapTo_rotl t n u))
  · exact fun hr => exec_word rfl hr h (congrArg aval (wrapTo_rotr t hn hu))

theorem iPop_eq (t : ITy) (x : Word) : iPop t x = aval (BitVec.ofNat 64 (((List.range t.width).filter fun k => x.getLsbD k).length)) := by
  rw [iPop, popN_eq]
  congr 3
  exact List.filter_congr fun k hk => testBit_low x (List.mem_range.1 hk)
theorem iBext_unsigned (x b c : Word) : iBext false x b c = aval (BitVec.ofNat 64 (x.toNat / 2 ^ bfPos b % 2 ^ bfLen b c)) := by
  unfold iBext
  dsimp only
  split
  next h => rw [h, pow_zero, Nat.mod_one]
  next h => rfl
theorem iBext_signed {x b c : Word} (h : 0 < bfLen b c) :
    iBext true x b c = aval (BitVec.ofInt 64 (signedOf (bfLen b c) (x.toNat / 2 ^ bfPos b % 2 ^ bfLen b c))) := by
  simp [iBext, h.ne']
theorem iBext_empty {b c : Word} (h : bfLen b c = 0) (sg : Bool) (x : Word) : iBext sg x b c = aval 0 := by simp [iBext, h]
/-- Bit `k` of an insertion. -/
theorem getLsbD_iBins (d x b c : Word) {k : Nat} (hk : k < 64) :
    (iBins d x b c).w.getLsbD k = if bfPos b ≤ k ∧ k < bfPos b + bfLen b c then x.getLsbD (k - bfPos b) else d.getLsbD k := by
  simp only [iBins, aval, BitVec.getLsbD_or, BitVec.getLsbD_and, BitVec.getLsbD_not, BitVec.getLsbD_shiftLeft, getLsbD_fieldMask hk]
  by_cases h : bfPos b ≤ k ∧ k < bfPos b + bfLen b c
  · simp [h, hk]
  · simp [h, hk]

/-- Settles O4: counts and fields bit by bit. -/
theorem bitCountsAndFieldsComplete : Obligations.BitCountsAndFieldsComplete := by
  unfold Obligations.BitCountsAndFieldsComplete
  intro s d a b c h x pos len
  have ha : unpoisoned [(s.ss a).payload] := unpoisoned_head h
  refine ⟨fun t hr => ?_, fun t hr => ?_, ?_, ?_, ?_, ?_, fun r hr hp => ?_⟩
  · obtain ⟨hle, hlt, hge⟩ := clzN_spec (Nat.mod_lt x.toNat (Nat.two_pow_pos t.width))
    exact ⟨clzN t.width (low t.width x), hle, hlt, hge, exec_word rfl hr ha rfl⟩
  · obtain ⟨hle, hzero, hone⟩ := ctzN_spec t.width (low t.width x)
    refine ⟨ctzN t.width (low t.width x), hle, fun k hk => ?_, fun hk => ?_, exec_word rfl hr ha rfl⟩
    · rw [← testBit_low x (lt_of_lt_of_le hk hle)]; exact hzero k hk
    · rw [← testBit_low x hk]; exact hone hk
  · exact fun t hr => exec_word rfl hr ha (iPop_eq _ _)
  · exact fun hr => exec_word rfl hr h (iBext_unsigned _ _ _)
  · exact fun hr hl => exec_word rfl hr h (iBext_signed hl)
  · exact fun hr hl => exec_word rfl hr h (iBext_empty hl _ _)
  · have hd : unpoisoned [(s.ss a).payload, (s.ss b).payload, (s.ss c).payload, (s.fctx.s r).payload] :=
      unpoisoned_append h (unpoisoned_cons.2 ⟨hp, unpoisoned_nil⟩)
    exact ⟨(iBins (s.fctx.s r).bits x (s.ss b).bits (s.ss c).bits).w, fun k hk => getLsbD_iBins _ _ _ _ hk, exec_word rfl hr hd rfl⟩

/-- Settles O5. -/
theorem selectAndCompareComplete : Obligations.SelectAndCompareComplete := by
  unfold Obligations.SelectAndCompareComplete
  intro s d p c a b h
  refine ⟨fun hr => exec_word rfl hr h rfl, fun t cc hr => ⟨iCmp cc t (s.ss a).bits (s.ss b).bits, ?_, exec_pred rfl hr h State.quiet_none⟩⟩
  cases cc <;> exact decide_eq_true_iff

theorem lih_word (imm : BitVec 40) (x : Word) :
    (imm ++ x.extractLsb' 0 24 : BitVec (40 + 24)) = BitVec.ofNat 64 (x.toNat % 2 ^ 24 + imm.toNat * 2 ^ 24) := by
  apply BitVec.eq_of_toNat_eq
  have hx : x.toNat % 2 ^ 24 < 2 ^ 24 := Nat.mod_lt _ (by norm_num)
  have hi := imm.isLt
  have hlt : x.toNat % 2 ^ 24 + imm.toNat * 2 ^ 24 < 2 ^ (40 + 24) := by omega
  rw [BitVec.toNat_append, BitVec.extractLsb'_toNat, Nat.shiftRight_zero, ← Nat.shiftLeft_add_eq_or_of_lt hx, Nat.shiftLeft_eq,
    BitVec.toNat_ofNat, Nat.mod_eq_of_lt hlt, Nat.add_comm]
theorem lea_word (x y : Word) (k : Nat) : x + y <<< k = BitVec.ofNat 64 (x.toNat + y.toNat * 2 ^ k) := by
  apply BitVec.eq_of_toNat_eq
  rw [BitVec.toNat_add, BitVec.toNat_shiftLeft, Nat.shiftLeft_eq, BitVec.toNat_ofNat, Nat.add_mod_mod]

/-- Settles O6. -/
theorem immediateAndMoveCompletes : Obligations.ImmediateAndMoveCompletes := by
  unfold Obligations.ImmediateAndMoveCompletes
  intro s d a b h x
  have ha : unpoisoned [(s.ss a).payload] := unpoisoned_head h
  refine ⟨?_, ?_, ?_, ?_, ?_, ?_, ?_, ?_, ?_, ?_, fun r imm hr hp => ?_, ?_, ?_, ?_, ?_⟩
  · exact fun imm hr => exec_word rfl hr ha rfl
  · exact fun imm hr => exec_word rfl hr ha rfl
  · exact fun imm hr => exec_word rfl hr ha rfl
  · exact fun imm hr => exec_word rfl hr ha rfl
  · exact fun n hr => exec_word rfl hr ha (iShl_i64 _ _)
  · exact fun n hr => exec_word rfl hr ha (iShr_i64 _ _)
  · exact fun n hr => exec_word rfl hr ha (iSra_i64 _ _)
  · exact fun n hr => exec_word rfl hr ha (iRol_i64 _ _)
  · exact fun cc t p imm hr => exec_pred rfl hr ha State.quiet_none
  · exact fun imm hr => exec_word rfl hr unpoisoned_nil rfl
  · exact exec_word rfl hr (unpoisoned_cons.2 ⟨hp, unpoisoned_nil⟩) (congrArg aval (lih_word _ _))
  · exact fun k hr => exec_word rfl hr h (congrArg aval (lea_word _ _ _))
  · exact fun t hr => exec_word rfl hr ha rfl
  · exact fun t hr => exec_word rfl hr ha rfl
  · exact fun hr => exec_word rfl hr ha rfl

/-- Settles O7. -/
theorem predicateLogicCompletes : Obligations.PredicateLogicCompletes := by
  unfold Obligations.PredicateLogicCompletes
  intro s d a b x y
  refine ⟨?_, ?_, ?_, ?_, ?_, ?_⟩
  all_goals exact fun hr => exec_pred rfl hr unpoisoned_nil State.quiet_none

/-! ## Poison (R105, R113, R116) -/

section poison
variable {s : State} {i : Instr} {d : SDst} {ps : List (Option Word)} {div0 : Bool} {fl : Fl} {srng : Option (BitVec 32)} {w : Word} {rc : Bool}

theorem poisoned_word (pl : Word) : (poisoned pl : Val 64) = ⟨pl, true⟩ := by rw [poisoned, BitVec.setWidth_eq]
theorem sIss_poisoned {pl : Word} (h : firstPois ps = some pl) :
    s.sIss d ps div0 fl srng w rc = .bad (wrS d ⟨pl, true⟩) pl (sdHard d) 0 := by
  rw [State.sIss, resIss_poisoned h, poisoned_word]
/-- Division by zero is poison whatever TEN holds. -/
theorem sIss_div0 (h : unpoisoned ps) :
    s.sIss d ps true fl none w rc = .bad (wrS d ⟨s.pay causeDiv0, true⟩) (s.pay causeDiv0) (sdHard d) fl := by
  unfold State.sIss State.resIss
  rw [firstPois_of_unpoisoned h, ← poisoned_word]
  rfl
/-- A trapping flag replaces the result by poison with its cause. -/
theorem sIss_trapping (h : unpoisoned ps) {c : BitVec 8} (hc : trapCause fl s.amode.ten = some c) :
    s.sIss d ps false fl none w rc = .bad (wrS d ⟨s.pay c, true⟩) (s.pay c) (sdHard d) fl := by
  unfold State.sIss State.resIss
  rw [firstPois_of_unpoisoned h, hc, ← poisoned_word]
  rfl
theorem exec_poisoned {pl : Word} (he : exec i s = s.fireOp i (s.sIss d ps div0 fl srng w rc)) (h : firstPois ps = some pl)
    (hr : s.opReady i = true) : exec i s = .next (s.issue i (.bad (wrS d ⟨pl, true⟩) pl (sdHard d) 0)) :=
  exec_next_of_eq he hr (sIss_poisoned h)
theorem exec_div0 {r : ARes} (he : exec i s = s.fireOp i (s.iIss d ps r)) (h : unpoisoned ps) (e : r = adiv0) (hr : s.opReady i = true) :
    exec i s = .next (s.issue i (.bad (wrS d ⟨s.pay causeDiv0, true⟩) (s.pay causeDiv0) (sdHard d) 0)) :=
  exec_next_of_eq he hr (by rw [e]; exact sIss_div0 h)

end poison

theorem firstPois_pair {p q : Option Word} {pl : Word} (h : p = some pl ∨ (p = none ∧ q = some pl)) : firstPois [p, q] = some pl := by
  rcases h with rfl | ⟨rfl, rfl⟩ <;> rfl
/-- SA, the flag of highest code, is the cause when it traps. -/
theorem trapCause_SA {ten : Fl} (h : ten.getLsbD 5 = true) : trapCause 32#6 ten = some 0x06#8 := by
  revert h; revert ten; decide

/-- Settles O2. -/
theorem poisonRules : Obligations.PoisonRules := by
  unfold Obligations.PoisonRules
  refine ⟨fun s d a b h => ⟨fun t sat hr h0 => ?_, fun t hr h0 => ?_⟩, fun s d a b t x f rm sat k c pl h => ?_, fun s t d a b h hr hf ht => ?_⟩
  · exact exec_div0 rfl h (by unfold iDiv; rw [if_pos h0]) hr
  · exact exec_div0 rfl h (by rw [iRem, if_pos h0]) hr
  · have hp := firstPois_pair h
    repeat refine List.forall_mem_cons.2 ⟨exec_poisoned rfl hp, ?_⟩
    exact List.forall_mem_nil _
  · refine exec_next_of_eq rfl hr ?_
    unfold State.i2 State.iIss
    rw [show (iAdd t true (s.ss a).bits (s.ss b).bits).div0 = false from fit_div0 _ _ _,
      show (iAdd t true (s.ss a).bits (s.ss b).bits).fl = 32#6 from hf]
    exact sIss_trapping h (trapCause_SA ht)

end Sys2Proof.Proofs
end

section
/-! PROOFS. Vector and mask instructions (R184 to R201, R206 to R209): element-wise results lane by lane. -/

namespace Sys2Proof.Proofs
open Sys2Proof Sys2Proof.Machine

/-! ## Elements -/

theorem cutW_eq_zero {w : Nat} (hw : w ≤ 64) (x : Word) : cutW w x = 0 ↔ zeroW w x = true := by
  have hlt : low w x < 2 ^ 64 := lt_of_lt_of_le (Nat.mod_lt _ (by positivity)) (Nat.pow_le_pow_right (by norm_num) hw)
  rw [zeroW, beq_iff_eq, cutW, ← BitVec.toNat_inj, BitVec.toNat_ofNat, Nat.mod_eq_of_lt hlt]
  rfl
theorem cutW_wrapTo (t : ITy) (n : Nat) : cutW t.width (wrapTo t (n : Int)) = cutW t.width (BitVec.ofNat 64 n) := by
  have h := low_wrapTo t (n : Int)
  have hn : low t.width (BitVec.ofNat 64 n) = n % 2 ^ t.width := by
    rw [low, BitVec.toNat_ofNat, Nat.mod_mod_of_dvd _ (pow_dvd_pow 2 (width_le_word t))]
  unfold cutW
  rw [hn]
  congr 1
  exact_mod_cast h
theorem cutW_ext (t : ITy) (x : Word) : cutW t.width (ext t x) = cutW t.width x := by
  rw [ext_eq_wrapTo, cutW_wrapTo, BitVec.ofNat_toNat, BitVec.setWidth_eq]
theorem nthW_splitN_le {w n x k : Nat} (hw : w ≤ 64) : low w (nthW (splitN w n x) k) = (nthW (splitN w n x) k).toNat := by
  induction n generalizing x k with
  | zero => simp [splitN, nthW, low]
  | succ n ih =>
    cases k with
    | zero =>
      have hlt : x % 2 ^ w < 2 ^ 64 := lt_of_lt_of_le (Nat.mod_lt _ (by positivity)) (Nat.pow_le_pow_right (by norm_num) hw)
      rw [low, splitN, nthW, List.getD_cons_zero, BitVec.toNat_ofNat, Nat.mod_eq_of_lt hlt, Nat.mod_mod]
    | succ k => simpa [splitN, nthW] using ih (x := x / 2 ^ w) (k := k)
theorem cutW_splitV {w : Nat} (hw : w ≤ 64) (x : VWord) (k : Nat) : cutW w (nthW (splitV w x) k) = nthW (splitV w x) k := by
  rw [cutW, splitV, nthW_splitN_le hw, BitVec.ofNat_toNat, BitVec.setWidth_eq]
theorem cutW_lane {s : State} {w : Nat} (hw : w ≤ 64) (a : VSrc) (k : Nat) : cutW w (s.lane w a k) = s.lane w a k := cutW_splitV hw _ k
theorem etype_width_le (t : ETy) : t.width ≤ 64 := by
  cases t with
  | i t => exact width_le_word t
  | f t => rcases t with t | _ | _
           · cases t <;> decide
           all_goals decide

theorem nthW_replicate {n k : Nat} (x : Word) (h : k < n) : nthW (List.replicate n x) k = x := by
  simp [nthW, List.getD_eq_getElem?_getD, h]
theorem nthW_map_range {n k : Nat} (f : Nat → Word) (h : k < n) : nthW ((List.range n).map f) k = f k := by
  simp [nthW, List.getD_eq_getElem?_getD, h]
theorem nthW_map {xs : List Word} {k : Nat} (f : Word → Word) (h : k < xs.length) : nthW (xs.map f) k = f (nthW xs k) := by
  simp [nthW, List.getD_eq_getElem?_getD, h]
theorem nthW_drop_take {xs : List Word} {i n k : Nat} (h : k < n) : nthW ((xs.drop i).take n) k = nthW xs (i + k) := by
  simp [nthW, List.getD_eq_getElem?_getD, h]

/-! ## Element-wise results -/

/-- No flag of a union traps when none of its parts does. -/
theorem quiet_of_bits {s : State} {fl : Fl} (h : ∀ j, fl.getLsbD j = true → ∃ x : Fl, s.quiet x ∧ x.getLsbD j = true) : s.quiet fl := by
  apply BitVec.eq_of_getLsbD_eq
  intro j _
  rw [BitVec.getLsbD_and, BitVec.getLsbD_zero, Bool.and_eq_false_iff]
  by_contra hc
  push Not at hc
  obtain ⟨x, hx, hb⟩ := h j (by simpa using hc.1)
  have h0 := congrArg (fun y : Fl => y.getLsbD j) hx
  simp [hb] at h0
  exact hc.2 h0

/-- What an element-wise operation on elements of `w` bits gives when each active element `k` has the result `q k` up to its low `w` bits, raises
no trapping flag and does not divide by zero. -/
theorem vmapIss_lanes {s : State} {m : Msk} {d : VDst} {w : Nat} {f : ElemOp} {g : Word → Word → Word → ARes} {ps : List (Option Word)}
    {xs ys zs : List Word} (q : Nat → ARes) (hw : w * (2048 / w) = 2048) (hw64 : w ≤ 64)
    (hf : ∀ x y z, f (s.fenv .rn) x y z = (g x y z).toE (s.fenv .rn)) (hp : unpoisoned (s.vpls m d ps)) (hx : xs.length = 2048 / w)
    (hy : ys.length = 2048 / w) (hz : zs.length = 2048 / w)
    (hq : ∀ k < 2048 / w, s.laneOn m w k = true → let r := g (nthW xs k) (nthW ys k) (nthW zs k)
      cutW w r.w = cutW w (q k).w ∧ r.fl = (q k).fl ∧ r.div0 = false ∧ s.quiet (q k).fl) :
    ∃ (r : VWord) (rc : Bool) (fl : Fl), s.vmapIss m d w (s.fenv .rn) (zeroW w) f ps xs ys zs = .res (wrV d (clean r)) rc fl none
      ∧ (∀ k < 2048 / w, nthW (splitV w r) k = if s.laneOn m w k then cutW w (q k).w else cutW w (s.laneOld m d w k))
      ∧ (rc = true ↔ ∃ k < 2048 / w, s.laneOn m w k = true ∧ cutW w (q k).w ≠ 0)
      ∧ ∀ j, fl.getLsbD j = true ↔ ∃ k < 2048 / w, s.laneOn m w k = true ∧ (q k).fl.getLsbD j = true := by
  obtain ⟨hlen, -, hlane, hnz, hdiv, hfl⟩ := emap_lanes f (zeroW w) (s.fenv .rn) g hf (s.act m (2048 / w)) (s.oldV m d w) xs ys zs (2048 / w)
    (act_length _ _ _) (oldV_length _ _ _ _) hx hy hz
  let o := emap f (zeroW w) (s.fenv .rn) (s.act m (2048 / w)) (s.oldV m d w) xs ys zs
  have hfl' : ∀ j, o.fl.getLsbD j = true ↔ ∃ k < 2048 / w, s.laneOn m w k = true ∧ (q k).fl.getLsbD j = true := fun j =>
    (hfl j).trans (exists_congr fun k => and_congr_right fun hk => and_congr_right fun hon => by rw [(hq k hk hon).2.1])
  have h0 : o.div0 = false := Bool.eq_false_iff.2 fun h => by
    obtain ⟨k, hk, hon, hd⟩ := hdiv.1 h
    rw [(hq k hk hon).2.2.1] at hd
    cases hd
  have hquiet : s.quiet o.fl := quiet_of_bits fun j hj => by
    obtain ⟨k, hk, hon, hb⟩ := (hfl' j).1 hj
    exact ⟨(q k).fl, (hq k hk hon).2.2.2, hb⟩
  refine ⟨joinV w o.xs, o.nz, o.fl, vIss_good hp h0 hquiet, fun k hk => ?_, ?_, hfl'⟩
  · rw [nthW_splitV_joinV hw hlen hk, hlane k hk]
    change cutW w (if s.laneOn m w k then _ else _) = _
    split
    next hon => exact (hq k hk hon).1
    next => rfl
  · refine hnz.trans (exists_congr fun k => and_congr_right fun hk => and_congr_right fun hon => ?_)
    rw [← (hq k hk hon).1, Ne, cutW_eq_zero hw64, Bool.not_eq_true]

theorem no_flags {fl : Fl} (h : ∀ j, fl.getLsbD j = true ↔ False) : fl = 0 :=
  BitVec.eq_of_getLsbD_eq fun j _ => by simpa using h j

/-- A move of elements: element `k` of the source list goes to lane `k`. -/
theorem vcopy_lanes {s : State} {m : Msk} {d : VDst} {w : Nat} {ps : List (Option Word)} {xs : List Word} (e : Nat → Word)
    (hw : w * (2048 / w) = 2048) (hw64 : w ≤ 64) (hp : unpoisoned (s.vpls m d ps)) (hx : xs.length = 2048 / w)
    (he : ∀ k < 2048 / w, nthW xs k = e k) :
    ∃ (r : VWord) (rc : Bool), s.vcopy m d w ps xs = .res (wrV d (clean r)) rc 0 none
      ∧ (∀ k < 2048 / w, nthW (splitV w r) k = if s.laneOn m w k then cutW w (e k) else cutW w (s.laneOld m d w k))
      ∧ (rc = true ↔ ∃ k < 2048 / w, s.laneOn m w k = true ∧ cutW w (e k) ≠ 0) := by
  obtain ⟨r, rc, fl, hres, hlane, hrc, hfl⟩ := vmapIss_lanes (s := s) (m := m) (d := d) (f := fun v a _ _ => (aval a).toE v)
    (g := fun a _ _ => aval a) (ps := ps) (xs := xs) (ys := zerosOf w) (zs := zerosOf w) (fun k => aval (e k)) hw hw64 (fun _ _ _ => rfl) hp hx
    (zerosOf_length w) (zerosOf_length w) (fun k hk _ => by rw [he k hk]; exact ⟨rfl, rfl, rfl, State.quiet_none⟩)
  have h0 : fl = 0 := no_flags fun j => (hfl j).trans (by simp [aval, fNone])
  exact ⟨r, rc, h0 ▸ hres, hlane, hrc⟩

/-- Without a mask every lane takes its element. -/
theorem laneOn_all {s : State} {w k : Nat} (h : k < 2048 / w) : s.laneOn .all w k = true := by
  simp [State.laneOn, State.act, State.mskBits, mskK, activeBits, List.getD_eq_getElem?_getD, h]

/-! ## The statements about lanes -/

theorem fire_lanes {s : State} {i : Instr} {x : Iss} {d : VDst} {C : VWord → Bool → Fl → Prop} (he : exec i s = s.fireOp i x)
    (hr : s.opReady i = true) (h : ∃ r rc fl, x = .res (wrV d (clean r)) rc fl none ∧ C r rc fl) :
    ∃ r rc fl, exec i s = .next (s.issue i (.res (wrV d (clean r)) rc fl none)) ∧ C r rc fl := by
  obtain ⟨r, rc, fl, hx, hc⟩ := h
  exact ⟨r, rc, fl, exec_next_of_eq he hr hx, hc⟩
theorem fire_moved {s : State} {i : Instr} {x : Iss} {d : VDst} {C : VWord → Bool → Prop} (he : exec i s = s.fireOp i x)
    (hr : s.opReady i = true) (h : ∃ r rc, x = .res (wrV d (clean r)) rc 0 none ∧ C r rc) :
    ∃ r rc, exec i s = .next (s.issue i (.res (wrV d (clean r)) rc 0 none)) ∧ C r rc := by
  obtain ⟨r, rc, hx, hc⟩ := h
  exact ⟨r, rc, exec_next_of_eq he hr hx, hc⟩

/-- Settles O11: every operation is a lane-wise one. -/
theorem vectorIntegerLanes : Obligations.VectorIntegerLanes := by
  unfold Obligations.VectorIntegerLanes
  intro s t sat m d a b h w x y
  have lanes {i : Instr} {iss : Iss} {f : ElemOp} {g q : Word → Word → ARes} (he : exec i s = s.fireOp i iss)
      (hi : iss = s.vmapIss m d w (s.fenv .rn) (zeroW w) f [(s.vs a).payload, (s.vs b).payload] (s.el w a) (s.el w b) (zerosOf w))
      (hf : ∀ u v z, f (s.fenv .rn) u v z = (g u v).toE (s.fenv .rn))
      (hg : ∀ u v, cutW w (g u v).w = cutW w (q u v).w ∧ (g u v).fl = (q u v).fl ∧ (g u v).div0 = false) (hr : s.opReady i = true)
      (hq : ∀ k < 2048 / w, s.laneOn m w k = true → s.quiet (q (x k) (y k)).fl) :=
    fire_lanes he hr (hi ▸ vmapIss_lanes (ps := [(s.vs a).payload, (s.vs b).payload]) (g := fun u v _ => g u v) (fun k => q (x k) (y k)) (ITy.width_lanes t) (width_le_word t) hf h
      (el_length _ _ _) (el_length _ _ _) (zerosOf_length _)
      fun k hk hon => ⟨(hg _ _).1, (hg _ _).2.1, (hg _ _).2.2, hq k hk hon⟩)
  have same {r : Word → Word → ARes} (h0 : ∀ u v, (r u v).div0 = false) :
      ∀ u v, cutW w (r u v).w = cutW w (r u v).w ∧ (r u v).fl = (r u v).fl ∧ (r u v).div0 = false := fun u v => ⟨rfl, rfl, h0 u v⟩
  refine List.forall_mem_cons.2 ⟨fun hr hq => lanes rfl rfl (fun _ _ _ => rfl) (same fun _ _ => fit_div0 _ _ _) hr hq, ?_⟩
  refine List.forall_mem_cons.2 ⟨fun hr hq => lanes rfl rfl (fun _ _ _ => rfl) (same fun _ _ => fit_div0 _ _ _) hr hq, ?_⟩
  refine List.forall_mem_cons.2 ⟨fun hr hq => lanes rfl rfl (fun _ _ _ => rfl) (same fun _ _ => fit_div0 _ _ _) hr hq, ?_⟩
  refine List.forall_mem_cons.2 ⟨fun hr hq => lanes rfl rfl (fun _ _ _ => rfl) (fun u v => by rw [iMin_eq]; exact ⟨rfl, rfl, rfl⟩) hr hq, ?_⟩
  refine List.forall_mem_cons.2 ⟨fun hr hq => lanes rfl rfl (fun _ _ _ => rfl) (fun u v => by rw [iMax_eq]; exact ⟨rfl, rfl, rfl⟩) hr hq, ?_⟩
  refine List.forall_mem_cons.2 ⟨fun hr hq => lanes rfl rfl (fun _ _ _ => rfl) (fun u v => ⟨cutW_ext t _, rfl, rfl⟩) hr hq, ?_⟩
  refine List.forall_mem_cons.2 ⟨fun hr hq => lanes rfl rfl (fun _ _ _ => rfl) (fun u v => ⟨cutW_ext t _, rfl, rfl⟩) hr hq, ?_⟩
  refine List.forall_mem_cons.2 ⟨fun hr hq => lanes rfl rfl (fun _ _ _ => rfl) (fun u v => ⟨cutW_ext t _, rfl, rfl⟩) hr hq, ?_⟩
  refine List.forall_mem_cons.2 ⟨fun hr hq => lanes rfl rfl (fun _ _ _ => rfl) (same fun _ _ => rfl) hr hq, ?_⟩
  refine List.forall_mem_cons.2 ⟨fun hr hq => lanes rfl rfl (fun _ _ _ => rfl) (same fun _ _ => rfl) hr hq, ?_⟩
  exact List.forall_mem_singleton.2 fun hr hq => lanes rfl rfl (fun _ _ _ => rfl) (same fun _ _ => rfl) hr hq

/-- Settles O13: every instruction is a move of a list of elements. -/
theorem vectorMoveLanes : Obligations.VectorMoveLanes := by
  unfold Obligations.VectorMoveLanes
  intro s t ti m d a b c h n
  obtain ⟨ha, h⟩ := unpoisoned_cons.1 h
  obtain ⟨hb, h⟩ := unpoisoned_cons.1 h
  obtain ⟨hc, hm⟩ := unpoisoned_cons.1 h
  have pls (ps : List (Option Word)) (hps : unpoisoned ps) : unpoisoned (s.vpls m d ps) := unpoisoned_append hps hm
  have one {p : Option Word} (hp : p = none) : unpoisoned [p] := unpoisoned_cons.2 ⟨hp, unpoisoned_nil⟩
  have ht := ETy.width_lanes t
  have ht64 := etype_width_le t
  refine List.forall_mem_cons.2 ⟨fun hr => fire_moved rfl hr (vcopy_lanes _ ht ht64 (pls _ (one ha)) (el_length _ _ _) fun k _ => rfl), ?_⟩
  refine List.forall_mem_cons.2 ⟨fun hr => fire_moved rfl hr
    (vcopy_lanes _ ht ht64 (pls _ (one hc)) List.length_replicate fun k hk => nthW_replicate _ hk), ?_⟩
  refine List.forall_mem_cons.2 ⟨fun hr => fire_moved rfl hr
    (vcopy_lanes _ (ITy.width_lanes ti) (width_le_word ti) (pls _ (one hc)) (by simp) fun k hk => nthW_map_range _ hk), ?_⟩
  refine List.forall_mem_cons.2 ⟨fun hr => fire_moved rfl hr
    (vcopy_lanes _ ht ht64 (pls _ (unpoisoned_cons.2 ⟨ha, one hb⟩)) (by simp [vpermL]) fun k hk => nthW_map _ (by simpa using hk)), ?_⟩
  refine List.forall_mem_singleton.2 fun hr => fire_moved rfl hr
    (vcopy_lanes _ ht ht64 (pls _ (unpoisoned_cons.2 ⟨ha, one hc⟩)) (by simp [vrotL]) fun k hk => ?_)
  exact (nthW_map_range _ hk).trans (by rw [Nat.add_mod_mod]; rfl)

/-! ## Arithmetic of every type, special functions, conversions -/

/-- Settles O12: the fire is the element-wise map of the operation. -/
theorem vectorArithmeticCompletes : Obligations.VectorArithmeticCompletes := by
  unfold Obligations.VectorArithmeticCompletes
  intro s m d a b z on
  have mapped {i : Instr} {iss : Iss} {w : Nat} {o : VOut} {ps : List (Option Word)} {srng : Option (BitVec 32)} (he : exec i s = s.fireOp i iss)
      (hi : iss = s.vIss d ps w srng o) (h : unpoisoned ps) (hr : s.opReady i = true) (h0 : o.div0 = false) (hq : s.quiet o.fl) :
      exec i s = .next (s.issue i (o.res d w srng)) := exec_next_of_eq he hr (hi.trans (vIss_good h h0 hq))
  refine ⟨fun t h => ?_, fun t h => ?_, fun t h => ?_, fun t h => ?_, fun op t rm c h => mapped rfl rfl h⟩
  · refine List.forall_mem_cons.2 ⟨mapped rfl rfl h, List.forall_mem_cons.2 ⟨mapped rfl rfl h, List.forall_mem_cons.2 ⟨mapped rfl rfl h, ?_⟩⟩⟩
    exact List.forall_mem_singleton.2 (mapped rfl rfl h)
  · exact List.forall_mem_cons.2 ⟨mapped rfl rfl h, List.forall_mem_singleton.2 (mapped rfl rfl h)⟩
  · exact List.forall_mem_cons.2 ⟨mapped rfl rfl h, List.forall_mem_singleton.2 (mapped rfl rfl h)⟩
  · exact List.forall_mem_cons.2 ⟨mapped rfl rfl h, List.forall_mem_singleton.2 (mapped rfl rfl h)⟩

/-- Settles O17. -/
theorem vectorConversionCompletes : Obligations.VectorConversionCompletes := by
  unfold Obligations.VectorConversionCompletes
  intro s m d a b y
  refine ⟨fun c hp hb hr h0 hq => ?_, fun f t rm hp hr hq => ?_, fun f t rm hp hr h0 hq => ?_⟩
  · obtain ⟨ha, hm⟩ := unpoisoned_cons.1 hp
    have hpl : unpoisoned (s.vpls m d ((s.vs a).payload :: if c.sw < c.dw then [(s.ss b).payload] else [])) := by
      refine unpoisoned_append (unpoisoned_cons.2 ⟨ha, ?_⟩) hm
      split
      next hlt => exact hb hlt
      next => exact unpoisoned_nil
    exact exec_next_of_eq rfl hr (vIss_good hpl h0 hq)
  · exact exec_next_of_eq rfl hr (resIss_good hp hq)
  · exact exec_next_of_eq rfl hr (vIss_good hp h0 hq)

/-- Settles O18. -/
theorem specialFunctionCompletes : Obligations.SpecialFunctionCompletes := by
  unfold Obligations.SpecialFunctionCompletes
  intro s m a on f
  refine ⟨fun d h => ?_, fun d h hr hq => exec_next_of_eq rfl hr (resIss_good h hq)⟩
  have mapped {i : Instr} {g : Sf} (he : exec i s = s.fireOp i (s.sfIss g m d a)) (hr : s.opReady i = true) (h0 : (f g d).div0 = false)
      (hq : s.quiet (f g d).fl) : exec i s = .next (s.issue i ((f g d).res d 32 none)) :=
    exec_next_of_eq he hr (vIss_good (o := f g d) h h0 hq)
  refine List.forall_mem_cons.2 ⟨mapped rfl, List.forall_mem_cons.2 ⟨mapped rfl, List.forall_mem_cons.2 ⟨mapped rfl, ?_⟩⟩⟩
  refine List.forall_mem_cons.2 ⟨mapped rfl, List.forall_mem_cons.2 ⟨mapped rfl, List.forall_mem_cons.2 ⟨mapped rfl, ?_⟩⟩⟩
  exact List.forall_mem_singleton.2 (mapped rfl)

/-! ## Selection, compression, expansion, packing -/

/-- Selection by a mask, element by element. -/
theorem nthW_select {bs : List Bool} {xs ys : List Word} {k : Nat} (hb : k < bs.length) (hx : k < xs.length) (hy : k < ys.length) :
    nthW ((bs.zip (xs.zip ys)).map fun x => if x.1 then x.2.1 else x.2.2) k = if bs.getD k false then nthW xs k else nthW ys k := by
  simp [nthW, List.getD_eq_getElem?_getD, hb, hx, hy]
/-- The positions of the set bits below `k`. -/
def setBits (bs : List Bool) (k : Nat) : List Nat := (List.range k).filter fun j => bs.getD j false
theorem setBits_cons (b : Bool) (bs : List Bool) (k : Nat) :
    setBits (b :: bs) (k + 1) = (if b then [0] else []) ++ (setBits bs k).map Nat.succ := by
  unfold setBits
  rw [List.range_succ_eq_map, List.filter_cons, List.filter_map]
  cases b <;> simp [Function.comp_def]
theorem compressL_eq (bs : List Bool) (xs : List Word) (h : bs.length = xs.length) :
    compressL bs xs = (setBits bs bs.length).map (nthW xs) := by
  induction bs generalizing xs with
  | nil => rfl
  | cons b bs ih =>
    obtain ⟨x, xs, rfl⟩ := List.exists_cons_of_length_eq_add_one h.symm
    have hrest := ih xs (by simpa using h)
    rw [List.length_cons, setBits_cons]
    cases b <;> simp [compressL, hrest, nthW, Function.comp_def]
theorem nthW_compress {bs : List Bool} {xs : List Word} (h : bs.length = xs.length) {n k : Nat} :
    nthW (padTo n (compressL bs xs)) k = if h : k < (setBits bs bs.length).length then nthW xs (setBits bs bs.length)[k] else 0 := by
  rw [compressL_eq bs xs h]
  unfold padTo
  split
  next hk => simp [nthW, List.getD_eq_getElem?_getD, List.getElem?_append_left, hk]
  next hk =>
    rw [nthW, List.getD_eq_getElem?_getD, List.getElem?_append_right (by simpa using hk), List.getElem?_replicate]
    split <;> rfl
theorem nthW_expandL (bs : List Bool) (xs : List Word) {k : Nat} (hk : k < bs.length) :
    nthW (expandL bs xs) k = if bs.getD k false then nthW xs (setBits bs k).length else 0 := by
  induction bs generalizing xs k with
  | nil => cases hk
  | cons b bs ih =>
    cases k with
    | zero => cases b <;> cases xs <;> simp [expandL, nthW, setBits]
    | succ k =>
      have hk' : k < bs.length := by simpa using hk
      rw [setBits_cons]
      cases b with
      | false => simpa [expandL, nthW] using ih xs hk'
      | true => cases xs with
        | nil => simpa [expandL, nthW] using ih [] hk'
        | cons x xs => simpa [expandL, nthW, Nat.add_comm 1] using ih xs hk'

theorem expandL_length (bs : List Bool) (xs : List Word) : (expandL bs xs).length = bs.length := by
  induction bs generalizing xs with
  | nil => rfl
  | cons b bs ih => cases b <;> cases xs <;> simp [expandL, ih]
theorem nthW_set {xs : List Word} {j k : Nat} (x : Word) (hk : k < xs.length) : nthW (xs.set j x) k = if k = j then x else nthW xs k := by
  rw [nthW, List.getD_eq_getElem?_getD, List.getElem?_set]
  by_cases h : j = k
  · subst h
    simp [hk]
  · simp [h, Ne.symm h, nthW]

/-- Bits of a mask register below `n`. -/
theorem setBits_bitsN {n k : Nat} (x : KWord) (hk : k ≤ n) : setBits (bitsN n x.toNat) k = (List.range k).filter fun j => x.getLsbD j :=
  List.filter_congr fun j hj => bitsN_getD n x.toNat j (lt_of_lt_of_le (List.mem_range.1 hj) hk)

theorem hty_widths (t : HTy) : 2048 / (HTy.wide t).width + 2048 / (HTy.wide t).width = 2048 / (HTy.narrow t).width := by
  rcases t with ⟨sg, lv⟩
  fin_cases lv <;> cases sg <;> rfl

/-- Settles O14. -/
theorem vectorSelectAndPackCompletes : Obligations.VectorSelectAndPackCompletes := by
  unfold Obligations.VectorSelectAndPackCompletes
  refine ⟨fun s t d a b c h => ?_, fun s m d e r a b c z => ⟨?_, ?_, ?_, ?_⟩⟩
  · intro w n bit
    obtain ⟨ha, h'⟩ := unpoisoned_cons.1 h
    obtain ⟨hb, hc⟩ := unpoisoned_cons.1 h'
    have hac : unpoisoned [(s.vs a).payload, (s.ks c).payload] := unpoisoned_cons.2 ⟨ha, hc⟩
    have ht := ETy.width_lanes t
    have ht64 := etype_width_le t
    have hbits : (bitsN n (s.ks c).bits.toNat).length = n := bitsN_length _ _
    have hbit : ∀ k < n, (bitsN n (s.ks c).bits.toNat).getD k false = bit k := fun k hk => bitsN_getD _ _ _ hk
    have hold : unpoisoned [s.mskPl .all, s.oldVPl .all d] := unpoisoned_cons.2 ⟨rfl, unpoisoned_cons.2 ⟨by cases d <;> rfl, unpoisoned_nil⟩⟩
    -- without a mask every lane takes its element, which is an element of a source or zero
    have moved {i : Instr} {ps : List (Option Word)} {xs : List Word} {e : Nat → Word} (he : exec i s = s.fireOp i (s.vcopy .all d w ps xs))
        (hr : s.opReady i = true) (hp : unpoisoned ps) (hx : xs.length = n) (hxs : ∀ k < n, nthW xs k = e k)
        (hcut : ∀ k < n, cutW w (e k) = e k) :
        ∃ r rc, exec i s = .next (s.issue i (.res (wrV d (clean r)) rc 0 none)) ∧ ∀ k < n, nthW (splitV w r) k = e k := by
      obtain ⟨r, rc, hi, hlane, -⟩ := vcopy_lanes e ht ht64 (unpoisoned_append hp hold) hx hxs
      exact ⟨r, rc, exec_next_of_eq he hr hi, fun k hk => by rw [hlane k hk, if_pos (laneOn_all hk), hcut k hk]⟩
    refine ⟨fun hr => ?_, fun hr => ?_, fun hr => ?_⟩
    · refine moved rfl hr h ?_ (fun k hk => ?_) fun k _ => ?_
      · simp [hbits, n, w]
      · rw [nthW_select (by rwa [hbits]) (by simpa using hk) (by simpa using hk), hbit k hk]
        rfl
      · split <;> exact cutW_lane ht64 _ _
    · have hlen : (bitsN n (s.ks c).bits.toNat).length = (s.el w a).length := by rw [hbits, el_length]
      have hset : setBits (bitsN n (s.ks c).bits.toNat) (bitsN n (s.ks c).bits.toNat).length = (List.range n).filter bit := by
        rw [hbits]; exact setBits_bitsN _ le_rfl
      have hle : ((List.range n).filter bit).length ≤ n := (List.length_filter_le _ _).trans (by simp)
      refine moved rfl hr hac ?_ (fun k hk => ?_) fun k _ => ?_
      · rw [compressL_eq _ _ hlen, hset]
        rw [padTo, List.length_append, List.length_replicate, List.length_map]
        exact Nat.add_sub_cancel' hle
      · rw [nthW_compress hlen]
        simp only [hset]
        rfl
      · split
        · exact cutW_lane ht64 _ _
        · simp [cutW, low]
    · refine moved rfl hr hac ?_ (fun k hk => ?_) fun k _ => ?_
      · rw [expandL_length, hbits]
      · rw [nthW_expandL _ _ (by rwa [hbits]), hbit k hk, setBits_bitsN _ hk.le]
        rfl
      · split
        · exact cutW_lane ht64 _ _
        · simp [cutW, low]
  · exact fun t h hr => exec_next_of_eq rfl hr (resIss_good h State.quiet_none)
  · intro t n h hr
    have ht := ETy.width_lanes t
    have ht64 := etype_width_le t
    refine ⟨_, _, exec_next_of_eq rfl hr (resIss_good h State.quiet_none), ?_, fun k hk => ?_⟩
    · rw [Ne, cutW_eq_zero ht64, Bool.not_eq_true', Bool.not_eq_true]
    · have hk' : k < (splitV t.width (s.fctx.v r).bits).length := by rwa [splitV_length]
      rw [nthW_splitV_joinV ht (by rw [List.length_set, splitV_length]) hk, nthW_set _ hk']
      split
      next => rfl
      next => exact cutW_splitV ht64 _ _
  · exact fun t sat h hr hq h0 => exec_next_of_eq rfl hr (vIss_good h h0 hq)
  · intro t w u h hr
    let e := fun k => wrapTo (HTy.wide t) (srcVal (HTy.narrow t) (s.lane w a (2048 / u * ((s.ss c).bits.toNat % 2) + k)))
    have hlen : (((s.el w a).drop (2048 / u * ((s.ss c).bits.toNat % 2))).take (2048 / u)).length = 2048 / u := by
      have hsum : 2048 / u + 2048 / u = 2048 / w := hty_widths t
      have hhalf : 2048 / u * ((s.ss c).bits.toNat % 2) ≤ 2048 / u := by
        rcases Nat.mod_two_eq_zero_or_one (s.ss c).bits.toNat with h0 | h0 <;> rw [h0] <;> simp
      rw [List.length_take, List.length_drop, el_length]
      omega
    obtain ⟨r, rc, fl, hres, hlane, -, hfl⟩ := vmapIss_lanes (s := s) (m := m) (d := d) (w := u) (ps := [(s.vs a).payload, (s.ss c).payload])
      (f := fun v x _ _ => (aval (wrapTo (HTy.wide t) (srcVal (HTy.narrow t) x))).toE v)
      (g := fun x _ _ => aval (wrapTo (HTy.wide t) (srcVal (HTy.narrow t) x))) (ys := zerosOf u) (zs := zerosOf u) (fun k => aval (e k))
      (ITy.width_lanes _) (width_le_word _) (fun _ _ _ => rfl) h hlen (zerosOf_length u) (zerosOf_length u)
      (fun k hk _ => by rw [nthW_drop_take hk]; exact ⟨rfl, rfl, rfl, State.quiet_none⟩)
    have h0 : fl = 0 := no_flags fun j => (hfl j).trans (by simp [aval, fNone])
    exact ⟨r, rc, exec_next_of_eq rfl hr (h0 ▸ hres), hlane⟩

/-! ## Comparisons, classes and mask logic -/

theorem class_lt (f : FFmt) (x : Nat) : f.class x < 10 := by
  unfold FFmt.class
  repeat' split
  all_goals decide
/-- A class bit stands in a field of ten bits when that bit of the field is set. -/
theorem class_in_field {k : Nat} (hk : k < 10) (y : Word) : (nfld (2 ^ k) 0 10 &&& nfld y.toNat 0 10 != 0) = y.getLsbD k := by
  have h1 : nfld (2 ^ k) 0 10 = 2 ^ k := by
    rw [nfld, pow_zero, Nat.div_one]
    exact Nat.mod_eq_of_lt (Nat.pow_lt_pow_right (by norm_num) hk)
  have h2 : (nfld y.toNat 0 10).testBit k = y.getLsbD k := by
    rw [nfld, pow_zero, Nat.div_one, Nat.testBit_mod_two_pow, decide_eq_true hk, Bool.true_and]
    rfl
  rw [h1, ← h2, Nat.and_comm, Nat.and_two_pow]
  cases (nfld y.toNat 0 10).testBit k <;> simp
/-- Some position holds a set bit of both lists. -/
theorem any_zip_and {as bs : List Bool} {n : Nat} (ha : as.length = n) (hb : bs.length = n) :
    (as.zip bs).any (fun x => x.1 && x.2) = true ↔ ∃ k < n, as.getD k false = true ∧ bs.getD k false = true := by
  induction n generalizing as bs with
  | zero => simp [List.length_eq_zero_iff.1 ha]
  | succ n ih =>
    obtain ⟨a, as, rfl⟩ := List.exists_cons_of_length_eq_add_one ha
    obtain ⟨b, bs, rfl⟩ := List.exists_cons_of_length_eq_add_one hb
    rw [List.zip_cons_cons, List.any_cons, Bool.or_eq_true, ih (by simpa using ha) (by simpa using hb), Nat.exists_lt_succ_left]
    simp

/-- What an element-wise test of `n` elements gives. -/
theorem kIss_lanes {s : State} {m : Msk} {d : KDst} {n : Nat} {f : Word → Word → Bool × Fl} {ps : List (Option Word)} {xs ys : List Word}
    (hp : unpoisoned (ps ++ [s.mskPl m, s.oldKPl m d])) (hx : xs.length = n) (hy : ys.length = n)
    (hq : ∀ k < n, (s.act m n).getD k false = true → s.quiet (f (nthW xs k) (nthW ys k)).2) :
    let r := fun k => f (nthW xs k) (nthW ys k)
    let on := fun k => (s.act m n).getD k false
    ∃ (x : KWord) (rc : Bool) (fl : Fl), s.kIss m d n f ps xs ys = maskRes d x rc fl
      ∧ (∀ k < 256, x.getLsbD k = if k < n then (if on k then (r k).1 else (s.oldK m d n).getD k false) else false)
      ∧ (rc = true ↔ ∃ k < n, on k = true ∧ (r k).1 = true)
      ∧ ∀ j, fl.getLsbD j = true ↔ ∃ k < n, on k = true ∧ (r k).2.getLsbD j = true := by
  intro r on
  obtain ⟨hlen, hbit, hfl⟩ := kmap_lanes f (s.act m n) (s.oldK m d n) xs ys n (act_length _ _ _) (oldK_length _ _ _ _) hx hy
  let o := kmap f (s.act m n) (s.oldK m d n) xs ys
  have hquiet : s.quiet o.2 := quiet_of_bits fun j hj => by
    obtain ⟨k, hk, hon, hb⟩ := (hfl j).1 hj
    exact ⟨(r k).2, hq k hk hon, hb⟩
  refine ⟨BitVec.ofNat 256 (boolsN o.1), ((s.act m n).zip o.1).any fun x => x.1 && x.2, o.2, resIss_good hp hquiet, fun k hk => ?_, ?_, hfl⟩
  · rw [BitVec.getLsbD_ofNat, boolsN_testBit, decide_eq_true hk, Bool.true_and]
    split
    next h => exact hbit k h
    next h => rw [List.getD_eq_default _ _ (by rw [hlen]; omega)]
  · refine (any_zip_and (act_length s m n) hlen).trans (exists_congr fun k => and_congr_right fun hk => and_congr_right fun hon => ?_)
    rw [hbit k hk, if_pos hon]

/-- Settles O15. -/
theorem vectorCompareCompletes : Obligations.VectorCompareCompletes := by
  unfold Obligations.VectorCompareCompletes
  refine ⟨fun s m d a b z => ⟨?_, ?_⟩, fun s d e a b h => ⟨?_, fun hr => ?_, fun hr => ?_⟩⟩
  · intro c w n r hp hq hr
    obtain ⟨x, rc, fl, hi, hrest⟩ := kIss_lanes (ps := [(s.vs a).payload, (s.vs b).payload]) (f := VCmp.test c s.amode.fz) hp
      (el_length s w a) (el_length s w b) hq
    exact ⟨x, rc, fl, exec_next_of_eq rfl hr hi, hrest⟩
  · intro t w n r hp hr
    obtain ⟨x, rc, fl, hi, hbit, hrc, hfl⟩ := kIss_lanes (ps := [(s.vs a).payload, (s.ss z).payload])
      (f := fun x _ => (nfld (fClass t x) 0 10 &&& nfld (s.ss z).bits.toNat 0 10 != 0, fNone)) hp (el_length s w a)
      (zerosOf_length w) fun _ _ _ => State.quiet_none
    have h0 : fl = 0 := no_flags fun j => (hfl j).trans (by simp [fNone])
    have hcls : ∀ k, (nfld (fClass t (s.lane w a k)) 0 10 &&& nfld (s.ss z).bits.toNat 0 10 != 0) = r k :=
      fun k => class_in_field (class_lt _ _) _
    refine ⟨x, rc, exec_next_of_eq rfl hr (h0 ▸ hi), fun k hk => ?_, ?_⟩
    · rw [hbit k hk, ← hcls k]
      rfl
    · refine hrc.trans (exists_congr fun k => and_congr_right fun _ => and_congr_right fun _ => ?_)
      rw [← hcls k]
      rfl
  · have ha : unpoisoned [(s.ks a).payload] := unpoisoned_head h
    have mask {i : Instr} {ps : List (Option Word)} {x : KWord} (he : exec i s = s.fireOp i (s.klog d ps x)) (hp : unpoisoned ps)
        (hr : s.opReady i = true) : exec i s = .next (s.issue i (maskRes d x (x != 0) 0)) := exec_next_of_eq he hr (klog_good hp)
    refine List.forall_mem_cons.2 ⟨mask rfl h, List.forall_mem_cons.2 ⟨mask rfl h, List.forall_mem_cons.2 ⟨mask rfl h, ?_⟩⟩⟩
    exact List.forall_mem_cons.2 ⟨mask rfl h, List.forall_mem_cons.2 ⟨mask rfl ha, List.forall_mem_singleton.2 (mask rfl ha)⟩⟩
  · exact exec_word rfl hr (unpoisoned_head h) (by rw [popN_eq]; rfl)
  · obtain ⟨hle, hzero, hone⟩ := ctzN_spec 256 (s.ks a).bits.toNat
    exact ⟨_, hle, hzero, hone, exec_next_of_eq rfl hr (resIss_good (unpoisoned_head h) State.quiet_none)⟩

end Sys2Proof.Proofs
end

section
/-! PROOFS. Scalar floating point and reductions (R126 to R132, R202 to R205), with the two statements that fail. -/

namespace Sys2Proof.Proofs
open Sys2Proof Sys2Proof.Machine

/-- Settles O8. -/
theorem floatArithmeticCompletes : Obligations.FloatArithmeticCompletes := by
  unfold Obligations.FloatArithmeticCompletes
  intro s t d a b c h f x y z
  have ha : unpoisoned [(s.ss a).payload] := unpoisoned_head h
  have hab : unpoisoned [(s.ss a).payload, (s.ss b).payload] := unpoisoned_two h
  refine ⟨?_, ?_, ?_, ?_, ?_, ?_, ?_, ?_, ?_⟩
  · exact fun rm hr hq => exec_float rfl hr hab hq
  · exact fun rm hr hq => exec_float rfl hr hab hq
  · exact fun rm hr hq => exec_float rfl hr hab hq
  · exact fun rm hr hq => exec_float rfl hr hab hq
  · exact fun rm hr hq => exec_float rfl hr ha hq
  · exact fun rm hr hq => exec_float rfl hr h hq
  · exact fun rm hr hq => exec_float rfl hr h hq
  · exact fun rm hr hq => exec_float rfl hr h hq
  · exact fun rm hr hq => exec_float rfl hr h hq

/-- The condition of `fclass`: a NaN has class 8 or 9. -/
theorem nan_class (k : Nat) : decide (256 ≤ 2 ^ k) = decide (8 ≤ k) :=
  decide_eq_decide.2 (Nat.pow_le_pow_iff_right (a := 2) (n := 8) (by norm_num))

/-- Settles O9. -/
theorem floatCompareAndFlagsComplete : Obligations.FloatCompareAndFlagsComplete := by
  unfold Obligations.FloatCompareAndFlagsComplete
  refine ⟨fun s t d p a b h => ?_, fun s d a h => ⟨?_, ?_⟩⟩
  · intro f v x y neg
    have ha : unpoisoned [(s.ss a).payload] := unpoisoned_head h
    refine ⟨?_, ?_, ?_, ?_, ?_, ?_, fun u hr => ?_⟩
    · exact fun hr hq => exec_float rfl hr h hq
    · exact fun hr hq => exec_float rfl hr h hq
    · exact fun hr hq => exec_float rfl hr ha hq
    · exact fun hr hq => exec_float rfl hr ha hq
    · exact fun hr hq => exec_float rfl hr h hq
    · exact fun cc hr hq => exec_pred rfl hr h hq
    · exact exec_next_of_eq rfl hr ((resIss_good ha State.quiet_none).trans (by rw [fClass, nan_class]; rfl))
  · exact fun hr => exec_next_of_eq rfl hr (resIss_good h State.quiet_none)
  · exact fun hr => exec_next_of_eq rfl hr (resIss_good h State.quiet_none)

/-! ## Refutations -/

/-- The SRNG values with which the outstanding operations of the focus tile will advance the generator. -/
def pendingSrng (s : State) : List (Option (BitVec 32)) := s.tile.ops.map (·.srng)
/-- The payloads of poisoned results that stand outstanding on the focus tile. -/
def pendingPoison (s : State) : List (Option Word) := s.tile.ops.map (·.poison)

/-- A widening conversion that is ready in `wR`: from f32 to f64 with stochastic rounding. -/
def cvtWiden : Instr := .fcvt (.f .f64) (.f .f32) .rs (.reg 4) (.chan 3)

/-- Refutes O10: a conversion to a format that holds every value of the source's rounds nothing and leaves SRNG alone (R100, R130,
`FEnv.cvt`), while the statement advances SRNG under stochastic rounding. -/
theorem not_conversionCompletes : ¬ Obligations.ConversionCompletes := by
  unfold Obligations.ConversionCompletes
  intro h
  have stated := (h Tests.wR (.reg 4) (.chan 3) (Tests.unp (by decide))).1 (.f .f64) (.f .f32) .rs (by decide) (Tests.quietR _)
  have done : exec cvtWiden Tests.wR = .next (Tests.wR.issue cvtWiden _) := exec_next_of_eq rfl (by decide) rfl
  have same := congrArg pendingSrng (Host.Outcome.next.inj (done.symm.trans stated))
  revert same
  decide +kernel

/-- `wR` with a poisoned register 4. -/
def poisoned4 : State :=
  Tests.wR.onTile fun t => t.modCtx 0 fun c => { c with regs := { c.regs with s := c.regs.s.set 4 { bits := 0x77, full := true, pois := true } } }
/-- A reduction into that register under a mask that keeps it. -/
def redKeep : Instr := .vredsum (.int .i32 false) (.keep 2) (.reg 4) (.reg 7) (.reg 9)

/-- Refutes O16: under a mask with ME = 1 and MZ = 0 a reduction reads its destination (R186), whose poison then makes the result poison; the
statement does not ask that the destination is not poisoned. -/
theorem not_reductionCompletes : ¬ Obligations.ReductionCompletes := by
  unfold Obligations.ReductionCompletes
  intro h
  have quiet : ∀ fl, poisoned4.quiet fl := fun fl => by
    have h : poisoned4.amode.ten = 0#6 := by decide
    unfold State.quiet; rw [h]; exact BitVec.and_zero
  have stated := (h poisoned4 (.keep 2) (.reg 4) (.reg 4) (.reg 7) (.reg 7) (.reg 9) (Tests.unp (by decide))).1 .i32 false (by decide) (quiet _)
  have done : exec redKeep poisoned4 = .next (poisoned4.issue redKeep _) := exec_next_of_eq rfl (by decide) rfl
  have same := congrArg pendingPoison (Host.Outcome.next.inj (done.symm.trans stated))
  revert same
  decide +kernel

end Sys2Proof.Proofs
end

section
/-! PROOFS. What a fire leads to (R28, R112): the state on which an operation's remaining effects act, as equations. -/

namespace Sys2Proof.Proofs
open Sys2Proof Sys2Proof.Machine

/-! ## Vectors at a place -/

theorem getElem_vector_set_self {α : Type} {n : Nat} (v : Vector α n) (i : Fin n) (x : α) : (v.set i x)[i] = x :=
  Vector.getElem_set_self i.isLt

/-! ## The registers as a rule reads them -/

theorem readBad_frame (pl : Word) (r : Regs) (x : PresReg) :
    (r.readBad pl x).p = r.p ∧ (r.readBad pl x).flags = r.flags ∧ (r.readBad pl x).amode = r.amode ∧ (r.readBad pl x).srng = r.srng
      ∧ (r.readBad pl x).bad = r.bad := by
  cases x <;> exact ⟨rfl, rfl, rfl, rfl, rfl⟩

/-- The registers of `r` with those of `bad` poisoned. -/
def poisonRegs (pl : Word) (bad : List PresReg) (r : Regs) : Regs := bad.foldl (Regs.readBad pl) r

theorem poisonRegs_frame (pl : Word) (bad : List PresReg) (r : Regs) :
    (poisonRegs pl bad r).p = r.p ∧ (poisonRegs pl bad r).flags = r.flags ∧ (poisonRegs pl bad r).amode = r.amode
      ∧ (poisonRegs pl bad r).srng = r.srng ∧ (poisonRegs pl bad r).bad = r.bad := by
  induction bad generalizing r with
  | nil => exact ⟨rfl, rfl, rfl, rfl, rfl⟩
  | cons x bad ih =>
    obtain ⟨hp, hf, ha, hs, hb⟩ := readBad_frame pl r x
    obtain ⟨ip, jf, ia, is, ib⟩ := ih (r.readBad pl x)
    exact ⟨ip.trans hp, jf.trans hf, ia.trans ha, is.trans hs, ib.trans hb⟩

/-- The registers of the firing context as its rule reads them. -/
theorem seen_regs (c : Ctx) (pl : Word) (ent : Chan → Word) : (c.seen pl ent).regs = poisonRegs pl c.regs.bad c.regs := by
  unfold Ctx.seen
  split
  next h =>
    rw [List.isEmpty_iff.1 (Bool.and_eq_true_iff.1 h).1]
    rfl
  next => rfl

theorem seen_frame (c : Ctx) (pl : Word) (ent : Chan → Word) :
    (c.seen pl ent).cfg = c.cfg ∧ (c.seen pl ent).ib = c.ib ∧ (c.seen pl ent).eb = c.eb ∧ (c.seen pl ent).egr = c.egr
      ∧ (c.seen pl ent).ctl = c.ctl ∧ (c.seen pl ent).watches = c.watches := by
  unfold Ctx.seen
  split <;> exact ⟨rfl, rfl, rfl, rfl, rfl, rfl⟩

/-- The payload of poison that a rule finds in a register whose storage is lost. -/
def lostReg (s : State) : Word := mkPayload 8#8 s.fire.slot.toNat s.fire.ctx s.env s.clock
/-- The payload of poison that a rule finds in an entry whose storage is lost. -/
def lostEnt (s : State) (ch : Chan) : Word := mkPayload 9#8 ch.val s.fire.ctx s.env s.clock
theorem fctx_eq (s : State) : s.fctx = (s.tile.ctx s.fire.ctx).seen (lostReg s) (lostEnt s) := rfl
theorem fctx_regs (s : State) : s.fctx.regs = poisonRegs (lostReg s) (s.tile.ctx s.fire.ctx).regs.bad (s.tile.ctx s.fire.ctx).regs := seen_regs _ _ _
theorem fctx_cfg (s : State) : s.fctx.cfg = (s.tile.ctx s.fire.ctx).cfg := (seen_frame _ _ _).1
theorem fctx_ib (s : State) : s.fctx.ib = (s.tile.ctx s.fire.ctx).ib := (seen_frame _ _ _).2.1
theorem fctx_ctl (s : State) : s.fctx.ctl = (s.tile.ctx s.fire.ctx).ctl := (seen_frame _ _ _).2.2.2.2.1
theorem fctx_watches (s : State) : s.fctx.watches = (s.tile.ctx s.fire.ctx).watches := (seen_frame _ _ _).2.2.2.2.2
theorem fctx_p (s : State) : s.fctx.regs.p = (s.tile.ctx s.fire.ctx).regs.p := by rw [fctx_regs]; exact (poisonRegs_frame _ _ _).1

/-! ## A writeback without a result -/

/-- A context after predicate writes. -/
def wrotePws (s : State) (rc : Option Bool) (c : Ctx) : Ctx :=
  { c with regs := applyPws s.fire.pws (rc.getD false) c.regs, fnow := (s.clock, c.raisedIn s.clock) }

theorem write_nothing {o : Op} (hw : o.wr = []) (hp : o.poison = none) (hs : o.srng = none) (hf : o.fl = 0#6) (cyc : Nat) (c : Ctx) :
    o.write cyc c = { c with regs := applyPws o.pws (o.rc.getD false) c.regs, fnow := (cyc, c.raisedIn cyc) } := by
  have ht : o.trapped = none := by unfold Op.trapped; rw [hp]
  unfold Op.write
  rw [ht, hs, hw, hf]
  simp only [Ctx.raise, Ctx.setRegs, Ctx.raisedIn, List.foldl_nil, List.any_nil, Bool.false_eq_true, if_false, BitVec.or_zero]
  rfl

/-! ## One-cycle and longer operations -/

/-- The fire-time writes of an effect. -/
def nowWrites (s : State) (now : List Wr) (c : Ctx) : Ctx := now.foldl (fun y w => w.apply s.fire.slot.toNat s.clock y) c

/-- A one-cycle operation writes back in its context, and then its remaining effects act. -/
theorem issue_short (s : State) {i : Instr} {x : Iss} (hl : i.lat ≤ 1) (hx : x.act.isPlain = true) (hs : x.stop = none) :
    s.issue i x = x.edit (s.onTile fun t => ((t.occupy i s.clock).tokPub s.fctx i.pub).modCtx s.fire.ctx fun y =>
      Op.write { s.mkOp i x with pws := s.fire.pws } s.clock (nowWrites s x.now y)) := by
  unfold State.issue
  dsimp only
  simp only [hs, hx, hl, decide_true, Bool.and_self, if_true]
  rfl

/-- A longer operation stands outstanding, and then its remaining effects act. -/
theorem issue_long (s : State) {i : Instr} {x : Iss} (h : (decide (i.lat ≤ 1) && x.act.isPlain) = false) (hs : x.stop = none) :
    s.issue i x = x.edit (s.onTile fun t => { (((t.occupy i s.clock).tokPub s.fctx i.pub).modCtx s.fire.ctx fun y =>
        (nowWrites s x.now y).setRegs (applyPws (s.fire.pws.filter fun w => !pwIsRc w) false (nowWrites s x.now y).regs)) with
      ops := t.ops ++ [s.mkOp i x], nextId := t.nextId + 1 }) := by
  unfold State.issue
  dsimp only
  simp only [hs, h, Bool.false_eq_true, if_false]
  simp [State.onTile, nowWrites]

/-! ## One-cycle operations without results -/

/-- The state on which the remaining effects of a one-cycle operation act that has the fire-time writes `now` and the result condition `rc`. -/
def stepped (s : State) (i : Instr) (rc : Option Bool) (now : List Wr) : State :=
  s.onTile fun t => ((t.occupy i s.clock).tokPub s.fctx i.pub).modCtx s.fire.ctx fun y => wrotePws s rc (nowWrites s now y)

/-- A one-cycle operation without results: its remaining effects act after the predicate writes. -/
theorem issue_edit (s : State) {i : Instr} (hl : i.lat ≤ 1) (rc : Option Bool) (now : List Wr) (f : State → State) :
    s.issue i { Iss.zero with rc := rc, now := now, edit := f } = f (stepped s i rc now) := by
  rw [issue_short s hl rfl rfl]
  refine congrArg f ?_
  unfold stepped
  simp only [write_nothing (o := { s.mkOp i { Iss.zero with rc := rc, now := now, edit := f } with pws := s.fire.pws }) rfl rfl rfl rfl]
  rfl

section stepped
variable (s : State) (i : Instr) (rc : Option Bool) (now : List Wr)

@[simp] theorem stepped_clock : (stepped s i rc now).clock = s.clock := rfl
@[simp] theorem stepped_cur : (stepped s i rc now).cur = s.cur := rfl
@[simp] theorem stepped_fire : (stepped s i rc now).fire = s.fire := rfl
@[simp] theorem stepped_strm : (stepped s i rc now).tile.strm = s.tile.strm := by simp [stepped]
@[simp] theorem stepped_acc : (stepped s i rc now).tile.acc = s.tile.acc := by simp [stepped]
@[simp] theorem stepped_copies : (stepped s i rc now).tile.copies = s.tile.copies := by simp [stepped]

theorem stepped_ctx_self : (stepped s i rc now).tile.ctx s.fire.ctx
    = wrotePws s rc (nowWrites s now (s.tile.ctx s.fire.ctx)) := by
  simp only [stepped, State.onTile, Tile.ctx_modCtx_self]
  simp [Tile.ctx]
theorem stepped_ctx_other {d : Fin 8} (h : d ≠ s.fire.ctx) : (stepped s i rc now).tile.ctx d = s.tile.ctx d := by
  simp only [stepped, State.onTile, Tile.ctx_modCtx_other _ _ h]
  simp [Tile.ctx]

end stepped

end Sys2Proof.Proofs
end

section
/-! PROOFS. Channel, presence and control instructions (R134 to R153). -/

namespace Sys2Proof.Proofs
open Sys2Proof Sys2Proof.Machine

/-! ## Entries -/

theorem toNat_append_add {m n : Nat} (x : BitVec m) (y : BitVec n) : (x ++ y).toNat = y.toNat + x.toNat * 2 ^ n := by
  rw [BitVec.toNat_append, ← Nat.shiftLeft_add_eq_or_of_lt y.isLt, Nat.shiftLeft_eq, Nat.add_comm]

theorem cutTo_eq (w : BitVec 2) (x : EWord) : cutTo w x = (x.setWidth (widBits w)).setWidth 512 := by
  unfold cutTo
  rw [← BitVec.toNat_setWidth, BitVec.ofNat_toNat]
theorem cutTo_ne_zero {w : BitVec 2} {n : Nat} (e : widBits w = n) (hn : n ≤ 512) (x : EWord) : (cutTo w x != 0) = (x.setWidth n != 0) := by
  subst e
  rw [cutTo_eq, Bool.eq_iff_iff, bne_iff_ne, bne_iff_ne, ne_eq, ne_eq, not_iff_not]
  constructor
  · intro h
    have h' := congrArg (BitVec.setWidth (widBits w)) h
    rwa [BitVec.setWidth_setWidth_of_le _ hn, BitVec.setWidth_eq, show (0 : BitVec 512) = 0#512 from rfl, BitVec.setWidth_zero] at h'
  · intro h
    rw [h, show (0 : BitVec (widBits w)) = 0#_ from rfl, BitVec.setWidth_zero]
    rfl

/-- Four fields of one width, laid out from the lowest: the width stays a variable, so that its power is not evaluated. -/
theorem ofNat_foldr_four {α : Type} {w : Nat} (f : α → BitVec w) (a b c d : α) :
    BitVec.ofNat (w + w + w + w) ([d, c, b, a].foldr (fun x acc => (f x).toNat + acc * 2 ^ w) 0) = f a ++ f b ++ f c ++ f d := by
  have h : [d, c, b, a].foldr (fun x acc => (f x).toNat + acc * 2 ^ w) 0 = (f a ++ f b ++ f c ++ f d).toNat := by
    simp only [List.foldr_cons, List.foldr_nil, Nat.zero_mul, Nat.add_zero]
    rw [toNat_append_add (f a ++ f b ++ f c) (f d), toNat_append_add (f a ++ f b) (f c), toNat_append_add (f a) (f b)]
  rw [h, BitVec.ofNat_toNat, BitVec.setWidth_eq]

/-- Four entries that are not poisoned, as a vector: the first lowest. -/
theorem vecOfEntries_four {e e1 e2 e3 : Entry} (h : ∀ y ∈ [e, e1, e2, e3], y.p = false) :
    vecOfEntries [e, e1, e2, e3] = clean (e3.data ++ e2.data ++ e1.data ++ e.data) := by
  have hf : [e, e1, e2, e3].find? (·.p) = none := List.find?_eq_none.2 fun y hy => by simp [h y hy]
  unfold vecOfEntries
  rw [hf]
  exact congrArg clean (ofNat_foldr_four Entry.data e3 e2 e1 e)

/-! ## Receives -/

/-- Bits of an entry that a destination takes. -/
def dstBits : XDst → Nat | .s _ => 64 | .pair _ => 128 | .k _ => 256 | .v _ => 512
/-- The entries that a destination takes, of four. -/
def taken (x : XDst) (e e1 e2 e3 : Entry) : List Entry := if XDst.n x = 4 then [e, e1, e2, e3] else [e]
/-- Entries as an egress channel of width `w` receives them. -/
def forwarded (x : XDst) (es : List Entry) (w : BitVec 2) : List Entry :=
  es.map fun y => { data := (y.data.setWidth (dstBits x)).setWidth 512, tag := y.tag, w := w, p := false }
/-- What a receive writes. -/
def recvWr (x : XDst) (e e1 e2 e3 : Entry) : List Wr :=
  let fwd := fun (c : Chan) (w : BitVec 2) => [Wr.eg c (forwarded x (taken x e e1 e2 e3) w)]
  match x with
  | .s (.reg r) => [.s r (e.data.setWidth 64) false] | .s (.chan c) => fwd c 0 | .s (.sys q) => [.sys q (e.data.setWidth 64)]
  | .pair (.pair m) => [.s (pairLo m) (e.data.setWidth 64) false, .s (pairHi m) (e.data.extractLsb' 64 64) false] | .pair (.chan c) => fwd c 1
  | .k (.reg r) => [.k r (e.data.setWidth 256) false] | .k (.chan c) => fwd c 2
  | .v (.reg r) => [.v r (e3.data ++ e2.data ++ e1.data ++ e.data) false] | .v (.chan c) => fwd c 3
/-- The result condition of a receive: the value is not zero. -/
def recvRc (x : XDst) (es : List Entry) : Bool := es.any fun y => y.data.setWidth (dstBits x) != 0
/-- The destination is a short system register. -/
def recvHard : XDst → Bool | .s (.sys _) => true | _ => false

theorem widBits_wid (x : XDst) : widBits (Machine.XDst.wid x) = dstBits x := by cases x <;> rfl
theorem dstBits_le (x : XDst) : dstBits x ≤ 512 := by cases x <;> simp [dstBits]
theorem taken_length (x : XDst) (e e1 e2 e3 : Entry) : (taken x e e1 e2 e3).length = XDst.n x := by cases x <;> rfl
theorem take_taken (x : XDst) (e e1 e2 e3 : Entry) (l : List Entry) : (taken x e e1 e2 e3 ++ l).take (XDst.n x) = taken x e e1 e2 e3 := by
  rw [← taken_length x e e1 e2 e3, List.take_left]

/-- What entries that are not poisoned write, in every form of destination. -/
theorem moveTo_taken {x : XDst} {e e1 e2 e3 : Entry} (h : ∀ y ∈ taken x e e1 e2 e3, y.p = false) :
    moveTo x (taken x e e1 e2 e3)
      = { wr := recvWr x e e1 e2 e3, pl := none, hard := recvHard x, rc := some (recvRc x (taken x e e1 e2 e3)) } := by
  have hpl : (taken x e e1 e2 e3).find? (·.p) = none := List.find?_eq_none.2 fun y hy => by simp [h y hy]
  have hrc : ((taken x e e1 e2 e3).any fun y => cutTo (Machine.XDst.wid x) y.data != 0) = recvRc x (taken x e e1 e2 e3) := by
    unfold recvRc
    simp only [cutTo_ne_zero (widBits_wid x) (dstBits_le x)]
  have hfwd : ((taken x e e1 e2 e3).map fun y => { data := cutTo (Machine.XDst.wid x) y.data, tag := y.tag, w := Machine.XDst.wid x, p := y.p : Entry })
      = forwarded x (taken x e e1 e2 e3) (Machine.XDst.wid x) := by
    unfold forwarded
    refine List.map_congr_left fun y hy => ?_
    rw [cutTo_eq, widBits_wid, h y hy]
  have he : e.p = false := h e (by unfold taken; split <;> simp)
  cases x with
  | s d =>
    cases d with
    | chan c => simp only [moveTo, hpl, hfwd, hrc, Option.map_none]; rfl
    | reg r => simp only [moveTo, hpl, hrc, Option.map_none]; simp [taken, XDst.n, entVal, he, wrS, recvWr, recvHard, sdHard]
    | sys q => simp only [moveTo, hpl, hrc, Option.map_none]; simp [taken, XDst.n, entVal, he, wrS, recvWr, recvHard, sdHard]
  | pair d =>
    cases d with
    | chan c => simp only [moveTo, hpl, hfwd, hrc, Option.map_none]; rfl
    | pair m =>
      have hhi : (e.data.setWidth 128).extractLsb' 64 64 = e.data.extractLsb' 64 64 := by ext i hi; simp; omega
      simp only [moveTo, hpl, hrc, Option.map_none]
      simp [taken, XDst.n, entVal, he, wrP2, recvWr, recvHard, hhi]
  | k d =>
    cases d with
    | chan c => simp only [moveTo, hpl, hfwd, hrc, Option.map_none]; rfl
    | reg r =>
      have hk : BitVec.ofNat 256 (e.data.setWidth 256).toNat = e.data.setWidth 256 := by rw [BitVec.ofNat_toNat, BitVec.setWidth_eq]
      simp only [moveTo, hpl, hrc, Option.map_none]
      simp only [taken, XDst.n, entVal, he, wrK, recvWr, recvHard, Val.num, Bool.false_eq_true, if_false, hk, OfNat.one_ne_ofNat]
  | v d =>
    cases d with
    | chan c => simp only [moveTo, hpl, hfwd, hrc, Option.map_none]; rfl
    | reg r =>
      have hv : vecOfEntries (taken (.v (.reg r)) e e1 e2 e3) = clean (e3.data ++ e2.data ++ e1.data ++ e.data) := vecOfEntries_four h
      simp only [moveTo, hpl, hrc, hv, Option.map_none]
      simp [clean, wrV, recvWr, recvHard, Val.num]

/-- Settles O19, by what `moveTo` writes of entries that are not poisoned. -/
theorem receiveCompletes : Obligations.ReceiveCompletes := by
  refine ⟨fun s ch x e e1 e2 e3 rest => ?_, fun s ch x pc hlen => ⟨fun hr => ?_, fun hr => ?_⟩⟩
  · intro es hin hp n fwd wr hard rc drop
    have hm : moveTo x (s.heads ch (XDst.n x)) = { wr := wr, pl := none, hard := hard, rc := some rc } := by
      have hh : s.heads ch (XDst.n x) = es := by unfold State.heads; rw [hin]; exact take_taken x e e1 e2 e3 rest
      rw [hh, show es = taken x e e1 e2 e3 from rfl, moveTo_taken hp]
      rcases x with (r | c | q) | (m | c) | (r | c) | (r | c) <;> rfl
    have hn : ¬ (s.fctx.inb[ch]).length < XDst.n x := by
      rw [hin, List.length_append, show es.length = _ from taken_length x e e1 e2 e3]; omega
    have hl : es.length = XDst.n x := taken_length x e e1 e2 e3
    refine ⟨fun hr => exec_next_of_eq rfl hr ?_, fun hr => exec_next_of_eq rfl hr ?_, fun pc =>
      ⟨fun hr => exec_next_of_eq rfl hr ?_, fun hr => exec_next_of_eq rfl hr ?_⟩⟩
    · rw [hm]; simp only [drop, hl]; rfl
    · rw [hm]; rfl
    · rw [if_neg hn, hm]; simp only [drop, hl]; cases hard <;> rfl
    · rw [if_neg hn, hm]; cases hard <;> rfl
  · exact exec_next_of_eq rfl hr (if_pos hlen)
  · exact exec_next_of_eq rfl hr (if_pos hlen)

/-! ## Sends -/

theorem pois_of_payload {w : Nat} {v : Val w} (h : v.payload = none) : v.pois = false := by
  unfold Val.payload at h
  split at h
  · cases h
  next hp => exact Bool.eq_false_iff.2 hp
theorem num_of_payload {w : Nat} {v : Val w} (h : v.payload = none) : v.num = v.bits.toNat := by
  unfold Val.num
  rw [if_neg (by simp [pois_of_payload h])]

/-- The entries that a send of a value that is not poisoned appends. -/
def sentEntries (s : State) (a : XSrc) (tag : BitVec 8) : List Entry :=
  match a with
  | .s x => [{ data := (s.ss x).bits.setWidth 512, tag := tag, w := 0, p := false }]
  | .pair x => [{ data := (s.ps x).bits.setWidth 512, tag := tag, w := 1, p := false }]
  | .k x => [{ data := (s.ks x).bits.setWidth 512, tag := tag, w := 2, p := false }]
  | .v x => (List.range 4).map fun i => { data := (s.vs x).bits.extractLsb' (512 * i) 512, tag := tag, w := 3, p := false }

theorem mkEntry_clean {w : Nat} {v : Val w} (h : v.payload = none) (c : BitVec 2) :
    mkEntry v.num c 0#8 v.pois = { data := v.bits.setWidth 512, tag := 0, w := c, p := false } := by
  unfold mkEntry
  rw [num_of_payload h, pois_of_payload h, BitVec.ofNat_toNat]
  rfl

theorem xval_clean {s : State} {a : XSrc} (h : (s.xval a).2 = none) : (s.xval a).1 = sentEntries s a 0 := by
  cases a with
  | s x => exact congrArg (fun e => [e]) (mkEntry_clean h 0)
  | pair x => exact congrArg (fun e => [e]) (mkEntry_clean h 1)
  | k x => exact congrArg (fun e => [e]) (mkEntry_clean h 2)
  | v x =>
    show vecEntries (s.vs x) 0#8 = _
    unfold vecEntries
    rw [if_neg (by simp [pois_of_payload (v := s.vs x) h])]
    unfold sentEntries mkEntry
    simp only [BitVec.ofNat_toNat, BitVec.setWidth_eq]
    rfl

theorem sendEntries_clean {s : State} {a : XSrc} {g : TagSrc} (h : unpoisoned [(s.xval a).2, s.tagPl g]) :
    s.sendEntries a g = (sentEntries s a (s.tagOf g), none) := by
  obtain ⟨ha, -⟩ := unpoisoned_cons.1 h
  unfold State.sendEntries
  simp only [firstPois_of_unpoisoned h, xval_clean ha]
  refine congrArg (·, none) ?_
  cases a <;> simp [sentEntries]

theorem sentEntries_length (s : State) (a : XSrc) (tag : BitVec 8) : (sentEntries s a tag).length = XSrc.n a := by
  cases a <;> simp [sentEntries, XSrc.n]

/-- Settles O20, by the entries of a source that is not poisoned. -/
theorem sendCompletes : Obligations.SendCompletes := by
  intro s d a g tag pt pa hu es
  have hps : unpoisoned [(s.xval a).2, s.tagPl g] := by
    have ha : (s.xval a).2 = pa := by cases a <;> rfl
    have hg : s.tagPl g = pt := by cases g <;> rfl
    rw [ha, hg]; exact hu
  have htag : s.tagOf g = tag := by cases g <;> rfl
  have hes : sentEntries s a tag = es := by cases a <;> rfl
  have hsend : s.sendEntries a g = (es, none) := by rw [sendEntries_clean hps, htag, hes]
  have hl : es.length = XSrc.n a := hes ▸ sentEntries_length s a tag
  refine ⟨fun hr => exec_next_of_eq rfl hr ?_, fun pc hr => exec_next_of_eq rfl hr ?_⟩
  · simp only [hsend]; rfl
  · simp only [hsend, hl]; rfl

/-! ## Tags, counts, presence, reset -/

theorem readBad_full (pl : Word) (r : Regs) (x y : PresReg) : (r.readBad pl x).full y = r.full y := by
  have hset : ∀ {w n : Nat} (v : Vector (Reg w) n) (i j : Fin n) (b : BitVec w),
      ((v.set i { v[i] with bits := b, pois := true })[j]).full = (v[j]).full := by
    intro w n v i j b
    by_cases h : j = i
    · subst h; rw [getElem_vector_set_self]
    · rw [getElem_vector_set_ne _ h]
  cases x <;> cases y <;> first | rfl | exact hset _ _ _ _
theorem poisonRegs_full (pl : Word) (bad : List PresReg) (r : Regs) (y : PresReg) : (poisonRegs pl bad r).full y = r.full y := by
  induction bad generalizing r with
  | nil => rfl
  | cons x bad ih => exact (ih _).trans (readBad_full pl r x y)
/-- Presence is what the register file says, also where the storage is lost. -/
theorem presence_eq {s : State} (h : s.fire.clr = none) (r : PresReg) : s.presence r = (s.tile.ctx s.fire.ctx).regs.full r := by
  unfold State.presence
  rw [h]
  show s.fctx.regs.full r = _
  rw [fctx_regs, poisonRegs_full]

theorem dequeue_ctx (u : State) (c : Fin 8) (ch : Chan) (n : Nat) : (u.dequeue c ch n).tile.ctx c = (u.tile.ctx c).deq ch n := by
  unfold State.dequeue
  dsimp only
  rw [(OnlyNet.credit ..).tile]
  exact Tile.ctx_setCtx_self ..
/-- A context whose channel `ch` has moved to the next generation. -/
def nextGen (ch : Chan) (g : BitVec 2) (x : Ctx) : Ctx := { x with ib := x.ib.set ch { x.ib[ch] with gen := g + 1 } }
theorem chReset_ctx (u : State) (c : Fin 8) (ch : Chan) :
    (u.chReset c ch).tile.ctx c
      = nextGen ch ((u.tile.ctx c).ib[ch]).gen ((u.tile.ctx c).deq ch ((u.tile.ctx c).inb[ch]).length) := by
  let v := u.dequeue c ch ((u.tile.ctx c).inb[ch]).length
  have hv : v.tile.ctx c = (u.tile.ctx c).deq ch ((u.tile.ctx c).inb[ch]).length := dequeue_ctx ..
  calc (u.chReset c ch).tile.ctx c = (v.tile.modCtx c (nextGen ch ((v.tile.ctx c).ib[ch]).gen)).ctx c := rfl
    _ = nextGen ch ((v.tile.ctx c).ib[ch]).gen (v.tile.ctx c) := Tile.ctx_modCtx_self ..
    _ = _ := by rw [hv]; rfl

theorem setPres_ctx (u : State) (r : PresReg) (b : Bool) : ((u.setPres r b).tile.ctx u.fire.ctx).regs = ((u.tile.ctx u.fire.ctx).regs).setFull r b := by
  unfold State.setPres State.onTile
  dsimp only
  rw [Tile.ctx_modCtx_self]
  rfl

theorem tagWord (e : Entry) (g : BitVec 2) :
    e.tag.toNat + at_ 8 (b2n e.p) + at_ 9 g.toNat = e.tag.toNat + 256 * (if e.p then 1 else 0) + 512 * g.toNat := by
  unfold at_ b2n
  ring

/-- Settles O21: counts and tags at once, reset and presence by the state on which their effects act. -/
theorem channelStateCompletes : Obligations.ChannelStateCompletes := by
  intro s d ch r regs
  have hpres : ∀ (i : Instr) (b : Bool), i.lat ≤ 1 → s.fire.clr = none →
      exec i s = s.fireOp i { Iss.put [] (s.presence r) with edit := fun t => t.setPres r b } → s.opReady i = true →
      ∃ t, exec i s = .next t ∧ (t.tile.ctx s.fire.ctx).regs = (applyPws s.fire.pws (regs.full r) regs).setFull r b := by
    intro i b hl hclr he hr
    refine ⟨_, (exec_next_of_eq he hr rfl).trans (congrArg _ (issue_edit s hl (some (s.presence r)) [] _)), ?_⟩
    rw [show s.fire.ctx = (stepped s i (some (s.presence r)) []).fire.ctx from rfl, setPres_ctx, stepped_fire, stepped_ctx_self,
      presence_eq hclr]
    rfl
  refine ⟨fun e l hin hr => exec_next_of_eq rfl hr ?_, fun hr => exec_next_of_eq rfl hr rfl, fun hr => exec_next_of_eq rfl hr rfl, fun hr => ?_,
    fun hclr hr => hpres _ true le_rfl hclr rfl hr, fun hclr hr => hpres _ false le_rfl hclr rfl hr⟩
  · have hh : s.fctx.head ch 0 = some e := by unfold Ctx.head; rw [hin]; rfl
    simp only [hh, Option.getD_some, tagWord]
    rfl
  · refine ⟨_, (exec_next_of_eq rfl hr rfl).trans (congrArg _ (issue_edit s le_rfl (some (!(s.fctx.inb[ch]).isEmpty)) [] _)), ?_, ?_⟩
    · rw [chReset_ctx]
      show (((_ : Vector (List Entry) 16).set ch ((_ : List Entry).drop _))[ch]) = []
      rw [getElem_vector_set_self]
      exact List.drop_length
    · rw [chReset_ctx]
      show ((((_ : Vector IBind 16).set ch _)[ch]).gen) = _
      rw [getElem_vector_set_self, stepped_ctx_self, fctx_ib]
      rfl

/-! ## Control -/

/-- A control operation, whose effect acts on the firing context alone after the predicate writes. -/
theorem control_next {s : State} {i : Instr} {f : Ctx → Ctx} {rc : Option Bool} {now : List Wr} (hl : i.lat ≤ 1)
    (he : exec i s = s.fireOp i { Iss.zero with rc := rc, now := now, edit := fun t => t.onTile fun x => x.modCtx s.fire.ctx f })
    (hr : s.opReady i = true) :
    ∃ t, exec i s = .next t ∧ t.tile.ctx s.fire.ctx = f (wrotePws s rc (nowWrites s now (s.tile.ctx s.fire.ctx))) := by
  refine ⟨_, (exec_next_of_eq he hr rfl).trans (congrArg _ (issue_edit s hl rc now _)), ?_⟩
  unfold State.onTile
  dsimp only
  rw [Tile.ctx_modCtx_self, stepped_ctx_self]

/-- An operation that ends a context which has not ended. -/
theorem ending_next {s : State} {i : Instr} {e : Ending} (hl : i.lat ≤ 1) (he : exec i s = s.fireOp i (.ed fun t => t.endWith e))
    (hr : s.opReady i = true) (hn : (s.tile.ctx s.fire.ctx).ctl.ending = .none) :
    ∃ t, exec i s = .next t
      ∧ t.tile.ctx s.fire.ctx = (wrotePws s none (s.tile.ctx s.fire.ctx)).setCtl { (s.tile.ctx s.fire.ctx).ctl with ending := e } := by
  refine ⟨_, (exec_next_of_eq he hr rfl).trans (congrArg _ (issue_edit s hl none [] _)), ?_⟩
  unfold State.endWith State.onTile
  dsimp only
  rw [stepped_fire, Tile.ctx_modCtx_self, stepped_ctx_self]
  show (match (s.tile.ctx s.fire.ctx).ctl.ending with | .none => _ | _ => _) = _
  rw [hn]
  rfl

theorem nop_next {s : State} {i : Instr} (hl : i.lat ≤ 1) (he : exec i s = s.fireOp i .zero) (hr : s.opReady i = true) :
    ∃ t, exec i s = .next t ∧ t.tile.ctx s.fire.ctx = wrotePws s none (s.tile.ctx s.fire.ctx) :=
  ⟨_, (exec_next_of_eq he hr rfl).trans (congrArg _ (issue_edit s hl none [] id)), stepped_ctx_self ..⟩

theorem endings {s : State} (hend : s.fctx.ctl.ending = .none) : (s.tile.ctx s.fire.ctx).ctl.ending = .none := by rw [← fctx_ctl]; exact hend

theorem stop_ending {c : Ctx} (h : c.ctl.ending = .none) (i : StopInfo) : (c.stop i).ctl.ending = .stop i := by
  unfold Ctx.stop
  rw [h]
  rfl

theorem controlEnds (s : State) (hend : s.fctx.ctl.ending = .none) :
     let next := fun (t : State) => t.tile.ctx s.fire.ctx
     let regs := applyPws s.fire.pws false (s.tile.ctx s.fire.ctx).regs
     (s.opReady .nop = true → ∃ t, exec .nop s = .next t ∧ (next t).regs = regs ∧ (next t).ctl = s.fctx.ctl)
     ∧ (∀ code, s.opReady (.done code) = true → ∃ t, exec (.done code) s = .next t ∧ (next t).regs = regs ∧ (next t).ctl.ending = .done code)
     ∧ (s.opReady .yield = true → ∃ t, exec .yield s = .next t ∧ (next t).regs = regs ∧ (next t).ctl = { s.fctx.ctl with yielded := true })
     ∧ (∀ n, s.opReady (.sleep n) = true → ∃ t w, exec (.sleep n) s = .next t ∧ (next t).regs = regs ∧ (next t).ctl.asleep = some w
         ∧ w = ⟨if n = 0 then none else some (s.clock + n.toNat)⟩)
     ∧ (∀ a code, s.opReady (.trap a code) = true → ∃ t i, exec (.trap a code) s = .next t ∧ (next t).regs = regs ∧ (next t).ctl.ending = .stop i
         ∧ i.cause = 0x11#8 ∧ i.code = code ∧ i.payload = (s.ss a).bits ∧ i.pmark = (s.ss a).pois)
     ∧ (∀ code, s.opReady (.bkpt code) = true → (∀ k, s.tile.taskOf s.fctx = some k → k.debug = false) →
       ∃ t, exec (.bkpt code) s = .next t ∧ (next t).regs = regs ∧ (next t).ctl = s.fctx.ctl) := by
  intro next regs
  have hn := endings hend
  have hc := fctx_ctl s
  refine ⟨fun hr => ?_, fun code hr => ?_, fun hr => ?_, fun n hr => ?_, fun a code hr => ?_, fun code hr hd => ?_⟩
  · obtain ⟨t, ht, hx⟩ := nop_next (i := .nop) le_rfl rfl hr
    exact ⟨t, ht, by simp only [next, hx]; rfl, by simp only [next, hx, hc]; rfl⟩
  · obtain ⟨t, ht, hx⟩ := ending_next (e := .done code) le_rfl rfl hr hn
    exact ⟨t, ht, by simp only [next, hx]; rfl, by simp only [next, hx]; rfl⟩
  · obtain ⟨t, ht, hx⟩ := control_next (i := .yield) (rc := none) (now := []) le_rfl rfl hr
    exact ⟨t, ht, by simp only [next, hx]; rfl, by simp only [next, hx, hc]; rfl⟩
  · obtain ⟨t, ht, hx⟩ := control_next (i := .sleep n) (rc := none) (now := []) le_rfl rfl hr
    exact ⟨t, _, ht, by simp only [next, hx]; rfl, by simp only [next, hx]; rfl, rfl⟩
  · obtain ⟨t, ht, hx⟩ := control_next (i := .trap a code) (rc := none) (now := []) le_rfl rfl hr
    refine ⟨t, { s.cause 0x11#8 with payload := (s.ss a).bits, pmark := (s.ss a).pois, code := code }, ht, ?_, ?_, rfl, rfl, rfl, rfl⟩
    · simp only [next, hx, Ctx.stop_regs]; rfl
    · simp only [next, hx]; exact stop_ending (by exact hn) _
  · have he : exec (.bkpt code) s = s.fireOp (.bkpt code) .zero := by
      refine Eq.trans (b := execBkpt code s) rfl ?_
      unfold execBkpt
      split
      next k hk => rw [if_neg (by simp [hd k hk])]
      next => rfl
    obtain ⟨t, ht, hx⟩ := nop_next le_rfl he hr
    exact ⟨t, ht, by simp only [next, hx]; rfl, by simp only [next, hx, hc]; rfl⟩

/-! ## Handover -/

/-- Reading lost entries as poison keeps the number of entries. -/
theorem readIn_length (c : Ctx) (pl : Chan → Word) (ch : Chan) : ((c.readIn pl).inb[ch]).length = (c.inb[ch]).length := by
  unfold Ctx.readIn
  dsimp only
  generalize c.inb = b
  induction c.badIn generalizing b with
  | nil => rfl
  | cons x l ih =>
    refine (ih _).trans ?_
    by_cases h : ch = x.1
    · subst h; rw [getElem_vector_set_self, List.length_modify]
    · rw [getElem_vector_set_ne _ h]
theorem seen_inb_isEmpty (c : Ctx) (pl : Word) (ent : Chan → Word) (ch : Chan) : ((c.seen pl ent).inb[ch]).isEmpty = (c.inb[ch]).isEmpty := by
  rw [Bool.eq_iff_iff, List.isEmpty_iff_length_eq_zero, List.isEmpty_iff_length_eq_zero]
  unfold Ctx.seen
  split
  · exact Iff.rfl
  · exact iff_of_eq (congrArg (· = 0) (readIn_length c ent ch))
theorem seen_carryClash (c : Ctx) (pl : Word) (ent : Chan → Word) (y : Ctx) : (c.seen pl ent).carryClash y = c.carryClash y := by
  obtain ⟨hcfg, hib, heb, hegr, -, -⟩ := seen_frame c pl ent
  unfold Ctx.carryClash
  simp only [hcfg, hib, heb, hegr, seen_inb_isEmpty]

theorem stepped_fctx_cfg (s : State) (i : Instr) (rc : Option Bool) : (stepped s i rc []).fctx.cfg = s.fctx.cfg := by
  rw [fctx_cfg, fctx_cfg, stepped_fire, stepped_ctx_self]; rfl
theorem stepped_carryClash (s : State) (i : Instr) (rc : Option Bool) {d : Fin 8} (h : d ≠ s.fire.ctx) :
    (stepped s i rc []).fctx.carryClash ((stepped s i rc []).tile.ctx d) = s.fctx.carryClash (s.tile.ctx d) := by
  rw [fctx_eq, fctx_eq, seen_carryClash, seen_carryClash, stepped_ctx_other _ _ _ _ h, stepped_fire, stepped_ctx_self]; rfl

/-- The test of a handover does not see the predicate writes of its own rule. -/
theorem stepped_hand_test (s : State) (i : Instr) (rc : Option Bool) :
    let u := stepped s i rc []
    (!u.fctx.cfg.hen || u.fctx.succ == u.fire.ctx || u.fctx.carryClash (u.tile.ctx u.fctx.succ))
      = !(s.fctx.cfg.hen && s.fctx.succ != s.fire.ctx && !s.fctx.carryClash (s.tile.ctx s.fctx.succ)) := by
  intro u
  have hsucc : u.fctx.succ = s.fctx.succ := by unfold Ctx.succ; rw [stepped_fctx_cfg]
  rw [stepped_fctx_cfg, hsucc, stepped_fire]
  by_cases h : s.fctx.succ = s.fire.ctx
  · simp [h]
  · rw [stepped_carryClash s i rc h]
    simp [bne]

theorem handover_next {s : State} (hr : s.opReady .handover = true) (hend : s.fctx.ctl.ending = .none) :
    let ok := s.fctx.cfg.hen && s.fctx.succ != s.fire.ctx && !s.fctx.carryClash (s.tile.ctx s.fctx.succ)
    ∃ t, exec .handover s = .next t
      ∧ (ok = true → (t.tile.ctx s.fire.ctx).ctl.ending = .hand)
      ∧ (ok = false → ∃ i, (t.tile.ctx s.fire.ctx).ctl.ending = .stop i ∧ i.cause = 0x10#8) := by
  intro ok
  let u := stepped s .handover none []
  have hu : u.tile.ctx s.fire.ctx = wrotePws s none (s.tile.ctx s.fire.ctx) := stepped_ctx_self ..
  have hn : (u.tile.ctx s.fire.ctx).ctl.ending = .none := by rw [hu]; exact endings hend
  have htest : (!u.fctx.cfg.hen || u.fctx.succ == u.fire.ctx || u.fctx.carryClash (u.tile.ctx u.fctx.succ)) = !ok := stepped_hand_test s .handover none
  refine ⟨u.takeHand, (exec_next_of_eq rfl hr rfl).trans (congrArg _ (issue_edit s le_rfl none [] _)), fun hok => ?_, fun hok => ?_⟩
  · unfold State.takeHand
    dsimp only
    rw [htest, hok, if_neg (by simp), fctx_ctl, show u.fire.ctx = s.fire.ctx from rfl, hn]
    show ((u.tile.modCtx s.fire.ctx _).ctx s.fire.ctx).ctl.ending = _
    rw [Tile.ctx_modCtx_self]
    rfl
  · refine ⟨u.cause 0x10#8, ?_, rfl⟩
    unfold State.takeHand
    dsimp only
    rw [htest, hok, if_pos (by rfl)]
    show ((u.tile.modCtx s.fire.ctx _).ctx s.fire.ctx).ctl.ending = _
    rw [Tile.ctx_modCtx_self]
    exact stop_ending hn _

/-! ## Watches -/

theorem applyPws_p {a b : Regs} (h : a.p = b.p) (ws : List PWrite) (rc : Bool) : (applyPws ws rc a).p = (applyPws ws rc b).p := by
  induction ws generalizing a b with
  | nil => exact h
  | cons w ws ih =>
    refine ih ?_
    show (pwApply w rc a).p = (pwApply w rc b).p
    unfold pwApply
    split <;> simp [Regs.setP, h]

theorem watch_next {s : State} {w : WatchF} {d : PReg} {a b : SSrc} (hu : unpoisoned [(s.ss a).payload, (s.ss b).payload])
    (hr : s.opReady (.watch w d a b) = true) (hok : s.watchOk w (s.ss a).bits = true) :
    ∃ t k, exec (.watch w d a b) s = .next t
      ∧ (t.tile.ctx s.fire.ctx).watches
        = (s.fctx.watches.filter fun x => x.pred != d)
          ++ [{ pred := d, f := w, addr := (s.ss a).bits, val := (s.ss b).bits, sent := false, due := s.clock + k, note := none }]
      ∧ (t.tile.ctx s.fire.ctx).p d = (applyPws s.fire.pws false (s.fctx.regs.setP d false)).p.getLsbD d.val := by
  let x : Watch := { pred := d, f := w, addr := (s.ss a).bits, val := (s.ss b).bits, sent := false, due := 0, note := none }
  let k := s.watchDelay s.cur s.fctx.tenant x
  let arm := fun t : State => (t.onTile fun y => y.modCtx s.fire.ctx fun c => c.arm { x with due := s.clock + k }).later k (.watchArm s.cur s.fire.ctx d)
  have he : exec (.watch w d a b) s = .next (arm (stepped s (.watch w d a b) none [.p d false])) := by
    refine (exec_next_of_eq (y := { Iss.zero with now := [.p d false], edit := arm }) rfl hr ?_).trans (congrArg _ (issue_edit s le_rfl none _ _))
    rw [firstPois_of_unpoisoned hu]
    simp only [hok, if_true]
    rfl
  have hx : (arm (stepped s (.watch w d a b) none [.p d false])).tile.ctx s.fire.ctx
      = (wrotePws s none (nowWrites s [.p d false] (s.tile.ctx s.fire.ctx))).arm { x with due := s.clock + k } := by
    rw [(OnlyNet.later ..).tile]
    show ((Tile.modCtx _ _ _).ctx _) = _
    rw [Tile.ctx_modCtx_self, stepped_ctx_self]
  refine ⟨_, k, he, ?_, ?_⟩
  · rw [hx, fctx_watches]; rfl
  · rw [hx]
    exact congrArg (BitVec.getLsbD · d.val) (applyPws_p (congrArg (setBit · d.val false) (fctx_p s).symm) _ _)

theorem unwatch_next {s : State} {d : PReg} (hr : s.opReady (.unwatch d) = true) :
    ∃ t, exec (.unwatch d) s = .next t ∧ (t.tile.ctx s.fire.ctx).watches = s.fctx.watches.filter fun x => x.pred != d := by
  refine ⟨_, (exec_next_of_eq rfl hr rfl).trans (congrArg _ (issue_edit s le_rfl none [] _)), ?_⟩
  show ((Tile.modCtx _ _ fun c => c.disarm d).ctx _).watches = _
  rw [Tile.ctx_modCtx_self, stepped_ctx_self, fctx_watches]
  rfl

/-- Settles O22: endings, handover and watches by the state on which their effects act. -/
theorem controlCompletes : Obligations.ControlCompletes := by
  refine ⟨controlEnds, fun s hr hend => handover_next hr hend, fun s w d a b hu => ⟨watch_next hu, fun hr hok => ?_, unwatch_next⟩⟩
  refine exec_next_of_eq rfl hr ?_
  rw [firstPois_of_unpoisoned hu]
  simp only [hok]
  rfl

end Sys2Proof.Proofs
end

section
/-! PROOFS. Memory accesses, streams and copies at their fire (R231 to R244, R277, R362 to R367). -/

namespace Sys2Proof.Proofs
open Sys2Proof Sys2Proof.Machine

/-! ## TCM and CSP -/

section local_access
variable {s : State} {m : MAddr} {op : MemOp} {n al : Nat} {ps : List (Option Word)}

theorem memIss_good {sp : Space} (h : unpoisoned (s.basePl m :: ps)) (hs : s.accStop sp (s.maddr m) n al = none) :
    s.memIss sp m op n al ps = accRes m sp op (s.physBase sp (s.maddr m)) n [(s.physBase sp (s.maddr m)).toNat] := by
  unfold State.memIss
  dsimp only
  rw [firstPois_of_unpoisoned h, hs]
  rfl
theorem memIss_stop {sp : Space} {i : StopInfo} (h : unpoisoned (s.basePl m :: ps)) (hs : s.accStop sp (s.maddr m) n al = some i) :
    s.memIss sp m op n al ps = .trap i := by
  unfold State.memIss
  dsimp only
  rw [firstPois_of_unpoisoned h, hs]
theorem memIss_poisoned {sp : Space} {pl : Word} (h : firstPois (s.basePl m :: ps) = some pl) :
    s.memIss sp m op n al ps = .trap (s.ptrapM m pl) := by
  unfold State.memIss
  dsimp only
  rw [h]

theorem accStop_tcm {a : Int} (ha : a % (al : Int) = 0) (hr : 0 ≤ a ∧ a + n ≤ s.fctx.tlen.toNat) : s.accStop .tcm a n al = none := by
  unfold State.accStop
  rw [if_neg (by simp [ha])]
  exact if_pos (decide_eq_true hr)
theorem accStop_csp {a : Int} (ha : a % (al : Int) = 0) (hr : s.cspOk s.cur s.fire.ctx a n = true) : s.accStop .csp a n al = none := by
  unfold State.accStop
  rw [if_neg (by simp [ha])]
  exact if_pos hr
theorem accStop_misaligned {sp : Space} {a : Int} (ha : a % (al : Int) ≠ 0) :
    s.accStop sp a n al = some { s.cause 0x18#8 with loc := BitVec.ofInt 64 a } := by
  unfold State.accStop
  rw [if_pos (by simpa using ha)]
theorem accStop_outside {a : Int} (ha : a % (al : Int) = 0) (hr : ¬(0 ≤ a ∧ a + n ≤ s.fctx.tlen.toNat)) :
    s.accStop .tcm a n al = some { s.cause 0x15#8 with loc := BitVec.ofInt 64 a } := by
  unfold State.accStop
  rw [if_neg (by simp [ha])]
  exact if_neg (by simpa [Ctx.tcmOk] using hr)

end local_access

/-- An access to TCM with unpoisoned operands, aligned and inside its allocation. -/
theorem tcm_next {s : State} {i : Instr} {m : MAddr} {op : MemOp} {n al : Nat} {ps : List (Option Word)}
    (he : exec i s = s.fireOp i (s.memIss .tcm m op n al ps)) (hb : unpoisoned [s.basePl m]) (hp : unpoisoned ps) (hr : s.opReady i = true)
    (hok : s.maddr m % (al : Int) = 0 ∧ 0 ≤ s.maddr m ∧ s.maddr m + n ≤ s.fctx.tlen.toNat) :
    exec i s = .next (s.issue i (accRes m .tcm op (s.physBase .tcm (s.maddr m)) n [(s.physBase .tcm (s.maddr m)).toNat])) :=
  exec_next_of_eq he hr (memIss_good (unpoisoned_append hb hp) (accStop_tcm hok.1 hok.2))
/-- An access to the CSP with unpoisoned operands, aligned and inside its window. -/
theorem csp_next {s : State} {i : Instr} {m : MAddr} {op : MemOp} {n al : Nat} {ps : List (Option Word)}
    (he : exec i s = s.fireOp i (s.memIss .csp m op n al ps)) (hb : unpoisoned [s.basePl m]) (hp : unpoisoned ps) (hr : s.opReady i = true)
    (hok : s.maddr m % (al : Int) = 0 ∧ s.cspOk s.cur s.fire.ctx (s.maddr m) n = true) :
    exec i s = .next (s.issue i (accRes m .csp op (s.physBase .csp (s.maddr m)) n [(s.physBase .csp (s.maddr m)).toNat])) :=
  exec_next_of_eq he hr (memIss_good (unpoisoned_append hb hp) (accStop_csp hok.1 hok.2))

theorem firstStop_none {l : List (Option StopInfo)} (h : ∀ x ∈ l, x = none) : firstStop l = none := by
  induction l with
  | nil => rfl
  | cons x l ih =>
    obtain rfl := h x (by simp)
    exact ih fun y hy => h y (by simp [hy])

theorem elemIss_good {s : State} {m : MAddr} {op : MemOp} {ix : VWord} {ps : List (Option Word)} (h : unpoisoned (s.basePl m :: ps))
    (hx : ∀ o ∈ idxOffs ix, (s.maddr m + (o : Int)) % 4 = 0 ∧ 0 ≤ s.maddr m + (o : Int) ∧ s.maddr m + (o : Int) + 4 ≤ s.fctx.tlen.toNat) :
    s.elemIss m op ix ps = accRes m .tcm op ((s.fctx.tbase.toNat : Int) + s.maddr m) 4 [] := by
  have hs : firstStop ((idxOffs ix).map fun o : Nat => s.accStop .tcm (s.maddr m + (o : Int)) 4 4) = none := by
    refine firstStop_none fun y hy => ?_
    obtain ⟨o, ho, rfl⟩ := List.mem_map.1 hy
    obtain ⟨hal, hlo, hhi⟩ := hx o ho
    exact accStop_tcm hal ⟨hlo, hhi⟩
  unfold State.elemIss
  dsimp only
  rw [firstPois_of_unpoisoned h, hs]
  rfl

/-- The offsets of a gather are its elements. -/
theorem mem_idxOffs {s : State} {ix : VSrc} {o : Nat} (h : o ∈ idxOffs (s.vs ix).bits) : ∃ k < 64, o = (s.lane 32 ix k).toNat := by
  obtain ⟨x, hx, rfl⟩ := List.mem_map.1 h
  obtain ⟨k, hk, rfl⟩ := List.getElem_of_mem hx
  refine ⟨k, by simpa using hk, ?_⟩
  unfold State.lane nthW State.el
  rw [List.getD_eq_getElem _ _ hk]

/-- Settles O23. -/
theorem localAccessCompletes : Obligations.LocalAccessCompletes := by
  refine ⟨fun s m hb => ?_, fun s m ix hu => ?_⟩
  · intro a acc ok
    exact ⟨fun d => ⟨tcm_next rfl hb unpoisoned_nil, csp_next rfl hb unpoisoned_nil⟩,
      fun x hx => ⟨tcm_next rfl hb hx, csp_next rfl hb hx⟩,
      fun d => ⟨tcm_next rfl hb unpoisoned_nil, csp_next rfl hb unpoisoned_nil⟩,
      fun v hv => ⟨tcm_next rfl hb hv, csp_next rfl hb hv⟩,
      fun d o x hx => ⟨tcm_next rfl hb hx, csp_next rfl hb hx, tcm_next rfl hb hx, csp_next rfl hb hx⟩,
      fun d x hx => ⟨tcm_next rfl hb hx, csp_next rfl hb hx⟩⟩
  · intro a off hx acc
    have hel : ∀ o ∈ idxOffs (s.vs ix).bits, (a + (o : Int)) % 4 = 0 ∧ 0 ≤ a + (o : Int) ∧ a + (o : Int) + 4 ≤ s.fctx.tlen.toNat := by
      intro o ho
      obtain ⟨k, hk, rfl⟩ := mem_idxOffs ho
      exact hx k hk
    exact ⟨fun d hr => exec_next_of_eq rfl hr (elemIss_good hu hel),
      fun v hv hr => exec_next_of_eq rfl hr (elemIss_good (unpoisoned_append hu hv) hel)⟩

/-! ## Illegal accesses -/

theorem ptrapM_clean {s : State} {m : MAddr} (h : unpoisoned [s.basePl m]) (pl : Word) :
    s.ptrapM m pl = { s.ptrap pl with loc := BitVec.ofInt 64 (s.maddr m) } := by
  unfold State.ptrapM
  rw [(unpoisoned_cons.1 h).1]
  rfl
theorem firstPois_clean_cons {p : Option Word} (h : unpoisoned [p]) (ps : List (Option Word)) : firstPois (p :: ps) = firstPois ps := by
  rw [(unpoisoned_cons.1 h).1]
  rfl

/-- Settles O24: the checks of an access in their order. -/
theorem illegalAccessesTrap : Obligations.IllegalAccessesTrap := by
  refine ⟨fun s m z x w d => ⟨fun hr hu ha => ?_, fun hr hu ha ho => ?_, fun pl hr hb hx => ?_, fun pl hr hb => ?_, fun hr hb ha => ?_⟩,
    fun s m z d hb hr ha => ?_⟩
  · exact exec_next_of_eq rfl hr (memIss_stop hu (accStop_misaligned ha))
  · exact exec_next_of_eq rfl hr (memIss_stop hu (accStop_outside ha ho))
  · refine exec_next_of_eq rfl hr ((memIss_poisoned (pl := pl) ?_).trans (by rw [ptrapM_clean hb]; rfl))
    rw [firstPois_clean_cons hb]
    exact congrArg (fun p => firstPois [p]) hx
  · refine exec_next_of_eq rfl hr ((memIss_poisoned (pl := pl) (by rw [hb]; rfl)).trans ?_)
    unfold State.ptrapM
    rw [hb]
    rfl
  · exact exec_next_of_eq rfl hr (memIss_stop hb (accStop_misaligned ha))
  · refine exec_next_of_eq rfl hr ?_
    unfold State.glbIss
    dsimp only
    rw [firstPois_of_unpoisoned hb]
    exact if_pos ha

/-! ## Global accesses -/

/-- A global access with unpoisoned operands at a canonical, aligned address. -/
theorem glb_next {s : State} {i : Instr} {m : MAddr} {op : MemOp} {n al : Nat} {ps : List (Option Word)}
    (he : exec i s = s.fireOp i (s.glbIss m op n al ps)) (hb : unpoisoned [s.basePl m]) (hp : unpoisoned ps) (hr : s.opReady i = true)
    (hok : 0 ≤ s.maddr m ∧ s.maddr m < 2 ^ 48 ∧ s.maddr m % (al : Int) = 0) :
    exec i s = .next (s.issue i (accRes m .glb op (s.maddr m) n [])) := by
  obtain ⟨hlo, hhi, hal⟩ := hok
  refine exec_next_of_eq he hr ?_
  unfold State.glbIss
  dsimp only
  rw [firstPois_of_unpoisoned (ps := s.basePl m :: ps) (unpoisoned_append hb hp)]
  exact if_neg (by omega)

/-- Settles O30. -/
theorem globalAccessFires : Obligations.GlobalAccessFires := by
  intro s m hb a ok acc
  exact ⟨fun d => glb_next rfl hb unpoisoned_nil, fun x hx => glb_next rfl hb hx, fun d => glb_next rfl hb unpoisoned_nil,
    fun v hv => glb_next rfl hb hv, fun o d x hx => glb_next rfl hb hx, fun d x hx => glb_next rfl hb hx, fun d x hx => glb_next rfl hb hx⟩

/-! ## Streams -/

theorem putStrm_strm (u : State) (i : Fin 8) (x : Strm) : (u.putStrm i x).tile.strm[i] = x := getElem_vector_set_self _ _ _

theorem streamCompletes (s : State) (g : Fin 8) :
    let i := s.fctx.strmOf g
    let x := s.tile.strm[i]
    (∀ a b, s.opReady (.gcfg g a b) = true → unpoisoned [(s.ps (.pair a)).payload, (s.ps (.pair b)).payload] → x.st ≠ .run →
       ∃ t, exec (.gcfg g a b) s = .next t
         ∧ t.tile.strm[i] = { Strm.zero with st := .conf, desc := (s.ps (.pair b)).bits ++ (s.ps (.pair a)).bits })
     ∧ (s.opReady (.gstart g) = true → x.st = .conf → x.legal = true → s.tile.chanFor s.fire.ctx x = true →
       ∃ t, exec (.gstart g) s = .next t
         ∧ (t.tile.strm[i]).st = .run ∧ (t.tile.strm[i]).desc = x.desc ∧ (t.tile.strm[i]).next = 0
         ∧ (t.tile.strm[i]).start = s.clock + 1 ∧ (t.tile.strm[i]).ctx = s.fire.ctx)
     ∧ (s.opReady (.gstart g) = true → ¬(x.st = .conf ∧ x.legal = true ∧ s.tile.chanFor s.fire.ctx x = true) →
       exec (.gstart g) s = .next (s.issue (.gstart g) (.trap (StopInfo.mk0 0x19#8 s.fire.slot.toNat s.clock))))
     ∧ (∀ d, s.opReady (.gstop d g) = true →
       exec (.gstop d g) s = .next (s.issue (.gstop d g)
         { wordRes d (BitVec.ofNat 64 x.left) with edit := fun t => t.putStrm i x.stopIssue }))
     ∧ (∀ d mask fin, s.opReady (.gbar d mask fin) = true →
       exec (.gbar d mask fin) s = .next (s.issue (.gbar d mask fin)
         (if (s.fctx.maskStrms mask).any (fun g => (s.tile.strm[g]).st == .run) then
            waitRes (.gbar d mask fin) d
          else .res [.p d true] true 0 none))) := by
  intro i x
  refine ⟨fun a b hr hu hst => ?_, fun hr hst hl hch => ?_, fun hr hno => ?_, fun d hr => exec_next_of_eq rfl hr rfl,
    fun d mask fin hr => exec_next_of_eq rfl hr rfl⟩
  · have he : exec (.gcfg g a b) s = s.fireOp (.gcfg g a b)
        (.ed fun t => t.putStrm i { Strm.zero with st := .conf, desc := pairDesc (s.ps (.pair a)) (s.ps (.pair b)) }) := by
      refine Eq.trans (b := execGcfg g a b s) rfl ?_
      unfold execGcfg
      dsimp only
      rw [firstPois_of_unpoisoned hu]
      dsimp only
      rw [show (s.fstrm g).st = x.st from rfl, if_neg (by simpa using hst)]
    exact ⟨_, (exec_next_of_eq he hr rfl).trans (congrArg _ (issue_edit s le_rfl none [] _)), putStrm_strm _ _ _⟩
  · have hgo : (x.st == .conf && x.legal && s.tile.chanFor s.fire.ctx x) = true := by simp [hst, hl, hch]
    refine ⟨_, (exec_next_of_eq rfl hr (if_pos hgo)).trans (congrArg _ (issue_edit s le_rfl none [] _)), ?_⟩
    rw [putStrm_strm]
    exact ⟨rfl, rfl, rfl, rfl, rfl⟩
  · refine exec_next_of_eq rfl hr (if_neg ?_)
    rw [Bool.and_eq_true, Bool.and_eq_true, beq_iff_eq, and_assoc]
    exact hno

/-! ## Copies and drains -/

/-- The command that a copy puts in the queue, under its number. -/
def copyCmd (s : State) (i : Instr) (f : CpyF) (rows len : Nat) (ss ds : Int) (id : Nat) : Copy :=
  { id := id, ctx := s.fire.ctx, slot := s.fire.slot, start := s.clock + s.copyS f (s.fctx.s f.sd).bits (s.fctx.s f.ss).bits + 1,
    f := f, da := (s.fctx.s f.sd).bits, sa := (s.fctx.s f.ss).bits, rows := rows, len := len, sstr := ss, dstr := ds,
    wtk := s.tile.tokFired s.fctx i.waitTok, ptk := s.tile.tokFired s.fctx i.pub + 1, hold := s.tile.acqIds s.fire.ctx,
    row := 0, off := 0, outs := [], dead := false }

/-- A copy of a legal size enters the queue behind the others. -/
theorem copy_next {s : State} {i : Instr} {f : CpyF} {ps : List (Option Word)} {rows len : Nat} {ss ds : Int} (hl : i.lat ≤ 1)
    (he : exec i s = s.fireOp i (s.copyIss i f ps rows len ss ds)) (hr : s.opReady i = true)
    (hu : unpoisoned ([(s.fctx.s f.sd).payload, (s.fctx.s f.ss).payload] ++ ps)) (hlen : len < 2 ^ 32) (hrows : rows < 2 ^ 16) :
    ∃ t c, exec i s = .next t ∧ t.tile.copies = s.tile.copies ++ [c] ∧ c.f = f ∧ c.da = (s.fctx.s f.sd).bits ∧ c.sa = (s.fctx.s f.ss).bits
      ∧ c.rows = rows ∧ c.len = len ∧ c.row = 0 ∧ c.off = 0 ∧ c.ctx = s.fire.ctx ∧ c.sstr = ss ∧ c.dstr = ds := by
  unfold State.copyIss at he
  dsimp only at he
  rw [firstPois_of_unpoisoned hu] at he
  dsimp only at he
  rw [if_neg (by omega)] at he
  refine ⟨_, copyCmd s i f rows len ss ds (stepped s i none []).tile.nextId,
    (exec_next_of_eq he hr rfl).trans (congrArg _ (issue_edit s hl none [] _)), ?_, rfl, rfl, rfl, rfl, rfl, rfl, rfl, rfl, rfl, rfl⟩
  show (stepped s i none []).tile.copies ++ _ = _
  rw [stepped_copies]
  rfl

theorem drain_eq {s : State} {i : Instr} {p : PReg} {k : DSpace} {l : List DSpace} (hk : ∀ d, (drainKind d == k) = l.contains d)
    (he : exec i s = s.fireOp i (s.drainIss p k)) (hr : s.opReady i = true) :
    let ids := (s.tile.copies.filter fun c => l.contains c.f.dsp).map (·.id)
    exec i s = .next (s.issue i (if ids = [] then .res [.p p true] true 0 none else waitRes (.drain p ids) p)) := by
  intro ids
  refine exec_next_of_eq he hr ?_
  unfold State.drainIss
  simp only [hk, List.isEmpty_iff]
  rfl

/-- Settles O25: streams and copies by the state on which their effects act. -/
theorem streamAndCopyComplete : Obligations.StreamAndCopyComplete := by
  refine ⟨streamCompletes, fun s f p => ?_⟩
  intro d a l h
  refine ⟨fun hr hu hlen => ?_, fun hr hu hrows => ?_, ?_⟩
  · obtain ⟨t, c, ht, hc, hf, hda, hsa, hrw, hln, hrow, hoff, hctx, -⟩ := copy_next (i := .cpy f) le_rfl rfl hr hu hlen (by decide)
    exact ⟨t, c, ht, hc, hf, hda, hsa, hrw, hln, hrow, hoff, hctx⟩
  · have hlt : l.bits.toNat < 2 ^ 64 := l.bits.isLt
    have hht : h.bits.toNat < 2 ^ 64 := h.bits.isLt
    have hrows' : nfld l.bits.toNat 32 32 = l.bits.toNat / 2 ^ 32 := by unfold nfld; omega
    have hlen' : nfld l.bits.toNat 0 32 = l.bits.toNat % 2 ^ 32 := by unfold nfld; omega
    have hss : nfld h.bits.toNat 0 32 = h.bits.toNat % 2 ^ 32 := by unfold nfld; omega
    have hds : nfld h.bits.toNat 32 32 = h.bits.toNat / 2 ^ 32 := by unfold nfld; omega
    obtain ⟨t, c, ht, hc, hf, hda, hsa, hrw, hln, hrow, hoff, -, hs, hd⟩ :=
      copy_next (i := .cpy2d f) le_rfl rfl hr hu (hlen'.trans_lt (Nat.mod_lt _ (by decide))) (hrows'.trans_lt hrows)
    exact ⟨t, c, ht, hc, hf, hda, hsa, hrw.trans hrows', hln.trans hlen', hrow, hoff, hs.trans (by rw [hss]), hd.trans (by rw [hds])⟩
  · exact List.forall_mem_cons.2 ⟨drain_eq (k := .tcm) (fun d => by cases d <;> rfl) rfl, List.forall_mem_cons.2 ⟨drain_eq (k := .csp) (fun d => by cases d <;> rfl) rfl,
      List.forall_mem_cons.2 ⟨drain_eq (k := .glb) (fun d => by cases d <;> rfl) rfl, fun _ h => absurd h List.not_mem_nil⟩⟩⟩

end Sys2Proof.Proofs
end

section
/-! PROOFS. The matrix unit at its fires (R213 to R229, R286) and the integer product (R222). -/

namespace Sys2Proof.Proofs
open Sys2Proof Sys2Proof.Machine

/-! ## Products, loads and stores -/

section matrix_fires
variable {s : State}

/-- A range of TCM or the CSP lies inside its space. -/
def InSpace (s : State) (csp : Bool) (a : Word) (n : Nat) : Prop :=
  if csp then s.cspOk s.cur s.fire.ctx a.toNat n = true else s.fctx.tcmOk a.toNat n = true

theorem rangeStop_inside {csp : Bool} {a : Word} {n : Nat} (h : InSpace s csp a n) : s.rangeStop csp a n = none := by
  unfold State.rangeStop
  cases csp
  · exact if_pos h
  · exact if_pos h

/-- What a matrix-unit operation stands outstanding with. -/
def matRes (s : State) (i : Instr) (vals : List Word) (quad : List (Reg 2048)) : Iss :=
  { Iss.zero with act := .mat i vals quad i.waitTok (s.tile.tokFired s.fctx i.waitTok) }

theorem matIss_good {i : Instr} {vals : List (Val 64)} {quad : List (Reg 2048)} {ps : List (Option Word)} {chk : List (Option StopInfo)}
    (hu : unpoisoned (ps ++ vals.map (·.payload))) (hc : ∀ x ∈ chk, x = none) :
    s.matIss i vals quad ps chk = matRes s i (vals.map (·.bits)) quad := by
  unfold State.matIss
  rw [firstPois_of_unpoisoned hu, firstStop_none hc]
  rfl

end matrix_fires

theorem all_none_cons {α : Type} {x : Option α} {l : List (Option α)} (h : x = none) (hl : ∀ y ∈ l, y = none) : ∀ y ∈ x :: l, y = none :=
  List.forall_mem_cons.2 ⟨h, hl⟩
theorem all_none_nil {α : Type} : ∀ y ∈ ([] : List (Option α)), y = none := fun _ h => absurd h List.not_mem_nil

/-- Settles O26: the operands are unpoisoned and every range is inside its space. -/
theorem matrixOperationFires : Obligations.MatrixOperationFires := by
  intro s fits fire
  have inside : ∀ {csp a n}, fits csp a n → s.rangeStop csp a n = none := fun h => rangeStop_inside h
  refine ⟨fun f hu hr ha hb => ?_, fun f sm msp hu hr ha hb hm => ?_, fun f hu hr hb => ?_, fun f hu ha => ⟨fun hr => ?_, fun hp hr => ?_⟩,
    fun f hu hr ha0 ha1 hb0 hb1 => ?_⟩
  · exact exec_next_of_eq rfl hr (matIss_good hu (all_none_cons (inside ha) (all_none_cons (inside hb) all_none_nil)))
  · exact exec_next_of_eq rfl hr
      (matIss_good hu (all_none_cons (inside ha) (all_none_cons (inside hb) (all_none_cons (inside hm) all_none_nil))))
  · exact exec_next_of_eq rfl hr (matIss_good hu (all_none_cons (inside hb) all_none_nil))
  · exact exec_next_of_eq rfl hr (matIss_good hu (all_none_cons (inside ha) all_none_nil))
  · have hacc : (s.tile.accN (s.fctx.accOf f.blk.acc)).payloadOf = none := by unfold Acc.payloadOf; rw [hp]; rfl
    exact exec_next_of_eq rfl hr (matIss_good (unpoisoned_cons.2 ⟨hacc, hu⟩) (all_none_cons (inside ha) all_none_nil))
  · exact ⟨_, exec_next_of_eq rfl hr
      (matIss_good (unpoisoned_append (ps := [_, _, _, _]) hu (unpoisoned_cons.2 ⟨rfl, unpoisoned_nil⟩))
        (all_none_cons (inside ha0) (all_none_cons (inside ha1) (all_none_cons (inside hb0) (all_none_cons (inside hb1) all_none_nil)))))⟩

/-! ## Format-A instructions -/

/-- The remaining effects of an operation act on a state with the accumulators as they were. -/
theorem issue_acc (s : State) (i : Instr) {x : Iss} (hs : x.stop = none) : ∃ u, s.issue i x = x.edit u ∧ u.tile.acc = s.tile.acc := by
  cases h : decide (i.lat ≤ 1) && x.act.isPlain with
  | true =>
    obtain ⟨hl, hx⟩ := Bool.and_eq_true_iff.1 h
    exact ⟨_, issue_short s (of_decide_eq_true hl) hx hs, by simp [State.onTile]⟩
  | false => exact ⟨_, issue_long s h hs, by simp [State.onTile]⟩

/-- An operation that puts an accumulator in its place. -/
theorem setAcc_next {s : State} {i : Instr} {a : Fin 4} {x : Acc} {y : Iss} (he : exec i s = s.fireOp i y) (hr : s.opReady i = true)
    (hy : y.stop = none) (hx : y.edit = fun t => t.onTile fun u => u.setAcc a x) : ∃ t, exec i s = .next t ∧ t.tile.acc[a] = x := by
  obtain ⟨u, hu, -⟩ := issue_acc s i hy
  refine ⟨_, (exec_next_of_eq he hr rfl).trans (congrArg _ hu), ?_⟩
  rw [hx]
  exact getElem_vector_set_self _ _ _

/-- An accumulator result from unpoisoned sources, with no raised flag trapping. -/
theorem accIss_good {s : State} {a : AReg} {ps : List (Option Word)} {fl : Fl} {srng : Option (BitVec 32)} {f : Acc → Acc}
    (hp : (s.tile.acc[s.fctx.accOf a]).pois = false) (hu : unpoisoned ps) (hq : s.quiet fl) :
    s.accIss a ps fl srng f
      = { Iss.ed (fun t => t.onTile fun u => u.setAcc (s.fctx.accOf a) (f (s.tile.acc[s.fctx.accOf a]))) with fl := fl, srng := srng } := by
  have hacc : (s.tile.accN (s.fctx.accOf a)).payloadOf = none := by
    unfold Acc.payloadOf
    exact if_neg (by rw [show (s.tile.accN (s.fctx.accOf a)).pois = false from hp]; simp)
  unfold State.accIss
  dsimp only
  rw [firstPois_of_unpoisoned (unpoisoned_cons.2 ⟨hacc, hu⟩), trapCause_of_quiet hq]
  rfl

theorem acc_next {s : State} {i : Instr} {a : AReg} {ps : List (Option Word)} {fl : Fl} {srng : Option (BitVec 32)} {f : Acc → Acc}
    (he : exec i s = s.fireOp i (s.accIss a ps fl srng f)) (hp : (s.tile.acc[s.fctx.accOf a]).pois = false) (hu : unpoisoned ps)
    (hq : s.quiet fl) (hr : s.opReady i = true) :
    ∃ t, exec i s = .next t ∧ t.tile.acc[s.fctx.accOf a] = f (s.tile.acc[s.fctx.accOf a]) :=
  setAcc_next (he.trans (congrArg _ (accIss_good hp hu hq))) hr rfl rfl

/-- Without a mask every element is taken. -/
theorem unmasked_row {n : Nat} {xs ys : List Word} (hx : xs.length = n) (hy : ys.length = n) :
    ((activeBits n none).zip (xs.zip ys)).map (fun e => if e.1 then e.2.2 else e.2.1) = ys := by
  refine List.ext_getElem (by simp [activeBits, hx, hy]) fun k h1 h2 => ?_
  simp [activeBits]

/-- Settles O27: an accumulator that is unpoisoned takes the result at the fire. -/
theorem accumulatorCompletes : Obligations.AccumulatorCompletes := by
  intro s d i acc
  have hpl : ∀ {a : AReg}, (s.tile.acc[s.fctx.accOf a]).pois = false → (s.accA a).payloadOf = none := fun {a} hp => by
    unfold Acc.payloadOf
    exact if_neg (by rw [show (s.accA a).pois = false from hp]; simp)
  refine ⟨fun hr => setAcc_next rfl hr rfl rfl, fun v e b hp hu hr => ⟨_, exec_next_of_eq rfl hr (resIss_good (unpoisoned_cons.2 ⟨hpl hp, hu⟩) State.quiet_none)⟩,
    fun v a b hp hu hr => ?_, fun a hp ha hr => acc_next rfl hp (unpoisoned_cons.2 ⟨hpl ha, unpoisoned_nil⟩) State.quiet_none hr,
    fun t a b hp hu hq hr => acc_next rfl hp hu hq hr, fun t a hp hu hq hr => acc_next rfl hp hu hq hr, fun c e b hp hu h0 hq hr => ?_⟩
  · obtain ⟨t, ht, hx⟩ := acc_next (i := .aput v none d a b) rfl hp (unpoisoned_append (qs := [none]) hu (unpoisoned_cons.2 ⟨rfl, unpoisoned_nil⟩)) State.quiet_none hr
    exact ⟨t, ht, hx.trans (congrArg (fun xs => acc.setRow _ (joinV _ xs)) (unmasked_row (splitV_length _ _) (splitV_length _ _)))⟩
  · exact exec_next_of_eq rfl hr (vIss_good (unpoisoned_cons.2 ⟨hpl hp, hu⟩) h0 hq)

/-! ## The integer product -/

section cells
variable {f : Nat → Nat → FEnv → FRes} {h : Nat → Nat → Nat}

/-- The bits of a row of cells whose step does not depend on the rounding. -/
theorem rowStep_getElem? (hf : ∀ n c v, (f n c v).bits = h n c) (v : FEnv) (n0 : Nat) (cs : List Nat) (n : Nat) :
    (rowStep f v n0 cs).1[n]? = cs[n]?.map (h (n0 + n)) := by
  induction cs generalizing v n0 n with
  | nil => rfl
  | cons c cs ih =>
    cases n with
    | zero => simp [rowStep, hf]
    | succ n => simp [rowStep, ih, Nat.add_assoc, Nat.add_comm 1]
theorem rowStep_fl (hf : ∀ n c v, (f n c v).fl = 0) (v : FEnv) (n0 : Nat) (cs : List Nat) : (rowStep f v n0 cs).2.1 = 0 := by
  induction cs generalizing v n0 with
  | nil => rfl
  | cons c cs ih => simp [rowStep, hf, ih]

end cells

section cells
variable {f : Nat → Nat → Nat → FEnv → FRes} {h : Nat → Nat → Nat → Nat}

theorem cellStep_getElem? (hf : ∀ m n c v, (f m n c v).bits = h m n c) (v : FEnv) (m0 : Nat) (rs : List (List Nat)) (m n : Nat) :
    ((cellStep f v m0 rs).cells[m]?.bind fun r => r[n]?) = (rs[m]?.bind fun r => r[n]?).map (h (m0 + m) n) := by
  induction rs generalizing v m0 m with
  | nil => rfl
  | cons r rs ih =>
    cases m with
    | zero => simp [cellStep, rowStep_getElem? (hf m0)]
    | succ m =>
      have hm : m0 + 1 + m = m0 + (m + 1) := by omega
      rw [← hm]
      simpa [cellStep] using ih _ (m0 + 1) m
theorem cellStep_fl (hf : ∀ m n c v, (f m n c v).fl = 0) (v : FEnv) (m0 : Nat) (rs : List (List Nat)) : (cellStep f v m0 rs).fl = 0 := by
  induction rs generalizing v m0 with
  | nil => rfl
  | cons r rs ih => simp [cellStep, rowStep_fl (hf m0), ih]

end cells

/-- The product of element `k` of row `m` of A and of row `n` of B. -/
def prodI (f : MmFmt) (p : Panels) (m n k : Nat) : Int := MmFmt.elemI f p.a p.ka m k * MmFmt.elemI f p.b p.kk n k

theorem foldl_add_start {α : Type} (g : α → Int) (l : List α) (a : Int) : l.foldl (fun z t => z + g t) a = a + l.foldl (fun z t => z + g t) 0 := by
  induction l generalizing a with
  | nil => simp
  | cons x l ih => rw [List.foldl_cons, ih, List.foldl_cons, ih (0 + g x)]; ring

/-- The exact sum of the first `n` products, from `c`. -/
def sumI (f : MmFmt) (p : Panels) (m n : Nat) (c : Int) (k : Nat) : Int := (List.range k).foldl (fun z k => z + prodI f p m n k) c

/-- The exact sum of the products of group `g`. -/
def groupI (f : MmFmt) (p : Panels) (m n g : Nat) : Int :=
  (denseTerms (MmFmt.grp f) g).foldl (fun (z : Int) t => z + MmFmt.elemI f p.a p.ka m t.1 * MmFmt.elemI f p.b p.kk n t.2) 0

theorem sumI_group (f : MmFmt) (p : Panels) (m n : Nat) (c : Int) (g : Nat) :
    sumI f p m n c ((g + 1) * MmFmt.grp f) = sumI f p m n c (g * MmFmt.grp f) + groupI f p m n g := by
  unfold sumI groupI denseTerms
  rw [Nat.succ_mul, List.range_add, List.foldl_append, List.foldl_map, List.foldl_map, foldl_add_start]
  rfl

/-- The integer step of a dense product: it adds its group to the cell, modulo 2^32. -/
def stepI (f : MmFmt) (p : Panels) (g m n acc : Nat) : Nat := (((acc : Int) + groupI f p m n g) % 2 ^ 32).toNat

theorem mmaStep_int {f : MmFmt} {p : Panels} (hf : MmFmt.isInt f = true) (hd : p.md = none) (g m n acc : Nat) (v : FEnv) :
    mmaStep f p g m n acc v = ⟨stepI f p g m n acc, 0, v.srng⟩ := by
  have ht : p.terms (MmFmt.grp f) m g = denseTerms (MmFmt.grp f) g := by unfold Panels.terms; rw [hd]
  unfold mmaStep
  dsimp only
  rw [if_pos hf, ht, foldl_add_start (fun t : Nat × Nat => MmFmt.elemI f p.a p.ka m t.1 * MmFmt.elemI f p.b p.kk n t.2)]
  rfl

/-- The cells after the first `G` groups. -/
def cellsAfter (f : MmFmt) (p : Panels) (v : FEnv) (cs : List (List Nat)) (G : Nat) : MOut :=
  (List.range G).foldl (fun o g =>
    let x := cellStep (mmaStep f p g) { v with srng := o.srng } 0 o.cells
    { x with fl := o.fl ||| x.fl }) ⟨cs, fNone, v.srng⟩

theorem cellsAfter_succ (f : MmFmt) (p : Panels) (v : FEnv) (cs : List (List Nat)) (G : Nat) :
    cellsAfter f p v cs (G + 1) =
      let o := cellsAfter f p v cs G
      let x := cellStep (mmaStep f p G) { v with srng := o.srng } 0 o.cells
      { x with fl := o.fl ||| x.fl } := by
  unfold cellsAfter
  rw [List.range_succ, List.foldl_append]
  rfl

section product
variable {f : MmFmt} {p : Panels} {cs : List (List Nat)} {m n c : Nat}

theorem cellsAfter_fl (hf : MmFmt.isInt f = true) (hd : p.md = none) (v : FEnv) (G : Nat) : (cellsAfter f p v cs G).fl = 0 := by
  induction G with
  | zero => rfl
  | succ G ih => rw [cellsAfter_succ]; simp [ih, cellStep_fl fun m n c v => congrArg FRes.fl (mmaStep_int hf hd G m n c v)]

theorem cellsAfter_getElem? (hf : MmFmt.isInt f = true) (hd : p.md = none) (v : FEnv) (hc : (cs[m]?.bind fun r => r[n]?) = some c) (G : Nat) :
    ∃ x : Nat, ((cellsAfter f p v cs G).cells[m]?.bind fun r => r[n]?) = some x
      ∧ (x : Int) % 2 ^ 32 = sumI f p m n c (G * MmFmt.grp f) % 2 ^ 32 ∧ (0 < G → x < 2 ^ 32) := by
  induction G with
  | zero => exact ⟨c, hc, by simp [sumI], fun h => absurd h (Nat.lt_irrefl 0)⟩
  | succ G ih =>
    obtain ⟨x, hx, hmod, -⟩ := ih
    have hpos : (0 : Int) < 2 ^ 32 := by norm_num
    refine ⟨stepI f p G m n x, ?_, ?_, fun _ => ?_⟩
    · rw [cellsAfter_succ]
      dsimp only
      rw [cellStep_getElem? (h := stepI f p G) (fun m n c v => congrArg FRes.bits (mmaStep_int hf hd G m n c v)), hx, Nat.zero_add]
      rfl
    · rw [sumI_group]
      unfold stepI
      rw [Int.toNat_of_nonneg (Int.emod_nonneg _ hpos.ne'), Int.emod_emod_of_dvd _ (dvd_refl _), Int.add_emod, hmod, ← Int.add_emod]
    · unfold stepI
      have hlt := Int.emod_lt_of_pos ((x : Int) + groupI f p m n G) hpos
      omega

end product

/-- Settles O54, by induction on the groups: each adds its exact products modulo 2^32. -/
theorem matrixIntegerProductIsExact : Obligations.MatrixIntegerProductIsExact := by
  intro f p v cs m n c hf hd hk hg hc
  have hgrp : p.kk / MmFmt.grp f * MmFmt.grp f = p.kk := Nat.div_mul_cancel (Nat.dvd_of_mod_eq_zero hg)
  have hpos : 0 < p.kk / MmFmt.grp f := Nat.pos_of_ne_zero fun h => by rw [h, Nat.zero_mul] at hgrp; omega
  obtain ⟨x, hx, hmod, hlt⟩ := cellsAfter_getElem? hf hd v hc (p.kk / MmFmt.grp f)
  rw [hgrp] at hmod
  refine ⟨hx.trans (congrArg some ?_), cellsAfter_fl hf hd v _⟩
  have hx32 := hlt hpos
  show x = (sumI f p m n c p.kk % 2 ^ 32).toNat
  omega

end Sys2Proof.Proofs
end

section
/-! PROOFS. Cluster, ordering and request instructions at their fires (R281 to R288, R369 to R384, R443 to R453, R504 to R510). -/

namespace Sys2Proof.Proofs
open Sys2Proof Sys2Proof.Machine

/-! ## Buffers -/

/-- What a buffer operation does beside standing outstanding: its request goes to the controller; a twin without a slot frees the unit. -/
def bufAsk (s : State) (b : Nat) (twin put : Bool) (t : State) : State :=
  (if twin && !s.slotFree (clusOf s.cur) b put then t.onTile fun u => { u with units := { u.units with mem := s.clock + 1 } } else t).later 3
    (.bufferRequest s.cur s.tile.nextId)

theorem bufIss_good {s : State} {b d : Nat} {twin vec put : Bool} {a : Val 64} {ps : List (Option Word)} {x : Iss} (hu : unpoisoned ps)
    (ht : vec = false → s.fctx.tcmOk a.bits.toNat (bufLen d) = true)
    (hr : vec = false → put = true → s.spBad s.cur .tcm (s.fctx.tcmPa a.bits.toNat) (bufLen d) = false) (hd : s.bufOk d vec = true) :
    s.bufIss b twin d vec put a ps x = { x with edit := bufAsk s b twin put } := by
  unfold State.bufIss
  rw [firstPois_of_unpoisoned hu]
  dsimp only
  rw [if_neg, if_neg, if_neg]
  · rfl
  · simp [hd]
  · cases vec <;> cases put <;> simp [hr]
  · cases vec <;> simp [ht]

/-- Settles O28: the checks of a buffer operation pass. -/
theorem bufferOperationFires : Obligations.BufferOperationFires := by
  intro s d n b k pa legal free ask
  refine ⟨fun tw i hi => ⟨fun v hr hu hl => ?_, fun a hr hu hl ht hb => ?_⟩, fun tw i hi => ⟨fun v hr hl => ?_, fun a hr hu hl ht => ?_⟩,
    fun empty hr => exec_next_of_eq rfl hr rfl, fun hr => exec_next_of_eq rfl hr rfl⟩
  · have hiss := bufIss_good (b := b) (twin := tw.isSome) (put := true) (a := clean 0)
      (x := { Iss.zero with act := .bput d b true (some (leBytes 256 (s.vs v).bits.toNat)) 0 256 tw, now := [.p d false] })
      hu (by simp) (by simp) hl
    rcases hi with ⟨rfl, rfl⟩ | ⟨pc, rfl, rfl⟩ <;> exact exec_next_of_eq rfl hr hiss
  · have hiss := bufIss_good (b := b) (twin := tw.isSome) (put := true) (a := s.ss a)
      (x := { Iss.zero with act := .bput d b false none (pa a) (bufLen k) tw, now := [.p d false] })
      hu (fun _ => ht) (fun _ _ => hb) hl
    rcases hi with ⟨rfl, rfl⟩ | ⟨pc, rfl, rfl⟩ <;> exact exec_next_of_eq rfl hr hiss
  · have hiss := bufIss_good (b := b) (twin := tw.isSome) (put := false) (a := clean 0)
      (x := { Iss.zero with act := .bget (.vec v) b 0 256 tw }) unpoisoned_nil (by simp) (by simp) hl
    rcases hi with ⟨rfl, rfl⟩ | ⟨pc, rfl, rfl⟩ <;> exact exec_next_of_eq rfl hr hiss
  · have hiss := bufIss_good (b := b) (twin := tw.isSome) (put := false) (a := s.ss a)
      (x := { Iss.zero with act := .bget (.tcm d a) b (pa a) (bufLen k) tw, now := [.p d false] })
      hu (fun _ => ht) (by simp) hl
    rcases hi with ⟨rfl, rfl⟩ | ⟨pc, rfl, rfl⟩ <;> exact exec_next_of_eq rfl hr hiss

/-! ## Neighbour links -/

/-- The first entries of a queue without errors in their storage are read as they stand. -/
theorem linkHead_clean {s : State} {dir : Fin 4} {n : Nat} (h : ∀ y ∈ s.tile.nqBad, y.1 = dir → n ≤ y.2) :
    s.linkHead dir n = (s.tile.nq[dir]).take n := by
  unfold State.linkHead
  have hid : ∀ x ∈ ((s.tile.nq[dir]).take n).zipIdx,
      (if s.tile.nqBad.contains (dir, x.2) then Entry.lost (mkPayload causeChan dir.val s.fire.ctx s.env s.clock) x.1 else x.1) = x.1 := by
    intro x hx
    refine if_neg fun hbad => ?_
    have hlt : x.2 < n := (List.snd_lt_of_mem_zipIdx hx).trans_le (by simp)
    have := h _ (List.contains_iff_mem.1 hbad) rfl
    omega
  rw [List.map_congr_left hid, List.zipIdx_map_fst]

theorem neighbourSend (s : State) (dir : Fin 4) (a : XSrc) (g : TagSrc) (hu : unpoisoned [(s.xval a).2, s.tagPl g]) :
    let es := sentEntries s a (s.tagOf g)
    let go := fun t : State => t.linkSend s.fire.ctx dir (s.tile.holdIds s.fire.ctx) ((XSrc.time a).2 - 1) es
    (s.opReady (.nsend dir a g) = true →
       exec (.nsend dir a g) s = .next (s.issue (.nsend dir a g) { Iss.res [] true 0 none with edit := go }))
     ∧ ∀ pc : PReg, s.opReady (.trynsend dir a g pc) = true →
       exec (.trynsend dir a g pc) s = .next (s.issue (.trynsend dir a g pc)
         (if s.tile.ncred[dir] < es.length then .res [.p pc false] false 0 none else { Iss.res [.p pc true] true 0 none with edit := go })) := by
  intro es go
  have hiss : s.nsendIss dir a g = { Iss.res [] true 0 none with edit := go } := by
    unfold State.nsendIss
    simp only [sendEntries_clean hu]
    rfl
  have hl : es.length = XSrc.n a := sentEntries_length s a _
  refine ⟨fun hr => exec_next_of_eq rfl hr hiss, fun pc hr => exec_next_of_eq rfl hr ?_⟩
  rw [hiss, hl]
  rfl

/-- Settles O29. -/
theorem neighbourLinkCompletes : Obligations.NeighbourLinkCompletes := by
  refine ⟨fun s dir a g => ?_, fun s dir x e e1 e2 e3 rest => ?_, fun s dir x pc hlen hr => exec_next_of_eq rfl hr (if_pos hlen)⟩
  · intro tag pt pa hu es go
    have hps : unpoisoned [(s.xval a).2, s.tagPl g] := by
      have ha : (s.xval a).2 = pa := by cases a <;> rfl
      have hg : s.tagPl g = pt := by cases g <;> rfl
      rw [ha, hg]; exact hu
    have hes : sentEntries s a (s.tagOf g) = es := by
      rw [show s.tagOf g = tag from by cases g <;> rfl]
      cases a <;> rfl
    have h := neighbourSend s dir a g hps
    rw [hes] at h
    exact h
  · intro es hin hp hbad n fwd wr rc take
    have hl : es.length = XDst.n x := taken_length x e e1 e2 e3
    have hm : moveTo x (s.linkHead dir (XDst.n x)) = { wr := wr, pl := none, hard := recvHard x, rc := some rc } := by
      have hh : s.linkHead dir (XDst.n x) = es := by
        rw [linkHead_clean (hl ▸ hbad), hin]
        exact take_taken x e e1 e2 e3 rest
      rw [hh, show es = taken x e e1 e2 e3 from rfl, moveTo_taken hp]
      rcases x with (r | c | q) | (m | c) | (r | c) | (r | c) <;> rfl
    have hn : ¬ (s.tile.nq[dir]).length < XDst.n x := by rw [hin, List.length_append, hl]; omega
    refine ⟨fun hr => exec_next_of_eq rfl hr ?_, fun pc hr => exec_next_of_eq rfl hr ?_⟩
    · rw [hm]; simp only [take, hl]
      rcases x with (r | c | q) | (m | c) | (r | c) | (r | c) <;> rfl
    · rw [if_neg hn, hm]; simp only [take, hl]; cases recvHard x <;> rfl

/-! ## Requests -/

section requests
variable {s : State} {i j : Instr} {vals : List (Val 64)} {now : List Wr}

/-- A request with unpoisoned operands: its stop, or it goes out. -/
theorem reqIss_good (hu : unpoisoned (vals.map (·.payload))) (stop : Option StopInfo) :
    s.reqIss j vals stop now = match stop with | some x => .trap x | none => reqRes j (vals.map (·.bits)) now := by
  unfold State.reqIss
  rw [firstPois_of_unpoisoned hu]
  rfl
theorem req_next (vals : List (Val 64)) (he : exec i s = s.fireOp i (s.reqIss i vals none now)) (hu : unpoisoned (vals.map (·.payload))) (hr : s.opReady i = true) :
    exec i s = .next (s.issue i (reqRes i (vals.map (·.bits)) now)) :=
  exec_next_of_eq he hr (reqIss_good (hu) none)

/-- The stop of a system form for an operand that it refuses. -/
def refused (s : State) (w : Word) : Iss := .trap { StopInfo.mk0 0x22#8 s.fire.slot.toNat s.clock with loc := w }

/-- A request whose operand must fit `n` bits. -/
theorem hi_next (vals : List (Val 64)) {x : Word} {n : Nat} (he : exec i s = s.fireOp i (s.reqIss i vals (s.hiStop x n) now)) (hu : unpoisoned (vals.map (·.payload)))
    (hr : s.opReady i = true) :
    exec i s = .next (s.issue i (if 2 ^ n ≤ x.toNat then refused s x else reqRes i (vals.map (·.bits)) now)) := by
  refine exec_next_of_eq he hr ((reqIss_good (hu) _).trans ?_)
  unfold State.hiStop
  by_cases h : x.toNat < 2 ^ n
  · rw [if_pos h, if_neg (Nat.not_le.2 h)]
  · rw [if_neg h, if_pos (Nat.not_lt.1 h)]
    rfl
/-- A request with two operands that must fit, tested in order. -/
theorem hi2_next (vals : List (Val 64)) {x y : Word} {m n : Nat} (he : exec i s = s.fireOp i (s.reqIss i vals (firstStop [s.hiStop x m, s.hiStop y n]) now))
    (hu : unpoisoned (vals.map (·.payload))) (hr : s.opReady i = true) :
    exec i s = .next (s.issue i
      (if 2 ^ m ≤ x.toNat then refused s x else if 2 ^ n ≤ y.toNat then refused s y else reqRes i (vals.map (·.bits)) now)) := by
  refine exec_next_of_eq he hr ((reqIss_good (hu) _).trans ?_)
  unfold State.hiStop
  by_cases hx : x.toNat < 2 ^ m
  · rw [if_pos hx, if_neg (Nat.not_le.2 hx)]
    by_cases hy : y.toNat < 2 ^ n
    · rw [if_pos hy, if_neg (Nat.not_le.2 hy)]
      rfl
    · rw [if_neg hy, if_pos (Nat.not_lt.1 hy)]
      rfl
  · rw [if_neg hx, if_pos (Nat.not_lt.1 hx)]
    rfl

/-- A group form (R508): its number in range, or cause 0x23. -/
theorem group_next (b : Val 64) (more : List (Val 64)) (root : Bool) (now : List Wr) (he : exec i s = s.fireOp i (s.groupIss i b more root now))
    (hu : unpoisoned ((b :: more).map (·.payload))) (hr : s.opReady i = true) :
    exec i s = .next (s.issue i (if b.bits.toNat < (if root then 512 else 256) then
      { Iss.zero with act := .group i ((b :: more).map (·.bits)), now := now } else .trap (StopInfo.mk0 0x23#8 s.fire.slot.toNat s.clock))) := by
  refine exec_next_of_eq he hr ?_
  unfold State.groupIss
  rw [reqIss_good (hu)]
  unfold State.groupStop
  by_cases h : b.bits.toNat < (if root then 512 else 256)
  · rw [if_pos h, if_pos h]
    rfl
  · rw [if_neg h, if_neg h]
    rfl

end requests

/-- Settles O31: fences, tokens and joins at their fire. -/
theorem orderingCompletes : Obligations.OrderingCompletes := by
  intro s d
  refine ⟨fun sc hr => exec_next_of_eq rfl hr rfl, fun n hr => exec_next_of_eq rfl hr rfl, fun l k hr => exec_next_of_eq rfl hr ?_,
    fun n hr hm => exec_next_of_eq rfl hr ?_, fun n t hr ht hm => exec_next_of_eq rfl hr ?_, fun mask hr => exec_next_of_eq rfl hr rfl,
    fun b off a hu hr => req_next [s.fctx.s b, s.ss a] rfl hu hr⟩
  · have hk : rKind (s.tile.route l) = s.tile.route l % 4 := by simp [rKind, nfld]
    rw [hk]
    rfl
  · have hmet : (match s.tile.taskOf s.fctx with | some t => t.met n.val (s.tile.tokFired s.fctx n.val) | none => true) = true := by
      cases ht : s.tile.taskOf s.fctx with
      | none => rfl
      | some t => exact hm t ht
    exact if_pos hmet
  · have hmet : ¬ (match s.tile.taskOf s.fctx with | some t => t.met n.val (s.tile.tokFired s.fctx n.val) | none => true) = true := by
      rw [ht]
      simp [hm]
    exact if_neg hmet

/-! ## Task, fabric and system requests -/

theorem unpois3 {p q r : Option Word} (h : unpoisoned [p, q, r]) : unpoisoned [p] ∧ unpoisoned [p, q] :=
  ⟨unpoisoned_head h, unpoisoned_two h⟩

theorem tenq_next {s : State} {i : Instr} {a : SSrc} (he : exec i s = s.fireOp i (s.tenqIss i (s.ss a))) (hu : unpoisoned [(s.ss a).payload])
    (hal : (s.ss a).bits.toNat % 64 = 0) (hok : s.fctx.tcmOk (s.ss a).bits.toNat 64 = true)
    (hb : s.spBad s.cur .tcm (s.fctx.tcmPa (s.ss a).bits.toNat) 64 = false) (hr : s.opReady i = true) :
    exec i s = .next (s.issue i
      { reqRes i ((List.range 8).map fun k => BitVec.ofNat 64 (leNat (s.spBytes s.cur .tcm (s.fctx.tcmPa (s.ss a).bits.toNat + 8 * k) 8))) [] with
        edit := fun t => t.spFix s.cur .tcm (s.fctx.tcmPa (s.ss a).bits.toNat) 64 }) := by
  refine exec_next_of_eq he hr ?_
  unfold State.tenqIss
  dsimp only
  rw [(unpoisoned_cons.1 hu).1]
  dsimp only
  rw [if_neg (by simp [hal]), if_neg (by simp [hok]), if_neg (by simp [hb])]
  rfl

theorem taskRequests (s : State) (d : SDst) (r : SReg) (p pc : PReg) (a b c : SSrc)
    (hu : unpoisoned [(s.ss a).payload, (s.ss b).payload, (s.ss c).payload]) :
    let x := (s.ss a).bits
    let y := (s.ss b).bits
    let z := (s.ss c).bits
    ∀ q ∈ [(Instr.tspawn r a b c, [x, y, z], ([] : List Wr)), (.trytspawn r a b c pc, [x, y, z], []), (.tdec a, [x], []),
            (.tinc p a b, [x, y], [.p p false]), (.tstatus d a, [x], []), (.tcancel p a b, [x, y], [.p p false]), (.tparam d a, [x], []),
            (.tbound d, [], [])],
      s.opReady q.1 = true → exec q.1 s = .next (s.issue q.1 (reqRes q.1 q.2.1 q.2.2)) := by
  obtain ⟨h1, h2⟩ := unpois3 hu
  simp only [List.forall_mem_cons]
  exact ⟨req_next [s.ss a, s.ss b, s.ss c] rfl hu, req_next [s.ss a, s.ss b, s.ss c] rfl hu, req_next [s.ss a] rfl h1,
    req_next [s.ss a, s.ss b] rfl h2, req_next [s.ss a] rfl h1, req_next [s.ss a, s.ss b] rfl h2, req_next [s.ss a] rfl h1,
    req_next [] rfl unpoisoned_nil, fun _ h => absurd h List.not_mem_nil⟩

theorem fabricRequests (s : State) (d : SDst) (p pc : PReg) (a b : SSrc) (hu : unpoisoned [(s.ss a).payload, (s.ss b).payload]) :
    let x := (s.ss a).bits
    let y := (s.ss b).bits
    let stop := fun (c : BitVec 8) => StopInfo.mk0 c s.fire.slot.toNat s.clock
    let grp := fun (i : Instr) (vals : List Word) (now : List Wr) => { Iss.zero with act := .group i vals, now := now }
    (∀ (l : BitVec 7) (tag : BitVec 8), let e : Entry := { data := x.setWidth 512, tag := tag, w := 0, p := false }
         (s.opReady (.rsend l (.s a) (.imm tag)) = true → exec (.rsend l (.s a) (.imm tag)) s = .next (s.issue (.rsend l (.s a) (.imm tag))
           (if s.tile.route l % 4 = 1 then { Iss.zero with act := .rsend l [e] none false, rc := some true } else .trap { stop 0x17#8 with chlab := l.setWidth 8 })))
         ∧ (s.opReady (.tryrsend l (.s a) (.imm tag) pc) = true → exec (.tryrsend l (.s a) (.imm tag) pc) s = .next (s.issue (.tryrsend l (.s a) (.imm tag) pc)
           (if s.tile.route l % 4 = 1 then { Iss.zero with act := .rsend l [e] (some pc) false, rc := some true } else .trap { stop 0x17#8 with chlab := l.setWidth 8 }))))
       ∧ (∀ (l : BitVec 7) (m : MAddr), unpoisoned [s.basePl m] → s.opReady (.rstore l m a) = true →
         exec (.rstore l m a) s = .next (s.issue (.rstore l m a)
           (if ¬(s.tile.route l % 4 = 2 ∨ s.tile.route l % 4 = 3) then .trap { stop 0x17#8 with chlab := l.setWidth 8 }
            else if s.maddr m % 8 ≠ 0 then .trap { stop 0x18#8 with loc := BitVec.ofInt 64 (s.maddr m) }
            else { Iss.zero with act := .mem { sp := .glb, op := .st (leBytes 8 x.toNat), addr := s.maddr m, size := 8, ord := m.ord, scope := m.scope, label := some l, pa := [], sent := false, home := 0 } })))
       ∧ (s.opReady (.rdec a b) = true → exec (.rdec a b) s = .next (s.issue (.rdec a b)
           (if 65536 ≤ y.toNat then .trap { stop 0x18#8 with loc := y } else if y = 0 then .zero else reqRes (.rdec a b) [x, y] [])))
       ∧ (s.opReady (.pbar p b) = true → exec (.pbar p b) s = .next (s.issue (.pbar p b)
           (if y.toNat < 256 then grp (.pbar p b) [y] [.p p false] else .trap (stop 0x23#8))))
       ∧ (∀ o, s.opReady (.pcomb o d a b) = true → exec (.pcomb o d a b) s = .next (s.issue (.pcomb o d a b)
           (if y.toNat < 256 then grp (.pcomb o d a b) [y, x] [] else .trap (stop 0x23#8))))
       ∧ (s.opReady (.pbcast d a b) = true → exec (.pbcast d a b) s = .next (s.issue (.pbcast d a b)
           (if y.toNat < 512 then grp (.pbcast d a b) [y, x] [] else .trap (stop 0x23#8))))
       ∧ (s.opReady (.pabort b) = true → exec (.pabort b) s = .next (s.issue (.pabort b)
           (if y.toNat < 256 then
              .ed fun t => t.atEnd (.abortMarker (y.setWidth 8) s.cur (s.fire.ctx.val + 8 * tileIn s.cur + 2048 * dieOf s.cur))
            else .trap (stop 0x23#8)))) := by
  intro x y stop grp
  obtain ⟨ha, hb'⟩ := unpoisoned_cons.1 hu
  obtain ⟨hb, -⟩ := unpoisoned_cons.1 hb'
  have hk : ∀ l, rKind (s.tile.route l) = s.tile.route l % 4 := fun l => by simp [rKind, nfld]
  refine ⟨fun l tag => ?_, fun l m hm hr => ?_, fun hr => ?_, fun hr => group_next (s.ss b) [] false [.p p false] rfl (unpoisoned_cons.2 ⟨hb, unpoisoned_nil⟩) hr,
    fun o hr => group_next (s.ss b) [s.ss a] false [] rfl (unpoisoned_cons.2 ⟨hb, unpoisoned_cons.2 ⟨ha, unpoisoned_nil⟩⟩) hr,
    fun hr => group_next (s.ss b) [s.ss a] true [] rfl (unpoisoned_cons.2 ⟨hb, unpoisoned_cons.2 ⟨ha, unpoisoned_nil⟩⟩) hr, fun hr => ?_⟩
  · intro e
    have hiss : ∀ q, s.rsendIss l (.s a) (.imm tag) q = if s.tile.route l % 4 = 1 then { Iss.zero with act := .rsend l [e] q false, rc := some true }
        else .trap { stop 0x17#8 with chlab := l.setWidth 8 } := by
      intro q
      unfold State.rsendIss
      simp only [sendEntries_clean (a := .s a) (g := .imm tag) (unpoisoned_cons.2 ⟨ha, unpoisoned_cons.2 ⟨rfl, unpoisoned_nil⟩⟩), hk]
      by_cases h : s.tile.route l % 4 = 1
      · rw [if_neg (not_not.2 h), if_pos h]; rfl
      · rw [if_pos h, if_neg h]; rfl
    exact ⟨fun hr => exec_next_of_eq rfl hr (hiss none), fun hr => exec_next_of_eq rfl hr (hiss (some pc))⟩
  · refine exec_next_of_eq rfl hr ?_
    rw [firstPois_of_unpoisoned (ps := [_, _]) (unpoisoned_append (qs := [_]) hm (unpoisoned_cons.2 ⟨ha, unpoisoned_nil⟩)), hk]
    simp only [← not_or]
    rfl
  · have hrq := fun st => reqIss_good (s := s) (j := .rdec a b) (vals := [s.ss a, s.ss b]) (now := []) hu st
    refine exec_next_of_eq rfl hr ?_
    simp only [hrq]
    by_cases h : y.toNat < 65536
    · rw [if_neg (Nat.not_le.2 h), if_pos (show (s.ss b).bits.toNat < 65536 from h)]
      by_cases h0 : y = 0
      · rw [if_pos h0]
        exact if_pos (by rw [show (s.ss b).bits = 0 from h0]; rfl)
      · rw [if_neg h0]
        exact if_neg (by rw [Bool.and_eq_true, beq_iff_eq]; exact fun hc => h0 hc.2)
    · rw [if_pos (Nat.not_lt.1 h), if_neg (show ¬ (s.ss b).bits.toNat < 65536 from h)]
      rfl
  · have hid : ctxidOf s.cur s.fire.ctx = s.fire.ctx.val + 8 * tileIn s.cur + 2048 * dieOf s.cur := by unfold ctxidOf at_; ring
    refine exec_next_of_eq rfl hr ?_
    rw [hb]
    unfold State.groupStop
    by_cases h : y.toNat < 256
    · rw [if_pos h]
      simp only [hid, Bool.false_eq_true, if_false, show (s.ss b).bits.toNat < 256 from h, if_true]
      rfl
    · rw [if_neg h]
      simp only [Bool.false_eq_true, if_false, show ¬ (s.ss b).bits.toNat < 256 from h]
      rfl

theorem cfg_next {s : State} {i : Instr} {now : List Wr} (vals : List (Val 64)) {x : Word}
    (he : exec i s = s.fireOp i (s.reqIss i vals (s.cfgStop x) now)) (hu : unpoisoned (vals.map (·.payload))) (hr : s.opReady i = true) :
    exec i s = .next (s.issue i (if (cfgReg x.toNat).isSome then reqRes i (vals.map (·.bits)) now else refused s x)) := by
  refine exec_next_of_eq he hr ((reqIss_good hu _).trans ?_)
  unfold State.cfgStop
  by_cases h : (cfgReg x.toNat).isSome
  · rw [if_pos h, if_pos h]
  · rw [if_neg h, if_neg h]
    rfl
/-- A physical word address that is present, or not. -/
theorem phys_next {s : State} {i : Instr} {now : List Wr} (vals : List (Val 64)) {x : Word}
    (he : exec i s = s.fireOp i (s.reqIss i vals (s.physStop x) now)) (hu : unpoisoned (vals.map (·.payload))) (hr : s.opReady i = true) :
    (x.toNat < 2 ^ 48 ∧ x.toNat % 8 = 0 ∧ (memHome x.toNat).isSome = true → exec i s = .next (s.issue i (reqRes i (vals.map (·.bits)) now)))
    ∧ (¬(x.toNat < 2 ^ 48 ∧ x.toNat % 8 = 0 ∧ (memHome x.toNat).isSome = true) → exec i s = .next (s.issue i (refused s x))) := by
  refine ⟨fun h => exec_next_of_eq he hr ((reqIss_good hu _).trans ?_), fun h => exec_next_of_eq he hr ((reqIss_good hu _).trans ?_)⟩
  · unfold State.physStop
    rw [if_pos h]
  · unfold State.physStop
    rw [if_neg h]
    rfl

theorem systemRequests (s : State) (d : SDst) (p : PReg) (v : VReg) (a b c : SSrc) (n : Fin 4) (g : Fin 3)
    (hu : unpoisoned [(s.ss a).payload, (s.ss b).payload, (s.ss c).payload]) :
    let x := (s.ss a).bits
    let y := (s.ss b).bits
    let z := (s.ss c).bits
    let bad := fun w : Word => Iss.trap { StopInfo.mk0 0x22#8 s.fire.slot.toNat s.clock with loc := w }
    let phys := x.toNat < 2 ^ 48 ∧ x.toNat % 8 = 0 ∧ (memHome x.toNat).isSome = true
    (∀ q ∈ [(Instr.cfgr d a, [x], ([] : List Wr)), (.cfgw p a b, [x, y], [.p p false])], s.opReady q.1 = true →
         exec q.1 s = .next (s.issue q.1 (if (cfgReg x.toNat).isSome then reqRes q.1 q.2.1 q.2.2 else bad x)))
       ∧ (∀ i ∈ [Instr.vfsetEnable d a b, .vfsetTeardown d a b], s.opReady i = true →
         exec i s = .next (s.issue i (if 32 ≤ x.toNat then bad x else if 2 ≤ y.toNat then bad y else reqRes i [x, y] [])))
       ∧ (s.opReady (.quota d a b) = true → exec (.quota d a b) s = .next (s.issue (.quota d a b) (if 64 ≤ x.toNat then bad x else reqRes (.quota d a b) [x, y] [])))
       ∧ (∀ i ∈ [Instr.wtouch d a b, .wresMobile d a b, .wresFixed d a b, .wresUp d a b, .wresDown d a b, .wresQuery n d a b],
         s.opReady i = true → exec i s = .next (s.issue i (if 16 ≤ x.toNat then bad x else reqRes i [x, y] [])))
       ∧ (s.opReady (.csave d a b) = true → exec (.csave d a b) s = .next (s.issue (.csave d a b) (if 2 ≤ y.toNat then bad y else reqRes (.csave d a b) [x, y] [])))
       ∧ (s.opReady (.crest d a) = true → exec (.crest d a) s = .next (s.issue (.crest d a) (reqRes (.crest d a) [x] [])))
       ∧ (s.opReady (.ctxw d a b c) = true → exec (.ctxw d a b c) s = .next (s.issue (.ctxw d a b c) (reqRes (.ctxw d a b c) [x, y, z] [])))
       ∧ (s.opReady (.xinv g p a b c) = true → exec (.xinv g p a b c) s = .next (s.issue (.xinv g p a b c)
           (if 16 ≤ x.toNat then bad x else if 512 ≤ z.toNat then bad z else reqRes (.xinv g p a b c) [x, y, z] [.p p false])))
       ∧ (s.opReady (.fqpop v a) = true → exec (.fqpop v a) s = .next (s.issue (.fqpop v a) (if 16 ≤ x.toNat then bad x else reqRes (.fqpop v a) [x] [])))
       ∧ (s.opReady (.mtret d a b) = true → exec (.mtret d a b) s = .next (s.issue (.mtret d a b) (reqRes (.mtret d a b) [x, y] [])))
       ∧ (phys → (s.opReady (.srd d a) = true → exec (.srd d a) s = .next (s.issue (.srd d a) (reqRes (.srd d a) [x] [])))
         ∧ (s.opReady (.swr p a b) = true → exec (.swr p a b) s = .next (s.issue (.swr p a b) (reqRes (.swr p a b) [x, y] [.p p false]))))
       ∧ (¬phys → (s.opReady (.srd d a) = true → exec (.srd d a) s = .next (s.issue (.srd d a) (bad x)))
         ∧ (s.opReady (.swr p a b) = true → exec (.swr p a b) s = .next (s.issue (.swr p a b) (bad x)))) := by
  obtain ⟨h1, h2⟩ := unpois3 hu
  intro x y z bad phys
  refine ⟨?_, ?_, hi_next [s.ss a, s.ss b] (n := 6) rfl h2, ?_, hi_next [s.ss a, s.ss b] (n := 1) rfl h2, req_next [s.ss a] rfl h1,
    req_next [s.ss a, s.ss b, s.ss c] rfl hu, hi2_next [s.ss a, s.ss b, s.ss c] (m := 4) (n := 9) rfl hu, hi_next [s.ss a] (n := 4) rfl h1,
    req_next [s.ss a, s.ss b] rfl h2,
    fun h => ⟨fun hr => (phys_next [s.ss a] rfl h1 hr).1 h, fun hr => (phys_next [s.ss a, s.ss b] rfl h2 hr).1 h⟩,
    fun h => ⟨fun hr => (phys_next [s.ss a] rfl h1 hr).2 h, fun hr => (phys_next [s.ss a, s.ss b] rfl h2 hr).2 h⟩⟩
  · simp only [List.forall_mem_cons]
    exact ⟨cfg_next [s.ss a] rfl h1, cfg_next [s.ss a, s.ss b] rfl h2, fun _ h => absurd h List.not_mem_nil⟩
  · simp only [List.forall_mem_cons]
    exact ⟨hi2_next [s.ss a, s.ss b] (m := 5) (n := 1) rfl h2, hi2_next [s.ss a, s.ss b] (m := 5) (n := 1) rfl h2,
      fun _ h => absurd h List.not_mem_nil⟩
  · have hone : ∀ i, exec i s = s.fireOp i (s.reqIss i [s.ss a, s.ss b] (s.hiStop (s.ss a).bits 4) []) → s.opReady i = true →
        exec i s = .next (s.issue i (if 16 ≤ x.toNat then bad x else reqRes i [x, y] [])) :=
      fun i he hr => hi_next [s.ss a, s.ss b] (n := 4) he h2 hr
    simp only [List.forall_mem_cons]
    exact ⟨hone _ rfl, hone _ rfl, hone _ rfl, hone _ rfl, hone _ rfl, hone _ rfl, fun _ h => absurd h List.not_mem_nil⟩

/-- Settles O32: the checks of each form on unpoisoned operands. -/
theorem requestsFire : Obligations.RequestsFire := by
  refine ⟨fun s d r p pc a b c hu => ⟨taskRequests s d r p pc a b c hu, fun hal hok hb => ?_⟩,
    fun s d p pc a b hu => fabricRequests s d p pc a b hu, fun s d p v a b c n g hu => systemRequests s d p v a b c n g hu⟩
  simp only [List.forall_mem_cons]
  exact ⟨tenq_next rfl (unpois3 hu).1 hal hok hb, tenq_next rfl (unpois3 hu).1 hal hok hb, fun _ h => absurd h List.not_mem_nil⟩

end Sys2Proof.Proofs
end

section
/-! PROOFS. What an agent's event leaves unchanged: homes that evaluate watches (R149), and how the tile in focus is reached. -/

namespace Sys2Proof.Proofs
open Sys2Proof Sys2Proof.Machine

/-! ## The tile in focus -/

theorem focus_cur (s : State) : s.focus s.cur = s := if_pos rfl
theorem tileN_cur (s : State) : s.tileN s.cur = s.tile := if_pos rfl
theorem modTile_cur_eq (s : State) (f : Tile → Tile) : s.modTile s.cur f = s.onTile f := by
  unfold State.modTile State.setTile
  rw [if_pos rfl, tileN_cur]
  rfl

/-! ## Watches -/

/-- `t` is `s` but for the watches of contexts, what tiles remember of the cycle, and the events to come. -/
def WatchFrame (s t : State) : Prop :=
  ∃ cs l os q, t = { s with tile := { s.tile with ctxs := cs, last := l }, others := os, queue := q }
    ∧ ∀ c : Fin 8, ∃ ws, cs[c] = { s.tile.ctx c with watches := ws }

namespace WatchFrame
variable {s t u : State}

theorem refl (s : State) : WatchFrame s s := ⟨s.tile.ctxs, s.tile.last, s.others, s.queue, rfl, fun c => ⟨(s.tile.ctx c).watches, rfl⟩⟩
theorem trans (h : WatchFrame s t) (g : WatchFrame t u) : WatchFrame s u := by
  obtain ⟨cs, l, os, q, rfl, hc⟩ := h
  obtain ⟨ds, m, ps, r, rfl, hd⟩ := g
  refine ⟨ds, m, ps, r, rfl, fun c => ?_⟩
  obtain ⟨ws, hw⟩ := hc c
  obtain ⟨xs, hx⟩ := hd c
  refine ⟨xs, hx.trans ?_⟩
  show ({ cs[c] with watches := xs } : Ctx) = _
  rw [hw]
theorem foldl {α : Type} {f : State → α → State} (step : ∀ s a, WatchFrame s (f s a)) (l : List α) (s : State) : WatchFrame s (l.foldl f s) :=
  List.foldlRecOn l f (refl s) fun u hu a _ => hu.trans (step u a)

theorem queue (s : State) (q : List (Nat × Ev)) : WatchFrame s { s with queue := q } :=
  ⟨s.tile.ctxs, s.tile.last, s.others, q, rfl, fun c => ⟨(s.tile.ctx c).watches, rfl⟩⟩
theorem later {k : Nat} (h : k ≠ 0) (s : State) (e : Ev) : WatchFrame s (s.later k e) := by
  rw [State.later, if_neg h]
  exact queue s _
theorem modWatches (s : State) (n : Nat) (c : Fin 8) (f : List Watch → List Watch) :
    WatchFrame s (s.modTile n fun t => t.modCtx c fun x => { x with watches := f x.watches }) := by
  unfold State.modTile State.setTile
  split
  · refine ⟨(((s.tileN n).modCtx c fun x => { x with watches := f x.watches })).ctxs, s.tile.last, s.others, s.queue, ?_, fun d => ?_⟩
    · rename_i h
      rw [State.tileN, if_pos h]
      rfl
    · rename_i h
      rw [State.tileN, if_pos h]
      by_cases hd : d = c
      · subst hd
        exact ⟨f (s.tile.ctx d).watches, Tile.ctx_modCtx_self ..⟩
      · exact ⟨(s.tile.ctx d).watches, Tile.ctx_modCtx_other _ _ hd⟩
  · exact ⟨s.tile.ctxs, s.tile.last, _, s.queue, rfl, fun c => ⟨(s.tile.ctx c).watches, rfl⟩⟩
theorem modLast (s : State) (n : Nat) (r : Recent) : WatchFrame s (s.modTile n fun t => { t with last := r }) := by
  unfold State.modTile State.setTile
  split
  · rename_i h
    rw [State.tileN, if_pos h]
    exact ⟨s.tile.ctxs, r, s.others, s.queue, rfl, fun c => ⟨(s.tile.ctx c).watches, rfl⟩⟩
  · exact ⟨s.tile.ctxs, s.tile.last, _, s.queue, rfl, fun c => ⟨(s.tile.ctx c).watches, rfl⟩⟩

theorem fireWatch (s : State) (n : Nat) (c : Fin 8) (w : Watch) : WatchFrame s (s.fireWatch n c w) := by
  unfold State.fireWatch
  split
  · exact refl s
  · split
    · exact refl s
    · split
      · dsimp only
        split
        · exact (modWatches s n c _).trans (queue _ _)
        · exact (modWatches s n c _).trans (later ‹_› _ _)
      · exact refl s
theorem fireOff (s : State) (n : Nat) : WatchFrame s (s.fireOff n) := by
  unfold State.fireOff
  dsimp only
  split
  · exact refl s
  · split
    · exact refl s
    · split
      · exact refl s
      · split
        · exact (modLast s n _).trans (queue _ _)
        · exact refl s
/-- Homes that evaluate their watches change only watches, and what is to come. -/
theorem fireWatches (s : State) : WatchFrame s s.fireWatches :=
  foldl (fun s n => (foldl (fun s c => foldl (fun s w => fireWatch s n c w) _ s) _ s).trans (fireOff _ n)) _ s

theorem mem (h : WatchFrame s t) : t.mem = s.mem := by obtain ⟨_, _, _, _, rfl, _⟩ := h; rfl
theorem clusters (h : WatchFrame s t) : t.clusters = s.clusters := by obtain ⟨_, _, _, _, rfl, _⟩ := h; rfl
theorem dies (h : WatchFrame s t) : t.dies = s.dies := by obtain ⟨_, _, _, _, rfl, _⟩ := h; rfl
theorem hearth (h : WatchFrame s t) : t.hearth = s.hearth := by obtain ⟨_, _, _, _, rfl, _⟩ := h; rfl
theorem clock (h : WatchFrame s t) : t.clock = s.clock := by obtain ⟨_, _, _, _, rfl, _⟩ := h; rfl
theorem cur (h : WatchFrame s t) : t.cur = s.cur := by obtain ⟨_, _, _, _, rfl, _⟩ := h; rfl
theorem agenda (h : WatchFrame s t) : t.agenda = s.agenda := by obtain ⟨_, _, _, _, rfl, _⟩ := h; rfl
theorem tcm (h : WatchFrame s t) : t.tile.tcm = s.tile.tcm := by obtain ⟨_, _, _, _, rfl, _⟩ := h; rfl
theorem ops (h : WatchFrame s t) : t.tile.ops = s.tile.ops := by obtain ⟨_, _, _, _, rfl, _⟩ := h; rfl
theorem copies (h : WatchFrame s t) : t.tile.copies = s.tile.copies := by obtain ⟨_, _, _, _, rfl, _⟩ := h; rfl
theorem ctx (h : WatchFrame s t) (c : Fin 8) : ∃ ws, t.tile.ctx c = { s.tile.ctx c with watches := ws } := by
  obtain ⟨_, _, _, _, rfl, hc⟩ := h
  exact hc c
end WatchFrame

end Sys2Proof.Proofs
end

section
/-! PROOFS. Writebacks (R28, R29, R103, R112, R113): results of one-cycle and of longer operations, and accesses to TCM when they are performed. -/

namespace Sys2Proof.Proofs
open Sys2Proof Sys2Proof.Machine

/-! ## Predicate writes touch predicates only -/

theorem applyPws_frame_eq (ws : List PWrite) (rc : Bool) (r : Regs) :
    applyPws ws rc r = { r with p := (applyPws ws rc r).p } := by
  induction ws generalizing r with
  | nil => rfl
  | cons w ws ih =>
    have hw : pwApply w rc r = { r with p := (pwApply w rc r).p } := by unfold pwApply; split <;> rfl
    rw [show applyPws (w :: ws) rc r = applyPws ws rc (pwApply w rc r) from rfl, ih, hw]

/-! ## Lost registers -/

/-- Reading one lost register. -/
def lostS (pl : Word) (b : Bool) (x : Reg 64) : Reg 64 := if b then { x with bits := pl, pois := true } else x

theorem lostS_idem (pl : Word) (a b : Bool) (x : Reg 64) : lostS pl a (lostS pl b x) = lostS pl (b || a) x := by
  cases a <;> cases b <;> rfl
theorem readBad_s (pl : Word) (r : Regs) (x : PresReg) (q : SReg) : (r.readBad pl x).s[q] = lostS pl (x == .s q) r.s[q] := by
  cases x with
  | s i =>
    by_cases h : q = i
    · subst h; simp [Regs.readBad, lostS]
    · rw [show (PresReg.s i == .s q) = false by simpa using fun e => h e.symm]
      exact getElem_vector_set_ne _ h
  | v i => rfl
  | k i => rfl
theorem poisonRegs_s (pl : Word) (bad : List PresReg) (r : Regs) (q : SReg) : (poisonRegs pl bad r).s[q] = lostS pl (bad.contains (.s q)) r.s[q] := by
  induction bad generalizing r with
  | nil => rfl
  | cons x bad ih =>
    refine (ih _).trans ?_
    rw [readBad_s, lostS_idem, List.contains_cons, BEq.comm]

theorem readBad_vk {a b : Regs} (pl : Word) (hv : b.v = a.v) (hk : b.k = a.k) (x : PresReg) :
    (b.readBad pl x).v = (a.readBad pl x).v ∧ (b.readBad pl x).k = (a.readBad pl x).k := by
  cases x with
  | s i => exact ⟨hv, hk⟩
  | v i => exact ⟨by simp only [Regs.readBad, hv], hk⟩
  | k i => exact ⟨hv, by simp only [Regs.readBad, hk]⟩
/-- A scalar register that is written is lost no longer; the vector and mask registers are read as before. -/
theorem poisonRegs_vk {a b : Regs} (pl : Word) (hv : b.v = a.v) (hk : b.k = a.k) (bad : List PresReg) (r : SReg) :
    (poisonRegs pl (bad.filter (· != .s r)) b).v = (poisonRegs pl bad a).v
      ∧ (poisonRegs pl (bad.filter (· != .s r)) b).k = (poisonRegs pl bad a).k := by
  induction bad generalizing a b with
  | nil => exact ⟨hv, hk⟩
  | cons x bad ih =>
    by_cases h : x = .s r
    · subst h
      rw [List.filter_cons_of_neg (by simp)]
      exact ih (a := a.readBad pl (.s r)) hv hk
    · rw [List.filter_cons_of_pos (by simpa using h)]
      obtain ⟨hv', hk'⟩ := readBad_vk pl hv hk x
      exact ih hv' hk'
theorem contains_filter_s (bad : List PresReg) (q r : SReg) :
    (bad.filter (· != .s r)).contains (.s q) = (bad.contains (.s q) && q != r) := by
  rw [Bool.eq_iff_iff, List.contains_iff_mem, List.mem_filter, Bool.and_eq_true, List.contains_iff_mem, bne_iff_ne, bne_iff_ne]
  simp

/-! ## The writeback of a scalar result -/

theorem write_s {o : Op} {r : SReg} {v : Word} {p : Bool} (hw : o.wr = [.s r v p]) (ht : o.trapped = none) (cyc : Nat) (c : Ctx) :
    (o.write cyc c).regs = { c.regs.setS r v p with
      p := (applyPws o.pws (o.rc.getD false) c.regs).p, flags := c.regs.flags ||| o.fl, srng := o.srng.getD c.regs.srng } := by
  unfold Op.write
  rw [ht, hw]
  dsimp only [List.foldl_cons, List.foldl_nil, List.any_cons, List.any_nil, Wr.isFlags, Wr.apply, Ctx.raise, Ctx.setRegs]
  cases o.srng with
  | none =>
    dsimp only
    rw [applyPws_frame_eq, applyPws_p (a := c.regs.setS r v p) (b := c.regs) rfl]
    rfl
  | some x =>
    dsimp only
    rw [applyPws_frame_eq, applyPws_p (a := Regs.setS { c.regs with srng := x } r v p) (b := c.regs) rfl]
    rfl

/-- A poisoned result that would reach a predicate or a short system register, with no predicate write but from the result condition. -/
theorem write_trapped {o : Op} {pl : Word} (ht : o.trapped = some pl) (hw : ∀ w ∈ o.wr, Wr.isFlags w = false) (hp : ∀ w ∈ o.pws, pwIsRc w = true)
    (cyc : Nat) (c : Ctx) :
    (o.write cyc c).regs = { c.regs with flags := c.regs.flags ||| o.fl }
      ∧ (c.ctl.ending = .none → (o.write cyc c).ctl.ending = .stop (StopInfo.poison o.slot.toNat pl cyc)) := by
  have hany : o.wr.any Wr.isFlags = false := List.any_eq_false.2 fun w h => by simp [hw w h]
  have hfil : (o.pws.filter fun w => !pwIsRc w) = [] := List.filter_eq_nil_iff.2 fun w h => by simp [hp w h]
  unfold Op.write
  rw [ht, hany, hfil]
  dsimp only [Ctx.raise]
  refine ⟨?_, fun hn => ?_⟩
  · rw [Ctx.stop_regs, if_neg (by simp)]
    rfl
  · exact stop_ending hn _

/-! ## O44, O45 -/

theorem res_fctx {s t : State} (hc : t.clock = s.clock) (hu : t.cur = s.cur) (hf : t.fire = s.fire) : lostReg t = lostReg s := by
  unfold lostReg State.env
  rw [hc, hu, hf]

/-- Settles O44: the writeback of the fire cycle, and how the firing context reads its registers afterwards. -/
theorem oneCycleResultIsWritten : Obligations.OneCycleResultIsWritten := by
  intro s i r v rc fl hl t a b
  have ht : t = s.onTile fun u => ((u.occupy i s.clock).tokPub s.fctx i.pub).modCtx s.fire.ctx fun y =>
      Op.write { s.mkOp i (.res (wrS (.reg r) (clean v)) rc fl none) with pws := s.fire.pws } s.clock y := issue_short s hl rfl rfl
  let A := (s.tile.ctx s.fire.ctx).regs
  have hself : (t.tile.ctx s.fire.ctx).regs
      = { A.setS r v false with p := (applyPws s.fire.pws rc A).p, flags := A.flags ||| fl } := by
    rw [ht, State.onTile, Tile.ctx_modCtx_self]
    have hcx : (((s.tile.occupy i s.clock).tokPub s.fctx i.pub).ctx s.fire.ctx) = s.tile.ctx s.fire.ctx := by simp [Tile.ctx]
    rw [hcx]
    exact write_s rfl rfl _ _
  have hfire : t.fire = s.fire := by rw [ht]; rfl
  have hlost : lostReg t = lostReg s := res_fctx (by rw [ht]; rfl) (by rw [ht]; rfl) hfire
  have ha : a = poisonRegs (lostReg s) A.bad A := fctx_regs s
  have hb : b = poisonRegs (lostReg s) (A.bad.filter (· != .s r))
      { A.setS r v false with p := (applyPws s.fire.pws rc A).p, flags := A.flags ||| fl } := by
    show t.fctx.regs = _
    rw [fctx_regs, hlost, hfire, hself]
    rfl
  obtain ⟨hbp, hbf, hba, hbs, -⟩ := poisonRegs_frame (lostReg s) (A.bad.filter (· != .s r))
    { A.setS r v false with p := (applyPws s.fire.pws rc A).p, flags := A.flags ||| fl }
  obtain ⟨hap, haf, haa, has, -⟩ := poisonRegs_frame (lostReg s) A.bad A
  obtain ⟨hv, hk⟩ := poisonRegs_vk (a := A)
    (b := { A.setS r v false with p := (applyPws s.fire.pws rc A).p, flags := A.flags ||| fl }) (lostReg s) rfl rfl A.bad r
  rw [ha, hb]
  refine ⟨?_, fun q hq => ?_, hv, hk, hbf.trans (by rw [haf]), hba.trans haa.symm, hbs.trans has.symm, hbp.trans (applyPws_p hap.symm _ _), fun c hc => ?_, ?_, ?_, ?_⟩
  · rw [poisonRegs_s, contains_filter_s]
    simp only [bne_self_eq_false, Bool.and_false, lostS]
    exact getElem_vector_set_self _ _ _
  · rw [poisonRegs_s, contains_filter_s, poisonRegs_s, show (q != r) = true from bne_iff_ne.2 hq, Bool.and_true]
    exact congrArg _ (getElem_vector_set_ne _ hq)
  · rw [ht, State.onTile, Tile.ctx_modCtx_other _ _ hc]
    simp [Tile.ctx]
  · rw [ht]; simp [State.onTile]
  · rw [ht]; rfl
  · rw [ht]; simp [State.onTile]

/-- Settles O45: the operation stands outstanding with its destination and its due cycle. -/
theorem longOperationWaits : Obligations.LongOperationWaits := by
  intro s i r v rc fl hl x t
  have hlong : (decide (i.lat ≤ 1) && x.act.isPlain) = false := by rw [decide_eq_false (by omega)]; rfl
  have ht : t = s.onTile fun u => { (((u.occupy i s.clock).tokPub s.fctx i.pub).modCtx s.fire.ctx fun y =>
        y.setRegs (applyPws (s.fire.pws.filter fun w => !pwIsRc w) false y.regs)) with
      ops := u.ops ++ [s.mkOp i x], nextId := u.nextId + 1 } := issue_long s hlong rfl
  let A := (s.tile.ctx s.fire.ctx).regs
  let P := (applyPws (s.fire.pws.filter fun w => !pwIsRc w) false A).p
  have hself : (t.tile.ctx s.fire.ctx).regs = { A with p := P } := by
    rw [ht, State.onTile]
    show ((((s.tile.occupy i s.clock).tokPub s.fctx i.pub).modCtx s.fire.ctx fun y =>
        y.setRegs (applyPws (s.fire.pws.filter fun w => !pwIsRc w) false y.regs)).ctx s.fire.ctx).regs = _
    rw [Tile.ctx_modCtx_self, show (((s.tile.occupy i s.clock).tokPub s.fctx i.pub).ctx s.fire.ctx) = s.tile.ctx s.fire.ctx by simp [Tile.ctx],
      Ctx.setRegs_regs, applyPws_frame_eq]
  have hfire : t.fire = s.fire := by rw [ht]; rfl
  have hlost : lostReg t = lostReg s := res_fctx (by rw [ht]; rfl) (by rw [ht]; rfl) hfire
  have ha : s.fctx.regs = poisonRegs (lostReg s) A.bad A := fctx_regs s
  have hb : t.fctx.regs = poisonRegs (lostReg s) A.bad { A with p := P } := by
    rw [fctx_regs, hlost, hfire, hself]
  have hops : t.tile.ops = s.tile.ops ++ [s.mkOp i x] := by rw [ht]; rfl
  refine ⟨?_, ?_, ⟨s.mkOp i x, hops, rfl, rfl, rfl, ?_, rfl, rfl, rfl⟩, fun hr => ?_, ?_, ?_⟩
  · rw [ha, hb]
    refine Vector.ext fun n hn => ?_
    exact (poisonRegs_s (lostReg s) A.bad { A with p := P } ⟨n, hn⟩).trans (poisonRegs_s (lostReg s) A.bad A ⟨n, hn⟩).symm
  · rw [ha, hb, (poisonRegs_frame _ _ _).2.1, (poisonRegs_frame _ _ _).2.1]
  · show (if _ then none else _) = _
    rw [if_neg]
    show ¬ ((decide (i.lat = 0) || false || false) = true)
    simpa using (by omega : i.lat ≠ 0)
  · unfold Tile.locked
    rw [hops, List.any_append, Bool.or_eq_true]
    refine .inr ?_
    rw [List.any_cons, show (s.mkOp i x).ctx = s.fire.ctx from rfl, show (s.mkOp i x).dsts = (i.footOf s.fctx.regs.amode).wr ++ pwRes s.fire.pws from rfl]
    simp [hr]
  · rw [ht]; rfl
  · rw [ht]; simp [State.onTile]

/-! ## O46 -/

/-- The end of a publication changes tasks only. -/
theorem tokDone_eq (t : Tile) (c : Ctx) (n k : Nat) : ∃ ts, t.tokDone c n k = { t with tasks := ts } := by
  unfold Tile.tokDone
  split
  · exact ⟨t.tasks, rfl⟩
  · split
    · exact ⟨_, rfl⟩
    · exact ⟨t.tasks, rfl⟩

/-- An operation that writes back is outstanding no longer; besides, its context, operations and tasks change. -/
theorem finish_eq (t : Tile) (o : Op) (clk : Nat) : ∃ l ts, (∀ q ∈ l, q.id ≠ o.id)
    ∧ t.finish o clk = { t.setCtx o.ctx (o.write clk (t.ctx o.ctx)) with ops := l, tasks := ts } := by
  let l : List Op := (t.ops.filter fun q => q.id != o.id).map fun q =>
    if q.ctx == o.ctx && decide (o.id < q.id) then
      { q with ents := ((t.ctx o.ctx).added (o.write clk (t.ctx o.ctx))).foldl (fun l x => addEnts l x.1 x.2) q.ents } else q
  obtain ⟨ts, h⟩ := tokDone_eq { t.setCtx o.ctx (o.write clk (t.ctx o.ctx)) with ops := l } (t.ctx o.ctx) o.pt.1 o.pt.2
  refine ⟨l, ts, fun q hq => ?_, h⟩
  obtain ⟨x, hx, rfl⟩ := List.mem_map.1 hq
  have hid : x.id ≠ o.id := bne_iff_ne.1 (List.mem_filter.1 hx).2
  split
  · exact hid
  · exact hid

theorem finish_ctx (t : Tile) (o : Op) (clk : Nat) : (t.finish o clk).ctx o.ctx = o.write clk (t.ctx o.ctx) := by
  obtain ⟨l, ts, -, h⟩ := finish_eq t o clk
  rw [h]
  exact Tile.ctx_setCtx_self ..
theorem finish_tcm (t : Tile) (o : Op) (clk : Nat) : (t.finish o clk).tcm = t.tcm := by
  obtain ⟨l, ts, -, h⟩ := finish_eq t o clk
  rw [h]
  rfl
theorem finish_ops (t : Tile) (o : Op) (clk : Nat) : ∀ q ∈ (t.finish o clk).ops, q.id ≠ o.id := by
  obtain ⟨l, ts, hl, h⟩ := finish_eq t o clk
  rw [h]
  exact hl

theorem mem_qinsert (c : Nat) (e : Ev) (q : List (Nat × Ev)) : (c, e) ∈ qinsert c e q := by
  induction q with
  | nil => exact List.mem_singleton_self _
  | cons x q ih =>
    unfold qinsert
    split
    · exact List.mem_cons_self
    · exact List.mem_cons_of_mem _ ih

theorem writeback_next {s : State} {o : Op} (he : s.ev = .operationWriteback s.cur o.id) (ho : s.tile.opN o.id = some o) (hr : s.ready o = true) :
    exec .operationWriteback s = .next (s.writeback o).wake := by
  show execOperationWriteback s = _
  unfold execOperationWriteback
  rw [he]
  dsimp only
  rw [focus_cur, ho]
  dsimp only
  rw [if_pos hr]

/-- A held result stays outstanding, due at once, and its rule's migrate trap is taken at the end of the cycle. -/
theorem retire_held {s : State} {o : Op} (h : s.rsHeld { o with act := .plain } = true) (hn : (s.tile.ctx o.ctx).ctl.ending = .none) :
    s.retire o = (s.onTile fun t => t.setOp { o with act := .plain, due := some s.clock }).atEnd (.lateMigrateTrap s.cur o.ctx o.slot) :=
  (if_pos h).trans (if_pos hn)
theorem retire_free {s : State} {o : Op} (h : s.rsHeld { o with act := .plain } = false) :
    s.retire o = s.onTile fun t => t.finish o s.clock := if_neg (by rw [h]; exact Bool.false_ne_true)

/-- Settles O46: a held result, a result that is written, and a trapped one. -/
theorem operationWritesBack : Obligations.OperationWritesBack := by
  intro s o d he ho hp hd hle hm a
  have hplain : { o with act := .plain } = o := by rw [← hp]
  have hdue : o.isDue s.clock = true := by
    unfold Op.isDue
    rw [hd]
    exact decide_eq_true hle
  have hback : s.writeback o = s.retire o := by
    unfold State.writeback
    rw [hp]
  refine ⟨fun hh hn => ?_, fun hh => ?_⟩
  · have hr : s.ready o = true := by
      unfold State.ready
      rw [hm, hp, hdue, show (s.tile.ctx o.ctx).ctl.ending = .none from hn]
      simp
    refine ⟨_, writeback_next he ho hr, ?_, ?_⟩
    · rw [hback, retire_held (by rw [hplain]; exact hh) hn]
      rfl
    · rw [hback, retire_held (by rw [hplain]; exact hh) hn]
      exact mem_qinsert _ _ _
  · have hr : s.ready o = true := by
      unfold State.ready
      rw [hm, hp, hdue, hh]
      rfl
    have hret : s.writeback o = s.onTile fun t => t.finish o s.clock := by rw [hback, retire_free (by rw [hplain]; exact hh)]
    have hctx : ((s.writeback o).wake.tile.ctx o.ctx) = o.write s.clock a := by
      rw [hret]
      exact finish_ctx _ _ _
    refine ⟨_, writeback_next he ho hr, ?_, fun r v p hw ht hs => ?_, fun pl ht hw hpw => ?_, ?_, ?_, ?_⟩
    · rw [hret]
      exact finish_ops _ _ _
    · rw [hctx]
      dsimp only
      rw [write_s hw ht, hs]
      exact ⟨getElem_vector_set_self _ _ _, fun q hq => getElem_vector_set_ne _ hq, rfl, rfl, rfl, rfl, rfl, rfl⟩
    · rw [hctx]
      exact write_trapped ht hw hpw _ _
    · rw [hret]; rfl
    · rw [hret]; exact finish_tcm _ _ _
    · rw [hret]; rfl

/-! ## O47 -/

/-- The bytes of a memory after a write. -/
theorem byteAt_writeBytes (m : Memory) (h : Memory.wf m = true) (p : Nat) (bs : List Byte) (a : Nat) :
    byteAt (writeBytes m p bs) a = if p ≤ a ∧ a < p + bs.length then bs.getD (a - p) 0 else byteAt m a := by
  split
  case isTrue hin =>
    have hi : a - p < bs.length := by omega
    rw [List.getD_eq_getElem _ _ hi, ← byteAt_writeBytes_in m p (a - p) bs h hi, Nat.add_sub_cancel' hin.1]
  case isFalse hout => exact byteAt_writeBytes_other m p a bs h (by omega)

/-- A performed access writes back at once when its result does not set stochastic rounding. -/
theorem writeback_mem {s : State} {o : Op} {m : MemAcc} (ha : o.act = .mem m) (hw : (s.perform s.cur o m).2.wr.any wrRs = false) :
    s.writeback o = (s.perform s.cur o m).1.onTile fun t =>
      t.finish (o.performed (s.perform s.cur o m).2) (s.perform s.cur o m).1.clock := by
  unfold State.writeback
  rw [ha]
  refine retire_free ?_
  unfold State.rsHeld Op.setsRs Op.performed
  rw [hw]
  simp

/-- Settles O47: a store writes its bytes and the watches look at them; a load reads, and its register is written. -/
theorem tcmAccessIsPerformed : Obligations.TcmAccessIsPerformed := by
  intro s o m p he ho ha hsp hpa hpart hr hwf
  have hsegs : m.segs = [(p, m.size)] := by unfold MemAcc.segs; rw [hpa]
  refine ⟨fun bs hop hsz htr => ?_, fun z r hop hsz hbad => ?_⟩
  · have hp : s.perform s.cur o m = ((s.onTile fun t => t.tcmWr p bs).fireWatches, MRes.nil) := by
      unfold State.perform
      rw [hop, tileN_cur]
      dsimp only
      rw [Ctx.dead, htr, Bool.false_and, if_neg Bool.false_ne_true, State.accWrite, hsegs]
      dsimp only
      rw [hpart, hsp, State.spWrite, modTile_cur_eq]
      rfl
    have hf := WatchFrame.fireWatches (s.onTile fun t => t.tcmWr p bs)
    have hb := writeback_mem ha (by rw [hp]; rfl)
    rw [hp] at hb
    refine ⟨_, writeback_next he ho hr, ?_, ?_, fun a => ?_⟩
    · rw [hb]; exact hf.mem
    · rw [hb]; exact hf.clusters
    · rw [hb]
      show byteAt (Tile.finish _ _ _).tcm a = _
      rw [finish_tcm, hf.tcm]
      exact byteAt_writeBytes _ hwf _ _ _
  · let v := leNat (readBytes s.tile.tcm p (Sz.bytes z))
    let q : MRes := { wr := [.s r (wrapTo (Sz.ity z) v) false], pl := none, hard := false, rc := some (v != 0) }
    have hp : s.perform s.cur o m = (s.onTile fun t => t.tcmCorr p (Sz.bytes z), q) := by
      have hb : s.accBytes s.cur m = readBytes s.tile.tcm p (Sz.bytes z) := by
        unfold State.accBytes MemAcc.overlay
        rw [hpart, hsegs, hsp, hsz]
        simp [State.spBytes, tileN_cur, Tile.tcmRd]
      have hg : s.accBad s.cur m = false := by
        unfold State.accBad
        rw [hsegs, hsp, hsz]
        simp [State.spBad, tileN_cur, hbad]
      have hx : s.accFix s.cur m = s.onTile fun t => t.tcmCorr p (Sz.bytes z) := by
        unfold State.accFix
        rw [hsegs, hsp, hsz]
        exact modTile_cur_eq s fun t => t.tcmCorr p (Sz.bytes z)
      unfold State.perform
      rw [hop]
      dsimp only
      rw [if_neg (by rw [hg]; exact Bool.false_ne_true), hx, hb]
      rfl
    have hb := writeback_mem ha (by rw [hp]; rfl)
    rw [hp] at hb
    refine ⟨_, writeback_next he ho hr, ?_, ?_, ?_, ?_⟩
    · rw [hb]; rfl
    · rw [hb]; rfl
    · rw [hb]; exact finish_tcm _ _ _
    · rw [hb]
      show ((Tile.finish _ (o.performed q) _).ctx (o.performed q).ctx).regs.s[r] = _
      rw [finish_ctx, write_s rfl rfl]
      exact getElem_vector_set_self _ _ _

end Sys2Proof.Proofs
end

section
/-! PROOFS. The machine: the state after reset, worked slots, the torus, the picker (R12, R15, R31), and a step (R28). -/

namespace Sys2Proof.Proofs
open Sys2Proof Sys2Proof.Machine

/-! ## Reset, worked slots, the torus -/

theorem reset_tileN (n : Nat) : State.reset.tileN n = Tile.zero := by
  unfold State.tileN
  split <;> rfl
theorem zero_ctx (c : Fin 8) : Tile.zero.ctx c = Ctx.zero := Vector.getElem_replicate ..

theorem cands_idle {s : State} {c : Fin 8} (h : (s.tile.ctx c).picks = false) : s.cands c = [] := by
  unfold State.cands
  dsimp only
  rw [if_neg (by rw [h]; exact Bool.false_ne_true)]

/-- Settles O33: no context runs, so none has a candidate. -/
theorem resetState : Obligations.ResetState := by
  refine ⟨⟨rfl, rfl, fun x h => absurd h List.not_mem_nil, fun x h => absurd h List.not_mem_nil⟩, ?_, rfl, fun n => ?_⟩
  · have hidle : ∀ c, State.reset.cands c = [] := fun c => cands_idle (by rw [show State.reset.tile = Tile.zero from rfl, zero_ctx]; rfl)
    unfold State.pick
    simp only [hidle]
    rfl
  · rw [reset_tileN]
    exact ⟨fun k => rfl, rfl, fun c => by rw [zero_ctx]; rfl⟩

theorem fld_top (x : SlotWord) : fld x 127 1 = BitVec.ofBool (x.getLsbD 127) := by
  refine BitVec.eq_of_getLsbD_eq fun i hi => ?_
  obtain rfl : i = 0 := by omega
  simp [fld]

/-- Settles O34: each slot is decoded; one whose V is 0 is not. -/
theorem decodedWords : Obligations.DecodedWords := by
  refine ⟨by decide, by decide, by decide, by decide, by decide, by decide, by decide, by decide, by decide, by decide, by decide, by decide, fun x hv hx => ?_⟩
  unfold decodeSlot
  rw [if_pos (by rw [fld_top, hv]; rfl), show (x == 0#128) = false from beq_eq_false_iff_ne.2 hx]
  rfl

/-- Settles O49: from the column and the row to cluster and position, and back for each neighbour. -/
theorem torusNeighbours : Obligations.TorusNeighbours := by
  intro d x y hx hy n at'
  have hd : dieOf n = d := by simp only [dieOf, n]; omega
  have ht : tileIn n = 16 * y + x := by simp only [tileIn, n]; omega
  have hk : clusOf n = 12 * d + 4 * (y / 4) + x / 4 := by simp only [clusOf, hd, ht]; omega
  have hp : posOf n = 4 * (y % 4) + x % 4 := by simp only [posOf, ht]; omega
  refine ⟨hk, hp, ?_, ?_, ?_, ?_⟩
  all_goals
    simp only [neighbour, tileAtPos, hk, hp, at']
    omega

/-! ## The picker -/

/-- What is chosen is one of the candidates, and none of them ranks above it. -/
theorem bestCand_spec {l : List Cand} {c : Cand} (h : bestCand l = some c) : c ∈ l ∧ ∀ d ∈ l, d.key ≤ c.key := by
  induction l generalizing c with
  | nil => cases h
  | cons a l ih =>
    unfold bestCand at h
    cases hl : bestCand l with
    | none =>
      rw [hl] at h
      obtain rfl := Option.some.inj h
      have : l = [] := by
        cases l with
        | nil => rfl
        | cons b l =>
          unfold bestCand at hl
          split at hl
          · cases hl
          · split at hl <;> cases hl
      subst this
      simp
    | some b =>
      obtain ⟨hb, hmax⟩ := ih hl
      rw [hl] at h
      dsimp only at h
      split at h
      case isTrue hk =>
        obtain rfl := Option.some.inj h
        refine ⟨List.mem_cons_self, fun d hd => ?_⟩
        rcases List.mem_cons.1 hd with rfl | hd
        · exact le_rfl
        · exact (hmax d hd).trans hk
      case isFalse hk =>
        obtain rfl := Option.some.inj h
        refine ⟨List.mem_cons_of_mem _ hb, fun d hd => ?_⟩
        rcases List.mem_cons.1 hd with rfl | hd
        · omega
        · exact hmax d hd

theorem bestCand_isSome {l : List Cand} {c : Cand} (h : c ∈ l) : ∃ d, bestCand l = some d := by
  cases l with
  | nil => cases h
  | cons a l =>
    unfold bestCand
    split
    · exact ⟨_, rfl⟩
    · split <;> exact ⟨_, rfl⟩

/-- The candidate that a rule in slot `n` of context `q` makes. -/
def candOf (s : State) (q : Fin 8) (n : Nat) (r : Rule) : Cand :=
  { top := (s.tile.ctx q).left != 0 && !(s.tile.ctx q).ctl.yielded, pri := r.pri.val, ctx := q, slot := n, rule := r }

theorem mem_slotOrder (c : Ctx) (n : Nat) : n ∈ c.slotOrder ↔ c.cfg.rbase.toNat ≤ n ∧ n ≤ c.cfg.rlast.toNat := by
  unfold Ctx.slotOrder
  simp only [List.mem_append, List.mem_filter, List.mem_map, List.mem_range, decide_eq_true_eq]
  constructor
  · rintro (⟨⟨a, ha, rfl⟩, -⟩ | ⟨⟨a, ha, rfl⟩, -⟩) <;> omega
  · rintro ⟨hb, hl⟩
    have hm : ∃ a, a < c.cfg.rlast.toNat + 1 - c.cfg.rbase.toNat ∧ a + c.cfg.rbase.toNat = n := ⟨n - c.cfg.rbase.toNat, by omega, by omega⟩
    rcases Nat.lt_or_ge n c.cfg.srot.toNat with h | h
    · exact .inr ⟨hm, h⟩
    · exact .inl ⟨hm, h⟩

/-- The candidates of a context. -/
theorem mem_cands {s : State} {q : Fin 8} {d : Cand} : d ∈ s.cands q ↔ (s.tile.ctx q).picks = true
    ∧ ∃ n r, (match (s.tile.ctx q).ctl.first with | some n => [n.toNat] | none => (s.tile.ctx q).slotOrder).contains n = true
      ∧ slotRule (mget 0 s.tile.store n) = some r ∧ s.eligible r q n = true ∧ d = candOf s q n r := by
  unfold State.cands
  dsimp only
  split
  case isFalse hp => simp [hp]
  case isTrue hp =>
    simp only [hp, List.mem_filterMap, true_and, List.contains_iff_mem]
    refine exists_congr fun n => ?_
    constructor
    · rintro ⟨hn, h⟩
      split at h
      · rename_i r hr
        split at h
        · exact ⟨r, hn, hr, ‹_›, (Option.some.inj h).symm⟩
        · cases h
      · cases h
    · rintro ⟨r, hn, hr, he, rfl⟩
      refine ⟨hn, ?_⟩
      rw [hr]
      dsimp only
      rw [if_pos he]
      rfl

theorem mem_ctxOrder (t : Tile) (q : Fin 8) : q ∈ t.ctxOrder := by
  unfold Tile.ctxOrder
  refine List.mem_map.2 ⟨(q.val + 8 - t.r.crot.toNat) % 8, List.mem_range.2 (Nat.mod_lt _ (by decide)), Fin.ext ?_⟩
  have hc := t.r.crot.isLt
  have hq := q.isLt
  show (t.r.crot.toNat + (q.val + 8 - t.r.crot.toNat) % 8) % 8 = q.val
  omega

theorem slotRule_valid {x : SlotWord} {r : Rule} (h : slotRule x = some r) : x.getLsbD 127 = true := by
  by_contra hv
  unfold slotRule decodeSlot at h
  rw [if_pos (by rw [fld_top, Bool.eq_false_iff.2 hv]; rfl)] at h
  unfold Chk.req at h
  split at h
  · rename_i hr
    split at hr <;> cases hr
    cases h
  · cases h

/-- Settles O38: what the picker chooses is a candidate of its context, the best of each context's best. -/
theorem pickerChoosesEligibleRule : Obligations.PickerChoosesEligibleRule := by
  intro s c h
  obtain ⟨hc, hmax⟩ := bestCand_spec h
  obtain ⟨q, -, hq⟩ := List.mem_filterMap.1 hc
  obtain ⟨hp, n, r, hn, hr, he, rfl⟩ := mem_cands.1 (bestCand_spec hq).1
  refine ⟨?_, hr, slotRule_valid hr, fun hf => ?_, he, fun q' n' r' hp' hf' hb hl hr' he' => ?_⟩
  · have := hp
    unfold Ctx.picks at this
    rw [Bool.and_eq_true, Bool.and_eq_true] at this
    exact beq_iff_eq.1 this.1.1
  · rw [show (s.tile.ctx q).ctl.first = none from hf] at hn
    exact (mem_slotOrder _ _).1 (List.contains_iff_mem.1 hn)
  · have hm : candOf s q' n' r' ∈ s.cands q' := mem_cands.2 ⟨hp', n', r', by rw [hf']; exact List.contains_iff_mem.2 ((mem_slotOrder _ _).2 ⟨hb, hl⟩), hr', he', rfl⟩
    obtain ⟨d, hd⟩ := bestCand_isSome hm
    exact ((bestCand_spec hd).2 _ hm).trans (hmax d (List.mem_filterMap.2 ⟨q', mem_ctxOrder _ _, hd⟩))

/-! ## Events -/

/-- A step that answers a next state. -/
def Answers (o : Out3) : Prop := ∃ t, o = .next t

/-- Every event answers. -/
theorem exec_event {i : Instr} (h : i.isEvent = true) (s : State) : Answers (exec i s) := by
  cases i
  case' operationWriteback => show Answers (execOperationWriteback s); unfold execOperationWriteback
  case' handoverStep => show Answers (execHandoverStep s); unfold execHandoverStep
  case' contextStop => show Answers (execContextStop s); unfold execContextStop
  case' contextRelease => show Answers (execContextRelease s); unfold execContextRelease
  case' migrateTrap => show Answers (execMigrateTrap s); unfold execMigrateTrap
  case' channelEntryArrival => show Answers (execChannelEntryArrival s); unfold execChannelEntryArrival
  case' creditArrival => show Answers (execCreditArrival s); unfold execCreditArrival
  case' egressTransmit => show Answers (execEgressTransmit s); unfold execEgressTransmit
  case' windowWriteArrival => show Answers (execWindowWriteArrival s); unfold execWindowWriteArrival
  case' windowRefusal => show Answers (execWindowRefusal s); unfold execWindowRefusal
  case' acknowledgementArrival => show Answers (execAcknowledgementArrival s); unfold execAcknowledgementArrival
  case' watchArm => show Answers (execWatchArm s); unfold execWatchArm
  case' watchNotify => show Answers (execWatchNotify s); unfold execWatchNotify
  case' sleepTimerExpiry => show Answers (execSleepTimerExpiry s); unfold execSleepTimerExpiry
  case' drawRefill => show Answers (execDrawRefill s); unfold execDrawRefill
  case' overrun => show Answers (execOverrun s); unfold execOverrun
  case' ruleStoreScrub => show Answers (execRuleStoreScrub s); unfold execRuleStoreScrub
  case' tcmScrub => show Answers (execTcmScrub s); unfold execTcmScrub
  case' cspScrub => show Answers (execCspScrub s); unfold execCspScrub
  case' ruleImageLoad => show Answers (execRuleImageLoad s); unfold execRuleImageLoad
  case' streamElement => show Answers (execStreamElement s); unfold execStreamElement
  case' gbarRelease => show Answers (execGbarRelease s); unfold execGbarRelease
  case' copyChunk => show Answers (execCopyChunk s); unfold execCopyChunk
  case' copyComplete => show Answers (execCopyComplete s); unfold execCopyComplete
  case' orderTokenComplete => show Answers (execOrderTokenComplete s); unfold execOrderTokenComplete
  case' matrixOperationStart => show Answers (execMatrixOperationStart s); unfold execMatrixOperationStart
  case' neighbourEntryArrival => show Answers (execNeighbourEntryArrival s); unfold execNeighbourEntryArrival
  case' neighbourRetry => show Answers (execNeighbourRetry s); unfold execNeighbourRetry
  case' bufferRequest => show Answers (execBufferRequest s); unfold execBufferRequest
  case' fullBitChange => show Answers (execFullBitChange s); unfold execFullBitChange
  case' barrierArrival => show Answers (execBarrierArrival s); unfold execBarrierArrival
  case' barrierRelease => show Answers (execBarrierRelease s); unfold execBarrierRelease
  case' mmrPanelArrival => show Answers (execMmrPanelArrival s); unfold execMmrPanelArrival
  case' globalRead => show Answers (execGlobalRead s); unfold execGlobalRead
  case' globalWrite => show Answers (execGlobalWrite s); unfold execGlobalWrite
  case' globalAtomic => show Answers (execGlobalAtomic s); unfold execGlobalAtomic
  case' translationWalk => show Answers (execTranslationWalk s); unfold execTranslationWalk
  case' walkComplete => show Answers (execWalkComplete s); unfold execWalkComplete
  case' mergeEntryClose => show Answers (execMergeEntryClose s); unfold execMergeEntryClose
  case' circuitToken => show Answers (execCircuitToken s); unfold execCircuitToken
  case' flushToken => show Answers (execFlushToken s); unfold execFlushToken
  case' roundMarker => show Answers (execRoundMarker s); unfold execRoundMarker
  case' sweepMarker => show Answers (execSweepMarker s); unfold execSweepMarker
  case' sweepEcho => show Answers (execSweepEcho s); unfold execSweepEcho
  case' linkFlushMarker => show Answers (execLinkFlushMarker s); unfold execLinkFlushMarker
  case' linkFlushEcho => show Answers (execLinkFlushEcho s); unfold execLinkFlushEcho
  case' linkRetirementNotice => show Answers (execLinkRetirementNotice s); unfold execLinkRetirementNotice
  case' decrementArrival => show Answers (execDecrementArrival s); unfold execDecrementArrival
  case' taskRequest => show Answers (execTaskRequest s); unfold execTaskRequest
  case' waitingRequestApply => show Answers (execWaitingRequestApply s); unfold execWaitingRequestApply
  case' stagingGateOpen => show Answers (execStagingGateOpen s); unfold execStagingGateOpen
  case' stagingAllowanceExpiry => show Answers (execStagingAllowanceExpiry s); unfold execStagingAllowanceExpiry
  case' cspStagingCopy => show Answers (execCspStagingCopy s); unfold execCspStagingCopy
  case' placementDecision => show Answers (execPlacementDecision s); unfold execPlacementDecision
  case' taskRetirement => show Answers (execTaskRetirement s); unfold execTaskRetirement
  case' instanceCompletion => show Answers (execInstanceCompletion s); unfold execInstanceCompletion
  case' launch => show Answers (execLaunch s); unfold execLaunch
  case' class0Preemption => show Answers (execClass0Preemption s); unfold execClass0Preemption
  case' victimSaveComplete => show Answers (execVictimSaveComplete s); unfold execVictimSaveComplete
  case' migrationDestinationFree => show Answers (execMigrationDestinationFree s); unfold execMigrationDestinationFree
  case' stubOpen => show Answers (execStubOpen s); unfold execStubOpen
  case' stubClose => show Answers (execStubClose s); unfold execStubClose
  case' migrationResume => show Answers (execMigrationResume s); unfold execMigrationResume
  case' pageMove => show Answers (execPageMove s); unfold execPageMove
  case' packageTick => show Answers (execPackageTick s); unfold execPackageTick
  case' switchSave => show Answers (execSwitchSave s); unfold execSwitchSave
  case' saveDeadlineKill => show Answers (execSaveDeadlineKill s); unfold execSaveDeadlineKill
  case' switchIn => show Answers (execSwitchIn s); unfold execSwitchIn
  case' teardown => show Answers (execTeardown s); unfold execTeardown
  case' abortMarker => show Answers (execAbortMarker s); unfold execAbortMarker
  case' vfFunctionLevelReset => show Answers (execVfFunctionLevelReset s); unfold execVfFunctionLevelReset
  case' vfctlEnable => show Answers (execVfctlEnable s); unfold execVfctlEnable
  case' vfctlTeardown => show Answers (execVfctlTeardown s); unfold execVfctlTeardown
  case' configRegisterWrite => show Answers (execConfigRegisterWrite s); unfold execConfigRegisterWrite
  case' launchWrite => show Answers (execLaunchWrite s); unfold execLaunchWrite
  case' completionEntryWrite => show Answers (execCompletionEntryWrite s); unfold execCompletionEntryWrite
  case' cqheadWrite => show Answers (execCqheadWrite s); unfold execCqheadWrite
  case' msixCoalesceTimer => show Answers (execMsixCoalesceTimer s); unfold execMsixCoalesceTimer
  case' hostRead => show Answers (execHostRead s); unfold execHostRead
  case' hostWrite => show Answers (execHostWrite s); unfold execHostWrite
  case' pcapWrite => show Answers (execPcapWrite s); unfold execPcapWrite
  case' coldStart => show Answers (execColdStart s); unfold execColdStart
  case' warmStart => show Answers (execWarmStart s); unfold execWarmStart
  case' startTimeout => show Answers (execStartTimeout s); unfold execStartTimeout
  case' attestationReport => show Answers (execAttestationReport s); unfold execAttestationReport
  case' telemetrySample => show Answers (execTelemetrySample s); unfold execTelemetrySample
  case' thermalSample => show Answers (execThermalSample s); unfold execThermalSample
  case' linkDataFlit => show Answers (execLinkDataFlit s); unfold execLinkDataFlit
  case' controlFlit => show Answers (execControlFlit s); unfold execControlFlit
  case' replayTimeout => show Answers (execReplayTimeout s); unfold execReplayTimeout
  case' linkRetrain => show Answers (execLinkRetrain s); unfold execLinkRetrain
  case' retrainAttemptTimeout => show Answers (execRetrainAttemptTimeout s); unfold execRetrainAttemptTimeout
  case' rtcntDecay => show Answers (execRtcntDecay s); unfold execRtcntDecay
  case' d2dLinkFailure => show Answers (execD2dLinkFailure s); unfold execD2dLinkFailure
  case' podGroupPacket => show Answers (execPodGroupPacket s); unfold execPodGroupPacket
  case' rsendRetry => show Answers (execRsendRetry s); unfold execRsendRetry
  case' apertureWrite => show Answers (execApertureWrite s); unfold execApertureWrite
  case' templateRegistration => show Answers (execTemplateRegistration s); unfold execTemplateRegistration
  case' templateUnregistration => show Answers (execTemplateUnregistration s); unfold execTemplateUnregistration
  case' watchDisarm => show Answers (execWatchDisarm s); unfold execWatchDisarm
  case' pageMoveComplete => show Answers (execPageMoveComplete s); unfold execPageMoveComplete
  case' taskSaveComplete => show Answers (execTaskSaveComplete s); unfold execTaskSaveComplete
  case' taskRestoreComplete => show Answers (execTaskRestoreComplete s); unfold execTaskRestoreComplete
  case' bar0RegisterWrite => show Answers (execBar0RegisterWrite s); unfold execBar0RegisterWrite
  case' linkControlFlitInterval => show Answers (execLinkControlFlitInterval s); unfold execLinkControlFlitInterval
  case' ualinkPortFailure => show Answers (execUalinkPortFailure s); unfold execUalinkPortFailure
  case' d2dLinkRetraining => show Answers (execD2dLinkRetraining s); unfold execD2dLinkRetraining
  all_goals first
    | exact absurd h Bool.false_ne_true
    | repeat' first
        | exact ⟨_, rfl⟩
        | split
        | dsimp only

theorem exec_answers {i : Instr} {s : State} (h : i.isEvent = true ∨ s.opReady i = true) : Answers (exec i s) := by
  by_cases hi : i.isEvent = true
  · exact exec_event hi s
  · obtain ⟨x, hx⟩ := exec_op_next i s (Bool.eq_false_iff.2 hi) (h.resolve_left hi)
    exact ⟨_, hx⟩

theorem ev_isEvent (e : Ev) : e.instr.isEvent = true := by cases e <;> rfl

/-! ## A fire: errors found in entries and CLR leave the conditions of R15 as they are -/

/-- `y` is `x` but for what R15 does not ask of a context: presence and contents of registers and entries. -/
def SameShape (x y : Ctx) : Prop :=
  ∃ r i b, y = { x with regs := r, inb := i, badIn := b } ∧ r.amode = x.regs.amode ∧ ∀ ch : Chan, i[ch].length = (x.inb[ch]).length

namespace SameShape
variable {x y z : Ctx}

theorem refl (x : Ctx) : SameShape x x := ⟨_, _, _, rfl, rfl, fun _ => rfl⟩
theorem symm (h : SameShape x y) : SameShape y x := by
  obtain ⟨r, i, b, rfl, hr, hi⟩ := h
  exact ⟨x.regs, x.inb, x.badIn, rfl, hr.symm, fun ch => (hi ch).symm⟩
theorem trans (h : SameShape x y) (g : SameShape y z) : SameShape x z := by
  obtain ⟨r, i, b, rfl, hr, hi⟩ := h
  obtain ⟨p, j, c, rfl, hp, hj⟩ := g
  exact ⟨p, j, c, rfl, hp.trans hr, fun ch => (hj ch).trans (hi ch)⟩

theorem readIn (x : Ctx) (f : Chan → Word) : SameShape x (x.readIn f) := by
  refine ⟨x.regs, _, x.badIn, rfl, rfl, fun ch => ?_⟩
  refine List.foldlRecOn (motive := fun v : Vector (List Entry) 16 => v[ch].length = (x.inb[ch]).length) x.badIn _ rfl fun v hv b _ => ?_
  by_cases hb : ch = b.1
  · subst hb
    rw [getElem_vector_set_self, List.length_modify, hv]
  · rw [getElem_vector_set_ne _ hb, hv]
theorem seen (x : Ctx) (pl : Word) (f : Chan → Word) : SameShape x (x.seen pl f) := by
  unfold Ctx.seen
  split
  · exact refl x
  · refine (readIn x f).trans ⟨_, _, _, rfl, ?_, fun _ => rfl⟩
    exact (poisonRegs_frame pl x.regs.bad x.regs).2.2.1
theorem badIn (x : Ctx) (b : List (Chan × Nat)) : SameShape x { x with badIn := b } := ⟨_, _, _, rfl, rfl, fun _ => rfl⟩
theorem setFull (x : Ctx) (r : PresReg) (b : Bool) : SameShape x (x.setRegs (x.regs.setFull r b)) := by
  refine ⟨_, _, _, rfl, ?_, fun _ => rfl⟩
  cases r <;> rfl
end SameShape

/-- `t` is `s` with another context in the place of the firing one, of the same shape. -/
def SameReady (s t : State) : Prop := ∃ y, t = s.onTile (fun u => u.setCtx s.fire.ctx y) ∧ SameShape (s.tile.ctx s.fire.ctx) y

theorem SameReady.refl (s : State) : SameReady s s := by
  refine ⟨s.tile.ctx s.fire.ctx, ?_, .refl _⟩
  have h : s.tile.ctxs.set s.fire.ctx (s.tile.ctx s.fire.ctx) = s.tile.ctxs := Vector.set_getElem_self ..
  show s = { s with tile := { s.tile with ctxs := s.tile.ctxs.set s.fire.ctx (s.tile.ctx s.fire.ctx) } }
  rw [h]
theorem SameReady.trans {s t u : State} (h : SameReady s t) (g : SameReady t u) : SameReady s u := by
  obtain ⟨y, rfl, hy⟩ := h
  obtain ⟨z, rfl, hz⟩ := g
  refine ⟨z, ?_, hy.trans ?_⟩
  · have hset : (s.tile.ctxs.set s.fire.ctx y).set s.fire.ctx z = s.tile.ctxs.set s.fire.ctx z := Vector.set_set ..
    show ({ s with tile := { s.tile with ctxs := (s.tile.ctxs.set s.fire.ctx y).set s.fire.ctx z } } : State)
      = { s with tile := { s.tile with ctxs := s.tile.ctxs.set s.fire.ctx z } }
    rw [hset]
  · rwa [State.onTile, Tile.ctx_setCtx_self] at hz

theorem SameReady.find (s : State) (i : Instr) : SameReady s (s.find i) := by
  unfold State.find
  dsimp only
  split
  · refine ⟨_, rfl, (SameShape.badIn _ _).trans ((SameShape.readIn _ _).trans (SameShape.badIn _ _))⟩
  · exact .refl s
theorem SameReady.doClr (s : State) : SameReady s s.doClr := by
  unfold State.doClr
  split
  · exact ⟨_, rfl, SameShape.setFull _ _ _⟩
  · exact .refl s

section shape
variable {s t : State} (h : SameReady s t)
include h

theorem SameReady.fire_eq : t.fire = s.fire := by obtain ⟨y, rfl, -⟩ := h; rfl
theorem SameReady.clock_eq : t.clock = s.clock := by obtain ⟨y, rfl, -⟩ := h; rfl
theorem SameReady.tile_eq : ∃ cs, t.tile = { s.tile with ctxs := cs } := by obtain ⟨y, rfl, -⟩ := h; exact ⟨_, rfl⟩
theorem SameReady.fctx_shape : SameShape s.fctx t.fctx := by
  obtain ⟨y, rfl, hy⟩ := h
  have hself : ((s.onTile fun u => u.setCtx s.fire.ctx y).tile.ctx s.fire.ctx) = y := Tile.ctx_setCtx_self ..
  refine (SameShape.seen _ _ _).symm.trans (hy.trans ?_)
  rw [fctx_eq, show (s.onTile fun u => u.setCtx s.fire.ctx y).fire = s.fire from rfl, hself]
  exact SameShape.seen _ _ _
theorem SameReady.st_eq (d : Fin 8) : (t.tile.ctx d).st = (s.tile.ctx d).st := by
  obtain ⟨y, rfl, r, i, b, rfl, -⟩ := h
  by_cases hd : d = s.fire.ctx
  · rw [hd, State.onTile, Tile.ctx_setCtx_self]
  · rw [State.onTile, Tile.ctx_setCtx_other _ _ hd]
theorem SameReady.egFree_eq (ch : Chan) : t.tile.egFree s.fire.ctx ch = s.tile.egFree s.fire.ctx ch := by
  obtain ⟨y, rfl, r, i, b, rfl, -⟩ := h
  unfold Tile.egFree
  rw [State.onTile, Tile.ctx_setCtx_self]
  rfl
theorem SameReady.amode_eq : t.fctx.regs.amode = s.fctx.regs.amode := by
  obtain ⟨r, i, b, hx, hr, -⟩ := h.fctx_shape
  rw [hx]
  exact hr
theorem SameReady.inb_eq (ch : Chan) : (t.fctx.inb[ch]).length = (s.fctx.inb[ch]).length := by
  obtain ⟨r, i, b, hx, -, hi⟩ := h.fctx_shape
  rw [hx]
  exact hi ch
theorem SameReady.rest_eq : t.fctx.cfg = s.fctx.cfg ∧ t.fctx.eb = s.fctx.eb ∧ t.fctx.watches = s.fctx.watches ∧ t.fctx.task = s.fctx.task
    ∧ t.fctx.ag = s.fctx.ag := by
  obtain ⟨r, i, b, hx, -⟩ := h.fctx_shape
  rw [hx]
  exact ⟨rfl, rfl, rfl, rfl, rfl⟩

theorem SameReady.afterDq (i : Instr) (ch : Chan) : t.afterDq i ch = s.afterDq i ch := by
  unfold State.afterDq
  rw [h.fire_eq, h.inb_eq]
theorem SameReady.ownRoom (i : Instr) (ch : Chan) : t.ownRoom i ch = s.ownRoom i ch := by
  unfold State.ownRoom
  rw [h.fire_eq, h.amode_eq, h.egFree_eq]
theorem SameReady.hoReady (i : Instr) : t.hoReady i = s.hoReady i := by
  obtain ⟨hcfg, heb, -, -, -⟩ := h.rest_eq
  unfold State.hoReady Ctx.succ
  simp only [hcfg, heb, h.fire_eq, h.st_eq, h.egFree_eq, h.afterDq, h.ownRoom]

/-- The conditions 3 to 6 of R15 look at a context's shape only. -/
theorem SameReady.opReady (i : Instr) : t.opReady i = s.opReady i := by
  obtain ⟨-, -, hw, htask, hag⟩ := h.rest_eq
  obtain ⟨cs, htile⟩ := h.tile_eq
  have hegf : ∀ ch, ({ s.tile with ctxs := cs } : Tile).egFree s.fire.ctx ch = s.tile.egFree s.fire.ctx ch := fun ch => by
    rw [← htile]
    exact h.egFree_eq ch
  simp only [State.opReady, State.extraReady, Tile.tokRoom, Tile.taskOf, Ctx.strmOf, Ctx.accOf, h.fire_eq, h.clock_eq, h.hoReady, h.amode_eq, h.inb_eq, hw, htask, hag,
    htile, hegf]
  rfl

end shape

/-- A rule that the picker has chosen completes (R28). -/
theorem exec_atFire {s : State} {c : Cand} (h : s.pick = some c) : ∃ t, exec c.rule.op (s.atFire c) = .next t := by
  obtain ⟨-, -, -, -, he, -⟩ := pickerChoosesEligibleRule s c h
  unfold State.eligible at he
  dsimp only at he
  rw [Bool.and_eq_true, Bool.and_eq_true, Bool.and_eq_true] at he
  obtain ⟨⟨-, hr⟩, -⟩ := he
  refine exec_answers (.inr ?_)
  rw [State.atFire, (SameReady.doClr _).opReady, (SameReady.find _ _).opReady]
  exact hr

/-- Settles O39: the chosen rule's operation is executed and completes. -/
theorem stepRunsDecodedRule : Obligations.StepRunsDecodedRule := by
  refine ⟨fun s c ha hs hp hm => ?_, fun s e l ha => ?_⟩
  · obtain ⟨t, ht⟩ := exec_atFire hp
    refine ⟨(pickerChoosesEligibleRule s c hp).2.1, t, ht, ?_⟩
    unfold step
    rw [ha]
    dsimp only
    rw [hs]
    dsimp only
    rw [hp]
    dsimp only
    unfold State.fireRule
    rw [if_neg (by rw [hm]; exact Bool.false_ne_true), ht]
  · unfold step
    rw [ha]

/-- Settles O40: events answer, a chosen rule completes, and a cycle goes on. -/
theorem stepNeverStops : Obligations.StepNeverStops := by
  intro s
  unfold step
  split
  · exact exec_answers (.inl (ev_isEvent _))
  · split
    · split
      · rename_i c hp
        unfold State.fireRule
        split
        · exact ⟨_, rfl⟩
        · obtain ⟨t, ht⟩ := exec_atFire hp
          rw [ht]
          exact ⟨_, rfl⟩
      · exact ⟨_, rfl⟩
    · exact ⟨_, rfl⟩

end Sys2Proof.Proofs
end

section
/-! PROOFS. Arrivals at a tile, transmissions, window writes and answers (R178, R180, R302, R307, R333, R504). -/

namespace Sys2Proof.Proofs
open Sys2Proof Sys2Proof.Machine

/-! ## Where traffic goes -/

/-- Without migrations no stub stands for a context. -/
theorem stubAt_none {s : State} (h : s.winder.migs = []) (n : Nat) (c : Fin 8) : s.stubAt n c = (n, c) := by
  unfold State.stubAt
  rw [h]
  rfl
theorem follow_none {t : Tile} (h : t.fwd = []) (key k : Nat) (c : Fin 8) : t.follow key k c = c := by
  cases k with
  | zero => rfl
  | succ k =>
    unfold Tile.follow
    rw [h]
    rfl

theorem credit_net (s : State) (n : Nat) (c : Fin 8) (t : BitVec 4) (src : BitVec 32) (k : Nat) : OnlyNet s (s.credit n c t src k) :=
  OnlyNet.credit ..
theorem sendEnts_net (s : State) (c : Fin 8) (ch : Chan) (e : Nat) (es : List Entry) (ans : Option AckTo) : OnlyNet s (s.sendEnts c ch e es ans) := by
  unfold State.sendEnts
  dsimp only
  split
  · exact OnlyNet.atEnd _ _
  · exact OnlyNet.sendPkt ..

/-- The tile in focus after an edit by its number. -/
theorem setTile_cur (s : State) (t : Tile) : s.setTile s.cur t = s.onTile fun _ => t := if_pos rfl

/-! ## Operations of the tile -/

theorem opN_id {t : Tile} {id : Nat} {o : Op} (h : t.opN id = some o) : o.id = id := 
  beq_iff_eq.1 (List.find?_some (p := fun o : Op => o.id == id) h)
theorem find_set_id {o q : Op} {l : List Op} (h : l.find? (fun x => x.id == o.id) = some q) :
    (l.map fun x => if x.id = o.id then o else x).find? (fun x => x.id == o.id) = some o := by
  induction l with
  | nil => cases h
  | cons x l ih =>
    rw [List.map_cons]
    by_cases hx : x.id = o.id
    · rw [if_pos hx]
      exact List.find?_cons_of_pos (beq_self_eq_true _)
    · have hne : ¬ (x.id == o.id) = true := by simpa using hx
      rw [if_neg hx]
      rw [List.find?_cons_of_neg (p := fun x : Op => x.id == o.id) hne] at h ⊢
      exact ih h
/-- An operation that is set anew is found so. -/
theorem opN_setOp {t : Tile} {o q : Op} (h : t.opN o.id = some q) : (t.setOp o).opN o.id = some o := find_set_id h
/-- The fault of an operation stops its context and leaves nothing of it outstanding. -/
theorem failOp_ops (s : State) (o : Op) (i : StopInfo) : ∀ q ∈ (s.failOp o i).tile.ops, q.id ≠ o.id := fun _ hq =>
  bne_iff_ne.1 (List.mem_filter.1 hq).2
theorem failOp_ctx (s : State) (o : Op) (i : StopInfo) : (s.failOp o i).tile.ctx o.ctx = (s.tile.ctx o.ctx).stop i :=
  Tile.ctx_modCtx_self ..

/-- A result that does not set stochastic rounding is not held. -/
theorem retire_plain {s : State} {o : Op} (h : o.setsRs = false) : s.retire { o with act := .plain } = s.onTile fun t => t.finish { o with act := .plain } s.clock := by
  refine retire_free ?_
  unfold State.rsHeld
  rw [show ({ ({ o with act := .plain } : Op) with act := .plain } : Op).setsRs = false from h]
  simp
theorem finish_r (t : Tile) (o : Op) (clk : Nat) : (t.finish o clk).r = t.r := by
  obtain ⟨l, ts, -, h⟩ := finish_eq t o clk
  rw [h]
  rfl

/-! ## Channels -/

theorem arrive_ctx (x : Ctx) (ch : Chan) (es : List Entry) (owed : Bool) :
    (x.arrive ch es owed).inb[ch] = x.inb[ch] ++ es ∧ (x.arrive ch es owed).regs = x.regs
      ∧ ∀ k : Chan, k ≠ ch → (x.arrive ch es owed).inb[k] = x.inb[k] :=
  ⟨getElem_vector_set_self _ _ _, rfl, fun _ hk => getElem_vector_set_ne _ hk⟩

section arrive
variable {s : State} {c : Fin 8} {ch : Chan} {gen : BitVec 2} {h : Hdr} {es : List Entry}
variable (hev : s.ev = .channelEntryArrival s.cur c ch gen h es none) (hh : s.badHdr (dieOf s.cur) h = false)
variable (hm : s.winder.migs = []) (hf : s.tile.fwd = []) (hb : ((s.tile.ctx c).ib[ch]).bv = true) (hr : (s.tile.recent s.clock c).reset = none)
include hev hh hm hf hb hr

theorem arrival_accepted (hg : ((s.tile.ctx c).ib[ch]).gen = gen) (hl : ((s.tile.ctx c).inb[ch]).length + s.tile.takenNow s.clock c ch + es.length ≤ 8) :
    exec .channelEntryArrival s = .next (s.onTile fun t => t.setCtx c ((s.tile.ctx c).arrive ch es true)) := by
  show execChannelEntryArrival s = _
  unfold execChannelEntryArrival
  rw [hev]
  dsimp only
  rw [if_neg (by rw [hh]; exact Bool.false_ne_true)]
  unfold State.arriveEnts
  dsimp only
  rw [tileN_cur, Tile.inbOwner, follow_none hf, stubAt_none hm]
  dsimp only
  rw [tileN_cur, hr, hb, hg, if_neg (by simp), if_neg (by simp), if_neg (by omega), setTile_cur]
  rfl
theorem arrival_stale (hg : ((s.tile.ctx c).ib[ch]).gen ≠ gen) :
    exec .channelEntryArrival s = .next ((s.onTile fun t => t.countDrop es.length).credit s.cur c h.tenant h.src es.length) := by
  show execChannelEntryArrival s = _
  unfold execChannelEntryArrival
  rw [hev]
  dsimp only
  rw [if_neg (by rw [hh]; exact Bool.false_ne_true)]
  unfold State.arriveEnts
  dsimp only
  rw [tileN_cur, Tile.inbOwner, follow_none hf, stubAt_none hm]
  dsimp only
  rw [tileN_cur, hr, hb, if_neg (by simp), if_pos (by rw [bne_iff_ne.2 hg]; rfl), setTile_cur]
  rfl
end arrive

/-! ## Credits -/

/-- Credits counted back in an egress channel. -/
def credited (x : Ctx) (ch : Chan) (k : Nat) : Ctx :=
  if (x.eb[ch]).bv then { x with eb := x.eb.set ch { x.eb[ch] with cred := BitVec.ofNat 4 (min 8 ((x.eb[ch]).cred.toNat + k)) } } else x
theorem credited_cred {x : Ctx} {ch : Chan} (k : Nat) (h : (x.eb[ch]).bv = true) :
    ((credited x ch k).eb[ch]).cred = BitVec.ofNat 4 (min 8 ((x.eb[ch]).cred.toNat + k)) := by
  unfold credited
  rw [if_pos h]
  exact congrArg EBind.cred (getElem_vector_set_self _ _ _)
theorem credit_next {s : State} {c : Fin 8} {ch : Chan} {k : Nat} (hev : s.ev = .creditArrival s.cur c ch k) (hm : s.winder.migs = [])
    (hf : s.tile.fwd = []) : exec .creditArrival s = .next (s.onTile fun t => t.modCtx c fun x => credited x ch k) := by
  show execCreditArrival s = _
  unfold execCreditArrival
  rw [hev]
  dsimp only
  rw [tileN_cur, Tile.egrOwner, follow_none hf, stubAt_none hm]
  exact congrArg _ (modTile_cur_eq _ _)
theorem linkCredit_next {s : State} {dir : Fin 4} {k : Nat} (hev : s.ev = .linkCredit s.cur dir k) :
    exec .creditArrival s = .next (s.onTile fun t => { t with ncred := t.ncred.set dir (t.ncred[dir] + k) }) := by
  show execCreditArrival s = _
  unfold execCreditArrival
  rw [hev]
  exact congrArg _ (modTile_cur_eq _ _)

/-! ## Transmission -/

section egress
variable {s : State} {c : Fin 8} {ch : Chan} {e : Entry} {es : List Entry}
variable (hev : s.ev = .egressTransmit c ch) (hmay : s.egressMay c ch = true)
include hmay

include hev in
theorem transmit_next : exec .egressTransmit s = .next (s.transmit c ch) := by
  show execEgressTransmit s = _
  unfold execEgressTransmit
  rw [hev]
  dsimp only
  rw [if_pos hmay]

variable (hq : (s.tile.ctx c).egr[ch] = e :: es)
include hq

/-- A label that cannot carry the entry stops the context. -/
theorem transmit_badLabel (hb : s.badLabel c ((s.tile.ctx c).eb[ch]).label = true) :
    ((s.transmit c ch).tile.ctx c).ctl.ending = .stop { StopInfo.mk0 0x17#8 0 s.clock with chlab := ((s.tile.ctx c).eb[ch]).label.setWidth 8 } := by
  have hcan : (s.tile.ctx c).canStop = true := by
    unfold State.egressMay at hmay
    dsimp only at hmay
    rw [Bool.and_eq_true, hb] at hmay
    exact hmay.2
  unfold State.transmit
  dsimp only
  rw [hq]
  dsimp only
  rw [if_pos hb, State.onTile, Tile.ctx_modCtx_self]
  unfold Ctx.stop
  unfold Ctx.canStop at hcan
  cases hend : (s.tile.ctx c).ctl.ending with
  | stop i => rw [hend] at hcan; simp at hcan
  | none => rfl
  | done => rfl
  | hand => rfl
  | save => rfl
  | mig => rfl

omit hmay in
/-- The head leaves for one credit; through an entry that is dead it is dropped, counted, and keeps its credit. -/
theorem transmit_sent (hb : s.badLabel c ((s.tile.ctx c).eb[ch]).label = false)
    (hn : (s.tile.dead.contains ((s.tile.ctx c).eb[ch]).label.toNat || rMod (s.tile.route ((s.tile.ctx c).eb[ch]).label) == s.own
      || !s.tile.numberUsed s.tile.nextId) = true) :
    let x := s.tile.ctx c
    let dead := s.tile.dead.contains (x.eb[ch]).label.toNat
    (s.transmit c ch).tile.ctx c = { x with egr := x.egr.set ch es, eb := x.eb.set ch { x.eb[ch] with cred := if dead then (x.eb[ch]).cred else (x.eb[ch]).cred - 1 } }
      ∧ (dead = true → (s.transmit c ch).tile.r.dropcnt = satInc s.tile.r.dropcnt 1) := by
  intro x dead
  have hfar : ¬ ((!dead && rMod (s.tile.route (x.eb[ch]).label) != s.own) && s.tile.numberUsed s.tile.nextId) = true := by
    intro h
    rw [Bool.and_eq_true, Bool.and_eq_true, Bool.not_eq_true', bne_iff_ne] at h
    obtain ⟨⟨hd, hm⟩, hu⟩ := h
    rw [show s.tile.dead.contains ((s.tile.ctx c).eb[ch]).label.toNat = false from hd, hu, beq_false_of_ne hm] at hn
    cases hn
  unfold State.transmit
  dsimp only
  rw [hq]
  dsimp only
  rw [if_neg (by rw [hb]; exact Bool.false_ne_true), if_neg hfar]
  by_cases hd : dead = true
  · rw [if_pos hd, if_neg (by rw [show s.tile.dead.contains ((s.tile.ctx c).eb[ch]).label.toNat = true from hd]; simp)]
    exact ⟨Tile.ctx_setCtx_self .., fun _ => rfl⟩
  · rw [if_neg hd]
    refine ⟨?_, fun h => absurd h hd⟩
    split
    · show (State.sendEnts _ _ _ _ _ _).tile.ctx c = _
      rw [(sendEnts_net _ _ _ _ _ _).tile]
      exact Tile.ctx_setCtx_self ..
    · show (State.sendEnts _ _ _ _ _ _).tile.ctx c = _
      rw [(sendEnts_net _ _ _ _ _ _).tile]
      exact Tile.ctx_setCtx_self ..
end egress

/-! ## Window writes and answers -/

section window
variable {s : State} {w : Fin 4} {h : Hdr} {off : Nat} {bs : List Byte} {who : AckTo}
variable (hev : s.ev = .windowWriteArrival s.cur w h off bs who) (hh : s.badHdr (dieOf s.cur) h = false) (hm : s.winder.migs = [])
include hev hh hm

theorem window_accepted (hok : winOk (reg s.tile.r.win w.val).toNat h.tenant off bs.length = true) :
    exec .windowWriteArrival s = .next ((s.onTile fun t => t.tcmWr ((s.tile.ctx (Fin.ofNat 8 (nfld (reg s.tile.r.win w.val).toNat 1 3))).tbase.toNat
      + nfld (reg s.tile.r.win w.val).toNat 8 12 * 64 + off) bs).fireWatches.answer who none false) := by
  show execWindowWriteArrival s = _
  unfold execWindowWriteArrival
  rw [hev]
  dsimp only
  rw [if_neg (by rw [hh]; exact Bool.false_ne_true), tileN_cur, stubAt_none hm, if_pos hok]
  dsimp only
  rw [tileN_cur, State.spWrite, modTile_cur_eq]
omit hm in
theorem window_refused (hok : winOk (reg s.tile.r.win w.val).toNat h.tenant off bs.length = false) :
    exec .windowWriteArrival s = .next ((s.onTile fun t => { t with r := { t.r with nackcnt := satInc t.r.nackcnt 1 } }).push
      [.windowRefusal who (s.labelOf who) off bs.length]) := by
  show execWindowWriteArrival s = _
  unfold execWindowWriteArrival
  rw [hev]
  dsimp only
  rw [if_neg (by rw [hh]; exact Bool.false_ne_true), tileN_cur, if_neg (by rw [hok]; exact Bool.false_ne_true), modTile_cur_eq]
end window

/-- The negative answer of a window write stops the context that sent it. -/
theorem refusal_next {s : State} {id off n : Nat} {o : Op} {label : BitVec 7} (hev : s.ev = .windowRefusal (.op s.cur id) label off n)
    (ho : s.tile.opN id = some o) : exec .windowRefusal s = .next (s.failOp o { StopInfo.mk0 0x16#8 o.slot.toNat s.clock with
      chlab := label.setWidth 8, loc := BitVec.ofNat 64 off, bytes := BitVec.ofNat 32 n }).wake := by
  show execWindowRefusal s = _
  unfold execWindowRefusal
  rw [hev]
  dsimp only
  rw [focus_cur, ho]

theorem ack_next {s : State} {id : Nat} {o : Op} {m : MemAcc} (hev : s.ev = .acknowledgementArrival (.op s.cur id) none false)
    (ho : s.tile.opN id = some o) (ha : o.act = .mem m) : exec .acknowledgementArrival s = .next (s.retire { o with act := .plain }).wake := by
  show execAcknowledgementArrival s = _
  unfold execAcknowledgementArrival
  rw [hev]
  dsimp only
  rw [focus_cur, ho]
  dsimp only
  unfold State.opAnswer
  rw [ha]

theorem wrRs_twinWr (tw : Option PReg) (b : Bool) : (twinWr tw b).any wrRs = false := by cases tw <;> rfl

section retry
variable {s : State} {id : Nat} {o : Op} {l : BitVec 7} {es : List Entry} {tw : Option PReg} {b : Bool}
variable (hev : s.ev = .rsendRetry s.cur id) (ho : s.tile.opN id = some o) (ha : o.act = .rsend l es tw b) (hmay : s.rsendMay o = true)
variable (hk : rKind (s.tile.route l) = 1) (hr : s.routeFailed o.ctx (s.tile.route l) = false)
include hev ho ha hmay hk hr

theorem rsend_leaves (hd : s.tile.dead.contains l.toNat = false) : exec .rsendRetry s
    = .next ((s.onTile fun t => t.setOp { o with act := .rsend l es tw true }).sendEnts o.ctx 0 (s.tile.route l) es (some (.op s.cur id))) := by
  show execRsendRetry s = _
  unfold execRsendRetry
  rw [hev]
  dsimp only
  rw [focus_cur, ho]
  dsimp only
  rw [ha]
  dsimp only
  rw [if_pos hmay, if_neg (by simp [hk, hr]), if_neg (by rw [hd]; exact Bool.false_ne_true)]
theorem rsend_dropped (hd : s.tile.dead.contains l.toNat = true) : exec .rsendRetry s
    = .next ((s.onTile fun t => t.countDrop es.length).retire { ({ o with wr := twinWr tw true } : Op) with act := .plain }).wake := by
  show execRsendRetry s = _
  unfold execRsendRetry
  rw [hev]
  dsimp only
  rw [focus_cur, ho]
  dsimp only
  rw [ha]
  dsimp only
  rw [if_pos hmay, if_neg (by simp [hk, hr]), if_pos hd]
end retry

/-- A circuit token is delivered. -/
theorem token_next {s : State} {c : Fin 8} {idx : Fin 8} {h : Hdr} (hev : s.ev = .circuitToken s.cur c idx h) (hh : s.badHdr (dieOf s.cur) h = false)
    (hm : s.winder.migs = []) (hst : (s.tile.ctx c).st ≠ .free) (hlt : (s.tile.ctx c).arr[idx] < 65535) :
    exec .circuitToken s = .next (s.onTile fun t => t.modCtx c fun x => { x with arr := x.arr.set idx (x.arr[idx] + 1) }).wake := by
  show execCircuitToken s = _
  unfold execCircuitToken
  rw [hev]
  dsimp only
  rw [if_neg (by rw [hh]; exact Bool.false_ne_true), stubAt_none hm]
  dsimp only
  rw [focus_cur, if_neg]
  rw [beq_false_of_ne hst, Bool.false_or, decide_eq_true_eq]
  omega

/-! ## O50 -/

/-- Settles O50, event by event. -/
theorem trafficEventsComplete : Obligations.TrafficEventsComplete := by
  intro s hm hf
  refine ⟨fun c ch gen h es hev hh hb hr => ⟨fun hg hl => ?_, fun hg => ?_⟩, fun c ch k hev hb => ?_, fun dir k hev => ?_,
    fun c ch e es hev hmay hq => ⟨fun hb hn => ?_, fun hb => ?_⟩, fun w h off bs who hev hh hwf => ⟨fun hok => ?_, fun hok => ?_⟩,
    fun id o label off n hev ho hend => ?_, fun id o m hev ho ha hs => ?_, fun id o l es tw b hev ho ha hmay hk hr => ?_,
    fun c idx h hev hh hst hlt => ?_⟩
  · refine ⟨_, arrival_accepted hev hh hm hf hb hr hg hl, ?_⟩
    rw [State.onTile, Tile.ctx_setCtx_self]
    exact arrive_ctx _ _ _ _
  · have hnet := credit_net (s.onTile fun t => t.countDrop es.length) s.cur c h.tenant h.src es.length
    refine ⟨_, arrival_stale hev hh hm hf hb hr hg, ?_, ?_⟩
    · rw [hnet.tile]; rfl
    · rw [hnet.tile]; rfl
  · refine ⟨_, credit_next hev hm hf, ?_⟩
    rw [State.onTile, Tile.ctx_modCtx_self, credited_cred _ hb]
  · exact ⟨_, linkCredit_next hev, getElem_vector_set_self _ _ _⟩
  · obtain ⟨hx, hdrop⟩ := transmit_sent hq hb hn
    refine ⟨_, transmit_next hev hmay, ?_, ?_, ?_, hdrop⟩
    · rw [hx]; exact getElem_vector_set_self _ _ _
    · rw [hx]
      exact congrArg EBind.cred (getElem_vector_set_self _ _ _)
    · rw [hx]
  · exact ⟨_, transmit_next hev hmay, transmit_badLabel hmay hq hb⟩
  · refine ⟨_, window_accepted hev hh hm hok, fun a => ?_⟩
    show byteAt (State.fireWatches _).tile.tcm a = _
    rw [(WatchFrame.fireWatches _).tcm]
    exact byteAt_writeBytes _ hwf _ _ _
  · exact ⟨_, window_refused hev hh hok, rfl, rfl, rfl⟩
  · obtain rfl := opN_id ho
    refine ⟨_, refusal_next hev ho, failOp_ops _ _ _, ?_⟩
    show ((s.failOp o _).tile.ctx o.ctx).ctl.ending = _
    rw [failOp_ctx]
    exact stop_ending hend _
  · obtain rfl := opN_id ho
    refine ⟨_, ack_next hev ho ha, ?_⟩
    rw [retire_plain hs]
    exact finish_ops _ _ _
  · obtain rfl := opN_id ho
    cases hd : s.tile.dead.contains l.toNat with
    | false =>
      refine ⟨_, rsend_leaves hev ho ha hmay hk hr hd, fun _ => ?_, fun h => absurd h Bool.false_ne_true⟩
      rw [(sendEnts_net _ _ _ _ _ _).tile]
      exact opN_setOp ho
    | true =>
      refine ⟨_, rsend_dropped hev ho ha hmay hk hr hd, fun h => absurd h (by decide), fun _ => ?_⟩
      rw [retire_plain (by unfold Op.setsRs; rw [wrRs_twinWr]; rfl)]
      exact ⟨congrArg _ (finish_r _ _ _), finish_ops _ _ _⟩
  · refine ⟨_, token_next hev hh hm hst hlt, ?_⟩
    show (((s.tile.modCtx c _).ctx c).arr)[idx] = _
    rw [Tile.ctx_modCtx_self]
    exact getElem_vector_set_self _ _ _

end Sys2Proof.Proofs
end

section
/-! PROOFS. What ends a wait: watches, sleeps, draw budgets, bounds, publications and `gbar` (R147, R149 to R151, R169, R235, R331, R357). -/

namespace Sys2Proof.Proofs
open Sys2Proof Sys2Proof.Machine

/-! ## Watches -/

theorem getLsbD_setBit_self {n : Nat} (x : BitVec n) {i : Nat} (h : i < n) : (setBit x i true).getLsbD i = true := by
  unfold setBit
  rw [if_pos rfl, BitVec.getLsbD_or, BitVec.getLsbD_ofNat, Nat.testBit_two_pow_self]
  simp [h]

theorem notify_regs (c : Ctx) (p : PReg) (dst : Option SReg) (v : Word) :
    (c.notify p dst v).p p = true ∧ (dst ≠ none ∨ (c.notify p dst v).regs.s = c.regs.s)
      ∧ ∀ r, dst = some r → (c.notify p dst v).regs.s[r] = { bits := v, full := true, pois := false } := by
  cases dst with
  | none => exact ⟨getLsbD_setBit_self _ p.isLt, .inr rfl, fun _ h => by cases h⟩
  | some d =>
    refine ⟨getLsbD_setBit_self _ p.isLt, .inl (by simp), fun r h => ?_⟩
    obtain rfl := Option.some.inj h
    exact getElem_vector_set_self _ _ _

theorem hear_running {c : Ctx} (hs : c.st = .running) (he : c.ctl.ending = .none) (hf : c.ctl.first = none) (w : Watch) (v : Word) :
    c.hear w v = c.notify w.pred w.f.dst v := by
  unfold Ctx.hear
  dsimp only
  rw [hs, he, hf]
theorem hear_migrating {c : Ctx} (hs : c.st = .migrating) (w : Watch) (v : Word) :
    c.hear w v = c.setCtl { c.ctl with held := c.ctl.held ++ [⟨w, v⟩] } := by
  unfold Ctx.hear
  dsimp only
  rw [hs]

/-- A notification finds its watch. -/
theorem watchNotify_next {s : State} {c : Fin 8} {p : PReg} {dst : Option SReg} {v : Word} {w : Watch} (hev : s.ev = .watchNotify s.cur c p dst v)
    (hw : ((s.tile.recent s.clock c).off.toList ++ (s.tile.ctx c).watches).find?
      (fun w => w.pred == p && w.note.isSome && decide (w.due ≤ s.clock)) = some w) :
    ∃ t, exec .watchNotify s = .next t
      ∧ t.tile.ctx c = ((s.tile.ctx c).disarm p).hear w v := by
  refine ⟨s.modTile s.cur fun t => t.modCtx c fun x =>
      match ((t.recent s.clock c).off.toList ++ x.watches).find? (fun w => w.pred == p && w.note.isSome && decide (w.due ≤ s.clock)) with
      | some w => (x.disarm p).hear w v
      | none => x, ?_, ?_⟩
  · show execWatchNotify s = _
    unfold execWatchNotify
    rw [hev]
    rfl
  · rw [modTile_cur_eq, State.onTile, Tile.ctx_modCtx_self, hw]

/-! ## Words that a watch observes -/

theorem walkGo_onTile (s : State) (f : Tile → Tile) (va : Nat) (l : List Nat) (tab : Nat) : (s.onTile f).walkGo va l tab = s.walkGo va l tab := by
  induction l generalizing tab with
  | nil => rfl
  | cons x l ih =>
    have hw : ∀ a, (s.onTile f).memWord a = s.memWord a := fun _ => rfl
    unfold State.walkGo
    simp only [hw, ih]
theorem leafOf_onTile (s : State) (f : Tile → Tile) (t : BitVec 4) (va : Nat) : (s.onTile f).leafOf t va = s.leafOf t va := by
  unfold State.leafOf
  simp only [show ∀ t, (s.onTile f).vroot t = s.vroot t from fun _ => rfl, walkGo_onTile]

/-- The watches of the context with the one on predicate `p` replaced. -/
def armWatch (p : PReg) (w : Watch) (t : Tile) (c : Fin 8) : Tile :=
  t.modCtx c fun y => { y with watches := y.watches.map fun v => if v.pred = p then w else v }

/-- Arming a watch leaves the word that it observes. -/
theorem watchWord_armed (s : State) (c : Fin 8) (p : PReg) (w : Watch) (b : Bool) :
    (s.onTile fun t => armWatch p { w with sent := b } t c).watchWord s.cur c { w with sent := b } = s.watchWord s.cur c w := by
  have hx : (s.onTile fun t => armWatch p { w with sent := b } t c).tile.ctx c
      = { s.tile.ctx c with watches := (s.tile.ctx c).watches.map fun v => if v.pred = p then { w with sent := b } else v } := Tile.ctx_modCtx_self ..
  have ht : (s.onTile fun t => armWatch p { w with sent := b } t c).tileN s.cur = armWatch p { w with sent := b } s.tile c := if_pos rfl
  unfold State.watchWord
  dsimp only
  rw [tileN_cur, ht, show (armWatch p { w with sent := b } s.tile c).ctx c = _ from hx]
  simp only [leafOf_onTile]
  rfl

/-- A watch that does not hold is armed, and nothing else happens. -/
theorem watchArm_next {s : State} {c : Fin 8} {p : PReg} {w : Watch} {v : Word} (hev : s.ev = .watchArm s.cur c p)
    (hw : (s.tile.ctx c).watches.find? (fun w => w.pred == p && !w.sent && decide (w.due ≤ s.clock)) = some w)
    (hv : s.watchWord s.cur c w = some v) (hs : w.sat v = false) :
    exec .watchArm s = .next (s.onTile fun t => armWatch p { w with sent := true } t c) := by
  show execWatchArm s = _
  unfold execWatchArm
  rw [hev]
  dsimp only
  rw [tileN_cur, hw]
  dsimp only
  rw [hv, modTile_cur_eq]
  refine congrArg Host.Outcome.next ?_
  show (s.onTile fun t => armWatch p { w with sent := true } t c).fireWatch s.cur c { w with sent := true } = _
  unfold State.fireWatch
  split
  · rfl
  · rw [watchWord_armed, hv]
    exact if_neg (by rw [show Watch.sat { w with sent := true } v = false from hs]; exact Bool.false_ne_true)

/-! ## Bounds -/

/-- The context is one of the task, and has come to its end `e` or may still. -/
def Ends (r : TRef) (c : Fin 8) (e : Ending) (t : Tile) : Prop :=
  (t.ctx c).task = some r ∧ (t.ctx c).st = .running ∧ ((t.ctx c).ctl.ending = .none ∨ (t.ctx c).ctl.ending = e)

/-- One context of a task is told to end. -/
def endOne (r : TRef) (e : Ending) (t : Tile) (c : Fin 8) : Tile :=
  if (t.ctx c).task == some r && (t.ctx c).ctl.ending.yields e && (t.ctx c).st.endable e then
    t.modCtx c fun x => x.setCtl { x.ctl with ending := e, asleep := none }
  else t
theorem endTask_eq (t : Tile) (r : TRef) (e : Ending) : t.endTask r e = allCtx.foldl (endOne r e) t := rfl

theorem endOne_ends {r q : TRef} {c d : Fin 8} {e : Ending} {t : Tile} (h : Ends r c e t) : Ends r c e (endOne q e t d) := by
  unfold endOne
  split
  · unfold Ends
    by_cases hd : c = d
    · subst hd
      rw [Tile.ctx_modCtx_self]
      exact ⟨h.1, h.2.1, .inr rfl⟩
    · rw [Tile.ctx_modCtx_other _ _ hd]
      exact h
  · exact h
theorem endOne_ended {q : TRef} {c d : Fin 8} {e : Ending} {t : Tile} (h : (t.ctx c).ctl.ending = e) : ((endOne q e t d).ctx c).ctl.ending = e := by
  unfold endOne
  split
  · by_cases hd : c = d
    · subst hd
      rw [Tile.ctx_modCtx_self]
      rfl
    · rw [Tile.ctx_modCtx_other _ _ hd]
      exact h
  · exact h
theorem endOne_self {r : TRef} {c : Fin 8} {i : StopInfo} {t : Tile} (h : Ends r c (.stop i) t) : ((endOne r (.stop i) t c).ctx c).ctl.ending = .stop i := by
  obtain ⟨ht, hs, he⟩ := h
  rcases he with he | he
  · unfold endOne
    rw [ht, hs, he, if_pos (by simp [Ending.yields, CSt.endable]), Tile.ctx_modCtx_self]
    rfl
  · exact endOne_ended he

/-- What holds, stays, and is brought about by one element of the list, holds after the fold. -/
theorem foldl_reaches {α β : Type} {f : β → α → β} {P Q : β → Prop} (hP : ∀ b a, P b → P (f b a)) (hQ : ∀ b a, Q b → Q (f b a)) {a : α}
    (ha : ∀ b, P b → Q (f b a)) {l : List α} (hl : a ∈ l) {b : β} (hb : P b) : Q (l.foldl f b) := by
  induction l generalizing b with
  | nil => cases hl
  | cons x l ih =>
    rcases List.mem_cons.1 hl with rfl | hl
    · exact List.foldlRecOn (motive := Q) l f (ha _ hb) fun b hb a _ => hQ b a hb
    · exact ih hl (hP _ _ hb)

/-- A task that is told to end ends in each of its running contexts. -/
theorem endTask_ends {r : TRef} {c : Fin 8} {i : StopInfo} {t : Tile} (h : Ends r c (.stop i) t) : ((t.endTask r (.stop i)).ctx c).ctl.ending = .stop i := by
  rw [endTask_eq]
  exact foldl_reaches (P := Ends r c (.stop i)) (Q := fun t => (t.ctx c).ctl.ending = .stop i) (f := endOne r (.stop i))
    (fun _ _ h => endOne_ends h) (fun _ _ h => endOne_ended h) (a := c) (fun _ h => endOne_self h) (l := allCtx) (List.mem_finRange c) h
theorem endTask_keeps {r q : TRef} {c : Fin 8} {e : Ending} {t : Tile} (h : Ends r c e t) : Ends r c e (t.endTask q e) := by
  rw [endTask_eq]
  exact List.foldlRecOn (motive := Ends r c e) allCtx _ h fun _ hb _ _ => endOne_ends hb
theorem endTask_ended {q : TRef} {c : Fin 8} {e : Ending} {t : Tile} (h : (t.ctx c).ctl.ending = e) : ((t.endTask q e).ctx c).ctl.ending = e := by
  rw [endTask_eq]
  exact List.foldlRecOn (motive := fun t : Tile => (t.ctx c).ctl.ending = e) allCtx _ h fun _ hb _ _ => endOne_ended hb

theorem endTasks_end {l : List TRef} {r : TRef} {c : Fin 8} {i : StopInfo} {t : Tile} (hr : r ∈ l) (h : Ends r c (.stop i) t) :
    ((l.foldl (fun t r => t.endTask r (.stop i)) t).ctx c).ctl.ending = .stop i := by
  refine foldl_reaches (P := Ends r c (.stop i)) (Q := fun t => (t.ctx c).ctl.ending = .stop i) ?_ ?_ ?_ hr h
  · intro b a hb
    exact endTask_keeps hb
  · intro b a hb
    exact endTask_ended hb
  · intro b hb
    exact endTask_ends hb

theorem overrun_next {s : State} {d i : Nat} (hev : s.ev = .overrun d i) : exec .overrun s = .next (s.onTile fun t =>
    (t.overruns.filter fun r => r.die == d && r.idx == i).foldl (fun t r => t.endTask r (.stop (StopInfo.mk0 0x20#8 0 s.clock))) t) := by
  show execOverrun s = _
  unfold execOverrun
  rw [hev]

/-! ## Publications -/

theorem otpub_next {s : State} {id n : Nat} {o : Op} (hev : s.ev = .orderTokenComplete id) (ho : s.tile.opN id = some o) (ha : o.act = .otpub n)
    (hs : s.tile.settled o = true) : exec .orderTokenComplete s = .next (s.retire { o with act := .plain }).wake := by
  show execOrderTokenComplete s = _
  unfold execOrderTokenComplete
  rw [hev]
  dsimp only
  rw [ho]
  dsimp only
  rw [ha]
  dsimp only
  rw [if_pos (by unfold State.pubMet; rw [ha]; exact hs)]
theorem gbar_next {s : State} {id : Nat} {o : Op} (hev : s.ev = .gbarRelease id) (ho : s.tile.opN id = some o) (hm : s.gbarMet o = true) :
    exec .gbarRelease s = .next (s.retire { o with act := .plain }) := by
  show execGbarRelease s = _
  unfold execGbarRelease
  rw [hev]
  dsimp only
  rw [ho]
  dsimp only
  rw [if_pos hm]

/-! ## O51 -/

/-- Settles O51, wait by wait. -/
theorem waitEventsComplete : Obligations.WaitEventsComplete := by
  intro s
  refine ⟨fun c p w v hev hw hv hs => ?_, fun c p dst v w hev hw => ⟨fun hr he hf => ?_, fun hm => ?_⟩, fun c p hev => ?_, fun c n hev ha hn => ?_,
    fun hev => ?_, fun r c hev hr ht hs he => ?_, fun id o n hev ho ha hs hrs => ?_, fun id o hev ho hm hrs => ?_⟩
  · refine ⟨_, watchArm_next hev hw hv hs, ?_⟩
    rw [State.onTile, armWatch, Tile.ctx_modCtx_self]
    exact ⟨rfl, rfl⟩
  · obtain ⟨t, ht, hx⟩ := watchNotify_next hev hw
    rw [hear_running (c := (s.tile.ctx c).disarm p) hr he hf] at hx
    obtain ⟨h1, h2, h3⟩ := notify_regs ((s.tile.ctx c).disarm p) w.pred w.f.dst v
    refine ⟨t, ht, ?_, ?_, ?_, ?_, ?_⟩
    · rw [hx]; exact h2
    · rw [hx]; exact h1
    · rw [hx]; rfl
    · rw [hx]; exact h3
    · rw [hx]; rfl
  · obtain ⟨t, ht, hx⟩ := watchNotify_next hev hw
    rw [hear_migrating (c := (s.tile.ctx c).disarm p) hm] at hx
    refine ⟨t, ht, ?_, ?_⟩
    · rw [hx]; rfl
    · rw [hx]; rfl
  · refine ⟨s.onTile fun t => t.modCtx c fun x => x.disarm p, ?_, ?_⟩
    · show execWatchDisarm s = _
      unfold execWatchDisarm
      rw [hev]
      exact congrArg _ (modTile_cur_eq _ _)
    · rw [State.onTile, Tile.ctx_modCtx_self]
      rfl
  · refine ⟨s.onTile fun t => t.modCtx c fun x => x.setCtl { x.ctl with asleep := none }, ?_, ?_⟩
    · show execSleepTimerExpiry s = _
      unfold execSleepTimerExpiry
      rw [hev]
      dsimp only
      rw [if_pos]
      unfold Ctx.sleepOver
      rw [ha]
      exact decide_eq_true hn
    · rw [State.onTile, Tile.ctx_modCtx_self]
      rfl
  · refine ⟨s.onTile fun t => { t with ctxs := t.ctxs.map (Ctx.refill (s.capOf (dieOf s.cur))) }, ?_, fun c hc => ?_⟩
    · show execDrawRefill s = _
      unfold execDrawRefill
      rw [hev]
    · have hx : (s.onTile fun t => { t with ctxs := t.ctxs.map (Ctx.refill (s.capOf (dieOf s.cur))) }).tile.ctx c
          = (s.tile.ctx c).refill (s.capOf (dieOf s.cur)) := Vector.getElem_map ..
      rw [hx, Ctx.refill, if_neg hc]
      exact ⟨rfl, rfl⟩
  · refine ⟨_, overrun_next hev, ?_⟩
    exact endTasks_end (List.mem_filter.2 ⟨hr, by simp⟩) ⟨ht, hs, .inl he⟩
  · obtain rfl := opN_id ho
    refine ⟨_, otpub_next hev ho ha hs, ?_⟩
    rw [retire_plain hrs]
    exact finish_ops _ _ _
  · obtain rfl := opN_id ho
    refine ⟨_, gbar_next hev ho hm, ?_⟩
    rw [retire_plain hrs]
    exact finish_ops _ _ _

end Sys2Proof.Proofs
end

section
/-! PROOFS. Fields of words, and the maps that hold dies, clusters, task records and registers: reading after writing. -/

namespace Sys2Proof.Proofs
open Sys2Proof Sys2Proof.Machine

/-! ## Fields of a word -/

/-- A word with a field replaced: what stands above, the new field, what stands below. -/
theorem putFld_toNat {lo len : Nat} (h : lo + len ≤ 64) (w : Word) (x : Nat) :
    (putFld w lo len x).toNat = 2 ^ lo * (2 ^ len * (w.toNat / 2 ^ lo / 2 ^ len) + x % 2 ^ len) + w.toNat % 2 ^ lo := by
  have hsplit : w.toNat = 2 ^ lo * (2 ^ len * (w.toNat / 2 ^ lo / 2 ^ len) + w.toNat / 2 ^ lo % 2 ^ len) + w.toNat % 2 ^ lo := by
    rw [Nat.div_add_mod, Nat.div_add_mod]
  have hlow : w.toNat % 2 ^ lo < 2 ^ lo := Nat.mod_lt _ (Nat.two_pow_pos _)
  have hx : x % 2 ^ len < 2 ^ len := Nat.mod_lt _ (Nat.two_pow_pos _)
  have hhi : w.toNat / 2 ^ lo / 2 ^ len < 2 ^ (64 - lo - len) := by
    rw [Nat.div_div_eq_div_mul, ← pow_add, Nat.div_lt_iff_lt_mul (Nat.two_pow_pos _), ← pow_add, show 64 - lo - len + (lo + len) = 64 by omega]
    exact w.isLt
  have hbound : 2 ^ lo * (2 ^ len * (w.toNat / 2 ^ lo / 2 ^ len) + x % 2 ^ len) + w.toNat % 2 ^ lo < 2 ^ 64 := by
    have h1 : 2 ^ len * (w.toNat / 2 ^ lo / 2 ^ len) + x % 2 ^ len + 1 ≤ 2 ^ len * 2 ^ (64 - lo - len) := by
      have := Nat.mul_le_mul_left (2 ^ len) (Nat.succ_le_of_lt hhi)
      rw [Nat.mul_succ] at this
      omega
    have h2 := Nat.mul_le_mul_left (2 ^ lo) h1
    rw [← pow_add, ← pow_add, show lo + (len + (64 - lo - len)) = 64 by omega, Nat.mul_succ] at h2
    omega
  unfold putFld nfld
  rw [BitVec.toNat_ofNat]
  refine (congrArg (· % 2 ^ 64) ?_).trans (Nat.mod_eq_of_lt hbound)
  generalize 2 ^ len * (w.toNat / 2 ^ lo / 2 ^ len) = a at *
  generalize w.toNat / 2 ^ lo % 2 ^ len = f at *
  generalize x % 2 ^ len = v at *
  rw [Nat.mul_add] at hsplit ⊢
  rw [Nat.mul_comm f, Nat.mul_comm v]
  omega

/-- The replaced field. -/
theorem nfld_putFld {lo len : Nat} (h : lo + len ≤ 64) (w : Word) (x : Nat) : nfld (putFld w lo len x).toNat lo len = x % 2 ^ len := by
  unfold nfld
  rw [putFld_toNat h, Nat.mul_add_div (Nat.two_pow_pos _), Nat.div_eq_of_lt (Nat.mod_lt _ (Nat.two_pow_pos _)), Nat.add_zero, Nat.mul_add_mod, Nat.mod_mod]

/-- A field below the replaced one. -/
theorem nfld_putFld_below {lo len l n : Nat} (h : lo + len ≤ 64) (hl : l + n ≤ lo) (w : Word) (x : Nat) :
    nfld (putFld w lo len x).toNat l n = nfld w.toNat l n := by
  unfold nfld
  rw [← Nat.mod_mul_right_div_self, ← Nat.mod_mul_right_div_self, ← pow_add]
  refine congrArg (· / 2 ^ l) ?_
  have hd : 2 ^ (l + n) ∣ 2 ^ lo := Nat.pow_dvd_pow 2 hl
  rw [putFld_toNat h, Nat.add_mod, Nat.mod_eq_zero_of_dvd (Dvd.dvd.mul_right hd _), Nat.zero_add, Nat.mod_mod, Nat.mod_mod_of_dvd _ hd]
/-- A field above the replaced one. -/
theorem nfld_putFld_above {lo len l n : Nat} (h : lo + len ≤ l) (hl : l ≤ 64) (w : Word) (x : Nat) :
    nfld (putFld w lo len x).toNat l n = nfld w.toNat l n := by
  unfold nfld
  refine congrArg (· % 2 ^ n) ?_
  rw [show l = lo + len + (l - lo - len) by omega, pow_add, ← Nat.div_div_eq_div_mul, ← Nat.div_div_eq_div_mul, putFld_toNat (by omega), pow_add,
    ← Nat.div_div_eq_div_mul, Nat.mul_add_div (Nat.two_pow_pos _), Nat.div_eq_of_lt (Nat.mod_lt _ (Nat.two_pow_pos _)), Nat.add_zero,
    Nat.mul_add_div (Nat.two_pow_pos _), Nat.div_eq_of_lt (Nat.mod_lt _ (Nat.two_pow_pos _)), Nat.add_zero, ← Nat.div_div_eq_div_mul]

/-! ## Dies, clusters, records -/

theorem die_setDie {s : State} (h : mapWf Die.zero s.dies = true) (d : Nat) (x : Die) : (s.setDie d x).die d = x := mget_mset_self _ _ _ _ _ h
theorem clus_setClus {s : State} (h : mapWf Cluster.zero s.clusters = true) (k : Nat) (x : Cluster) : (s.setClus k x).clus k = x := mget_mset_self _ _ _ _ _ h
theorem clus_modClus {s : State} (h : mapWf Cluster.zero s.clusters = true) (k : Nat) (f : Cluster → Cluster) : (s.modClus k f).clus k = f (s.clus k) :=
  clus_setClus h _ _
theorem reg_setReg {m : AMap Word} (h : mapWf 0 m = true) (a : Nat) (w : Word) : reg (setReg m a w) a = w := mget_mset_self _ _ _ _ _ h

/-- A task record after its edit. -/
theorem trec_modRec {s : State} {d i : Nat} (h : mapWf Die.zero s.dies = true) (hr : mapWf TRec.zero (s.die d).recs = true) (f : TRec → TRec) :
    (s.modRec d i f).trec d i = f (s.trec d i) := by
  unfold State.modRec State.setRec State.modDie State.trec
  rw [die_setDie h]
  exact mget_mset_self _ _ _ _ _ hr

/-- The state of a record that is set to another. -/
theorem st_setSt (r : TRec) (x : RSt) : (r.setSt x).st = x := by
  unfold TRec.setSt TRec.st TRec.f TRec.put
  rw [getElem_vector_set_self, nfld_putFld (by decide)]
  cases x <;> rfl

end Sys2Proof.Proofs
end

section
/-! PROOFS. Contexts that end, handovers, retirement, release and migrations (R19, R33 to R35, R67, R143, R165, R348, R394 to R401). -/

namespace Sys2Proof.Proofs
open Sys2Proof Sys2Proof.Machine

/-! ## Stops -/

/-- Streams that are stopped change streams only. -/
theorem stopStrms_eq (t : Tile) (c : Fin 8) (p : Strm → Bool) : ∃ l, t.stopStrms c p = { t with strm := l } := by
  refine List.foldlRecOn (motive := fun u : Tile => ∃ l, u = { t with strm := l }) _ _ ⟨t.strm, rfl⟩ fun u hu g _ => ?_
  obtain ⟨l, rfl⟩ := hu
  split
  · exact ⟨_, rfl⟩
  · exact ⟨l, rfl⟩
/-- A context that has ended with a code. -/
def stoppedWith (code : BitVec 8) (x : Ctx) : Ctx :=
  { x with st := .stopped, code := code, watches := [], ctl := { x.ctl with ending := .none, mark := false, asleep := none } }
theorem doneCtx_eq (t : Tile) (c : Fin 8) (code : BitVec 8) : ∃ l, t.doneCtx c code = { t.modCtx c (stoppedWith code) with strm := l } := by
  obtain ⟨l, h⟩ := stopStrms_eq (t.modCtx c (stoppedWith code)) c fun g => !g.isWr || (((t.modCtx c (stoppedWith code)).ctx c).egr[g.chan]).isEmpty
  unfold Tile.doneCtx
  exact ⟨l, h⟩
theorem doneCtx_self (t : Tile) (c : Fin 8) (code : BitVec 8) : (t.doneCtx c code).ctx c = stoppedWith code (t.ctx c) := by
  obtain ⟨l, h⟩ := doneCtx_eq t c code
  rw [h]
  show (t.modCtx c (stoppedWith code)).ctx c = _
  exact Tile.ctx_modCtx_self ..
theorem doneCtx_other (t : Tile) {c d : Fin 8} (hd : d ≠ c) (code : BitVec 8) : (t.doneCtx c code).ctx d = t.ctx d := by
  obtain ⟨l, h⟩ := doneCtx_eq t c code
  rw [h]
  show (t.modCtx c (stoppedWith code)).ctx d = _
  exact Tile.ctx_modCtx_other _ _ hd
theorem standCtx_st (t : Tile) (c : Fin 8) (st : CSt) : ((t.standCtx c st).ctx c).st = st := by
  unfold Tile.standCtx
  rw [Tile.ctx_modCtx_self]
/-- A context that has faulted. -/
def faultedFrom (x : Ctx) : Ctx :=
  { x with st := .faulted, watches := [], ctl := { x.ctl with ending := .none, mark := false, asleep := none, trapped := false } }
theorem faultCtx_eq (t : Tile) (c : Fin 8) :
    ∃ l, t.faultCtx c = { t.modCtx c faultedFrom with strm := l, ops := t.ops.filter fun o => o.ctx != c || o.act.isTok } := by
  obtain ⟨l, h⟩ := stopStrms_eq (t.modCtx c faultedFrom) c fun _ => true
  refine ⟨l, ?_⟩
  show { (t.modCtx c faultedFrom).stopStrms c (fun _ => true) with
    ops := ((t.modCtx c faultedFrom).stopStrms c fun _ => true).ops.filter fun o => o.ctx != c || o.act.isTok } = _
  rw [h]
  rfl
/-- A faulted context keeps nothing outstanding but tokens. -/
theorem faultCtx_spec (t : Tile) (c : Fin 8) : ((t.faultCtx c).ctx c).st = .faulted ∧ ∀ o ∈ (t.faultCtx c).ops, o.ctx = c → o.act.isTok = true := by
  obtain ⟨l, h⟩ := faultCtx_eq t c
  rw [h]
  refine ⟨?_, fun o ho hc => ?_⟩
  · show ((t.modCtx c faultedFrom).ctx c).st = _
    rw [Tile.ctx_modCtx_self]
    rfl
  · have hkept := (List.mem_filter.1 ho).2
    rw [hc, bne_self_eq_false, Bool.false_or] at hkept
    exact hkept

theorem contextStop_next {s : State} {c : Fin 8} (hev : s.ev = .contextStop c) (hm : s.stopMay c = true) : exec .contextStop s = .next (s.stopCtx c) := by
  show execContextStop s = _
  unfold execContextStop
  rw [hev]
  dsimp only
  rw [if_pos hm]

/-! ## Handover -/

section handover
variable {s : State} {c : Fin 8}

theorem handoverStep_next (hev : s.ev = .handoverStep c) (hm : s.handMay c = true) : exec .handoverStep s = .next (s.onTile fun t => t.handStep c) := by
  show execHandoverStep s = _
  unfold execHandoverStep
  rw [hev]
  dsimp only
  rw [if_pos hm]

theorem handStep_succ (t : Tile) (h : (t.ctx c).succ ≠ c) : (t.handStep c).ctx (t.ctx c).succ = (t.ctx c).takeOver (t.ctx (t.ctx c).succ) := by
  unfold Tile.handStep
  rw [doneCtx_other _ h]
  exact Tile.ctx_setCtx_self ..
theorem handStep_self (t : Tile) : ((t.handStep c).ctx c).st = .stopped := by
  unfold Tile.handStep
  rw [doneCtx_self]
  rfl

theorem takeOver_egress (x y : Ctx) {ch : Chan} (h : (x.eb[ch]).bv = true) : (x.takeOver y).egr[ch] = x.egr[ch] ++ [markEntry] ∧ (x.takeOver y).eb[ch] = x.eb[ch] := by
  have hc : x.carriesEg ch = true := by unfold Ctx.carriesEg; rw [h]; rfl
  refine ⟨(Vector.getElem_ofFn ..).trans ?_, (Vector.getElem_ofFn ..).trans ?_⟩
  · show (if x.carriesEg ch then x.egr[ch] ++ (if (x.eb[ch]).bv then [markEntry] else []) else y.egr[ch]) = _
    rw [if_pos hc, if_pos h]
  · show (if x.carriesEg ch then x.eb[ch] else y.eb[ch]) = _
    rw [if_pos hc]
theorem takeOver_inbound (x y : Ctx) {ch : Chan} (hm : x.cfg.hmask.getLsbD ch.val = false) (h : (x.ib[ch]).bv = true) :
    (x.takeOver y).inb[ch] = x.inb[ch] ∧ (x.takeOver y).ib[ch] = x.ib[ch] := by
  have hc : x.carriesIn ch = true := by unfold Ctx.carriesIn; rw [hm, h]; rfl
  refine ⟨(Vector.getElem_ofFn ..).trans ?_, (Vector.getElem_ofFn ..).trans ?_⟩
  · show (if x.carriesIn ch then x.inb[ch] else y.inb[ch]) = _
    rw [if_pos hc]
  · show (if x.carriesIn ch then x.ib[ch] else y.ib[ch]) = _
    rw [if_pos hc]
end handover

/-! ## The migrate trap -/

/-- The context whose rule has trapped fires nothing more. -/
def trapped (c : Fin 8) (slot : BitVec 9) (t : Tile) : Tile := t.modCtx c fun x => match x.ctl.ending with
  | .none => if x.st = .migrating then x else x.setCtl { x.ctl with ending := .mig slot, first := some slot, asleep := none } | _ => x

/-- The migration that a trapped rule asks for. -/
def newMig (s : State) (c : Fin 8) (slot : BitVec 9) (rf : TRef) : Mig where
  die := rf.die
  idx := rf.idx
  src := migSeats (s.trec rf.die rf.idx) rf
  dst := []
  slot := slot.toNat
  ctx := c.val
  stage := 1
  start := s.clock
  bytes := 0
  gates := []

/-- The first trap of a task starts its migration. -/
theorem migTrap_starts {s : State} {c : Fin 8} {slot : BitVec 9} {rf : TRef} (ht : (s.tile.ctx c).task = some rf)
    (hst : (s.trec rf.die rf.idx).st = .running) (hsv : (s.trec rf.die rf.idx).sv = 0) :
    (s.migTrap c slot (some slot)).winder.migs = s.winder.migs ++ [newMig s c slot rf] := by
  have htask : ((s.onTile (trapped c slot)).tile.ctx c).task = some rf := by
    rw [State.onTile, trapped, Tile.ctx_modCtx_self]
    split
    · split
      · exact ht
      · exact ht
    · exact ht
  unfold State.migTrap
  dsimp only
  split
  case h_1 hnone => exact absurd (htask.symm.trans hnone) (by simp)
  case h_2 q hq =>
    obtain rfl := Option.some.inj (htask.symm.trans hq)
    rw [if_neg, if_neg]
    · rfl
    · show ¬ (s.trec rf.die rf.idx).st = .migrating
      rw [hst]
      decide
    · show ¬ ((s.trec rf.die rf.idx).sv ≠ 0 ∨ (s.trec rf.die rf.idx).st ≠ .running ∧ (s.trec rf.die rf.idx).st ≠ .migrating)
      rw [hst, hsv]
      decide

theorem migrateTrap_next {s : State} {c : Fin 8} {slot : BitVec 9} (hev : s.ev = .migrateTrap c slot) : exec .migrateTrap s = .next (s.migTrap c slot (some slot)) := by
  show execMigrateTrap s = _
  unfold execMigrateTrap
  rw [hev]

/-! ## Migration -/

theorem mem_qinsert_of_mem {x : Nat × Ev} {q : List (Nat × Ev)} (h : x ∈ q) (c : Nat) (e : Ev) : x ∈ qinsert c e q := by
  induction q with
  | nil => cases h
  | cons y q ih =>
    unfold qinsert
    split
    · exact List.mem_cons_of_mem _ h
    · rcases List.mem_cons.1 h with rfl | h
      · exact List.mem_cons_self
      · exact List.mem_cons_of_mem _ (ih h)
theorem mem_later {s : State} {x : Nat × Ev} (h : x ∈ s.queue) (n : Nat) (e : Ev) : x ∈ (s.later n e).queue := by
  unfold State.later
  split
  · exact h
  · exact mem_qinsert_of_mem h _ _
theorem later_one (s : State) (e : Ev) : (s.clock + 1, e) ∈ (s.later 1 e).queue := mem_qinsert _ _ _

/-- A stub that opens asks for the resume of its task. -/
theorem openStub_resumes (s : State) (m : Mig) : ∃ c, (c, Ev.migrationResume m.die m.idx) ∈ (s.openStub m).queue := by
  unfold State.openStub
  refine ⟨_, mem_later (List.foldlRecOn (motive := fun t : State => (_, Ev.migrationResume m.die m.idx) ∈ t.queue) _ _ (later_one _ _) fun t ht x _ => ?_) _ _⟩
  exact mem_later ht _ _

theorem flushToken_next {s : State} {n : Nat} {l : BitVec 7} {m : Mig} (hev : s.ev = .flushToken n l)
    (hm : s.winder.migs.find? (fun m => m.stage == 3 && m.gates.contains (n, l.toNat)) = some m) :
    exec .flushToken s = .next (((s.modTile n fun t => t.ungate l.toNat).setMig { m with gates := m.gates.filter fun g => g != (n, l.toNat) }).push
      [.stubClose m.die m.idx]) := by
  show execFlushToken s = _
  unfold execFlushToken
  rw [hev]
  dsimp only
  rw [hm]

theorem destination_next {s : State} (hev : s.ev = .migrationDestinationFree) :
    exec .migrationDestinationFree s = .next ((s.winder.migs.filter fun m => m.stage != 3).foldl (fun s m => s.migStep m) s) := by
  show execMigrationDestinationFree s = _
  unfold execMigrationDestinationFree
  rw [hev]

/-- A migration whose contexts are quiet takes the destination that is found. -/
theorem migStep_reserves {s : State} {m : Mig} {dst : List Seat} (h1 : m.stage = 1) (hst : (s.trec m.die m.idx).st = .migrating) (hq : s.migQuiet m = true)
    (hc : s.sharesClus m = false) (ht : ((s.trec m.die m.idx).twin && (s.migCtxs m).any fun x => x.2.2.st == .faulted) = false)
    (hd : ((migDies (dieOf ((m.src.map (·.tile)).headD 0))).findSome? fun d => s.migSeat m (s.trec m.die m.idx) d) = some dst) :
    s.migStep m = s.reserve m (s.trec m.die m.idx) dst := by
  have ht' : ¬ ((s.trec m.die m.idx).twin = true ∧ ((s.migCtxs m).any fun x => x.2.2.st == .faulted) = true) := by
    rw [← Bool.and_eq_true, ht]
    exact Bool.false_ne_true
  unfold State.migStep
  dsimp only
  rw [if_neg (by omega), if_neg (not_not_intro hst), if_neg ht', if_neg (not_not_intro h1), if_neg (by rw [hq]; decide), if_neg (by rw [hc]; decide), hd]

section stub
variable {s : State} {d i : Nat} {m : Mig}

theorem mig_of_find {k : Nat} (hm : s.winder.migs.find? (fun m => m.die == d && m.idx == i && m.stage == k) = some m) : m.die = d ∧ m.idx = i := by
  have h := List.find?_some hm
  rw [Bool.and_eq_true, Bool.and_eq_true] at h
  exact ⟨beq_iff_eq.1 h.1.1, beq_iff_eq.1 h.1.2⟩

theorem stubOpen_next (hev : s.ev = .stubOpen d i) (hm : s.winder.migs.find? (fun m => m.die == d && m.idx == i && m.stage == 2) = some m)
    (hst : (s.trec d i).st = .migrating) (hc : m.start + 598 + ceilDiv m.bytes 128 ≤ s.clock) (hl : s.dstLoaded m = true) :
    exec .stubOpen s = .next (s.openStub m) := by
  show execStubOpen s = _
  unfold execStubOpen
  rw [hev]
  dsimp only
  rw [hm]
  dsimp only
  rw [if_neg (not_not_intro hst), if_neg (by omega), if_pos hl]

theorem stubClose_next (hev : s.ev = .stubClose d i) (hm : s.winder.migs.find? (fun m => m.die == d && m.idx == i && m.stage == 3) = some m)
    (hg : m.gates = []) : exec .stubClose s = .next (s.closeStub m) := by
  show execStubClose s = _
  unfold execStubClose
  rw [hev]
  dsimp only
  rw [hm]
  dsimp only
  rw [hg]
  rfl
/-- A stub that has closed is no migration any more. -/
theorem closeStub_migs (s : State) (m : Mig) : ∀ x ∈ (s.closeStub m).winder.migs, (x.die == m.die && x.idx == m.idx) = false := fun _ hx =>
  Bool.not_eq_true' _ ▸ (List.mem_filter.1 hx).2

theorem migrationResume_next (hev : s.ev = .migrationResume d i) (hst : (s.trec d i).st = .migrating) (hsv : (s.trec d i).sv = 0)
    (hon : ((s.winder.migs.filter fun m => m.die == d && m.idx == i && m.stage == 3).flatMap (·.dst)) ≠ []) :
    exec .migrationResume s = .next (((((s.winder.migs.filter fun m => m.die == d && m.idx == i && m.stage == 3).flatMap (·.dst)).foldl State.resumeSeat s).hearNow
      ((s.winder.migs.filter fun m => m.die == d && m.idx == i && m.stage == 3).flatMap (·.dst))).modRec d i (fun r => r.setSt .running) |>.bumpWreg 0x400 1) := by
  show execMigrationResume s = _
  unfold execMigrationResume
  rw [hev]
  dsimp only
  rw [if_pos ⟨hst, hsv, by simpa using hon⟩]
end stub

/-! ## Retirement -/

theorem retirement_next {s : State} {d i : Nat} (hev : s.ev = .taskRetirement d i) (hst : (s.trec d i).st = .running) (hsv : (s.trec d i).sv = 0)
    (ha : s.allStopped (s.trec d i) = true) : exec .taskRetirement s
      = .next (s.modRec d i fun k => { (k.setSt .retiring) with code := maxCode ((s.ctxsOfRec (s.trec d i)).map (·.2)) }) := by
  show execTaskRetirement s = _
  unfold execTaskRetirement
  rw [hev]
  dsimp only
  rw [if_pos (by unfold State.retireMay; rw [hst, hsv, ha]; rfl)]
  unfold State.dropSave
  dsimp only
  rw [if_pos hsv]

/-! ## O52 -/

/-- Settles O52, event by event. -/
theorem contextEventsComplete : Obligations.ContextEventsComplete := by
  intro s
  refine ⟨fun c hev hm => ⟨fun code he => ?_, fun he => ?_, fun i he hi => ?_⟩, fun c hev hm hd => ?_, fun c slot rf hev he ht hst hsv => ?_,
    fun d i hev hw hr hst hsv ha => ?_, fun d i hev hm => ?_, fun n l m hev hm => ?_, destination_next, fun m dst hev hl h1 hst hq hc ht hd => ?_,
    fun d i m hev hm hst hc hl => ?_, fun d i m hev hm hg => ?_, fun d i hev hst hsv => migrationResume_next hev hst hsv⟩
  · refine ⟨_, contextStop_next hev hm, ?_⟩
    unfold State.stopCtx
    dsimp only
    rw [he]
    dsimp only
    rw [State.onTile, doneCtx_self]
    exact ⟨rfl, rfl, rfl⟩
  · refine ⟨_, contextStop_next hev hm, ?_⟩
    unfold State.stopCtx
    dsimp only
    rw [he]
    exact standCtx_st _ _ _
  · refine ⟨(s.withdraw s.cur c).onTile fun t => t.faultCtx c, ?_, faultCtx_spec _ _⟩
    rw [contextStop_next hev hm]
    unfold State.stopCtx
    dsimp only
    rw [he]
    dsimp only
    rw [beq_false_of_ne hi]
  · refine ⟨_, handoverStep_next hev hm, ?_, ?_, fun ch hb => ?_, fun ch hh hb => ?_⟩
    · rw [State.onTile, handStep_succ _ hd]
      rfl
    · rw [State.onTile, handStep_self]
    · rw [State.onTile, handStep_succ _ hd]
      exact takeOver_egress (s.tile.ctx c) (s.tile.ctx (s.tile.ctx c).succ) hb
    · rw [State.onTile, handStep_succ _ hd]
      exact takeOver_inbound (s.tile.ctx c) (s.tile.ctx (s.tile.ctx c).succ) hh hb
  · exact ⟨_, newMig s c slot rf, migrateTrap_next hev, migTrap_starts ht hst hsv, rfl, rfl, rfl, rfl⟩
  · refine ⟨_, retirement_next hev hst hsv ha, ?_, ?_⟩
    · rw [trec_modRec hw hr]
      exact st_setSt _ _
    · rw [trec_modRec hw hr]
  · show execContextRelease s = _
    unfold execContextRelease
    rw [hev]
    dsimp only
    rw [if_pos hm]
  · refine ⟨_, flushToken_next hev hm, ?_, fun hn => ?_, ?_⟩
    · show (s.modTile n _).agenda ++ _ = _
      rw [State.modTile_agenda]
    · subst hn
      rw [modTile_cur_eq]
      rfl
    · show (s.modTile n _).winder.migs.map _ = _
      rw [State.modTile_winder]
  · rw [destination_next hev, hl]
    show Host.Outcome.next (((([m] : List Mig).filter fun m => m.stage != 3)).foldl (fun s m => s.migStep m) s) = _
    rw [List.filter_cons_of_pos (by rw [h1]; rfl)]
    exact congrArg _ (migStep_reserves h1 hst hq hc ht hd)
  · obtain ⟨rfl, rfl⟩ := mig_of_find hm
    exact ⟨stubOpen_next hev hm hst hc hl, openStub_resumes s m⟩
  · obtain ⟨rfl, rfl⟩ := mig_of_find hm
    exact ⟨stubClose_next hev hm hg, closeStub_migs s m⟩

end Sys2Proof.Proofs
end

section
/-! PROOFS. The loader, the scrubs, streams, copies and matrix starts (R20, R61, R71, R175, R213, R233, R242, R263). -/

namespace Sys2Proof.Proofs
open Sys2Proof Sys2Proof.Machine

/-! ## Scrubs -/

/-- A context told to stop stands where it stood, and has come to that stop or may still. -/
def Scrubbed (c : Fin 8) (x : Ctx) (e : Ending) (t : Tile) : Prop :=
  (t.ctx c).st = x.st ∧ (t.ctx c).cfg = x.cfg ∧ ((t.ctx c).ctl.ending = .none ∨ (t.ctx c).ctl.ending = e)

/-- The scrub's look at one context. -/
def scrubOne (slot : Nat) (i : StopInfo) (t : Tile) (c : Fin 8) : Tile :=
  if (t.ctx c).st != .free && decide ((t.ctx c).cfg.rbase.toNat ≤ slot ∧ slot ≤ (t.ctx c).cfg.rlast.toNat) then t.modCtx c fun x => x.stop i else t

theorem stop_ending_of {c : Ctx} {i : StopInfo} (h : c.ctl.ending = .none ∨ c.ctl.ending = .stop i) : (c.stop i).ctl.ending = .stop i := by
  rcases h with h | h
  · exact stop_ending h i
  · unfold Ctx.stop
    rw [h]
    exact h

theorem scrubOne_keeps {c d : Fin 8} {x : Ctx} {i : StopInfo} {slot : Nat} {t : Tile} (h : Scrubbed c x (.stop i) t) :
    Scrubbed c x (.stop i) (scrubOne slot i t d) := by
  unfold scrubOne
  split
  · unfold Scrubbed
    by_cases hd : c = d
    · subst hd
      rw [Tile.ctx_modCtx_self]
      exact ⟨(Ctx.stop_st _ _).trans h.1, (Ctx.stop_cfg _ _).trans h.2.1, .inr (stop_ending_of h.2.2)⟩
    · rw [Tile.ctx_modCtx_other _ _ hd]
      exact h
  · exact h
theorem scrubOne_ended {c d : Fin 8} {i : StopInfo} {slot : Nat} {t : Tile} (h : (t.ctx c).ctl.ending = .stop i) :
    ((scrubOne slot i t d).ctx c).ctl.ending = .stop i := by
  unfold scrubOne
  split
  · by_cases hd : c = d
    · subst hd
      rw [Tile.ctx_modCtx_self]
      exact stop_ending_of (.inr h)
    · rw [Tile.ctx_modCtx_other _ _ hd]
      exact h
  · exact h
theorem scrubOne_self {c : Fin 8} {x : Ctx} {i : StopInfo} {slot : Nat} {t : Tile} (hst : x.st ≠ .free) (h1 : x.cfg.rbase.toNat ≤ slot)
    (h2 : slot ≤ x.cfg.rlast.toNat) (h : Scrubbed c x (.stop i) t) : ((scrubOne slot i t c).ctx c).ctl.ending = .stop i := by
  obtain ⟨hs, hc, he⟩ := h
  unfold scrubOne
  rw [hs, hc, if_pos (Bool.and_eq_true_iff.2 ⟨bne_iff_ne.2 hst, decide_eq_true ⟨h1, h2⟩⟩), Tile.ctx_modCtx_self]
  exact stop_ending_of he

theorem scrub_stops {c : Fin 8} {x : Ctx} {i : StopInfo} {slot : Nat} {t : Tile} (hst : x.st ≠ .free) (h1 : x.cfg.rbase.toNat ≤ slot)
    (h2 : slot ≤ x.cfg.rlast.toNat) (h : Scrubbed c x (.stop i) t) : ((allCtx.foldl (scrubOne slot i) t).ctx c).ctl.ending = .stop i :=
  foldl_reaches (P := Scrubbed c x (.stop i)) (Q := fun t => (t.ctx c).ctl.ending = .stop i) (f := scrubOne slot i)
    (fun _ _ h => scrubOne_keeps h) (fun _ _ h => scrubOne_ended h) (a := c) (fun _ h => scrubOne_self hst h1 h2 h) (l := allCtx) (List.mem_finRange c) h

/-- The tile after the scrub of a slot with an uncorrectable word. -/
def scrubbedTile (slot : Nat) (i : StopInfo) (t : Tile) : Tile := allCtx.foldl (scrubOne slot i) { t with badslots := sinsert t.badslots slot }
theorem scrubbedTile_stops {c : Fin 8} {i : StopInfo} {slot : Nat} {t : Tile} (hst : (t.ctx c).st ≠ .free) (h1 : (t.ctx c).cfg.rbase.toNat ≤ slot)
    (h2 : slot ≤ (t.ctx c).cfg.rlast.toNat) (he : (t.ctx c).ctl.ending = .none) : ((scrubbedTile slot i t).ctx c).ctl.ending = .stop i := by
  have h : Scrubbed c (t.ctx c) (.stop i) { t with badslots := sinsert t.badslots slot } := ⟨rfl, rfl, .inl he⟩
  unfold scrubbedTile
  exact scrub_stops hst h1 h2 h

/-- An uncorrectable word in a slot stops the contexts whose range holds it. -/
theorem ruleStoreScrub_stops {s : State} {slot : Fin 512} {c : Fin 8} (hev : s.ev = .ruleStoreScrub slot true)
    (hv : (mget 0 s.tile.store slot.val).getLsbD 127 = true) (hst : (s.tile.ctx c).st ≠ .free) (h1 : (s.tile.ctx c).cfg.rbase.toNat ≤ slot.val)
    (h2 : slot.val ≤ (s.tile.ctx c).cfg.rlast.toNat) (he : (s.tile.ctx c).ctl.ending = .none) :
    ∃ t, exec .ruleStoreScrub s = .next t ∧ (t.tile.ctx c).ctl.ending = .stop (StopInfo.mk0 0x14#8 slot.val s.clock) := by
  refine ⟨s.onTile (scrubbedTile slot.val (StopInfo.mk0 0x14#8 slot.val s.clock)), ?_, ?_⟩
  · show execRuleStoreScrub s = _
    unfold execRuleStoreScrub
    rw [hev]
    dsimp only
    rw [hv]
    rfl
  · rw [State.onTile_tile]
    exact scrubbedTile_stops hst h1 h2 he

theorem tcmScrub_next {s : State} {w : Nat} {bad : Bool} (hev : s.ev = .tcmScrub w bad) : exec .tcmScrub s = .next (s.onTile fun t =>
    if bad then { t with tcmBad := sinsert t.tcmBad w }
    else { t with tcmSoft := sremove t.tcmSoft w, r := { t.r with ecccnt := satInc t.r.ecccnt 1 } }) := by
  show execTcmScrub s = _
  unfold execTcmScrub
  rw [hev]
theorem cspScrub_next {s : State} {k w : Nat} (hev : s.ev = .cspScrub k w true) :
    exec .cspScrub s = .next (s.modClus k fun c => { c with cspBad := sinsert c.cspBad w }) := by
  show execCspScrub s = _
  unfold execCspScrub
  rw [hev]
  rfl

/-! ## The loader -/

/-- Slots placed one behind the other are read back; the others are what they were. -/
theorem mget_foldl_mset {α : Type} [DecidableEq α] {d : α} (l : List α) (i first : Nat) {m : AMap α} (h : mapWf d m = true) (k : Nat) :
    mget d ((l.zipIdx i).foldl (fun m x => mset d m (first + x.2) x.1) m) k
      = if first + i ≤ k ∧ k < first + i + l.length then l.getD (k - (first + i)) d else mget d m k := by
  induction l generalizing i m with
  | nil => exact (if_neg (by simp)).symm
  | cons x l ih =>
    rw [List.zipIdx_cons, List.foldl_cons, ih (i + 1) (mset_wf _ _ _ _ h)]
    by_cases hk : k = first + i
    · subst hk
      rw [if_neg (by omega), if_pos (by simp), mget_mset_self _ _ _ _ _ h, Nat.sub_self]
      rfl
    · rw [mget_mset_other _ _ 0 _ _ _ h hk]
      by_cases hr : first + (i + 1) ≤ k ∧ k < first + (i + 1) + l.length
      · rw [if_pos hr, if_pos (by rw [List.length_cons]; omega), show k - (first + i) = k - (first + (i + 1)) + 1 by omega]
        rfl
      · rw [if_neg hr, if_neg (by rw [List.length_cons]; omega)]

/-- The slots of a range after a load: the image, and zeros behind it. -/
theorem store_putSlots (t : Tile) (h : mapWf 0 t.store = true) (first room : Nat) (b : Bool) (slots : List SlotWord) (k : Nat) :
    mget 0 (t.putSlots first b (slots ++ List.replicate (room - slots.length) 0)).store k
      = if first ≤ k ∧ k < first + max room slots.length then slots.getD (k - first) 0 else mget 0 t.store k := by
  have hlen : (slots ++ List.replicate (room - slots.length) (0 : SlotWord)).length = max room slots.length := by
    rw [List.length_append, List.length_replicate]
    omega
  refine (mget_foldl_mset _ 0 first h k).trans ?_
  rw [hlen, Nat.add_zero]
  by_cases hk : first ≤ k ∧ k < first + max room slots.length
  · rw [if_pos hk, if_pos hk]
    by_cases hs : k - first < slots.length
    · rw [List.getD_append _ _ _ _ hs]
    · rw [List.getD_append_right _ _ _ _ (by omega), List.getD_eq_default slots 0 (by omega), List.getD_eq_getElem?_getD, List.getElem?_replicate]
      split <;> rfl
  · rw [if_neg hk, if_neg hk]

section load
variable {s : State} {c : Fin 8} {first room : Nat} {slots : List SlotWord} {profile : BitVec 2} {priv : Bool} {mh : BitVec 16} {bad : Option Nat}

theorem ruleImageLoad_accepted (hev : s.ev = .ruleImageLoad s.cur c first room slots profile priv mh bad) (hst : (s.tile.ctx c).st = .free)
    (hrec : s.recAt s.cur c = none) (hl : loadRefusal (s.loadEnv s.cur c priv mh profile) (isBisque (dieOf s.cur)) room profile bad slots = none) :
    exec .ruleImageLoad s
      = .next (s.onTile fun t => t.putSlots first (isBisque (dieOf s.cur)) (slots ++ List.replicate (room - slots.length) 0)) := by
  show execRuleImageLoad s = _
  unfold execRuleImageLoad
  rw [hev]
  dsimp only
  rw [tileN_cur, hst, hl, hrec]
  exact congrArg Host.Outcome.next (modTile_cur_eq _ _)
theorem ruleImageLoad_refused (hev : s.ev = .ruleImageLoad s.cur c first room slots profile priv mh bad) (hst : (s.tile.ctx c).st = .free)
    (hrec : s.recAt s.cur c = none) {x : Nat × Nat} (hl : loadRefusal (s.loadEnv s.cur c priv mh profile) (isBisque (dieOf s.cur)) room profile bad slots = some x) :
    exec .ruleImageLoad s
      = .next (s.onTile fun t => t.putSlots first (isBisque (dieOf s.cur)) ([] ++ List.replicate (room - ([] : List SlotWord).length) 0)) := by
  show execRuleImageLoad s = _
  unfold execRuleImageLoad
  rw [hev]
  dsimp only
  rw [tileN_cur, hst, hl, hrec]
  exact congrArg Host.Outcome.next (modTile_cur_eq _ _)
end load

/-! ## Streams -/

/-- What follows an element changes streams and task counts only. -/
theorem strmNext_keeps (s : State) (g : Fin 8) : (s.strmNext g).tile.tcm = s.tile.tcm ∧ ∀ c, (s.strmNext g).tile.ctx c = s.tile.ctx c := by
  have hdone : ∃ ts, ((s.tile.setStrm g s.tile.strm[g].done).tokDone (s.tile.ctx s.tile.strm[g].ctx) s.tile.strm[g].pt s.tile.strm[g].ptk)
      = { s.tile.setStrm g s.tile.strm[g].done with tasks := ts } := tokDone_eq ..
  unfold State.strmNext
  dsimp only
  split
  · obtain ⟨ts, h⟩ := hdone
    rw [show ∀ t : State, t.wake.tile = t.tile from fun _ => rfl, State.onTile_tile]
    rw [h]
    exact ⟨rfl, fun _ => rfl⟩
  · exact ⟨rfl, fun _ => rfl⟩

/-- The entry that an element of a read becomes. -/
def strmEntry (s : State) (g : Fin 8) (p : Nat) : Entry :=
  let x := s.tile.strm[g]
  mkEntry (leNat (readBytes s.tile.tcm p x.eb)) (BitVec.ofNat 2 x.ew) (BitVec.ofNat 8 (if x.next + 1 = x.total then x.fld 81 8 else x.fld 73 8)) false

theorem strmRead_tcm {s : State} {g : Fin 8} {p : Nat} (hsp : s.tile.strm[g].sp = .tcm) (hbad : hitsWord s.tile.tcmBad p s.tile.strm[g].eb = false) :
    s.strmRead g [(p, s.tile.strm[g].eb)] = (s.onTile fun t => if s.tile.strm[g].lose then t.tcmCorr p s.tile.strm[g].eb else
      (t.tcmCorr p s.tile.strm[g].eb).modCtx s.tile.strm[g].ctx fun c => c.arrive s.tile.strm[g].chan [strmEntry s g p] false).strmNext g := by
  have hb : s.segBad .tcm [(p, s.tile.strm[g].eb)] = false := by
    unfold State.segBad State.spBad
    rw [List.any_cons, tileN_cur, hbad]
    rfl
  have hf : s.segFix .tcm [(p, s.tile.strm[g].eb)] = s.onTile fun t => t.tcmCorr p s.tile.strm[g].eb := by
    unfold State.segFix State.spFix
    exact modTile_cur_eq s fun t => t.tcmCorr p _
  have hby : s.segBytes .tcm [(p, s.tile.strm[g].eb)] = readBytes s.tile.tcm p s.tile.strm[g].eb := by
    unfold State.segBytes State.spBytes
    rw [List.flatMap_cons, tileN_cur]
    exact List.append_nil _
  unfold State.strmRead
  dsimp only
  rw [hsp, hb, hf, hby, if_neg Bool.false_ne_true]
  refine congrArg (fun s : State => s.strmNext g) ?_
  unfold State.onTile strmEntry
  dsimp only

theorem strmStep_tcm {s : State} {g : Fin 8} (hwr : s.tile.strm[g].isWr = false) (hsp : s.tile.strm[g].sp = .tcm)
    (hal : s.tile.strm[g].addr s.tile.strm[g].next % ((min s.tile.strm[g].eb 16 : Nat) : Int) = 0)
    (hok : (s.tile.ctx s.tile.strm[g].ctx).tcmOk (s.tile.strm[g].addr s.tile.strm[g].next) s.tile.strm[g].eb = true) :
    s.strmStep g = s.strmRead g [((s.tile.ctx s.tile.strm[g].ctx).tcmPa (s.tile.strm[g].addr s.tile.strm[g].next).toNat, s.tile.strm[g].eb)] := by
  have hr : ∀ k, s.reach (1, g.val) s.tile.strm[g].ctx .tcm (s.tile.strm[g].addr s.tile.strm[g].next) s.tile.strm[g].eb k
      = .ok [((s.tile.ctx s.tile.strm[g].ctx).tcmPa (s.tile.strm[g].addr s.tile.strm[g].next).toNat, s.tile.strm[g].eb)] := fun k => if_pos hok
  unfold State.strmStep
  dsimp only
  rw [if_neg (not_not.2 hal), hsp, hr]
  dsimp only
  rw [if_pos (show Space.tcm ≠ .glb by decide)]
  dsimp only
  rw [hwr, if_neg Bool.false_ne_true]
  rfl

/-- The channel after an element of a read. -/
theorem strmRead_arrives {s : State} {g : Fin 8} {p : Nat} (hsp : s.tile.strm[g].sp = .tcm) (hbad : hitsWord s.tile.tcmBad p s.tile.strm[g].eb = false) :
    (s.strmRead g [(p, s.tile.strm[g].eb)]).tile.tcm = s.tile.tcm
      ∧ ((s.strmRead g [(p, s.tile.strm[g].eb)]).tile.ctx s.tile.strm[g].ctx).inb[s.tile.strm[g].chan]
        = (s.tile.ctx s.tile.strm[g].ctx).inb[s.tile.strm[g].chan] ++ if s.tile.strm[g].lose then [] else [strmEntry s g p] := by
  rw [strmRead_tcm hsp hbad]
  obtain ⟨htcm, hctx⟩ := strmNext_keeps (s.onTile fun t => if s.tile.strm[g].lose then t.tcmCorr p s.tile.strm[g].eb else
    (t.tcmCorr p s.tile.strm[g].eb).modCtx s.tile.strm[g].ctx fun c => c.arrive s.tile.strm[g].chan [strmEntry s g p] false) g
  rw [htcm, hctx, State.onTile_tile]
  cases s.tile.strm[g].lose with
  | true => exact ⟨rfl, (List.append_nil _).symm⟩
  | false =>
    rw [if_neg Bool.false_ne_true, if_neg Bool.false_ne_true, Tile.ctx_modCtx_self]
    exact ⟨rfl, (arrive_ctx _ _ _ _).1⟩

/-! ## Copies -/

theorem goodRuns_whole (d : Int) (i : Nat) (l : List Byte) (hl : l ≠ []) : goodRuns d [] i l = [(i, l)] := by
  induction l generalizing i with
  | nil => exact absurd rfl hl
  | cons b l ih =>
    unfold goodRuns
    rw [if_neg (by simp)]
    cases l with
    | nil => rfl
    | cons b' l =>
      rw [ih (i + 1) (List.cons_ne_nil _ _)]
      exact if_pos rfl
theorem badWords_none (d : Int) (i : Nat) (l : List Bool) (h : l.all (fun b => !b) = true) : badWords d i l = [] := by
  induction l generalizing i with
  | nil => rfl
  | cons b l ih =>
    rw [List.all_cons, Bool.and_eq_true] at h
    cases b
    · exact ih _ h.2
    · cases h.1

/-- After a chunk only the command and the agenda differ. -/
theorem copyNext_kept (s : State) (c : Copy) (n : Nat) : (s.copyNext c n false).tile.tcm = s.tile.tcm ∧ (s.copyNext c n false).mem = s.mem := by
  unfold State.copyNext
  rw [if_neg Bool.false_ne_true]
  dsimp only
  split <;> exact ⟨rfl, rfl⟩

/-- A write to the TCM of the tile in focus. -/
theorem spWrite_tcm (s : State) (q : Nat) (bs : List Byte) :
    (s.spWrite s.cur .tcm q bs).tile.tcm = writeBytes s.tile.tcm q bs ∧ (s.spWrite s.cur .tcm q bs).mem = s.mem := by
  unfold State.spWrite
  dsimp only
  rw [modTile_cur_eq]
  exact ⟨(WatchFrame.fireWatches _).tcm, (WatchFrame.fireWatches _).mem⟩

/-- A chunk from TCM to TCM with a good source. -/
theorem copyStep_tcm {s : State} {c : Copy} {p q : Nat} (hssp : c.f.ssp = .tcm) (hdsp : c.f.dsp = .tcm) (hoff : c.off < c.len)
    (hsrc : s.reach (2, c.id) c.ctx .tcm (c.src c.row c.off) (min 64 (c.len - c.off)) 0 = .ok [(p, min 64 (c.len - c.off))])
    (hdst : s.reach (2, c.id) c.ctx .tcm (c.dst c.row c.off) (min 64 (c.len - c.off)) 1 = .ok [(q, min 64 (c.len - c.off))])
    (hbad : (s.badBytes .tcm [(p, min 64 (c.len - c.off))]).all (fun b => !b) = true) :
    s.copyStep c = ((s.onTile fun t => t.tcmCorr p (min 64 (c.len - c.off))).spWrite s.cur .tcm q
      (readBytes s.tile.tcm p (min 64 (c.len - c.off)))).copyNext c (min 64 (c.len - c.off)) false := by
  have hpos : 0 < min 64 (c.len - c.off) := by omega
  generalize hn : min 64 (c.len - c.off) = n at *
  have hby : s.segBytes .tcm [(p, n)] = readBytes s.tile.tcm p n := by
    unfold State.segBytes State.spBytes
    rw [List.flatMap_cons, tileN_cur]
    exact List.append_nil _
  have hlen : (readBytes s.tile.tcm p n).length = n := readBytes_length _ _ _
  have hne : readBytes s.tile.tcm p n ≠ [] := by
    intro h
    rw [h] at hlen
    exact absurd hlen hpos.ne
  have hf : s.segFix .tcm [(p, n)] = s.onTile fun t => t.tcmCorr p n := by
    unfold State.segFix State.spFix
    exact modTile_cur_eq s fun t => t.tcmCorr p _
  have hdst' : (s.onTile fun t => t.tcmCorr p n).reach (2, c.id) c.ctx .tcm (c.dst c.row c.off) n 1 = .ok [(q, n)] := hdst
  have hwr : (s.onTile fun t => t.tcmCorr p n).segWrite .tcm [(q, n)] (readBytes s.tile.tcm p n)
      = (s.onTile fun t => t.tcmCorr p n).spWrite s.cur .tcm q (readBytes s.tile.tcm p n) := by
    unfold State.segWrite
    rw [List.take_of_length_le hlen.le]
    rfl
  unfold State.copyStep
  dsimp only
  rw [hn, show sspOf c.f.ssp = .tcm by rw [hssp]; rfl, show dspOf c.f.dsp = .tcm by rw [hdsp]; rfl, hsrc]
  dsimp only
  rw [if_pos (show Space.tcm ≠ .glb by decide)]
  dsimp only
  rw [badWords_none _ _ _ hbad, hby, goodRuns_whole _ _ _ hne, hf, if_neg (by rw [hdsp]; decide), hdst]
  dsimp only
  rw [if_pos (show Space.tcm ≠ .glb by decide)]
  dsimp only
  rw [List.foldl_cons, List.foldl_nil, hlen, Int.natCast_zero, Int.add_zero, hdst']
  dsimp only
  rw [hwr]
  rfl

theorem copyChunk_next {s : State} {id : Nat} {c : Copy} (hev : s.ev = .copyChunk id) (hc : s.tile.copyN id = some c) (hmay : s.copyMay c = true)
    (hm : c.moved = false) (hb : s.copyBad c = none) (hr : s.copyNoRoute c = false) : exec .copyChunk s = .next (s.copyStep c) := by
  show execCopyChunk s = _
  unfold execCopyChunk
  rw [hev]
  dsimp only
  rw [hc]
  dsimp only
  rw [hmay, hm, hb, hr, ite_self]
  rfl
theorem copyComplete_next {s : State} {id : Nat} {c : Copy} (hev : s.ev = .copyComplete id) (hc : s.tile.copyN id = some c) (hm : c.moved = true)
    (ho : c.outs = []) : exec .copyComplete s
      = .next (s.onTile fun t => Tile.tokDone (t.dropCopy id) (t.ctx c.ctx) c.f.pt.val c.ptk).wake := by
  show execCopyComplete s = _
  unfold execCopyComplete
  rw [hev]
  dsimp only
  rw [hc]
  dsimp only
  rw [hm, ho]
  rfl

/-! ## O53 -/

theorem streamElement_next {s : State} {g : Fin 8} (hev : s.ev = .streamElement g) (hm : s.strmMay g = true) :
    exec .streamElement s = .next (s.strmStep g) := by
  show execStreamElement s = _
  unfold execStreamElement
  rw [hev]
  dsimp only
  rw [if_pos hm]

/-- Settles O53, engine by engine. -/
theorem engineEventsComplete : Obligations.EngineEventsComplete := by
  intro s
  refine ⟨fun slot c hev hv hst h1 h2 he => ruleStoreScrub_stops hev hv hst h1 h2 he, fun w hev => ⟨_, tcmScrub_next hev, rfl, rfl⟩,
    fun w hev => ⟨_, tcmScrub_next hev, rfl, rfl, rfl⟩, fun k w hev hwf => ⟨_, cspScrub_next hev, ?_, ?_⟩,
    fun c first room slots profile priv mh bad hev hst hrec => ⟨fun hl hwf => ?_, fun x hl hwf => ?_⟩, fun g hev hmay => ?_,
    fun id c p q hev hc hmay hm hb hssp hdsp hoff => ?_, fun id c hev hc hm ho => ?_, fun id o hev ho hm => ?_⟩
  · rw [clus_modClus hwf]
  · rw [clus_modClus hwf]
  · exact ⟨_, ruleImageLoad_accepted hev hst hrec hl, fun k => store_putSlots _ hwf _ _ _ _ _⟩
  · refine ⟨_, ruleImageLoad_refused hev hst hrec hl, fun k => (store_putSlots _ hwf _ _ _ _ _).trans ?_⟩
    rw [List.length_nil, Nat.max_zero]
    rfl
  · intro x hwr hsp hal hok p hbad
    refine ⟨_, streamElement_next hev hmay, ?_⟩
    rw [strmStep_tcm hwr hsp hal hok]
    exact strmRead_arrives hsp hbad
  · intro n hsrc hdst hbad
    refine ⟨_, copyChunk_next hev hc hmay hm hb ?_, ?_⟩
    · unfold State.copyNoRoute
      rw [hdsp]
      rfl
    · rw [copyStep_tcm hssp hdsp hoff hsrc hdst hbad]
      obtain ⟨h1, h2⟩ := copyNext_kept ((s.onTile fun t => t.tcmCorr p n).spWrite s.cur .tcm q (readBytes s.tile.tcm p n)) c n
      obtain ⟨h3, h4⟩ := spWrite_tcm (s.onTile fun t => t.tcmCorr p n) q (readBytes s.tile.tcm p n)
      exact ⟨h1.trans h3, h2.trans h4⟩
  · refine ⟨_, copyComplete_next hev hc hm ho, fun q hq => ?_⟩
    obtain ⟨ts, ht⟩ := tokDone_eq (s.tile.dropCopy id) (s.tile.ctx c.ctx) c.f.pt.val c.ptk
    have hcop : (s.onTile fun t => Tile.tokDone (t.dropCopy id) (t.ctx c.ctx) c.f.pt.val c.ptk).wake.tile.copies = (s.tile.dropCopy id).copies := by
      show ((s.tile.dropCopy id).tokDone (s.tile.ctx c.ctx) c.f.pt.val c.ptk).copies = _
      rw [ht]
    rw [hcop] at hq
    exact bne_iff_ne.1 (List.mem_filter.1 hq).2
  · show execMatrixOperationStart s = _
    unfold execMatrixOperationStart
    rw [hev]
    dsimp only
    rw [ho]
    dsimp only
    rw [if_pos hm]

end Sys2Proof.Proofs
end

section
/-! PROOFS. Neighbour links, buffer controllers and barriers of a cluster (R265, R268, R273, R287, R288). -/

namespace Sys2Proof.Proofs
open Sys2Proof Sys2Proof.Machine

/-! ## Edits of one tile -/

/-- Only tiles differ. -/
def OnlyTiles (s t : State) : Prop := ∃ ti os, t = { s with tile := ti, others := os }

namespace OnlyTiles
variable {s t u : State}
theorem refl (s : State) : OnlyTiles s s := ⟨s.tile, s.others, rfl⟩
theorem trans (h : OnlyTiles s t) (k : OnlyTiles t u) : OnlyTiles s u := by
  obtain ⟨_, _, rfl⟩ := h
  obtain ⟨ti, os, rfl⟩ := k
  exact ⟨ti, os, rfl⟩
theorem modTile (s : State) (n : Nat) (f : Tile → Tile) : OnlyTiles s (s.modTile n f) := by
  unfold State.modTile State.setTile
  split
  · exact ⟨_, s.others, rfl⟩
  · exact ⟨s.tile, _, rfl⟩
theorem foldl {α : Type} {f : State → α → State} (h : ∀ s a, OnlyTiles s (f s a)) (l : List α) (s : State) : OnlyTiles s (l.foldl f s) :=
  List.foldlRecOn (motive := OnlyTiles s) l f (refl s) fun _ hb _ _ => hb.trans (h _ _)
theorem clusters (h : OnlyTiles s t) : t.clusters = s.clusters := by obtain ⟨_, _, rfl⟩ := h; rfl
theorem queue (h : OnlyTiles s t) : t.queue = s.queue := by obtain ⟨_, _, rfl⟩ := h; rfl
theorem clock (h : OnlyTiles s t) : t.clock = s.clock := by obtain ⟨_, _, rfl⟩ := h; rfl
theorem cur (h : OnlyTiles s t) : t.cur = s.cur := by obtain ⟨_, _, rfl⟩ := h; rfl
end OnlyTiles

theorem modTile_other_tile {s : State} {n : Nat} (h : n ≠ s.cur) (f : Tile → Tile) : (s.modTile n f).tile = s.tile := by
  unfold State.modTile State.setTile
  rw [if_neg h]

/-! ## Neighbour links -/

/-- A link of a tile without its first entry: the next one is not placed in this cycle. -/
def nextEntry (clk : Nat) (dir : Fin 4) (l : List NEnt) (t : Tile) : Tile :=
  { t with nlink := t.nlink.set dir (match l with | y :: k => { y with due := max y.due (clk + 1) } :: k | [] => []) }

theorem neighbourEntryArrival_next {s : State} {n : Nat} {dir : Fin 4} {x l} (hev : s.ev = .neighbourEntryArrival n dir) (hn : n ≠ s.cur)
    (hd : neighbour n dir = s.cur) (hl : (s.tileN n).nlink[dir] = x :: l) (hdue : x.due ≤ s.clock) (hp : (s.tileN n).pendingIds x.hold = false) :
    ∃ t, exec .neighbourEntryArrival s = .next t ∧ t.tile.nq[opp dir] = s.tile.nq[opp dir] ++ [x.e] := by
  refine ⟨(s.setTile n (nextEntry s.clock dir l (s.tileN n))).modTile s.cur fun u => { u with nq := u.nq.set (opp dir) (u.nq[opp dir] ++ [x.e]) }, ?_, ?_⟩
  · show execNeighbourEntryArrival s = _
    unfold execNeighbourEntryArrival
    rw [hev]
    dsimp only
    rw [hl]
    dsimp only
    rw [hd, hp, Bool.or_false, if_neg (by rw [decide_eq_true_eq]; omega)]
    rfl
  · unfold State.setTile
    rw [if_neg hn]
    rw [modTile_cur_eq { s with others := _ }]
    exact getElem_vector_set_self _ _ _

theorem neighbourRetry_next {s : State} {dir : Fin 4} {x l} (hev : s.ev = .neighbourRetry s.cur dir) (hl : s.tile.nlink[dir] = x :: l)
    (hf : x.fails < 7) : exec .neighbourRetry s = .next ((s.modClus (clusOf s.cur) fun k => { k with regs := bumpReg k.regs 0xac8 1 }).onTile fun t =>
      { t with nlink := t.nlink.set dir ({ x with due := s.clock + 4, fails := x.fails + 1 } :: l) }) := by
  show execNeighbourRetry s = _
  unfold execNeighbourRetry
  rw [hev]
  dsimp only
  rw [tileN_cur, hl]
  dsimp only
  rw [if_neg (by omega)]
  exact congrArg Host.Outcome.next (setTile_cur _ _)

/-! ## Buffers -/

/-- The request of an operation that has its data is put before the controller. -/
theorem bufferRequest_next {s : State} {id b : Nat} {o : Op} (hev : s.ev = .bufferRequest s.cur id) (ho : s.tile.opN id = some o)
    (ha : (∃ p vec data pa len tw, o.act = .bput p b vec (some data) pa len tw) ∨ ∃ d pa len tw, o.act = .bget d b pa len tw)
    (hst : (s.tile.ctx o.ctx).st = .running) (hm : s.bufMay s.cur o b = true) :
    exec .bufferRequest s = .next ((s.modClus (clusOf s.cur) fun c =>
      { c with wait := insertReq (mget 0 c.last b) ⟨b, s.cur, id, s.clock, false⟩ c.wait }).atEnd (.fullBitChange (clusOf s.cur) (Fin.ofNat 64 b))) := by
  have hread : s.bputRead s.cur o = some s := by
    unfold State.bputRead
    rcases ha with ⟨_, _, _, _, _, _, ha⟩ | ⟨_, _, _, _, ha⟩ <;> rw [ha]
  show execBufferRequest s = _
  unfold execBufferRequest
  rw [hev]
  dsimp only
  rw [tileN_cur, ho]
  dsimp only
  rw [hst]
  rcases ha with ⟨_, _, _, _, _, _, ha⟩ | ⟨_, _, _, _, ha⟩
  all_goals
    rw [ha]
    dsimp only [Act.bufN]
    rw [hm, hread]
    rfl

theorem lookAgain_queue (s : State) (k : Nat) (b : Fin 64) : ∃ q, s.lookAgain k b = { s with queue := q } := by
  unfold State.lookAgain
  split
  · exact ⟨s.queue, rfl⟩
  · exact ⟨_, rfl⟩

section fullBit
variable {s : State} {k : Nat} {b : Fin 64}
theorem fullBitChange_none (hev : s.ev = .fullBitChange k b) (hf : (s.clus k).wait.find? (fun r => r.buf == b.val && s.reqCan k r) = none) :
    exec .fullBitChange s = .next (s.wakeBwaits k b.val) := by
  show execFullBitChange s = _
  unfold execFullBitChange
  rw [hev]
  dsimp only
  rw [hf]
theorem fullBitChange_served {r : BufReq} (hev : s.ev = .fullBitChange k b)
    (hf : (s.clus k).wait.find? (fun r => r.buf == b.val && s.reqCan k r) = some r) (hs : mget 0 (s.clus k).served b.val = s.clock + 1) :
    exec .fullBitChange s = .next (s.lookAgain k b) := by
  show execFullBitChange s = _
  unfold execFullBitChange
  rw [hev]
  dsimp only
  rw [hf]
  dsimp only
  rw [if_pos hs]
/-- The state after the service of a request. -/
def afterServe (s : State) (k : Nat) (b : Fin 64) (r : BufReq) : State :=
  ((s.bufServe k r).wakeBwaits k b.val).modClus k fun c => { c with served := mset 0 c.served b.val (((s.bufServe k r).wakeBwaits k b.val).clock + 1) }
theorem fullBitChange_serves {r : BufReq} (hev : s.ev = .fullBitChange k b)
    (hf : (s.clus k).wait.find? (fun r => r.buf == b.val && s.reqCan k r) = some r) (hs : mget 0 (s.clus k).served b.val ≠ s.clock + 1) :
    ∃ q, exec .fullBitChange s = .next { afterServe s k b r with queue := q } := by
  have hexec : exec .fullBitChange s = .next (if (((afterServe s k b r).clus k).wait.find? fun x => x.buf == b.val && (afterServe s k b r).reqCan k x).isNone
      then afterServe s k b r else (afterServe s k b r).lookAgain k b) := by
    show execFullBitChange s = _
    unfold execFullBitChange
    rw [hev]
    dsimp only
    rw [hf]
    dsimp only
    rw [if_neg hs]
    rfl
  rw [hexec]
  generalize afterServe s k b r = u
  split
  · exact ⟨u.queue, rfl⟩
  · obtain ⟨q, hq⟩ := lookAgain_queue u k b
    exact ⟨q, congrArg Host.Outcome.next hq⟩
end fullBit

/-! ## Barriers -/

/-- The word of a barrier with its count and its phase replaced. -/
def putBar (s : State) (k b a ph : Nat) : State := s.modClus k fun c =>
  { c with regs := setReg c.regs (0xa00 + 8 * b) (putFld (putFld (reg c.regs (0xa00 + 8 * b)) 13 8 a) 21 1 ph) }
theorem count_putBar {s : State} (h : mapWf Cluster.zero s.clusters = true) {k : Nat} (hr : mapWf 0 (s.clus k).regs = true) (b a ph : Nat) :
    nfld (((putBar s k b a ph).clus k).bar b) 13 8 = a % 2 ^ 8 := by
  unfold putBar Cluster.bar
  rw [clus_modClus h]
  dsimp only
  rw [reg_setReg hr, nfld_putFld_below (by decide) (by decide), nfld_putFld (by decide)]

/-- The operation has arrived at the barrier. -/
def arrived (s : State) (o : Op) (d : PReg) (b : Nat) : Op := { o with act := .cbar d b true (nfld ((s.clus (clusOf s.cur)).bar b) 21 1 == 1) }

theorem barrierArrival_next {s : State} {id b : Nat} {o : Op} {d : PReg} {x : Bool} (hev : s.ev = .barrierArrival s.cur id) (ho : s.tile.opN id = some o)
    (ha : o.act = .cbar d b false x) (hm : s.tile.mayArrive o = true) : exec .barrierArrival s
      = .next (if nfld ((s.clus (clusOf s.cur)).bar b) 5 8 ≤ nfld ((s.clus (clusOf s.cur)).bar b) 13 8 + 1 then
          ((putBar (s.onTile fun t => t.setOp (arrived s o d b)) (clusOf s.cur) b 0 (1 - nfld ((s.clus (clusOf s.cur)).bar b) 21 1)).releaseAt
            (clusOf s.cur) b (s.clock + 4)).later 4 (.barrierRelease (clusOf s.cur) (Fin.ofNat 8 b))
        else putBar (s.onTile fun t => t.setOp (arrived s o d b)) (clusOf s.cur) b (nfld ((s.clus (clusOf s.cur)).bar b) 13 8 + 1)
          (nfld ((s.clus (clusOf s.cur)).bar b) 21 1)) := by
  show execBarrierArrival s = _
  unfold execBarrierArrival
  rw [hev]
  dsimp only
  rw [tileN_cur, ho]
  dsimp only
  rw [ha]
  dsimp only
  rw [hm, setTile_cur]
  rfl

theorem releaseAt_tiles (s : State) (k n due : Nat) : OnlyTiles s (s.releaseAt k n due) :=
  OnlyTiles.foldl (fun s p => OnlyTiles.modTile s (tileAtPos k p) _) (List.range 16) s

theorem released_clusters (s : State) (k n due : Nat) (e : Ev) : ((s.releaseAt k n due).later 4 e).clusters = s.clusters :=
  (State.later_clusters ..).trans (releaseAt_tiles s k n due).clusters
theorem released_queue (s : State) (k n due : Nat) (e : Ev) : ((s.releaseAt k n due).later 4 e).queue = qinsert (s.clock + 4) e s.queue := by
  have h := releaseAt_tiles s k n due
  unfold State.later
  rw [if_neg (by decide), h.clock, h.queue]

/-! ## The release of a phase -/

/-- An operation behind `o` learns the entries that `o` has appended. -/
def learn (more : List (Chan × Nat)) (o q : Op) : Op :=
  if q.ctx == o.ctx && decide (o.id < q.id) then { q with ents := more.foldl (fun l x => addEnts l x.1 x.2) q.ents } else q
theorem learn_kept (more : List (Chan × Nat)) (o q : Op) : (learn more o q).id = q.id ∧ (learn more o q).act = q.act ∧ (learn more o q).due = q.due := by
  unfold learn
  split <;> exact ⟨rfl, rfl, rfl⟩
theorem finish_ops_eq (t : Tile) (o : Op) (clk : Nat) :
    (t.finish o clk).ops = (t.ops.filter fun q => q.id != o.id).map (learn ((t.ctx o.ctx).added (o.write clk (t.ctx o.ctx))) o) := by
  obtain ⟨ts, h⟩ := tokDone_eq { t.setCtx o.ctx (o.write clk (t.ctx o.ctx)) with
    ops := (t.ops.filter fun q => q.id != o.id).map (learn ((t.ctx o.ctx).added (o.write clk (t.ctx o.ctx))) o) } (t.ctx o.ctx) o.pt.1 o.pt.2
  exact congrArg Tile.ops h

/-- What finishing an operation leaves outstanding stood there before. -/
theorem mem_finish_ops {t : Tile} {o q : Op} {clk : Nat} (h : q ∈ (t.finish o clk).ops) :
    ∃ p ∈ t.ops, q.id = p.id ∧ q.act = p.act ∧ q.due = p.due := by
  rw [finish_ops_eq] at h
  obtain ⟨p, hp, rfl⟩ := List.mem_map.1 h
  exact ⟨p, (List.mem_filter.1 hp).1, learn_kept ..⟩

/-- An arrival that is due at the barrier. -/
def DueAt (clk b : Nat) (q : Op) : Prop := q.isDue clk = true ∧ ∃ d x, q.act = .cbar d b true x
theorem DueAt.congr {clk b : Nat} {p q : Op} (ha : q.act = p.act) (hd : q.due = p.due) (h : DueAt clk b q) : DueAt clk b p := by
  obtain ⟨h1, d, x, h2⟩ := h
  unfold Op.isDue at h1
  rw [hd] at h1
  exact ⟨h1, d, x, ha ▸ h2⟩

/-- The answer to one arrival of tile `n`. -/
def relOp (b n : Nat) (s : State) (o : Op) : State :=
  match o.act with
  | .cbar _ m true _ => if m = b ∧ o.isDue s.clock then s.modTile n fun t => t.finish { o with act := .plain } s.clock else s
  | _ => s
/-- The answers to the arrivals of a position. -/
def relPos (k b : Nat) (s : State) (p : Nat) : State := (s.tileN (tileAtPos k p)).ops.foldl (relOp b (tileAtPos k p)) s

theorem barrierRelease_next {s : State} {k : Nat} {b : Fin 8} (hev : s.ev = .barrierRelease k b) :
    exec .barrierRelease s = .next ((List.range 16).foldl (relPos k b.val) s) := by
  show execBarrierRelease s = _
  unfold execBarrierRelease
  rw [hev]
  rfl

/-- A step that leaves the number and the clock, and leaves outstanding only what stood there before. -/
def Shrinks (s t : State) : Prop := t.cur = s.cur ∧ t.clock = s.clock ∧ ∀ q ∈ t.tile.ops, ∃ p ∈ s.tile.ops, q.id = p.id ∧ q.act = p.act ∧ q.due = p.due
theorem Shrinks.refl (s : State) : Shrinks s s := ⟨rfl, rfl, fun q hq => ⟨q, hq, rfl, rfl, rfl⟩⟩
theorem Shrinks.trans {s t u : State} (h : Shrinks s t) (k : Shrinks t u) : Shrinks s u := by
  refine ⟨k.1.trans h.1, k.2.1.trans h.2.1, fun q hq => ?_⟩
  obtain ⟨p, hp, h1, h2, h3⟩ := k.2.2 q hq
  obtain ⟨r, hr, g1, g2, g3⟩ := h.2.2 p hp
  exact ⟨r, hr, h1.trans g1, h2.trans g2, h3.trans g3⟩
theorem Shrinks.finish (s : State) (n : Nat) (o : Op) (clk : Nat) : Shrinks s (s.modTile n fun t => t.finish o clk) := by
  by_cases hn : n = s.cur
  · subst hn
    rw [modTile_cur_eq]
    exact ⟨rfl, rfl, fun q hq => mem_finish_ops hq⟩
  · have h := OnlyTiles.modTile s n fun t => t.finish o clk
    refine ⟨h.cur, h.clock, fun q hq => ?_⟩
    rw [modTile_other_tile hn] at hq
    exact ⟨q, hq, rfl, rfl, rfl⟩
theorem relOp_shrinks (b n : Nat) (s : State) (o : Op) : Shrinks s (relOp b n s o) := by
  unfold relOp
  split
  · split
    · exact Shrinks.finish ..
    · exact Shrinks.refl s
  · exact Shrinks.refl s
theorem relPos_shrinks (k b : Nat) (s : State) (p : Nat) : Shrinks s (relPos k b s p) :=
  List.foldlRecOn (motive := Shrinks s) _ _ (Shrinks.refl s) fun _ h _ _ => h.trans (relOp_shrinks ..)

/-- What is not outstanding under a number stays so. -/
theorem Shrinks.gone {s t : State} (h : Shrinks s t) {id : Nat} (hg : ∀ q ∈ s.tile.ops, q.id ≠ id) : ∀ q ∈ t.tile.ops, q.id ≠ id := by
  intro q hq
  obtain ⟨p, hp, h1, -, -⟩ := h.2.2 q hq
  exact h1 ▸ hg p hp
/-- Where no arrival is due, none is afterwards. -/
theorem Shrinks.noDue {s t : State} (h : Shrinks s t) {clk b : Nat} (hn : ∀ q ∈ s.tile.ops, ¬ DueAt clk b q) : ∀ q ∈ t.tile.ops, ¬ DueAt clk b q := by
  intro q hq hd
  obtain ⟨p, hp, -, h2, h3⟩ := h.2.2 q hq
  exact hn p hp (hd.congr h2 h3)

/-- An arrival that is due is answered. -/
theorem relOp_answers {s : State} {b : Nat} {o : Op} (h : DueAt s.clock b o) : ∀ q ∈ (relOp b s.cur s o).tile.ops, q.id ≠ o.id := by
  obtain ⟨hd, d, x, ha⟩ := h
  unfold relOp
  rw [ha]
  dsimp only
  rw [if_pos ⟨rfl, hd⟩, modTile_cur_eq]
  exact finish_ops _ _ _
/-- Every arrival of the tile in focus that is due is answered. -/
theorem relOps_answer {s : State} {b : Nat} : ∀ q ∈ (s.tile.ops.foldl (relOp b s.cur) s).tile.ops, ¬ DueAt s.clock b q := by
  intro q hq hd
  have hs : Shrinks s (s.tile.ops.foldl (relOp b s.cur) s) :=
    List.foldlRecOn (motive := Shrinks s) _ _ (Shrinks.refl s) fun _ h _ _ => h.trans (relOp_shrinks ..)
  obtain ⟨o, ho, hid, ha, hdue⟩ := hs.2.2 q hq
  have hgone := foldl_reaches (P := Shrinks s) (Q := fun t => ∀ q ∈ t.tile.ops, q.id ≠ o.id) (f := relOp b s.cur)
    (fun t a h => h.trans (relOp_shrinks b s.cur t a)) (fun t a h => (relOp_shrinks b s.cur t a).gone h) (a := o)
    (fun t h => by
      have hd' : DueAt t.clock b o := h.2.1 ▸ hd.congr ha hdue
      rw [← h.1]
      exact relOp_answers hd')
    (l := s.tile.ops) ho (Shrinks.refl s)
  exact hgone q hq hid

theorem tileAtPos_clusOf (n : Nat) : tileAtPos (clusOf n) (posOf n) = n := by
  unfold tileAtPos clusOf posOf dieOf tileIn
  omega

/-- After the release no arrival at the barrier is due. -/
theorem release_answers {s : State} {b : Nat} :
    ∀ q ∈ ((List.range 16).foldl (relPos (clusOf s.cur) b) s).tile.ops, ¬ DueAt s.clock b q := by
  have hp : posOf s.cur ∈ List.range 16 := List.mem_range.2 (by unfold posOf; omega)
  refine foldl_reaches (P := Shrinks s) (Q := fun t => ∀ q ∈ t.tile.ops, ¬ DueAt s.clock b q) (f := relPos (clusOf s.cur) b)
    (fun t a h => h.trans (relPos_shrinks (clusOf s.cur) b t a)) (fun t a h => (relPos_shrinks (clusOf s.cur) b t a).noDue h) (a := posOf s.cur)
    (fun t h => ?_) (l := List.range 16) hp (Shrinks.refl s)
  unfold relPos
  rw [tileAtPos_clusOf, ← h.1, ← h.2.1, tileN_cur]
  exact relOps_answer

/-! ## O55 -/

/-- Settles O55, unit by unit. -/
theorem clusterEventsComplete : Obligations.ClusterEventsComplete := by
  intro s hwf
  refine ⟨fun n dir x l hev hn hd hl hdue hp => neighbourEntryArrival_next hev hn hd hl hdue hp, fun dir x l hev hl hf hr => ?_,
    fun id o b hev ho ha hst hm => ?_, fun k b hev => ⟨fun hf => fullBitChange_none hev hf, fun r hf hs => ?_, fun r hf hs => ?_⟩,
    fun id o d b x hev ho ha hm hr hb => ⟨fun hlt => ?_, fun hle => ?_⟩, fun b hev _ => ?_, fun n id hev => ?_⟩
  · refine ⟨_, neighbourRetry_next hev hl hf, ?_, rfl⟩
    rw [show ∀ (s : State) (f : Tile → Tile) (k : Nat), (s.onTile f).clus k = s.clus k from fun _ _ _ => rfl, clus_modClus hwf]
    exact reg_setReg hr _ _
  · refine ⟨_, bufferRequest_next hev ho ha hst hm, ?_, rfl⟩
    rw [show ∀ (s : State) (e : Ev) (k : Nat), (s.atEnd e).clus k = s.clus k from fun _ _ _ => rfl, clus_modClus hwf]
  · exact fullBitChange_serves hev hf hs
  · obtain ⟨q, hq⟩ := lookAgain_queue s k b
    exact ⟨q, (fullBitChange_served hev hf hs).trans (congrArg Host.Outcome.next hq)⟩
  · obtain rfl := opN_id ho
    refine ⟨_, (barrierArrival_next hev ho ha hm).trans (congrArg Host.Outcome.next (if_neg (by omega))), ?_, opN_setOp (o := arrived s o d b) ho⟩
    rw [count_putBar (s := s.onTile _) hwf hr]
    refine Nat.mod_eq_of_lt (Nat.lt_of_lt_of_le hlt (Nat.le_of_lt ?_))
    exact Nat.mod_lt _ (by decide)
  · refine ⟨_, (barrierArrival_next hev ho ha hm).trans (congrArg Host.Outcome.next (if_pos hle)), ?_, ?_⟩
    · exact (congrArg (fun m => nfld ((mget Cluster.zero m (clusOf s.cur)).bar b) 13 8) (released_clusters ..)).trans
        (count_putBar (s := s.onTile fun t => t.setOp (arrived s o d b)) hwf hr b 0 _)
    · exact released_queue ..
  · refine ⟨_, barrierRelease_next hev, fun q hq hd d x ha => ?_⟩
    exact release_answers q hq ⟨hd, d, x, ha⟩
  · show execMmrPanelArrival s = _
    unfold execMmrPanelArrival
    rw [hev]

end Sys2Proof.Proofs
end

section
/-! PROOFS. Accesses at their home, walks, merge entries and page moves (R312 to R318, R336, R337, R362 to R368, R411). -/

namespace Sys2Proof.Proofs
open Sys2Proof Sys2Proof.Machine

/-! ## Bytes and numbers -/

theorem leNat_lt (l : List Byte) : leNat l < 256 ^ l.length := by
  induction l with
  | nil => exact Nat.one_pos
  | cons b l ih =>
    have hb : b.toNat < 256 := b.isLt
    rw [leNat, List.length_cons, pow_succ]
    omega
theorem leBytes_leNat (l : List Byte) : leBytes l.length (leNat l) = l := by
  induction l with
  | nil => rfl
  | cons b l ih =>
    have hb : b.toNat < 256 := b.isLt
    rw [List.length_cons, leBytes, leNat, show (b.toNat + 256 * leNat l) / 256 = leNat l by omega, ih]
    refine congrArg (· :: l) (BitVec.eq_of_toNat_eq ?_)
    rw [BitVec.toNat_ofNat]
    omega
theorem leBytes_mod (n x : Nat) : leBytes n (x % 256 ^ n) = leBytes n x := by
  induction n generalizing x with
  | zero => rfl
  | succ n ih =>
    have hdiv : x % 256 ^ (n + 1) / 256 = x / 256 % 256 ^ n := by rw [pow_succ', Nat.mod_mul_right_div_self]
    have hmod : x % 256 ^ (n + 1) % 2 ^ 8 = x % 2 ^ 8 := Nat.mod_mod_of_dvd _ (dvd_pow_self 256 (Nat.succ_ne_zero n))
    rw [leBytes, leBytes, hdiv, ih]
    refine congrArg (· :: _) (BitVec.eq_of_toNat_eq ?_)
    rw [BitVec.toNat_ofNat, BitVec.toNat_ofNat, hmod]
theorem getD_readBytes (m : Memory) (p n i : Nat) (hi : i < n) : (readBytes m p n).getD i 0 = byteAt m (p + i) := by
  induction n generalizing p i with
  | zero => omega
  | succ n ih =>
    cases i with
    | zero => rfl
    | succ i =>
      rw [readBytes, List.getD_cons_succ, ih (p + 1) i (by omega), show p + 1 + i = p + (i + 1) by omega]

/-! ## Accesses at their home -/

theorem homeDo_mem {s : State} {id : Nat} {o : Op} {m : MemAcc} (hc : s.cur < 1536) (ho : s.tile.opN id = some o) (ha : o.act = .mem m) :
    s.homeDo s.cur id = ((s.perform s.cur o m).1.modTile s.cur fun t => t.setOp (o.performed (s.perform s.cur o m).2)).answer (.op s.cur id) none false := by
  unfold State.homeDo
  rw [if_neg (by omega), tileN_cur, ho]
  dsimp only
  rw [ha]

section glb
variable {s : State} {o : Op} {m : MemAcc} {p : Nat}
theorem segs_one (hpa : m.pa = [p]) : m.segs = [(p, m.size)] := by
  unfold MemAcc.segs
  rw [hpa]
theorem accBytes_glb (hsp : m.sp = .glb) (hpa : m.pa = [p]) (hpart : m.part = []) : s.accBytes s.cur m = readBytes s.mem p m.size := by
  unfold State.accBytes MemAcc.overlay
  rw [hpart, segs_one hpa, hsp]
  exact List.append_nil _
theorem accBad_glb (hsp : m.sp = .glb) (hpa : m.pa = [p]) : s.accBad s.cur m = hitsWord s.hearth.memBad p m.size := by
  unfold State.accBad
  rw [segs_one hpa, hsp]
  exact Bool.or_false _
theorem accFix_glb (hsp : m.sp = .glb) (hpa : m.pa = [p]) : s.accFix s.cur m = s := by
  unfold State.accFix
  rw [segs_one hpa, hsp]
  rfl
theorem accWrite_glb (hsp : m.sp = .glb) (hpa : m.pa = [p]) (hpart : m.part = []) (bs : List Byte) :
    s.accWrite s.cur m bs = (s.memWr p bs).fireWatches := by
  unfold State.accWrite
  rw [segs_one hpa, hpart, hsp]
  rfl
theorem perform_load_glb {z : Sz} {r : SReg} (hsp : m.sp = .glb) (hop : m.op = .ld (.w z (.reg r))) (hpa : m.pa = [p]) (hpart : m.part = [])
    (hsz : m.size = Sz.bytes z) (hbad : hitsWord s.hearth.memBad p (Sz.bytes z) = false) : s.perform s.cur o m
      = (s, { wr := [.s r (wrapTo (Sz.ity z) (leNat (readBytes s.mem p (Sz.bytes z)))) false], pl := none, hard := false,
              rc := some (leNat (readBytes s.mem p (Sz.bytes z)) != 0) }) := by
  unfold State.perform
  rw [hop]
  dsimp only
  rw [accBad_glb hsp hpa, hsz, hbad, accFix_glb hsp hpa, accBytes_glb hsp hpa hpart, hsz]
  rfl
theorem perform_store_glb {bs : List Byte} (hsp : m.sp = .glb) (hop : m.op = .st bs) (hpa : m.pa = [p]) (hpart : m.part = [])
    (ht : (s.tile.ctx o.ctx).ctl.trapped = false) : s.perform s.cur o m = ((s.memWr p bs).fireWatches, MRes.nil) := by
  unfold State.perform
  rw [hop, tileN_cur]
  dsimp only
  rw [Ctx.dead, ht, Bool.false_and, if_neg Bool.false_ne_true, accWrite_glb hsp hpa hpart]
theorem perform_atomic_glb {d : SDst} {op : RmwOp} {x : Word} (hsp : m.sp = .glb) (hop : m.op = .atom d op x) (hpa : m.pa = [p]) (hpart : m.part = [])
    (hsz : m.size = 8) (hbad : hitsWord s.hearth.memBad p 8 = false) (ht : (s.tile.ctx o.ctx).ctl.trapped = false) : s.perform s.cur o m
      = ((s.memWr p (leBytes 8 (RmwOp.new op (BitVec.ofNat 64 (leNat (readBytes s.mem p 8))) x).toNat)).fireWatches,
         { wr := wrS d (clean (BitVec.ofNat 64 (leNat (readBytes s.mem p 8)))), pl := none, hard := false,
           rc := some (BitVec.ofNat 64 (leNat (readBytes s.mem p 8)) != 0) }) := by
  unfold State.perform
  rw [hop, tileN_cur]
  dsimp only
  rw [accBad_glb hsp hpa, hsz, hbad, accFix_glb hsp hpa, accBytes_glb hsp hpa hpart, hsz, Ctx.dead, ht, Bool.false_and, if_neg Bool.false_ne_true,
    if_neg Bool.false_ne_true, accWrite_glb hsp hpa hpart]
end glb

/-! ## Merge entries -/

theorem setMerges_dies (s : State) {k : Nat} (hk : k < 8) (l : List MergeE) : s.setMerges k l = s.modDie k fun d => { d with merge := l } := if_pos hk
theorem merges_setMerges {s : State} (h : mapWf Die.zero s.dies = true) {k : Nat} (hk : k < 8) (l : List MergeE) : (s.setMerges k l).merges k = l := by
  rw [setMerges_dies s hk]
  unfold State.merges State.modDie
  rw [if_pos hk, die_setDie h]

/-- The open entry of a word after its close. -/
def closed (due pa : Nat) (e : MergeE) : MergeE := if e.pa == pa && e.opened? then { e with due := some due } else e
theorem closed_open {due pa : Nat} {e : MergeE} (h : (closed due pa e).pa = pa) : (closed due pa e).opened? = false := by
  unfold closed at h ⊢
  by_cases hc : (e.pa == pa && e.opened?) = true
  · rw [if_pos hc]
    rfl
  · rw [if_neg hc] at h ⊢
    rw [h, beq_self_eq_true, Bool.true_and] at hc
    exact Bool.eq_false_iff.2 hc

theorem hop_pos {s : State} {die pa : Nat} (hd : die < 8) (hv : s.viaHearth die pa = false) : s.hop die pa ≠ 0 := by
  unfold State.hop
  rw [hv, if_neg Bool.false_ne_true, if_pos hd]
  omega
theorem later_queue {s : State} {n : Nat} (hn : n ≠ 0) (e : Ev) : (s.later n e).queue = qinsert (s.clock + n) e s.queue := by
  unfold State.later
  rw [if_neg hn]

theorem mergeEntryClose_next {s : State} {die pa : Nat} {e : MergeE} (hd : die < 8) (hev : s.ev = .mergeEntryClose die pa)
    (he : (s.merges die).find? (fun e => e.pa == pa && e.opened?) = some e) (hv : s.viaHearth die pa = false) (ho : e.opened + 16 ≤ s.clock) :
    exec .mergeEntryClose s = .next ((s.setMerges die ((s.merges die).map (closed (s.clock + s.hop die pa) pa))).later (s.hop die pa) (.mergedAtomic die pa)) := by
  have hon : s.mergeOn die pa = s := by
    unfold State.mergeOn
    rw [hv]
    rfl
  have hany : (s.merges die).any (fun e => e.pa == pa && e.opened?) = true :=
    List.any_eq_true.2 ⟨e, List.mem_of_find?_eq_some he, List.find?_some (p := fun e : MergeE => e.pa == pa && e.opened?) he⟩
  show execMergeEntryClose s = _
  unfold execMergeEntryClose
  rw [hev]
  dsimp only
  rw [if_neg (by omega), hon, he]
  dsimp only
  rw [if_pos ho]
  unfold State.closeMerge
  dsimp only
  rw [if_pos hany, hv]
  rfl

/-- Increments applied one after the other. -/
theorem mergeAll_add (d : SDst) (x w : Word) (l : List MPart) :
    ((MemOp.atom d .add x).mergeAll w l).2.toNat = (w.toNat + (l.map fun p => p.a.toNat).sum) % 2 ^ 64 := by
  induction l generalizing w with
  | nil => exact (Nat.mod_eq_of_lt w.isLt).symm
  | cons p l ih =>
    have hstep : (MemOp.atom d .add x).mergeStep w p.a p.n = w + p.a := rfl
    rw [MemOp.mergeAll, hstep, ih, List.map_cons, List.sum_cons, BitVec.toNat_add]
    omega
theorem mergeAll_tile (k : MemOp) (w : Word) (l : List MPart) : ∀ x ∈ (k.mergeAll w l).1, x.1 ∈ l := by
  induction l generalizing w with
  | nil => exact fun _ h => by cases h
  | cons p l ih =>
    intro x hx
    rcases List.mem_cons.1 hx with rfl | hx
    · exact List.mem_cons_self
    · exact List.mem_cons_of_mem _ (ih _ x hx)

theorem mergeLive_setMerges {s : State} {k : Nat} (hk : k < 8) (l : List MergeE) (p : MPart) : (s.setMerges k l).mergeLive p = s.mergeLive p := by
  rw [setMerges_dies s hk]
  rfl
theorem mergeLive_tile (s : State) (p : MPart) : (s.mergeLive p).tile = p.tile := by
  unfold State.mergeLive
  split
  · rfl
  · split
    · split <;> rfl
    · rfl

/-- The answer to a request of this module writes no memory. -/
theorem mergeAnswer_mem (s : State) {p : MPart} (hp : p.tile < 1536) (w : Word) : (s.mergeAnswer p w).mem = s.mem := by
  have hmod : ∀ f, (s.modTile p.tile f).mem = s.mem := fun f => by
    unfold State.modTile State.setTile
    split <;> rfl
  unfold State.mergeAnswer
  rw [if_neg (by omega)]
  split
  · split
    · exact hmod _
    · rfl
  · rfl
theorem mergeAnswers_mem {l : List (MPart × Word)} (h : ∀ x ∈ l, x.1.tile < 1536) (s : State) :
    (l.foldl (fun s x => s.mergeAnswer x.1 x.2) s).mem = s.mem := by
  induction l generalizing s with
  | nil => rfl
  | cons x l ih =>
    rw [List.foldl_cons, ih (fun y hy => h y (List.mem_cons_of_mem _ hy))]
    exact mergeAnswer_mem s (h x List.mem_cons_self) _

/-- A write of eight bytes leaves the number at its place. -/
theorem mergedWrite {m : Memory} (hwf : Memory.wf m = true) (pa n : Nat) (r : Word) (hr : r.toNat = n % 2 ^ 64) (a : Nat) :
    byteAt (if r = BitVec.ofNat 64 (leNat (readBytes m pa 8)) then m else writeBytes m pa (leBytes 8 r.toNat)) a
      = if pa ≤ a ∧ a < pa + 8 then (leBytes 8 n).getD (a - pa) 0 else byteAt m a := by
  have hn : leBytes 8 r.toNat = leBytes 8 n := by
    rw [hr]
    exact leBytes_mod 8 n
  split
  case isTrue h =>
    have hlt : leNat (readBytes m pa 8) < 2 ^ 64 := by
      have := leNat_lt (readBytes m pa 8)
      rwa [readBytes_length] at this
    have hb : leBytes 8 n = readBytes m pa 8 := by
      have hl := leBytes_leNat (readBytes m pa 8)
      rw [readBytes_length] at hl
      rw [← hn, h, BitVec.toNat_ofNat, Nat.mod_eq_of_lt hlt, hl]
    split
    case isTrue hin => rw [hb, getD_readBytes _ _ _ _ (by omega), Nat.add_sub_cancel' hin.1]
    case isFalse => rfl
  case isFalse h => rw [byteAt_writeBytes m hwf, leBytes_length, hn]

theorem mergedDo_mem {s : State} {die pa : Nat} {e : MergeE} (hd : die < 8)
    (he : (s.merges die).find? (MergeE.ripe pa s.clock) = some e) (hbad : hitsWord s.hearth.memBad pa 8 = false)
    (ht : ∀ p ∈ e.parts, p.tile < 1536) : (s.mergedDo die pa).mem
      = if (e.op.mergeAll (BitVec.ofNat 64 (leNat (readBytes s.mem pa 8))) (e.parts.map s.mergeLive)).2 = BitVec.ofNat 64 (leNat (readBytes s.mem pa 8))
        then s.mem else writeBytes s.mem pa (leBytes 8 (e.op.mergeAll (BitVec.ofNat 64 (leNat (readBytes s.mem pa 8))) (e.parts.map s.mergeLive)).2.toNat) := by
  have hparts : e.parts.map (s.setMerges die ((s.merges die).erase e)).mergeLive = e.parts.map s.mergeLive :=
    List.map_congr_left fun p _ => mergeLive_setMerges hd _ p
  have hmem : (s.setMerges die ((s.merges die).erase e)).mem = s.mem := by rw [setMerges_dies s hd]; rfl
  have hword : (s.setMerges die ((s.merges die).erase e)).memWord pa = BitVec.ofNat 64 (leNat (readBytes s.mem pa 8)) := by
    unfold State.memWord State.memRd
    rw [hmem]
  have hb : (s.setMerges die ((s.merges die).erase e)).spBad 0 .glb pa 8 = false := by
    rw [setMerges_dies s hd]
    exact hbad
  have hans : ∀ y ∈ (e.op.mergeAll (BitVec.ofNat 64 (leNat (readBytes s.mem pa 8))) (e.parts.map s.mergeLive)).1, y.1.tile < 1536 := by
    intro y hy
    obtain ⟨p, hp, hpe⟩ := List.mem_map.1 (mergeAll_tile _ _ _ y hy)
    rw [← hpe, mergeLive_tile]
    exact ht p hp
  unfold State.mergedDo
  rw [he]
  dsimp only
  rw [hb, if_neg Bool.false_ne_true, hparts, hword, mergeAnswers_mem hans]
  split
  · exact hmem
  · exact (WatchFrame.fireWatches _).mem.trans (congrArg (writeBytes · pa _) hmem)

/-! ## Page moves -/

/-- The Winder and the coordinator hold what they held, and the time is as it was. -/
def SameAgents (s t : State) : Prop := t.winder = s.winder ∧ t.coord = s.coord ∧ t.clock = s.clock

namespace SameAgents
variable {s t u : State}
theorem refl (s : State) : SameAgents s s := ⟨rfl, rfl, rfl⟩
theorem trans (h : SameAgents s t) (k : SameAgents t u) : SameAgents s u := ⟨k.1.trans h.1, k.2.1.trans h.2.1, k.2.2.trans h.2.2⟩
theorem foldl {α : Type} {f : State → α → State} (h : ∀ s a, SameAgents s (f s a)) (l : List α) (s : State) : SameAgents s (l.foldl f s) :=
  List.foldlRecOn (motive := SameAgents s) l f (refl s) fun _ hb _ _ => hb.trans (h _ _)
theorem modTile (s : State) (n : Nat) (f : Tile → Tile) : SameAgents s (s.modTile n f) := by
  obtain ⟨ti, os, h⟩ := OnlyTiles.modTile s n f
  rw [h]
  exact ⟨rfl, rfl, rfl⟩
theorem later (s : State) (n : Nat) (e : Ev) : SameAgents s (s.later n e) := by
  unfold State.later
  split <;> exact ⟨rfl, rfl, rfl⟩
theorem modDie (s : State) (d : Nat) (f : Die → Die) : SameAgents s (s.modDie d f) := ⟨rfl, rfl, rfl⟩
theorem setClusters (s : State) (l : AMap Cluster) : SameAgents s { s with clusters := l } := ⟨rfl, rfl, rfl⟩
theorem setHearth (s : State) (h : Hearth) (f : Fabric) : SameAgents s { s with hearth := h, fab := f } := ⟨rfl, rfl, rfl⟩
theorem invalWalks (s : State) (mask d : Nat) (t : BitVec 4) (p : Nat → Bool) : SameAgents s (if !dieIn mask d then s
    else
      (s.die d).walks.foldl (fun s w =>
        if !w.wait && w.tenant == t && s.pickWalk t p w then
          (s.modDie d fun x => { x with walks := x.walks.map fun v => if walkIs w.tenant w.vpn v then
            { v with ends := s.clock + s.walkTime d t (w.vpn * 65536), resid := false } else v }).later (s.walkTime d t (w.vpn * 65536))
            (.walkComplete d w.tenant w.vpn)
        else s) s) := by
  split
  · exact refl s
  · refine foldl (fun s w => ?_) _ s
    split
    · exact (modDie s d _).trans (later _ _ _)
    · exact refl s
theorem inval (s : State) (mask : Nat) (t : BitVec 4) (p : Nat → Bool) : SameAgents s (s.inval mask t p) := by
  unfold State.inval
  dsimp only
  refine trans ?_ (foldl (fun s d => invalWalks s mask d t p) _ _)
  split
  · exact ((setClusters s _).trans (foldl (fun s (x : Nat × Tile) => modTile s x.1 _) _ _)).trans (setHearth ..)
  · exact (setClusters s _).trans (foldl (fun s (x : Nat × Tile) => modTile s x.1 _) _ _)
end SameAgents

/-- The moves that are queued and the time are as they were. -/
def SameMoves (s t : State) : Prop := t.winder.moves = s.winder.moves ∧ t.clock = s.clock

namespace SameMoves
variable {s t u : State}
theorem refl (s : State) : SameMoves s s := ⟨rfl, rfl⟩
theorem trans (h : SameMoves s t) (k : SameMoves t u) : SameMoves s u := ⟨k.1.trans h.1, k.2.trans h.2⟩
theorem focus (s : State) (n : Nat) : SameMoves s (s.focus n) := by
  unfold State.focus
  split <;> exact ⟨rfl, rfl⟩
theorem retire (s : State) (o : Op) : SameMoves s (s.retire o) := by
  unfold State.retire State.rsTrap
  split
  · split <;> exact ⟨rfl, rfl⟩
  · exact ⟨rfl, rfl⟩
theorem setLeaf (s : State) (t : BitVec 4) (vpn : Nat) (pa : Option Nat) (res clean : Bool) : SameMoves s (s.setLeaf t vpn pa res clean) := by
  unfold State.setLeaf
  split
  · exact refl s
  · exact ⟨rfl, rfl⟩
theorem invalPage (s : State) (t : BitVec 4) (vpn : Nat) : SameMoves s (s.invalPage t vpn) := by
  obtain ⟨hw, -, hc⟩ := SameAgents.inval s 511 t fun v => v == vpn
  exact ⟨congrArg Winder.moves hw, hc⟩
theorem modPage (s : State) (t : BitVec 4) (vpn : Nat) (f : MPage → MPage) : SameMoves s (s.modPage t vpn f) := ⟨rfl, rfl⟩
theorem bumpWreg (s : State) (off n : Nat) : SameMoves s (s.bumpWreg off n) := ⟨rfl, rfl⟩
theorem fireWatches (s : State) : SameMoves s s.fireWatches := by
  obtain ⟨cs, l, os, q, h, -⟩ := WatchFrame.fireWatches s
  rw [h]
  exact ⟨rfl, rfl⟩
theorem copyPage (s : State) (t : BitVec 4) (src dst : Nat) : SameMoves s (s.copyPage t src dst) := by
  unfold State.copyPage
  dsimp only
  split <;> exact ⟨rfl, rfl⟩
theorem moveReply (s : State) (m : Move) (status : Nat) : SameMoves s (s.moveReply m status) := by
  unfold State.moveReply
  split
  · exact refl s
  · rename_i n id _
    dsimp only
    refine (focus s n).trans ?_
    split
    · split
      · split
        · exact (retire _ _).trans ⟨rfl, rfl⟩
        · exact (retire _ _).trans ⟨rfl, rfl⟩
        · exact refl _
      · exact refl _
    · exact refl _
end SameMoves

/-- The move of a page starts: its page is in transit, and the move has its end. -/
def startMove (s : State) (t : BitVec 4) (vpn : Nat) (fr : Option Nat) : State :=
  let s := ((s.setLeaf t vpn none false false).invalPage t vpn).modPage t vpn fun q => { q with frame := fr }
  s.setMoves (s.winder.moves.map fun x => if isMove t vpn x then { x with ends := some (s.clock + 364) } else x)
theorem startMove_moves (s : State) (t : BitVec 4) (vpn : Nat) (fr : Option Nat) : (startMove s t vpn fr).winder.moves
    = s.winder.moves.map fun x => if isMove t vpn x then { x with ends := some (s.clock + 364) } else x := by
  obtain ⟨hm, hc⟩ : SameMoves s (((s.setLeaf t vpn none false false).invalPage t vpn).modPage t vpn fun q => { q with frame := fr }) :=
    (SameMoves.setLeaf ..).trans ((SameMoves.invalPage ..).trans (SameMoves.modPage ..))
  unfold startMove
  dsimp only
  rw [State.setMoves, hm, hc]

section pageMove
variable {s : State} {t : BitVec 4} {vpn : Nat} {m : Move} {p : MPage}
theorem pageMove_down {f : Nat} (hev : s.ev = .pageMove t vpn) (hm : s.moveOf t vpn = some m) (hp : s.mpage t vpn = some p) (he : m.ends = none)
    (hu : m.up = false) (hf : p.frame = some f) (hn : s.moveCount < 16) : exec .pageMove s = .next (startMove s t vpn (some f)) := by
  show execPageMove s = _
  unfold execPageMove
  rw [hev]
  dsimp only
  rw [hm, hp]
  dsimp only
  rw [he, hu, hf, if_neg (by simpa using hn), if_neg Bool.false_ne_true]
  rfl
theorem pageMove_up {f : Nat} {v : State} (hev : s.ev = .pageMove t vpn) (hm : s.moveOf t vpn = some m) (hp : s.mpage t vpn = some p) (he : m.ends = none)
    (hu : m.up = true) (hf : p.frame = none) (hn : s.moveCount < 16) (hr : s.nearRoom t = true) (hv : s.pickFrame m.die = (v, some f)) :
    exec .pageMove s = .next (startMove v t vpn (some f)) := by
  show execPageMove s = _
  unfold execPageMove
  rw [hev]
  dsimp only
  rw [hm, hp]
  dsimp only
  rw [he, hu, hf, if_neg (by simpa using hn), if_pos rfl, hr, hv]
  dsimp only
  rfl

theorem firstBy_mem {α : Type} {le : α → α → Bool} {l : List α} {x : α} (h : firstBy le l = some x) : x ∈ l := by
  induction l generalizing x with
  | nil => cases h
  | cons a l ih =>
    unfold firstBy at h
    split at h
    · cases h
      exact List.mem_cons_self
    · rename_i b hb
      split at h
      · cases h
        exact List.mem_cons_self
      · cases h
        exact List.mem_cons_of_mem _ (ih hb)

theorem endMove_moves {u : State} (h : SameMoves (s.endMove t vpn) u) : ∀ x ∈ u.winder.moves, isMove t vpn x = false := by
  intro x hx
  rw [h.1] at hx
  exact (Bool.not_eq_true' _).mp (List.mem_filter.1 hx).2

theorem pageMoveComplete_ends (hev : s.ev = .pageMoveComplete t vpn) (hdue : ∀ m ∈ s.winder.moves, ∀ e, m.ends = some e → e ≤ s.clock) :
    ∃ u, exec .pageMoveComplete s = .next u ∧ ∀ m ∈ u.winder.moves, isMove t vpn m = false := by
  suffices h : ∃ u, exec .pageMoveComplete s = .next u ∧ ∃ v, SameMoves s v ∧ SameMoves (v.endMove t vpn) u by
    obtain ⟨u, hu, v, -, hv⟩ := h
    exact ⟨u, hu, endMove_moves hv⟩
  show ∃ u, execPageMoveComplete s = .next u ∧ _
  unfold execPageMoveComplete
  rw [hev]
  dsimp only
  split
  case h_1 m p hm hp =>
    split
    case h_1 e f a l he hf hl =>
      have hle := hdue m (List.mem_filter.1 (firstBy_mem hm)).1 e he
      rw [if_neg (by omega)]
      refine ⟨_, rfl, _, ?_, (SameMoves.invalPage ..).trans ((SameMoves.fireWatches _).trans (SameMoves.moveReply ..))⟩
      have hcopy : ∀ w : State, SameMoves s w → SameMoves s (if (m.up || m.cls == 4) = true then w else w.modPage t vpn fun q => { q with frame := none }) := by
        intro w hw
        split
        · exact hw
        · exact hw.trans (SameMoves.modPage ..)
      refine hcopy _ ?_
      split
      · exact (SameMoves.copyPage ..).trans (SameMoves.setLeaf ..)
      · split
        · exact ((SameMoves.copyPage ..).trans (SameMoves.setLeaf ..)).trans (SameMoves.bumpWreg ..)
        · exact SameMoves.setLeaf ..
    case h_2 => exact ⟨_, rfl, s, SameMoves.refl s, SameMoves.moveReply ..⟩
  case h_2 => exact ⟨_, rfl, s, SameMoves.refl s, SameMoves.refl _⟩
end pageMove

/-! ## O56 -/

theorem globalRead_next {s : State} {id : Nat} (hev : s.ev = .globalRead s.cur id) : exec .globalRead s = .next (s.homeDo s.cur id) := by
  show execGlobalRead s = _
  unfold execGlobalRead
  rw [hev]
theorem globalWrite_next {s : State} {id : Nat} (hev : s.ev = .globalWrite s.cur id) : exec .globalWrite s = .next (s.homeDo s.cur id) := by
  show execGlobalWrite s = _
  unfold execGlobalWrite
  rw [hev]
theorem globalAtomic_next {s : State} {id : Nat} (hev : s.ev = .globalAtomic s.cur id) : exec .globalAtomic s = .next (s.homeDo s.cur id) := by
  show execGlobalAtomic s = _
  unfold execGlobalAtomic
  rw [hev]
theorem mergedAtomic_next {s : State} {die pa : Nat} (hev : s.ev = .mergedAtomic die pa) : exec .globalAtomic s = .next (s.mergedDo die pa) := by
  show execGlobalAtomic s = _
  unfold execGlobalAtomic
  rw [hev]
theorem translationWalk_next {s : State} {id : Nat} {o : Op} {m : MemAcc} (hc : s.cur < 1536) (hev : s.ev = .translationWalk s.cur id)
    (ho : s.tile.opN id = some o) (hm : o.glbWaits = some m) (hh : s.tile.held o m = false) (hl : m.label = none) :
    exec .translationWalk s = .next (s.glbStep o m) := by
  show execTranslationWalk s = _
  unfold execTranslationWalk
  rw [hev]
  dsimp only
  rw [if_neg (by omega), focus_cur, ho]
  dsimp only
  rw [hm]
  dsimp only
  rw [if_neg (by unfold State.glbHeld; rw [hh, hl]; exact Bool.false_ne_true), hl]
theorem walkComplete_next {s : State} {d : Nat} {t : BitVec 4} {vpn : Nat} {w : Walk} (hev : s.ev = .walkComplete d t vpn)
    (hw : (s.die d).walks.find? (walkIs t vpn) = some w) (h1 : w.wait = false) (h2 : w.ends ≤ s.clock) (h3 : w.resid = false) :
    exec .walkComplete s = .next (s.walkEnd d t vpn w) := by
  show execWalkComplete s = _
  unfold execWalkComplete
  rw [hev]
  dsimp only
  rw [hw]
  dsimp only
  rw [h1, h3, if_neg (by simpa using h2)]

/-- Settles O56, home by home. -/
theorem globalEventsComplete : Obligations.GlobalEventsComplete := by
  intro s hmem hdies hc
  refine ⟨fun id o m p z r hev ho ha hsp hop hpa hpart hsz hbad => ?_, fun id o m p bs hev ho ha hsp hop hpa hpart hsz ht => ?_,
    fun id o m p d op x hev ho ha hsp hop hpa hpart hsz hbad ht => ?_,
    fun id o m hev ho hm hh hl => translationWalk_next hc hev ho hm hh hl, fun d t vpn w hev hw h1 h2 h3 => walkComplete_next hev hw h1 h2 h3,
    fun die pa e hd hev he hv ho => ?_, fun die pa e d x hd hev he hop hbad ht => ?_, fun id hev => ?_,
    fun t vpn m p f hev hm hp he hu hf hn => ⟨_, pageMove_down hev hm hp he hu hf hn, startMove_moves ..⟩,
    fun t vpn m p f v hev hm hp he hu hf hn hr hv => ⟨_, pageMove_up hev hm hp he hu hf hn hr hv, startMove_moves ..⟩,
    fun t vpn hev hdue => pageMoveComplete_ends hev hdue⟩
  · obtain rfl := opN_id ho
    refine ⟨_, globalRead_next hev, ?_⟩
    rw [homeDo_mem hc ho ha, perform_load_glb hsp hop hpa hpart hsz hbad, modTile_cur_eq]
    exact ⟨rfl, rfl, opN_setOp (o := o.performed _) ho⟩
  · refine ⟨_, globalWrite_next hev, ?_⟩
    have hf := WatchFrame.fireWatches (s.memWr p bs)
    have hcur : (s.memWr p bs).fireWatches.cur = s.cur := hf.cur
    rw [homeDo_mem hc ho ha, perform_store_glb hsp hop hpa hpart ht]
    dsimp only
    rw [← hcur, modTile_cur_eq]
    refine ⟨hf.tcm, fun a => ?_⟩
    show byteAt (s.memWr p bs).fireWatches.mem a = _
    rw [hf.mem]
    exact byteAt_writeBytes _ hmem _ _ _
  · obtain rfl := opN_id ho
    intro w
    refine ⟨_, globalAtomic_next hev, ?_⟩
    have hf := WatchFrame.fireWatches (s.memWr p (leBytes 8 (RmwOp.new op w x).toNat))
    have hcur : (s.memWr p (leBytes 8 (RmwOp.new op w x).toNat)).fireWatches.cur = s.cur := hf.cur
    have ho' : (s.memWr p (leBytes 8 (RmwOp.new op w x).toNat)).fireWatches.tile.opN o.id = some o := by
      unfold Tile.opN
      rw [hf.ops]
      exact ho
    rw [homeDo_mem hc ho ha, perform_atomic_glb hsp hop hpa hpart hsz hbad ht]
    dsimp only
    rw [← hcur, modTile_cur_eq]
    exact ⟨hf.mem, _, opN_setOp (o := o.performed _) ho', rfl⟩
  · refine ⟨_, mergeEntryClose_next hd hev he hv ho, ?_, fun y hy hpa => ?_⟩
    · rw [later_queue (hop_pos hd hv), setMerges_dies s hd]
      exact mem_qinsert _ _ _
    · have hl : ∀ (s : State) (n : Nat) (e : Ev), (s.later n e).merges die = s.merges die := fun s n e => by
        unfold State.later
        split <;> rfl
      rw [hl, merges_setMerges hdies hd] at hy
      obtain ⟨z, -, rfl⟩ := List.mem_map.1 hy
      exact closed_open hpa
  · intro n
    refine ⟨_, mergedAtomic_next hev, fun a => ?_⟩
    rw [mergedDo_mem hd he hbad ht, hop]
    refine mergedWrite hmem pa n _ ?_ a
    have hlt : leNat (readBytes s.mem pa 8) < 2 ^ 64 := by
      have := leNat_lt (readBytes s.mem pa 8)
      rwa [readBytes_length] at this
    rw [mergeAll_add, BitVec.toNat_ofNat, Nat.mod_eq_of_lt hlt, List.map_map]
    rfl
  · show execMergeEntryClose s = _
    unfold execMergeEntryClose
    rw [hev]

end Sys2Proof.Proofs
end

section
/-! PROOFS. Tasks and instances at their Kiln and their coordinator (R22, R339 to R361, R434). -/

namespace Sys2Proof.Proofs
open Sys2Proof Sys2Proof.Machine

/-! ## Records -/

theorem trec_setRec {s : State} {d i : Nat} (h : mapWf Die.zero s.dies = true) (hr : mapWf TRec.zero (s.die d).recs = true) (r : TRec) :
    (s.setRec d i r).trec d i = r := trec_modRec h hr fun _ => r

/-- A record whose counter is set: the counter, and the state that it keeps. -/
theorem putCnt_cnt (r : TRec) (n : Nat) : (r.put 0 0 16 n).cnt = n % 2 ^ 16 := by
  unfold TRec.cnt TRec.f TRec.put
  rw [getElem_vector_set_self, nfld_putFld (by decide)]
theorem putCnt_st (r : TRec) (n : Nat) : (r.put 0 0 16 n).st = r.st := by
  unfold TRec.st TRec.f TRec.put
  rw [getElem_vector_set_self, nfld_putFld_above (by decide) (by decide)]
theorem cnt_lt (r : TRec) : r.cnt < 2 ^ 16 := Nat.mod_lt _ (Nat.two_pow_pos 16)

theorem decrementArrival_counts {s : State} {d i n : Nat} {t : BitVec 4} {inst : Nat} (hev : s.ev = .decrementArrival d i n t inst)
    (hr : s.retires t = false) (hst : (s.trec d i).st = .waiting) (ht : (s.trec d i).tenant = t) (hi : (s.trec d i).inst = inst)
    (hn : n < (s.trec d i).cnt) : exec .decrementArrival s = .next (s.setRec d i ((s.trec d i).put 0 0 16 ((s.trec d i).cnt - n))) := by
  show execDecrementArrival s = _
  unfold execDecrementArrival
  rw [hev]
  refine congrArg Host.Outcome.next ?_
  unfold State.decRec
  dsimp only
  rw [hr, if_neg Bool.false_ne_true, if_neg (by rw [hst, ht, hi]; simp), if_neg (by omega), if_neg (by omega)]

/-- The record is READY once its gate is open. -/
theorem stage1_ready {s : State} {d i : Nat} (hst : (s.trec d i).st = .staging) (hm : s.mayRun (s.trec d i).tenant = true)
    (hb : (s.trec d i).cspBufs = []) (hc : (s.trec d i).csp = []) (hg : s.gateOpen d (s.trec d i) = true) :
    s.stage1 d i = s.modRec d i fun r => r.setSt .ready := by
  unfold State.stage1
  dsimp only
  rw [hst, hm, hb, hc]
  rw [if_neg (by decide), if_pos (show (([] : List (Fin 8)).isEmpty || !([] : List (Nat × Nat × Nat)).isEmpty) = true from rfl), hb, hc, hg]
  rfl
theorem ready_after {s : State} {d i : Nat} (hw : mapWf Die.zero s.dies = true) (hr : mapWf TRec.zero (s.die d).recs = true) :
    ((s.modRec d i fun r => r.setSt .ready).trec d i).st = .ready := by
  rw [trec_modRec hw hr]
  exact st_setSt _ _

/-! ## Staged copies -/

/-- A staged copy that has arrived. -/
def stagedDone (s : State) (d i : Nat) (k : Fin 8) (clus bufd : Nat) : State :=
  (((match (s.die d).stagedAt clus bufd with | some z => if z.got then s else s.fetchStaged (s.trec d i) z k | none => s).modDie d fun e =>
    e.modStaged clus bufd fun y => { y with done := true }).modRec d i fun r => { r with copies := r.copies - 1 }).stage1 d i
theorem cspStagingCopy_next {s : State} {d i : Nat} {k : Fin 8} {x : Nat × Nat × Nat} (hev : s.ev = .cspStagingCopy d i k)
    (hst : (s.trec d i).st = .staging) (hx : (s.trec d i).csp.find? (fun x => x.1 == k.val) = some x)
    (hh : (s.hostAt (s.trec d i).tenant ((s.trec d i).baddr k) ((s.trec d i).bsize k * 1024) 0 == .transit) = false)
    (hy : ∀ y, (s.die d).stagedAt x.2.1 x.2.2 = some y → y.ends ≤ s.clock ∧ y.done = false) :
    exec .cspStagingCopy s = .next (stagedDone s d i k x.2.1 x.2.2) := by
  show execCspStagingCopy s = _
  unfold execCspStagingCopy stagedDone
  rw [hev]
  dsimp only
  rw [hst, hx]
  dsimp only
  cases hs : (s.die d).stagedAt x.2.1 x.2.2 with
  | none => rw [Option.any_none, if_neg Bool.false_ne_true, hh, if_neg Bool.false_ne_true, Option.any_none, if_neg Bool.false_ne_true]
  | some y =>
    obtain ⟨h1, h2⟩ := hy y hs
    rw [Option.any_some, if_neg (by rw [decide_eq_true_eq]; omega), hh, if_neg Bool.false_ne_true, Option.any_some, h2, if_neg Bool.false_ne_true]

/-! ## Saves -/

/-- The transfer of a save begins. -/
theorem saveStep_transfer {s : State} {d i : Nat} (hst : (s.trec d i).st ≠ .faulted) (hsv : (s.trec d i).sv = 1) (hr : s.saveReady (s.trec d i) = true) :
    s.saveStep d i = s.modRec d i fun r => { r with sv := 2, svEnd := s.clock + s.saveCycles r } := by
  unfold State.saveStep
  dsimp only
  rw [if_neg hst, hsv, if_pos hr]
  rfl

/-! ## Templates -/

theorem templateRegistration_refused {s : State} {h t es bs is} (hev : s.ev = .templateRegistration h t es bs is) (hn : s.tmplOf h = none)
    (hs : s.started = true) (hc : (s.checkTmpl es bs is).1 ≠ 0) :
    exec .templateRegistration s = .next (s.emit (.registration h (s.checkTmpl es bs is).1)) := by
  show execTemplateRegistration s = _
  unfold execTemplateRegistration
  rw [hev]
  dsimp only
  rw [hn, hs, if_neg (by decide), if_pos hc]
theorem templateRegistration_accepted {s : State} {h t es bs is} (hev : s.ev = .templateRegistration h t es bs is) (hn : s.tmplOf h = none)
    (hs : s.started = true) (hc : (s.checkTmpl es bs is).1 = 0)
    (hg : s.graphRoom { handle := h, tenant := t, entries := es, bufs := bs, images := is.map (·.1) : Template }.units = true) :
    ∃ u, exec .templateRegistration s = .next u ∧ u.out = .registration h 0 :: s.out
      ∧ u.coord.tmpls = s.coord.tmpls ++ [{ handle := h, tenant := t, entries := es, bufs := bs, images := is.map (·.1) }] := by
  show ∃ u, execTemplateRegistration s = .next u ∧ _
  unfold execTemplateRegistration
  rw [hev]
  dsimp only
  rw [hn, hs, if_neg (by decide), if_neg (not_not.2 hc), hg, if_neg (by decide)]
  exact ⟨_, rfl, rfl, rfl⟩

/-! ## O57 -/

section tasks
variable {s : State} {d i : Nat}
theorem taskRequest_next {id : Nat} {o : Op} {i : Instr} {v : List Word} (hc : s.cur < 1536) (hev : s.ev = .taskRequest s.cur id)
    (ho : s.tile.opN id = some o) (ha : o.act = .req i v) (hd : s.reqDue o = true) (haw : s.refAway i v = false) :
    exec .taskRequest s = .next (s.request o i v).wake := by
  show execTaskRequest s = _
  unfold execTaskRequest
  rw [hev]
  dsimp only
  rw [if_neg (by omega), focus_cur, ho]
  dsimp only
  rw [ha]
  dsimp only
  rw [hd, haw]
  rfl
theorem stagingGateOpen_next (hev : s.ev = .stagingGateOpen d i) : exec .stagingGateOpen s = .next (s.stage1 d i) := by
  show execStagingGateOpen s = _
  unfold execStagingGateOpen
  rw [hev]
theorem stagingAllowanceExpiry_next (hev : s.ev = .stagingAllowanceExpiry d i) : exec .stagingAllowanceExpiry s = .next (s.stage1 d i) := by
  show execStagingAllowanceExpiry s = _
  unfold execStagingAllowanceExpiry
  rw [hev]
theorem launch_made {fn t r u} {j : Nat} (hev : s.ev = .launch fn t r) (hu : s.instantiate t r false s.clock = .made u j) :
    exec .launch s = .next u := by
  show execLaunch s = _
  unfold execLaunch
  rw [hev]
  dsimp only
  rw [hu]
theorem launch_refused {fn t r} {k : Nat} (hev : s.ev = .launch fn t r) (hu : s.instantiate t r false s.clock = .refused k) :
    exec .launch s = .next (s.postEntry t r.ctag (BitVec.ofNat 8 (0x80 + k)) 0 false 0) := by
  show execLaunch s = _
  unfold execLaunch
  rw [hev]
  dsimp only
  rw [hu]
theorem class0Preemption_begins {v : Nat} (hev : s.ev = .class0Preemption d) (hp : (s.die d).pre = none) (hv : s.victim d = some v) :
    exec .class0Preemption s = .next ((s.beginSave d v 1 false).modDie d fun x => { x with pre := some (v, 0, s.roomless d) }) := by
  show execClass0Preemption s = _
  unfold execClass0Preemption
  rw [hev]
  dsimp only
  rw [hp]
  dsimp only
  rw [hv]
theorem victimSaveComplete_next (hev : s.ev = .victimSaveComplete d i) : exec .victimSaveComplete s = .next (s.saveStep d i) := by
  show execVictimSaveComplete s = _
  unfold execVictimSaveComplete
  rw [hev]
theorem taskSaveComplete_next (hev : s.ev = .taskSaveComplete d i) : exec .taskSaveComplete s = .next (s.saveStep d i) := by
  show execTaskSaveComplete s = _
  unfold execTaskSaveComplete
  rw [hev]
theorem taskRestoreComplete_next (hev : s.ev = .taskRestoreComplete d i) (hst : (s.trec d i).st = .placed) (hs : (s.trec d i).saved ≠ [])
    (hsv : (s.trec d i).sv = 0) (he : (s.trec d i).svEnd = s.clock) (hall : ∀ x ∈ s.ctxsOfRec (s.trec d i), x.2.st = .saved) :
    exec .taskRestoreComplete s = .next (s.restoreRec d i) := by
  have hne : (!(s.trec d i).saved.isEmpty) = true := by
    rw [Bool.not_eq_true', List.isEmpty_eq_false_iff]
    exact hs
  have hsaved : (s.ctxsOfRec (s.trec d i)).all (fun x => x.2.st == .saved) = true :=
    List.all_eq_true.2 fun x hx => beq_iff_eq.2 (hall x hx)
  show execTaskRestoreComplete s = _
  unfold execTaskRestoreComplete
  rw [hev]
  dsimp only
  rw [if_pos ⟨hst, hne, hsv, he, hsaved⟩]
theorem placementDecision_next (hev : s.ev = .placementDecision d) : exec .placementDecision s = .next ((s.dropDefs d).tryPrio d [0, 1, 2, 3]) := by
  show execPlacementDecision s = _
  unfold execPlacementDecision
  rw [hev]
theorem instanceCompletion_next (hev : s.ev = .instanceCompletion i) (hd : s.instDone i = true) :
    exec .instanceCompletion s = .next (s.completeInst i) := by
  show execInstanceCompletion s = _
  unfold execInstanceCompletion
  rw [hev]
  dsimp only
  rw [if_pos hd]
theorem waitingRequestApply_next (hev : s.ev = .waitingRequestApply) : exec .waitingRequestApply s = .next s.applyWaiting := by
  show execWaitingRequestApply s = _
  unfold execWaitingRequestApply
  rw [hev]
theorem templateUnregistration_next {h} (hev : s.ev = .templateUnregistration h) : exec .templateUnregistration s
    = .next { s with coord := { s.coord with tmpls := s.coord.tmpls.filter fun t => t.handle != h } } := by
  show execTemplateUnregistration s = _
  unfold execTemplateUnregistration
  rw [hev]
/-- An entry for a function that serves the tenant waits in the coordinator. -/
theorem postEntry_waits {t : BitVec 4} {v : Nat} (hv : s.vfOf t = some v) (ctag : BitVec 32) (status : BitVec 8) :
    (s.postEntry t ctag status 0 false 0).host.waiting
      = s.host.waiting ++ [{ fn := v, w0 := BitVec.ofNat 64 (ctag.toNat + at_ 32 status.toNat ), w1 := 0 }] := by
  unfold State.postEntry
  rw [hv]
  simp [at_, b2n]
theorem saveStep_sv (hw : mapWf Die.zero s.dies = true) (hr : mapWf TRec.zero (s.die d).recs = true) (hst : (s.trec d i).st ≠ .faulted)
    (hsv : (s.trec d i).sv = 1) (hrd : s.saveReady (s.trec d i) = true) :
    ((s.saveStep d i).trec d i).sv = 2 ∧ ((s.saveStep d i).trec d i).svEnd = s.clock + s.saveCycles (s.trec d i) := by
  rw [saveStep_transfer hst hsv hrd, trec_modRec hw hr]
  exact ⟨rfl, rfl⟩
end tasks

/-- Settles O57, agent by agent. -/
theorem taskEventsComplete : Obligations.TaskEventsComplete := by
  intro s hw
  refine ⟨fun d i n t inst hev hr hret hst ht hi hn => ?_, fun id o i v hc hev ho ha hd haw => taskRequest_next hc hev ho ha hd haw,
    fun hev => waitingRequestApply_next hev, fun d i hr hst hm hb hc hg => ⟨fun hev => ⟨_, stagingGateOpen_next hev, ?_⟩, fun hev =>
      ⟨_, stagingAllowanceExpiry_next hev, ?_⟩⟩, fun d i k x hev hst hx => ?_, fun d hev => placementDecision_next hev,
    fun i hev hd => instanceCompletion_next hev hd, fun fn t r hev => ⟨fun u j hu => launch_made hev hu, fun k v hu hv => ⟨_, launch_refused hev hu, ?_⟩⟩,
    fun d v hev hp hv => class0Preemption_begins hev hp hv, fun d i hr hst hsv hrd => ⟨fun hev => ⟨_, victimSaveComplete_next hev, ?_⟩, fun hev =>
      ⟨_, taskSaveComplete_next hev, ?_⟩⟩, fun d i hev hst hs hsv he hall => taskRestoreComplete_next hev hst hs hsv he hall,
    fun h t es bs is hev hn hs => ⟨fun hc => templateRegistration_refused hev hn hs hc, fun hc hg => templateRegistration_accepted hev hn hs hc hg⟩,
    fun h hev => ⟨_, templateUnregistration_next hev, rfl⟩⟩
  · refine ⟨_, decrementArrival_counts hev hret hst ht hi hn, ?_, ?_⟩
    · rw [trec_setRec hw hr, putCnt_cnt]
      exact Nat.mod_eq_of_lt (Nat.lt_of_le_of_lt (Nat.sub_le _ _) (cnt_lt _))
    · rw [trec_setRec hw hr, putCnt_st, hst]
  · rw [stage1_ready hst hm hb hc hg]
    exact ready_after hw hr
  · rw [stage1_ready hst hm hb hc hg]
    exact ready_after hw hr
  · intro r hh hy
    exact cspStagingCopy_next hev hst hx hh hy
  · exact postEntry_waits hv _ _
  · exact saveStep_sv hw hr hst hsv hrd
  · exact saveStep_sv hw hr hst hsv hrd

end Sys2Proof.Proofs
end

section
/-! PROOFS. Slices, sweeps and groups (R424 to R446, R505 to R512). -/

namespace Sys2Proof.Proofs
open Sys2Proof Sys2Proof.Machine

section tenancy
variable {s : State}

/-! ## Rounds and sweeps -/

theorem roundMarker_next {n : Nat} {t : BitVec 4} (hev : s.ev = .roundMarker n t) : exec .roundMarker s
    = .next { s with coord := { s.coord with rounds := mset 0 s.coord.rounds n (mget 0 s.coord.rounds n + 1) } } := by
  show execRoundMarker s = _
  unfold execRoundMarker
  rw [hev]
theorem sweepMarker_next {m : BitVec 12} {t : BitVec 4} (hev : s.ev = .sweepMarker m t) : exec .sweepMarker s
    = .next (if m.toNat = s.own then s.beginSweep t else s.sendPkt 0 none (markPkt 5 0 (s.vnOf t) 2 t m.toNat 0 0 (agentSrc s.own 0 0xf8))) := by
  show execSweepMarker s = _
  unfold execSweepMarker
  rw [hev]

section echo
variable {m : BitVec 12} {t : BitVec 4} {k n : Nat} {ms : List Nat}
theorem sweepEcho_last (hev : s.ev = .sweepEcho m t) (hs : s.coord.sweeps.find? (fun x => x.1 == t.toNat) = some (k, n, ms))
    (he : (ms.filter fun x => x != m.toNat) = []) : exec .sweepEcho s = .next (s.endSweep k n) := by
  show execSweepEcho s = _
  unfold execSweepEcho
  rw [hev]
  dsimp only
  rw [hs]
  dsimp only
  rw [he]
  rfl
theorem sweepEcho_counts (hev : s.ev = .sweepEcho m t) (hs : s.coord.sweeps.find? (fun x => x.1 == t.toNat) = some (k, n, ms))
    (he : (ms.filter fun x => x != m.toNat) ≠ []) : exec .sweepEcho s = .next { s with coord := { s.coord with
      sweeps := s.coord.sweeps.map fun x => if x.1 == k then (k, n, ms.filter fun x => x != m.toNat) else x } } := by
  show execSweepEcho s = _
  unfold execSweepEcho
  rw [hev]
  dsimp only
  rw [hs]
  dsimp only
  rw [if_neg (by rw [List.isEmpty_iff]; exact he)]
end echo

/-- After the sweep the tag is free. -/
theorem endSweep_frees (s : State) (k n : Nat) :
    (s.endSweep k n).coord.retiring = sremove s.coord.retiring k ∧ (s.endSweep k n).coord.sweeps = s.coord.sweeps.filter fun x => x.1 != k := by
  obtain ⟨-, hc, -⟩ := SameAgents.inval s 511 (tnt k) fun _ => true
  unfold State.endSweep
  dsimp only
  generalize (s.inval 511 (tnt k) fun _ => true) = u at hc ⊢
  rw [← hc]
  exact ⟨rfl, rfl⟩

/-! ## Ticks -/

theorem packageTick_next (hev : s.ev = .packageTick) : exec .packageTick s
    = .next ((List.range 8).foldl (fun u d => u.domTick d (s.clock / Config.msCycles)) { s with coord := { s.coord with tick := s.clock / Config.msCycles } }) := by
  show execPackageTick s = _
  unfold execPackageTick
  rw [hev]
theorem domTick_busy {d : Nat} (h : ((s.dom d).out.isSome || (s.dom d).inn.isSome) = true) (k : Nat) : s.domTick d k = s := by
  unfold State.domTick
  dsimp only
  rw [if_pos h]
theorem domTicks_busy {l : List Nat} (h : ∀ d ∈ l, ((s.dom d).out.isSome || (s.dom d).inn.isSome) = true) (k : Nat) :
    l.foldl (fun u d => u.domTick d k) s = s := by
  induction l with
  | nil => rfl
  | cons d l ih =>
    rw [List.foldl_cons, domTick_busy (h d List.mem_cons_self)]
    exact ih fun d hd => h d (List.mem_cons_of_mem _ hd)

/-! ## Switches -/

theorem dom_setDom (h : mapWf Dom.zero s.coord.doms = true) (d : Nat) (x : Dom) : (s.setDom d x).dom d = x := mget_mset_self _ _ _ _ _ h

/-- The write-downs that a domain's switch waited for are forgotten. -/
def dropDowns (s : State) (d : Nat) : State := { s with coord := { s.coord with downs := s.coord.downs.filter fun w => w.1 != d } }

theorem switchDone_done {d t c : Nat} (ho : (s.dom d).out = some (t, c)) (hu : s.unsaved d (tnt t) = []) (hn : s.dirtyNear (tnt t) = [])
    (hd : s.coord.downs = []) (hc : s.clock < c + 3 * Config.msCycles / 2) : s.switchDone d
      = if (s.dom d).inn.isSome then ((dropDowns s d).setDom d { s.dom d with out := none, ends := (s.dom d).ends + 0 }).later 1 (.switchIn d)
        else (dropDowns s d).setDom d { s.dom d with out := none, ends := (s.dom d).ends + 0 } := by
  have hrun : s.downsRun d (tnt t) = false := by
    unfold State.downsRun
    rw [hd]
    rfl
  have hlate : ceilDiv (s.clock + 1 - (c + 3 * Config.msCycles / 2)) Config.msCycles = 0 := by
    rw [Nat.sub_eq_zero_of_le hc]
    rfl
  unfold State.switchDone
  rw [ho]
  dsimp only
  rw [hu, hrun, hn, if_neg (by decide), if_neg Bool.false_ne_true, List.filter_nil, if_neg (by decide)]
  rw [show (State.clock { s with coord := { s.coord with downs := s.coord.downs.filter fun w => w.1 != d } }) = s.clock from rfl, hlate, if_pos rfl]
  rfl

theorem switchSave_next {k d t c : Nat} (hev : s.ev = .switchSave k d) (ho : (s.dom d).out = some (t, c)) (hr : (s.die k).recs = []) :
    exec .switchSave s = .next (s.switchDone d) := by
  show execSwitchSave s = _
  unfold execSwitchSave
  rw [hev]
  dsimp only
  rw [ho]
  dsimp only
  rw [hr, List.filter_nil, List.foldl_nil, hr]
  rfl
theorem switchSave_idle {k d : Nat} (hev : s.ev = .switchSave k d) (ho : (s.dom d).out = none) : exec .switchSave s = .next s := by
  show execSwitchSave s = _
  unfold execSwitchSave
  rw [hev]
  dsimp only
  rw [ho]

theorem saveDeadlineKill_kills {k d t c : Nat} {x : Nat × Nat × TRec} (hev : s.ev = .saveDeadlineKill k d) (ho : (s.dom d).out = some (t, c))
    (hc : c + 4 * Config.msCycles ≤ s.clock) (hm : s.winder.migs = [])
    (hu : ((s.unsaved d (tnt t)).filter fun x => x.1 == k && x.2.2.st != .retiring) = [x]) :
    exec .saveDeadlineKill s = .next (s.killTask x.1 x.2.1) := by
  show execSaveDeadlineKill s = _
  unfold execSaveDeadlineKill
  rw [hev]
  dsimp only
  rw [ho]
  dsimp only
  rw [if_pos hc, hu, List.foldl_cons, List.foldl_nil, hm]
  rfl
theorem saveDeadlineKill_early {k d t c : Nat} (hev : s.ev = .saveDeadlineKill k d) (ho : (s.dom d).out = some (t, c))
    (hc : s.clock < c + 4 * Config.msCycles) : exec .saveDeadlineKill s = .next s := by
  show execSaveDeadlineKill s = _
  unfold execSaveDeadlineKill
  rw [hev]
  dsimp only
  rw [ho]
  dsimp only
  rw [if_neg (by omega)]

theorem switchIn_next {d t : Nat} (hev : s.ev = .switchIn d) (hi : (s.dom d).inn = some t) :
    let v := s.setDom d { s.dom d with cur := some t, inn := none }
    let u := ((v.setVfState t 1).takeMap (tnt t)).restoreAll (tnt t)
    exec .switchIn s = .next ((u.recsAll.filter fun x => x.2.2.tenant == tnt t && x.2.2.st == .staging).foldl
      (fun s x => s.runStaging x.1 x.2.1 x.2.2.since) u) := by
  show execSwitchIn s = _
  unfold execSwitchIn
  rw [hev]
  dsimp only
  rw [hi]

/-! ## Groups -/

theorem abortMarker_next {g : BitVec 8} {n c : Nat} (hev : s.ev = .abortMarker g n c) : exec .abortMarker s = .next (s.groupAbort g.toNat n c) := by
  show execAbortMarker s = _
  unfold execAbortMarker
  rw [hev]
theorem groupAbort_adds {g n c : Nat} (hv : s.pgV g = true) (hl : s.pgLocal g ≠ 0) : s.groupAbort g n c
    = s.addPart (s.grp g) { tile := n, op := 0, ctxid := c, gop := 0, val := 0, root := false, abort := true } := by
  unfold State.groupAbort
  rw [hv, if_neg (by simpa using hl)]
end tenancy

/-! ## O58 -/

/-- Settles O58, marker by marker and slice by slice. -/
theorem tenancyEventsComplete : Obligations.TenancyEventsComplete := by
  intro s
  refine ⟨fun n t hev hw => ⟨_, roundMarker_next hev, mget_mset_self _ _ _ _ _ hw⟩, fun m t hev hm => ?_, fun m t hev hm => ?_,
    fun m t k n ms hev hs => ⟨fun he => ⟨sweepEcho_last hev hs he, (endSweep_frees s k n).1, fun x hx => ?_⟩, fun he => ⟨_, sweepEcho_counts hev hs he, rfl⟩⟩,
    fun hev => packageTick_next hev, fun hev hb => ?_, fun k d t c hev ho hr hu hn hd hc hw => ?_, fun k d hev ho => switchSave_idle hev ho,
    fun k d t c x hev ho hc hm hu => saveDeadlineKill_kills hev ho hc hm hu, fun k d t c hev ho hc => saveDeadlineKill_early hev ho hc,
    fun d t hev hi hw => ?_, fun g n c hev => ⟨abortMarker_next hev, fun hv hl => ?_⟩, fun m g gop root phase val n ab fl hev hno => ?_⟩
  · rw [sweepMarker_next hev, if_pos hm]
  · rw [sweepMarker_next hev, if_neg hm]
  · rw [(endSweep_frees s k n).2] at hx
    exact bne_iff_ne.1 (List.mem_filter.1 hx).2
  · rw [packageTick_next hev, domTicks_busy]
    exact fun d hd => hb d (List.mem_range.1 hd)
  · refine ⟨_, switchSave_next hev ho hr, ?_⟩
    rw [switchDone_done ho hu hn hd hc]
    have hdom := dom_setDom (s := dropDowns s d) hw d { s.dom d with out := none, ends := (s.dom d).ends + 0 }
    cases hi : (s.dom d).inn with
    | none =>
      rw [Option.isSome_none, if_neg Bool.false_ne_true, hdom]
      exact ⟨rfl, rfl, hi, fun h => absurd h Bool.false_ne_true⟩
    | some t =>
      have hl : ∀ u : State, (u.later 1 (.switchIn d)).dom d = u.dom d := fun _ => rfl
      rw [Option.isSome_some, if_pos rfl, hl, hdom]
      exact ⟨rfl, rfl, hi, fun _ => mem_qinsert _ _ _⟩
  · exact ⟨congrArg Dom.cur (dom_setDom hw d _), switchIn_next hev hi⟩
  · rw [abortMarker_next hev, groupAbort_adds hv hl]
  · show execPodGroupPacket s = _
    unfold execPodGroupPacket
    rw [hev]
    dsimp only
    rw [if_neg (by rw [hno]; exact Bool.false_ne_true)]

end Sys2Proof.Proofs
end

section
/-! PROOFS. The host and the controller (R409 to R421, R439, R441, R452 to R469). -/

namespace Sys2Proof.Proofs
open Sys2Proof Sys2Proof.Machine

section host
variable {s : State} {fn : Nat}

/-! ## Registers, launches and completion entries -/

theorem configRegisterWrite_next {a : BitVec 64} {w : Word} {r : CfgReg} {t : State} (hev : s.ev = .configRegisterWrite a w) (hr : cfgReg a.toNat = some r)
    (ht : s.cfgWrite r w = some t) : exec .configRegisterWrite s = .next t := by
  show execConfigRegisterWrite s = _
  unfold execConfigRegisterWrite
  rw [hev]
  dsimp only
  rw [hr, Option.bind_some, ht]
  rfl
theorem launchWrite_next {off : Nat} {bs : List Byte} (hev : s.ev = .launchWrite fn off bs) (ho : s.offered fn = true) (hl : bs.length = 64)
    (ha : off % 64 = 0) (hw : off < 0x1000) (hon : s.fnOn fn = true) (hr : s.coord.retiring.contains (s.fnTag fn) = false) (hc : s.cqEn fn = true)
    (hq : s.cqWait fn ≠ 4096) : exec .launchWrite s
      = .next ((s.bumpBar fn 0x1020).push [.launch fn (BitVec.ofNat 4 (s.fnTag fn)) (launchRec (wordsOf bs))]) := by
  show execLaunchWrite s = _
  unfold execLaunchWrite
  rw [hev]
  dsimp only
  rw [ho, hon, hr, hc, hl, ha, if_neg (by decide), if_neg (by simp; omega)]

theorem signal_waiting (s : State) (fn : Nat) : (s.signal fn).host.waiting = s.host.waiting := by
  unfold State.signal
  dsimp only
  split
  · rfl
  · split
    · rfl
    · split <;> rfl
theorem completionEntryWrite_next {e : CEntry} (hev : s.ev = .completionEntryWrite fn) (he : s.host.waiting.find? (fun e => e.fn == fn) = some e)
    (hc : s.cqEn fn = true) (hf : s.cqFull fn = false) :
    ∃ u, exec .completionEntryWrite s = .next u ∧ u.host.waiting = dropFirst (fun e => e.fn == fn) s.host.waiting := by
  show ∃ u, execCompletionEntryWrite s = .next u ∧ _
  unfold execCompletionEntryWrite
  rw [hev]
  dsimp only
  rw [he]
  dsimp only
  rw [hc, hf, if_neg (by decide)]
  refine ⟨_, rfl, ?_⟩
  have hpush : ∀ (u : State), (if u.cqWait fn = 0 then u else u.push [.completionEntryWrite fn]).host.waiting = u.host.waiting := fun u => by
    split <;> rfl
  rw [hpush, signal_waiting]
  dsimp only
  split <;> rfl
theorem cqheadWrite_next {v : Word} (hev : s.ev = .cqheadWrite fn v) (ho : s.offered fn = true) : exec .cqheadWrite s
    = .next (((s.setBar fn 0x1018 (BitVec.ofNat 64 (v.toNat % 65536 % s.cqN fn))).acknowledge fn).push [.completionEntryWrite fn]) := by
  show execCqheadWrite s = _
  unfold execCqheadWrite
  rw [hev]
  dsimp only
  rw [ho]
  rfl
theorem msixCoalesceTimer_next (hev : s.ev = .msixCoalesceTimer fn) (hi : s.cqIe fn = true) (hu : mget 0 s.host.unsig fn ≠ 0)
    (hd : mget 0 s.host.since fn + Config.twoUs ≤ s.clock) : exec .msixCoalesceTimer s = .next ((s.setUnsig fn 0).msix fn 0) := by
  show execMsixCoalesceTimer s = _
  unfold execMsixCoalesceTimer
  rw [hev]
  dsimp only
  rw [if_pos ⟨hi, hu, hd⟩]

/-! ## Accesses to memory -/

section memory
variable {t : BitVec 4} {va n : Nat} {l : List (Nat × Nat)} {bs : List Byte}
theorem hostRead_next (hev : s.ev = .hostRead t va n) (hs : s.started = true) (hl : s.hostAt t va n 0 = .ok l) (hb : s.hostBehind l = false) :
    exec .hostRead s = .next ((s.hostTouch t va n 0).emit (.hostData (s.physBytes l))) := by
  show execHostRead s = _
  unfold execHostRead
  rw [hev]
  dsimp only
  rw [hs, hl]
  dsimp only
  rw [hb]
  rfl
theorem hostRead_no (hev : s.ev = .hostRead t va n) (hs : s.started = true) (hl : s.hostAt t va n 0 = .no) : exec .hostRead s = .next s := by
  show execHostRead s = _
  unfold execHostRead
  rw [hev]
  dsimp only
  rw [hs, hl]
  rfl
theorem hostWrite_next (hev : s.ev = .hostWrite t va bs) (hs : s.started = true) (hl : s.hostAt t va bs.length 1 = .ok l) (hb : s.hostBehind l = false) :
    exec .hostWrite s = .next ((s.hostTouch t va bs.length 1).physWrite l bs) := by
  show execHostWrite s = _
  unfold execHostWrite
  rw [hev]
  dsimp only
  rw [hs, hl]
  dsimp only
  rw [hb]
  rfl
theorem hostWrite_no (hev : s.ev = .hostWrite t va bs) (hs : s.started = true) (hl : s.hostAt t va bs.length 1 = .no) :
    exec .hostWrite s = .next s := by
  show execHostWrite s = _
  unfold execHostWrite
  rw [hev]
  dsimp only
  rw [hs, hl]
  rfl
end memory

/-! ## Starts and samples -/

theorem coldStart_next {i : StartIn} (hev : s.ev = .coldStart i) (hw : warmWhy i.why = false) : exec .coldStart s = .next (s.start i) := by
  show execColdStart s = _
  unfold execColdStart
  rw [hev]
  dsimp only
  rw [hw, if_neg Bool.false_ne_true]
theorem warmStart_next {i : StartIn} (hev : s.ev = .warmStart i) (hw : warmWhy i.why = true) : exec .warmStart s = .next (s.start i) := by
  show execWarmStart s = _
  unfold execWarmStart
  rw [hev]
  dsimp only
  rw [if_pos hw]
theorem startTimeout_next {i : StartIn} {b k : Nat} (hev : s.ev = .startTimeout) (hr : s.saloc.run = some (i, b, k))
    (hd : k + stepLimit (s.stGet 0 4) ≤ s.clock ∨ b + startLimit ≤ s.clock) : exec .startTimeout s = .next (s.failStart 6) := by
  show execStartTimeout s = _
  unfold execStartTimeout
  rw [hev]
  dsimp only
  rw [hr]
  dsimp only
  rw [if_pos hd]
theorem attestationReport_next {x} (hev : s.ev = .attestationReport x) (hl : s.saloc.leaf < 2 ^ 30) (hs : s.started = true) :
    ∃ u e l, exec .attestationReport s = .next u ∧ u.saloc = { s.saloc with leaf := s.saloc.leaf + 1 }
      ∧ u.out = .report x s.saloc.meas s.saloc.startst s.saloc.cfgHash (s.saloc.leaf + 1) e l :: s.out := by
  show ∃ u e l, execAttestationReport s = .next u ∧ _
  unfold execAttestationReport
  rw [hev]
  dsimp only
  rw [if_neg (not_or.2 ⟨by omega, by rw [hs]; decide⟩)]
  exact ⟨_, _, _, rfl, rfl, rfl⟩
theorem pcapWrite_next {w : Word} (hev : s.ev = .pcapWrite w) :
    exec .pcapWrite s = .next (s.setSaloc { s.saloc with pcap := BitVec.ofNat 64 (min (nfld w.toNat 0 12) s.saloc.cfg.maxPcap) }) := by
  show execPcapWrite s = _
  unfold execPcapWrite
  rw [hev]
theorem telemetrySample_over {w : Nat} (hev : s.ev = .telemetrySample w) (hw : s.saloc.pcap.toNat < w) :
    ∃ u, exec .telemetrySample s = .next u ∧ u.saloc.capF = max 4 (s.saloc.capF - 1) := by
  show ∃ u, execTelemetrySample s = .next u ∧ _
  unfold execTelemetrySample
  rw [hev]
  dsimp only
  rw [if_pos hw]
  refine ⟨_, rfl, ?_⟩
  split <;> rfl
theorem stretch_dies (s : State) : s.stretch.dies = s.dies := by
  unfold State.stretch
  exact List.foldlRecOn (motive := fun u : State => u.dies = s.dies) _ _ rfl fun _ h _ _ => h
theorem thermalSample_hot {d : Fin 8} {c : Nat} (hev : s.ev = .thermalSample d c) (h1 : 100 ≤ c) (h2 : c < 115) (hd : (s.die d).throttle = false) :
    exec .thermalSample s = .next ((s.stretch.modDie d fun x => { x with throttle := true }).msix 0 3) := by
  show execThermalSample s = _
  unfold execThermalSample
  rw [hev]
  dsimp only
  rw [if_neg (by omega), hd, decide_eq_true h1]
  rfl

/-! ## Virtual functions -/

theorem mem_sinsert (l : List Nat) (n : Nat) : n ∈ sinsert l n := by
  induction l with
  | nil => exact List.mem_singleton.2 rfl
  | cons m l ih =>
    unfold sinsert
    split
    · exact List.mem_cons_self
    · split
      · rename_i h
        exact h ▸ List.mem_cons_self
      · exact List.mem_cons_of_mem _ ih

theorem putCos_later_retiring (s : State) (a b c x a' b' c' x' n : Nat) (e : Ev) :
    (((s.putCo a b c x).putCo a' b' c' x').later n e).coord.retiring = s.coord.retiring := by
  unfold State.later
  split <;> rfl
theorem tearDown_retires {n : Nat} (hn : n ≠ 0) (he : s.vfEn n = true) : s.vfTag n ∈ (s.tearDown n).coord.retiring := by
  unfold State.tearDown
  rw [if_neg (by rw [he]; simpa using hn)]
  extract_lets t g freed torn own emptied others coord
  clear_value emptied
  rw [putCos_later_retiring]
  exact mem_sinsert emptied.coord.retiring t
end host

/-! ## O59 -/

/-- Settles O59, action by action. -/
theorem hostEventsComplete : Obligations.HostEventsComplete := by
  intro s
  refine ⟨fun a w r t hev hr ht => configRegisterWrite_next hev hr ht,
    fun fn off bs hev ho hl ha hw hon hr hc hq => launchWrite_next hev ho hl ha hw hon hr hc hq,
    fun fn e hev he hc hf => completionEntryWrite_next hev he hc hf, fun fn v hev ho => cqheadWrite_next hev ho,
    fun fn hev hi hu hd => msixCoalesceTimer_next hev hi hu hd,
    fun t va n hev hs => ⟨fun l hl hb => hostRead_next hev hs hl hb, fun hl => hostRead_no hev hs hl⟩,
    fun t va bs hev hs => ⟨fun l hl hb => hostWrite_next hev hs hl hb, fun hl => hostWrite_no hev hs hl⟩,
    fun w hev => ⟨_, pcapWrite_next hev, ?_⟩, fun i hev hw => coldStart_next hev hw, fun i hev hw => warmStart_next hev hw,
    fun i b k hev hr hd => startTimeout_next hev hr hd, fun x hev hl hs => attestationReport_next hev hl hs,
    fun w hev hw => telemetrySample_over hev hw, fun d c hev hwf h1 h2 hd => ⟨_, thermalSample_hot hev h1 h2 hd, ?_⟩,
    fun n hn he => ⟨fun hev => ⟨s.tearDown n, ?_, tearDown_retires hn he⟩, fun hev => ⟨s.tearDown n, ?_, tearDown_retires hn he⟩,
      fun hev => ⟨s.tearDown n, ?_, tearDown_retires hn he⟩⟩, fun n t d hev he => ?_, fun fn v hev ho => ?_,
    fun fn off hev => ⟨s.emit (.barData fn off (s.barRead fn off)), ?_, rfl⟩⟩
  · show BitVec.ofNat 64 (min (w.toNat / 2 ^ 0 % 2 ^ 12) _) = _
    rw [pow_zero, Nat.div_one]
  · exact congrArg Die.throttle (die_setDie (s := s.stretch) (by rw [stretch_dies]; exact hwf) d _)
  · show execTeardown s = _
    unfold execTeardown
    rw [hev]
  · show execVfFunctionLevelReset s = _
    unfold execVfFunctionLevelReset
    rw [hev]
  · show execVfctlTeardown s = _
    unfold execVfctlTeardown
    rw [hev]
  · show execVfctlEnable s = _
    unfold execVfctlEnable
    rw [hev]
    dsimp only
    rw [he, if_neg Bool.false_ne_true]
  · show execBar0RegisterWrite s = _
    unfold execBar0RegisterWrite
    rw [hev]
    dsimp only
    rw [ho]
    rfl
  · show execBar0RegisterWrite s = _
    unfold execBar0RegisterWrite
    rw [hev]

end Sys2Proof.Proofs
end

section
/-! PROOFS. The links of the pod fabric (R480 to R502). -/

namespace Sys2Proof.Proofs
open Sys2Proof Sys2Proof.Machine

/-! ## A retired link that retrains -/

/-- Link 0 retrains (its STATE is 1) and stands on the list of retired links; an attempt ends with 28 lanes. -/
def retiredRetrains : State :=
  { State.reset with
    ev := .linkRetrain 0 28 0
    coord := { Coord.zero with regs := setReg [] (linkBlk 0 + 0) 1 }
    fab := { Fabric.zero with retired := [24 * State.reset.own] } }
/-- STATE of link 0 in an outcome's state. -/
def linkStOf : Out3 → Option Nat
  | .next t => some (t.linkSt 0)
  | _ => none

/-- The retraining leaves it retired (R489). -/
theorem retiredRetrains_stays : linkStOf (exec .linkRetrain retiredRetrains) = some 2 := rfl

/-- Refutes O60: its clause on a retraining that ends well sets STATE to 0 wherever the retraining count is below 9, but a link that is retired already is
retired again when its retraining ends (R489, `execLinkRetrain`): STATE becomes 2. -/
theorem not_linkEventsComplete : ¬ Obligations.LinkEventsComplete := by
  intro h
  obtain ⟨-, -, -, -, -, hretrain, -⟩ := h retiredRetrains
  have hup := hretrain 0 28 0 rfl rfl (by decide) (by decide)
  have hst := congrArg linkStOf hup
  rw [retiredRetrains_stays] at hst
  exact absurd hst (by decide)

end Sys2Proof.Proofs
end
